-- ==== Sys2Proof/Word.lean ====
section
/-! DEFINITION. The plain word types of the device: bytes, bit fields of a packet, and the sparse
table that holds everything the device numbers (memory bytes, queues, basins, pages, ...). -/

namespace Sys2Proof

/-- One byte of memory or of a bus transfer (byte 0 holds bits [7:0], R11). -/
abbrev Byte := BitVec 8

/-- The 384 parameter bits of a command packet (R369); parameter bit b is packet bit 128 + b (R370). -/
abbrev Params := BitVec 384

/-- A sparse table in canonical form: keys strictly rising, no entry equal to the default. -/
abbrev Tab (α : Type) := List (Nat × α)

end Sys2Proof
end

