-- ==== Sys2Proof/Syntax.lean ====
section
/-! DEFINITION. The commands and events of the device: one constructor of `Instr` per row of
spec/opcode_table.json. A packet row carries the packet it answers (R369, R371); an event row carries
what the event brings from outside the device. -/

namespace Sys2Proof

/-- The path a packet reaches the device by (R371). Berth mailboxes are 0 to 63; mailbox 64 and the
I3C target port are the supervisor path. -/
inductive Path where
  | queue (q : BitVec 18)
  | mailbox (m : BitVec 6)
  | supervisor
  deriving DecidableEq, Repr

/-- A command packet of one opcode, with the fields of R369 that are not the opcode itself. -/
structure Cmd where
  path : Path
  berth : BitVec 6 := 0
  notify : Bool := false
  silent : Bool := false
  device : Bool := false
  gen : BitVec 16 := 0
  seq : BitVec 32 := 0
  resultAddr : BitVec 32 := 0
  params : Params := 0
  deriving DecidableEq, Repr

/-- The edge units that act for a berth (R185): sensor ingest, Confluence, the gateway, the display outputs. -/
inductive EdgeUnit where
  | ingest | confluence | gateway | display
  deriving DecidableEq, Repr

/-- Who makes a memory access (R185, R561). -/
inductive Requester where
  /-- a lane, array or NI access of the job numbered `job` on logical tile `tile` -/
  | context (tile : Fin 36) (job : Nat)
  /-- an application core (R530): it acts for the berth in its KBERTH -/
  | hart (h : Fin 24)
  /-- an edge unit acting for a berth -/
  | edge (unit : EdgeUnit) (berth : BitVec 6)
  deriving DecidableEq, Repr

/-- The atomic operations of R209, on 4 or 8 aligned bytes. -/
inductive AtomicOp where
  | add | minS | minU | maxS | maxU | and | or | xor | swap | cas
  deriving DecidableEq, Repr

/-- The pounds of R53, one per class of R50. -/
inductive PoundKind where
  | completion | posted | request
  deriving DecidableEq, Repr

/-- How a fragment program interpolates a varying (R245). -/
inductive Interpolation where
  | perspective | linear | flat
  deriving DecidableEq, Repr

/-- One lane instruction as the sequencer executes it. The manual does not describe the binary
encoding, so the decoded form comes with the issue; classes and effects are those of R121 to R124,
R139 to R143. Register numbers index the thread's own registers. -/
inductive LaneOp where
  | fadd (d a b : BitVec 8) | fmul (d a b : BitVec 8) | ffma (d a b c : BitVec 8)
  | fmin (d a b : BitVec 8) | fmax (d a b : BitVec 8)
  | fcmpLt (d a b : BitVec 8) | fcmpLe (d a b : BitVec 8) | fcmpEq (d a b : BitVec 8)
  | iadd (d a b : BitVec 8) | isub (d a b : BitVec 8) | imul (d a b : BitVec 8)
  | iand (d a b : BitVec 8) | ior (d a b : BitVec 8) | ixor (d a b : BitVec 8)
  | ishl (d a b : BitVec 8) | ishrU (d a b : BitVec 8) | ishrS (d a b : BitVec 8)
  | icmpLtS (d a b : BitVec 8) | icmpLtU (d a b : BitVec 8) | icmpEq (d a b : BitVec 8)
  | move (d a : BitVec 8) | moveUniform (d : BitVec 8) (i : BitVec 7) | moveImm (d : BitVec 8) (v : BitVec 32) | select (d c a b : BitVec 8)
  | convert (d a : BitVec 8) (src dst : BitVec 4)
  | rcp (d a : BitVec 8) | rsqrt (d a : BitVec 8) | sqrt (d a : BitVec 8)
  | log2 (d a : BitVec 8) | exp2 (d a : BitVec 8) | sin (d a : BitVec 8) | cos (d a : BitVec 8)
  | ldStore (d a : BitVec 8) | stStore (a v : BitVec 8)
  | atomStore (op : AtomicOp) (d a v c : BitVec 8)
  | ldTex (d lo hi : BitVec 8) | sample (d u v ref : BitVec 8) (image sampler : BitVec 40) (layer : BitVec 11)
  | ldMem (d lo hi : BitVec 8) | stMem (lo hi v : BitVec 8)
  | atomMem (op : AtomicOp) (d lo hi v c : BitVec 8)
  | branch (c : BitVec 8) (target reconv : Nat) | reconverge
  | barrier | signal (ctr : BitVec 4) (v : BitVec 32) | wait (ctr : BitVec 4) (target : BitVec 32)
  | fence
  /-- shading programs (R238, R245, R261): component c of varying v; a register to an output; the fragment is discarded -/
  | varying (d : BitVec 8) (v : BitVec 4) (c : BitVec 2) (mode : Interpolation) | output (slot : BitVec 7) (v : BitVec 8) | discard
  | endThread | illegal
  deriving DecidableEq, Repr

/-- Work that waits for tiles (R172): a job in the table, or the oldest untaken command of a submission queue. -/
inductive Waiting where
  | job (n : Nat)
  | head (q : BitVec 18)
  deriving DecidableEq, Repr

/-- What an engine's reads of a tile's SRAM meet in a step (R214): nothing; a single-bit error, which is corrected; a double-bit
error in a line that the texture and operand cache holds as a copy of memory; one in a word of the store or the registers. -/
inductive SramWord where
  | good | corrected | cacheLine | bad
  deriving DecidableEq, Repr

/-- A shard's turn on an array: the shard, and what the reads of its tile meet. -/
structure ShardTurn where
  shard : BitVec 5
  sram : SramWord
  deriving DecidableEq, Repr

/-- A slice's turn at a drawn screen tile: the screen tile, and what the reads of the slice's tile meet. -/
structure DrawnTurn where
  screenTile : Nat
  sram : SramWord
  deriving DecidableEq, Repr

/-- The signal that a pass makes at its end on each of its tiles (R141): the counter of the block, and what it adds.
RASTER_PASS has no field for either, so the end of the pass carries them. -/
structure PassSignal where
  counter : BitVec 4
  value : BitVec 32
  deriving DecidableEq, Repr

/-- What follows a Sync (R304, R307): the correction, and the grandmaster's rate as the path has summed it. -/
structure FollowUp where
  correction : Int
  rate : BitVec 32
  deriving DecidableEq, Repr

/-- Why a lane bundle, a model step or a pass stops (the FAULT_CAUSE codes of R137, R178, R264). -/
inductive JobFault where
  | illegalInstruction | addressFault | timeLimit | uncorrectable | tileRetired
  deriving DecidableEq, Repr

/-- Errors of a received CSI-2 or lidar packet (R324, R337). -/
inductive LineError where
  | none | headerUncorrectable | payloadCrc
  deriving DecidableEq, Repr

/-- One token of a lockstep copy (R427). -/
structure Token where
  channel : BitVec 3
  kind : BitVec 2
  size : BitVec 2 := 0
  bmask : BitVec 8 := 0
  addr : BitVec 48 := 0
  data : BitVec 64 := 0
  deriving DecidableEq, Repr

/-- The asynchronous inputs of the island's distributors (R432). -/
inductive IslandInput where
  | canReceive | ethReceive | timer | readPort | command | debugRequest
  deriving DecidableEq, Repr

/-- What start-up test finds, for `COLD_START` and `WARM_RESET_RELEASE`: the analogue facts that
the device measures (R486 to R490) and not a choice of the model. -/
structure StartFacts where
  /-- bit p: physical tile p fails its built-in self-test or the digest check (R488) -/
  tileTestBad : BitVec 36 := 0
  /-- a column that does not train (R487) -/
  columnFail : Option (Fin 36) := none
  /-- rows that fail the column test: column, die, row index (R489) -/
  rowFails : List (Fin 36 × Bool × BitVec 17) := []
  /-- bit i: checker i fails squall check (R455, R456) -/
  squallBad : BitVec 116 := 0
  /-- the value the timekeeping block draws for COLD_ID (R495) -/
  coldId : BitVec 64 := 0
  /-- straps at the rise of CORE_PWRGD (R553) -/
  devId : BitVec 2 := 0
  boardN : BitVec 2 := 0
  i3cAddr : BitVec 3 := 0
  /-- the time the start took, in ms (R508) -/
  readyMs : Nat := 0
  /-- warm start: bit i, copy i of the warm-valid record fails its CRC or reads as uncorrectable (R496) -/
  recordBad : BitVec 2 := 0
  /-- the platform block as the boot flash holds it (R528); unlisted bytes are zero -/
  platform : Tab Byte := []
  /-- POLL_US of a valid board block (R524) -/
  pollUs : Option (BitVec 10) := none
  deriving DecidableEq, Repr

/-- What the island's start finds (R435, R439). -/
structure IslandFacts where
  /-- the start-test step 1 to 6 that pair p fails, if any (R435) -/
  pair0Fails : Option (Fin 7) := none
  pair1Fails : Option (Fin 7) := none
  deriving DecidableEq, Repr

/-- An Isgal transaction header (R515). -/
structure IsgalTx where
  kind : BitVec 4
  cls : BitVec 2 := 0
  safety : Bool := false
  berth : BitVec 6 := 0
  gen : BitVec 16 := 0
  addr : BitVec 50 := 0
  size : BitVec 4 := 6
  wnum : BitVec 16 := 0
  tag : BitVec 16 := 0
  aop : BitVec 4 := 0
  data : List Byte := []
  /-- how a completion ends: 0 done, 1 address fault, 2 uncorrectable; the header's bits for it are not given -/
  status : BitVec 2 := 0
  deriving DecidableEq, Repr

/-- What a flit carries beside its header (R516): whole transactions, and the credits that it returns. -/
structure FlitBody where
  txs : List IsgalTx
  credits : List Nat
  deriving DecidableEq, Repr

/-- The identity a port's peer sends at training (R514). -/
structure PeerIdentity where
  devId : BitVec 2
  boardN : BitVec 2
  grade : BitVec 2
  port : BitVec 3
  uid : BitVec 128 := 0
  lanes : BitVec 8 := 0xFF
  deriving DecidableEq, Repr

/-- The commands and events of spec/opcode_table.json, in the table's order. -/
inductive Instr where
  -- packets: device, power, models, lanes, tensors
  | echo (c : Cmd) | negotiate (c : Cmd) | getDeviceStatus (c : Cmd) | lockCommit (c : Cmd)
  | getWeather (c : Cmd) | setPowerPolicy (c : Cmd)
  | modelRegister (c : Cmd) | modelUnregister (c : Cmd) | modelInvoke (c : Cmd) | getModel (c : Cmd)
  | setResidency (c : Cmd) | modelPreload (c : Cmd)
  | programLoad (c : Cmd) | programUnload (c : Cmd) | laneDispatch (c : Cmd)
  | tensorMatmul (c : Cmd) | tensorConvert (c : Cmd) | tensorSeedSr (c : Cmd)
  -- packets: raster and displays
  | rasterCtxCreate (c : Cmd) | rasterCtxDestroy (c : Cmd) | getRasterCtx (c : Cmd)
  | rasterStateLoad (c : Cmd) | rasterStateFree (c : Cmd) | rasterPass (c : Cmd)
  | binGrow (c : Cmd) | binAbandon (c : Cmd) | imageClear (c : Cmd) | imageResolve (c : Cmd)
  | displayConfigure (c : Cmd) | displayPresent (c : Cmd) | getDisplay (c : Cmd)
  -- packets: cuts, sensors, fusion, time
  | cutSet (c : Cmd) | cutClear (c : Cmd) | streamConfig (c : Cmd) | csiRxConfig (c : Cmd)
  | triggerConfig (c : Cmd) | csiTxConfig (c : Cmd) | csiTxSend (c : Cmd) | i3cConfig (c : Cmd)
  | i3cXfer (c : Cmd) | getStreamStatus (c : Cmd)
  | fusionGroupConfig (c : Cmd) | fusionStreamConfig (c : Cmd) | fusionPairSet (c : Cmd)
  | fusionPublish (c : Cmd) | fusionAssoc (c : Cmd) | getFusionStatus (c : Cmd)
  | timeDomainConfig (c : Cmd) | timePortConfig (c : Cmd) | timeSelect (c : Cmd)
  | timePortMeasure (c : Cmd) | getTimeStatus (c : Cmd)
  -- packets: safety, maintenance
  | gaugeSet (c : Cmd) | gaugeClear (c : Cmd) | getGauge (c : Cmd) | soundingSet (c : Cmd)
  | mooringStore (c : Cmd) | selfTest (c : Cmd) | supervisorHeartbeat (c : Cmd)
  | doubtRelease (c : Cmd) | getSafetyStatus (c : Cmd)
  | serviceEnter (c : Cmd) | serviceLeave (c : Cmd) | getBringupStatus (c : Cmd)
  | tileTest (c : Cmd) | tileRetire (c : Cmd) | getTileMap (c : Cmd) | getErrorLog (c : Cmd)
  | getDefectLog (c : Cmd) | getLinkStatus (c : Cmd)
  -- packets: berths, basins, queues, mappings, identity
  | berthCreate (c : Cmd) | berthModify (c : Cmd) | berthReset (c : Cmd) | berthDestroy (c : Cmd)
  | getBerth (c : Cmd) | berthGrant (c : Cmd)
  | basinCreate (c : Cmd) | basinModify (c : Cmd) | basinDestroy (c : Cmd) | getBasin (c : Cmd)
  | queueCreate (c : Cmd) | queueModify (c : Cmd) | queueDestroy (c : Cmd) | getQueue (c : Cmd)
  | queueResume (c : Cmd)
  | memAlloc (c : Cmd) | memMapWindow (c : Cmd) | memFree (c : Cmd) | memProtect (c : Cmd)
  | getMapping (c : Cmd)
  | getFwIdentity (c : Cmd) | getDeviceIdentity (c : Cmd) | licenceInstall (c : Cmd)
  | getLicence (c : Cmd) | fwUpdate (c : Cmd) | fwUpdateRecovery (c : Cmd)
  -- doorbells, mailboxes, queues
  | doorbellWrite (q : BitVec 18) (value : BitVec 64)
  | mailboxPost (m : Fin 65) (ackToo : Bool)
  | mailboxAck (m : Fin 65) (postToo : Bool)
  | registerWrite (addr : BitVec 32) (data : List Byte)
  | mailboxTake (m : Fin 65)
  | queueEntryTake (q : BitVec 18)
  | commandCancel (q : BitVec 18)
  -- the supervisor's I3C target port
  | i3cPrivateWrite (bytes : List Byte)
  | i3cReplyRead (len : Nat)
  | entdaa (addr : BitVec 7) | setdasa (addr : BitVec 7) | setnewda (addr : BitVec 7) | rstdaa
  | getpid | getbcr | getdcr | getstatus | getmrl | getmwl
  | enec (events : Byte) | disec (events : Byte)
  -- application cores
  | kberthWrite (h : Fin 24) (value : BitVec 64) (virtualMode : Bool)
  -- lock cycles, memory
  | shadowClose | commitEdge | configFree
  | voidRangeClear (b : BitVec 6)
  | frameZero (frame : Nat)
  | handoverComplete (t : Fin 36)
  | memoryRead (r : Requester) (addr : BitVec 40) (len : Nat) (flips : BitVec 544) (reserve : Bool)
  | memoryWrite (r : Requester) (addr : BitVec 40) (data : List Byte) (conditional : Bool)
  | memoryAtomic (r : Requester) (addr : BitVec 40) (op : AtomicOp) (size8 : Bool)
      (operand compare : BitVec 64)
  | releaseFence (t : Fin 36) (job : Nat)
  | patrolRead (pa : BitVec 48) (flips : BitVec 544)
  | creditReturn (unit : Nat) (k : PoundKind) (safety : Bool)
  -- pace and power
  | weatherWindow (t : Fin 36) (pace : BitVec 16) (tj : BitVec 16) (vlocal : BitVec 16)
  | governorSample (railMilliamps : Option Nat) (estVcore estVmem estVio estVisl : Nat)
  | regulatorRetry
  | tileStateEnter (t : Fin 36) | tileWake (t : Fin 36) | tileWakeDone (t : Fin 36)
  -- jobs
  | jobChoose (basin : BitVec 10)
  | jobBorrow (work : Waiting) (t : Fin 36)
  | shardSwitch (job : Nat) (shard : BitVec 5)
  | modelStepStart (job : Nat) (turn : ShardTurn) (step : Nat)
  | arrayLoad (job : Nat) (turn : ShardTurn)
  | jobComplete (job : Nat) (fault : Option (JobFault × BitVec 5 × BitVec 12))
  -- lanes
  | workgroupPlace (job : Nat)
  | bundleIssue (t : Fin 36) (group : Fin 64) (op : LaneOp) (sram : SramWord)
  | barrierRelease (t : Fin 36) (group : Fin 64) (wg : Nat)
  | workgroupEnd (t : Fin 36) (group : Fin 64) (wg : Nat)
  | timeLimitExpiry (job : Nat)
  | dispatchComplete (job : Nat)
  -- raster and displays
  | batchDeal (ctx : BitVec 9) (t : Fin 36) (sram : SramWord)
  | chunkRequest (ctx : BitVec 9) (batch : Nat)
  | batchPublish (ctx : BitVec 9) (batch : Nat)
  | weirTimeout (ctx : BitVec 9)
  | screenTileBind (ctx : BitVec 9) (t : Fin 36)
  | fragmentBundle (ctx : BitVec 9) (screenTile : Nat) (sram : SramWord)
  | writeOut (ctx : BitVec 9) (turn : DrawnTurn)
  | passComplete (ctx : BitVec 9) (signal : Option PassSignal)
  | displayLatchPoint (o : Fin 4) | displayFrameStart (o : Fin 4)
  | scanOutLine (o : Fin 4) (line : Nat) (arrived : Nat)
  -- sensors
  | triggerPulse (o : Fin 32)
  | frameStart (port : Fin 12) (vc : BitVec 5) (fn : BitVec 16)
  | startPacket (mac : Fin 8) (udpPort : BitVec 16) (payload : List Byte) (fragmented : Bool)
  | longPacket (port : Fin 12) (vc : BitVec 5) (dt : BitVec 6) (payload : List Byte) (err : LineError)
  | lidarPacket (mac : Fin 8) (udpPort : BitVec 16) (payload : List Byte) (fragmented : Bool)
  | frameEnd (stream : BitVec 5)
  | missing (stream : BitVec 5)
  | i3cIbi (bus : Fin 4) (addr : BitVec 7) (payload : BitVec 64)
  -- fusion
  | sampleArrive (stream : BitVec 5)
  | instantClose (g : Fin 4)
  | level0Publish (g : Fin 4)
  -- time
  | syncReceive (port : Fin 8) (domainNumber : Byte) (origin : Int) (followUp : FollowUp) (ingress : Int)
  | syncSend (port : Fin 8) (d : Fin 2)
  | pdelayExchange (port : Fin 8) (t1 t2 t3 t4 : Int) (rateRatio : BitVec 32)
  | portLinkUp (port : Fin 8) (txPath rxPath : BitVec 16)
  | syncLoss (d : Fin 2)
  | holdoverExpiry (d : Fin 2)
  | workingClockSlew
  | tcxoCheck (ppm : Int)
  | beaconSend (peer : BitVec 2)
  | beaconReceive (peer : BitVec 2) (wc : Int) (stratum : BitVec 4) (linkDelay : Int)
  -- the island
  | tokenProduce (pair : Fin 2) (copy : Fin 2) (tok : Token) (badWord : Bool)
  | skewTime (pair : Fin 2)
  | beatWrite (pair : Fin 2)
  | beatWatchdog (pair : Fin 2)
  | roleTakeover
  | inputToken (pair : Fin 2) (kind : IslandInput) (halfA halfB : BitVec 64)
  | asyncEventTake (pair : Fin 2)
  | readPortRead (pair : Fin 2) (pa : BitVec 48) (flips : BitVec 544)
  | debugHalt (pair : Fin 2) (countA countB : BitVec 48)
  | debugStep (pair : Fin 2) (countA countB : BitVec 48)
  | debugAccess (pair : Fin 2) (write : Bool) (addr : BitVec 32) (a b : BitVec 64)
  | islandWeatherWindow (pace : BitVec 16) (tj : BitVec 16)
  | islandStart (facts : IslandFacts)
  | islReset
  | playoutStart
  | planEntrySend (index : Nat)
  | finalRepeat (channel : BitVec 2) (stream : BitVec 5)
  -- safety monitors
  | gaugeDeadline (g : BitVec 12)
  | stampReadResponse (g : BitVec 12) (flips : BitVec 544)
  | stampReadTimeout (g : BitVec 12)
  | expiredGaugePoll (g : BitVec 12)
  | soundingRelease (instant : Nat)
  | soundingWindowEnd
  | soundingComplete (outputs : List (BitVec 32)) (fault : Bool)
  | drizzleSlot
  | drizzleSliceEnd (failed : Bool)
  | heartbeatDeadline
  | errorRecordSecond
  -- starts, resets, power
  | coldStart (facts : StartFacts)
  | warmResetAssert
  | warmResetRelease (facts : StartFacts)
  | corePwrgdFall
  | vmemOutOfRange
  | islPwrgdFall
  -- Isgal
  | portTrainingDone (port : Fin 6) (id : PeerIdentity)
  | flitReceive (port : Fin 6) (seq ack : BitVec 16) (nak crcOk : Bool) (laneBad : BitVec 8)
      (body : FlitBody)
  | peerSilent (port : Fin 6)
  | inboundTransaction (port : Fin 6) (tx : IsgalTx)
  | lockRead (port : Fin 6) (tx : IsgalTx)
  | lockWrite (port : Fin 6) (tx : IsgalTx)
  | lockTimeout (column : Fin 36)
  | lockRetryReceive (port : Fin 6) (tag : BitVec 16)
  | lockResend (tag : BitVec 16)
  | sideBandPoll (peer : BitVec 2)
  | sideBandRecord (peer : BitVec 2) (lockCycle : BitVec 64) (running latch : Bool)
      (live notify : BitVec 64)
  | peerCutCopy (cut : BitVec 12) (peerBerth : BitVec 6) (record : List Byte)
  -- gateway and PCIe
  | txRingPoll (ch : Fin 16)
  | rxFrame (ch : Fin 16) (format : BitVec 2) (pcp : BitVec 3) (frame : List Byte)
  | setpointReadPoint (cls : Fin 16)
  | setpointSlot (cls : Fin 16)
  | pcieInbound (bus : Byte) (addr : BitVec 40) (write : Option (List Byte)) (len : Nat)
  | pcieTimeout (tag : Nat)
  | tileSelfTestEnd (t : Fin 36) (failingBlock : Option Byte)
  | i3cTransferEnd (bus : Fin 4) (done : Nat) (result : Option Bool) (readBytes : List (List Byte))
  | csiTxFrameEnd (port : Fin 4)
  | txFrameDone (ch : Fin 16) (sent : Bool)
  | portLinkDown (mac : Fin 8)
  | busOff (ch : Fin 8) (entered : Bool)
  | pcieCompletion (tag : Nat) (data : List Byte) (ok : Bool)
  | debugResume (pair : Fin 2)
  | flashWriteEnd (readBackOk : Bool)
  deriving DecidableEq, Repr

end Sys2Proof
end

