-- ==== Sys2Proof/Decode.lean ====
section
/-! DEFINITION. The table gives no row any bits: the commands have no word encoding of their own. -/

namespace Sys2Proof

/-- The command a table word spells. No row of the opcode table gives bits, so none. -/
def decodeTableWord (_nbits _w : Nat) : Option Instr := none

end Sys2Proof
end

