-- ==== Sys2Proof/Config.lean ====
section
/-! DEFINITION. What an implementation fixes, and the free values: what the manual leaves open. A free
value is an opaque constant, applied to the counter of `State` that the reading command advances or to
the operands it depends on; no proof can see what it is. -/

namespace Sys2Proof.Config

/-- What a read of a page on a peer device or behind the PCIe root port returns (R212): the data come
from outside the device. -/
opaque remoteByte : Nat → Nat → Byte

/-- The waves that a job, dispatch or pass reports (R137, R178, R264): the model keeps no time in waves. -/
opaque freeWaves : Nat → BitVec 32

/-- The SEQ in the record of an unreadable entry of a queue that expects no SEQ yet (R373, R558). -/
opaque anySeq : Nat → BitVec 32

/-- Reciprocal, reciprocal square root, square root, log2, exp2, sin, cos of the lanes: R123 bounds the
error and does not give the bits. The first argument is the function's number, 0 to 6. -/
opaque laneUnit : Nat → BitVec 32 → BitVec 32

/-- A lane shift by 32 or more: the manual gives no result. The first argument is 0 for left, 1 for logical right,
2 for arithmetic right. -/
opaque laneWideShift : Nat → BitVec 32 → BitVec 32 → BitVec 32

/-- Whether the island's beat watchdog is off after a debugger wrote a value to an island address (R438: a debugger
disables it; the manual does not give the register). The last argument is whether it was off before. -/
opaque debugWatchdog : BitVec 32 → BitVec 64 → Bool → Bool

/-- Which value stays when two writers store to one word without atomics (R143). -/
opaque freeChoice : Nat → Bool

/-- The I3C identity that GETPID, GETBCR and GETDCR report; the manual gives no value. -/
opaque i3cPid : BitVec 48
opaque i3cBcr : BitVec 8
opaque i3cDcr : BitVec 8

/-- Whether a peer's frame is held by the berth of the caller's number on that peer (R519): the peer answers. -/
opaque peerHolds : Nat → Nat → Nat → Nat → Bool

/-- One texel of a block-compressed format (R267: ETC2 and ASTC): the manual names the formats and does not give their
decoding. The arguments are the format code, the 16 bytes of the block as a number, and the texel 0 to 15; the
result is four FP32 components, red lowest. -/
opaque blockTexel : Nat → Nat → Nat → BitVec 128

/-- The sRGB transfer (R274, R278, R282): the manual asks for it and does not give its values. -/
opaque srgbToLinear : Byte → BitVec 32
opaque linearToSrgb : BitVec 32 → Byte

/-- log2 of rho in units of 1/256 (R274), from the FP32 square of rho: the manual gives no rounding. -/
opaque textureLod : BitVec 32 → Int

/-- A colour component of so many bits as scan-out sends it in another width (R291): the manual gives no conversion. -/
opaque scanComponent : Nat → Nat → Nat → Nat

/-- What an infinity or NaN counts as where exact arithmetic meets it (R240, R244): the manual gives no result. -/
opaque nonFinite : BitVec 32 → Rat

/-- The 24.8 coordinate of a screen position outside its range (R242): the manual gives no result. -/
opaque snapWide : BitVec 32 → BitVec 32

/-- What the 64 calibration runs of a SAFETY model find (R450): the lower and upper band of each output element,
CAL_WAVES, and whether a run faults or gives NaN. The argument is the digest of the weights. -/
opaque calibrationBand : BitVec 256 → Nat → BitVec 32 × BitVec 32
opaque calibrationWaves : BitVec 256 → Nat
opaque calibrationFails : BitVec 256 → Bool

/-- The order of the uses in the reserved region of a column, as the number of an arrangement (R186 gives their sizes and
not their order). -/
opaque reservedOrder : Nat

/-- The model (berth × 1024 + handle) whose bands or input lie on a line of the safety calibration data (R472). -/
opaque bandModel : Nat → Nat

/-- Which of the free slots, handles, contexts or frames a command takes where the manual names none (R131, R154, R217, R226,
R227); a number beyond the free ones counts modulo. The second argument is the number of frames in use. -/
opaque pick : Nat → Nat → Nat

/-- Which of the two FP32 words next to a fraction a result is, where the manual gives no rounding or order of operations (R240,
R244, R245, R274, R278): the farther one. -/
opaque fp32Far : Rat → Bool

/-- The quotient of a number over zero, where a clipped or interpolated value meets a w or a sum of 1/w that is zero (R242, R245). -/
opaque overZero : Rat → BitVec 32

/-- A weighted mean that meets an infinity or NaN (R274, R278): weights and components. -/
opaque fp32Mean : List (Nat × BitVec 32) → BitVec 32

/-- The filter weight, in units of 1/256, of a texel fraction that 8 bits do not hold (R274). -/
opaque filterWeight : Rat → Nat

/-- The CB4 index of an infinity of a sign, or of a value when every entry of the codebook is NaN (R87): the manual
does not say which entry is nearest. -/
opaque nearestOpen : List Byte → Bool → BitVec 4

/-- A value of `w` bits that the manual leaves open. -/
opaque freeBits : (w : Nat) → Nat → BitVec w

end Sys2Proof.Config
end

