-- ==== Sys2Proof/Machine/Tab.lean ====
section
/-! DEFINITION. Sparse tables in canonical form, and the bit and byte helpers every unit uses. -/

namespace Sys2Proof.Machine

/-- The entry of key `n`; the default `d` where the table lists none. -/
def tabGet {α : Type} (d : α) : Tab α → Nat → α
  | [], _ => d
  | (k, v) :: t, n => if k = n then v else if n < k then d else tabGet d t n

/-- Set the entry of key `n`, keeping keys rising and never listing the default. -/
def tabPut {α : Type} [DecidableEq α] (d : α) : Tab α → Nat → α → Tab α
  | [], n, v => if v = d then [] else [(n, v)]
  | (k, w) :: t, n, v =>
    if n < k then (if v = d then (k, w) :: t else (n, v) :: (k, w) :: t)
    else if k = n then (if v = d then t else (n, v) :: t)
    else (k, w) :: tabPut d t n v

/-- Update the entry of key `n`. -/
def tabMod {α : Type} [DecidableEq α] (d : α) (t : Tab α) (n : Nat) (f : α → α) : Tab α :=
  tabPut d t n (f (tabGet d t n))

/-- Every key of the table is at or above `lo`, keys rise, and no entry is the default. -/
def tabWfFrom {α : Type} [DecidableEq α] (d : α) : Nat → Tab α → Bool
  | _, [] => true
  | lo, (k, v) :: t => decide (lo ≤ k) && !decide (v = d) && tabWfFrom d (k + 1) t

/-- The canonical form of a table. -/
def tabWf {α : Type} [DecidableEq α] (d : α) (t : Tab α) : Bool := tabWfFrom d 0 t

/-- Apply `f` to every listed entry, dropping those that become the default. -/
def tabMap {α : Type} [DecidableEq α] (d : α) (f : Nat → α → α) : Tab α → Tab α
  | [] => []
  | (k, v) :: t => if f k v = d then tabMap d f t else (k, f k v) :: tabMap d f t

/-- The listed keys whose entry satisfies `p`, ascending. -/
def tabKeys {α : Type} (p : Nat → α → Bool) : Tab α → List Nat
  | [] => []
  | (k, v) :: t => if p k v then k :: tabKeys p t else tabKeys p t

/-- Does some listed entry satisfy `p`? -/
def tabAny {α : Type} (p : Nat → α → Bool) (t : Tab α) : Bool := t.any fun kv => p kv.1 kv.2

/-- The number of listed entries that satisfy `p`. -/
def tabCount {α : Type} (p : Nat → α → Bool) (t : Tab α) : Nat := (tabKeys p t).length

/-- Bits [lo + n - 1 : lo] of a parameter area, a descriptor or a register. -/
def fld {w : Nat} (x : BitVec w) (lo n : Nat) : BitVec n := x.extractLsb' lo n

/-- The same bits as a number. -/
def fldN {w : Nat} (x : BitVec w) (lo n : Nat) : Nat := (fld x lo n).toNat

/-- Bit `i` of a word. -/
def bitAt {w : Nat} (x : BitVec w) (i : Nat) : Bool := x.getLsbD i

/-- 1 for true, 0 for false: a one-bit field. -/
def b2n (b : Bool) : Nat := if b then 1 else 0

/-- A record built from its fields (lowest bit, width, value); what no field covers reads zero. -/
def packFields : List (Nat × Nat × Nat) → Nat
  | [] => 0
  | (lo, n, v) :: t => (v % 2 ^ n) * 2 ^ lo + packFields t

/-- The `n` bytes of a number, byte 0 holding bits [7:0] (R11). -/
def bytesOf : Nat → Nat → List Byte
  | 0, _ => []
  | n + 1, v => BitVec.ofNat 8 v :: bytesOf n (v / 256)

/-- The number that bytes spell, byte 0 lowest (R11). -/
def ofBytes : List Byte → Nat
  | [] => 0
  | b :: t => b.toNat + 256 * ofBytes t

/-- The first `n` bytes of a list, padded with zeros. -/
def takeBytes : Nat → List Byte → List Byte
  | 0, _ => []
  | n + 1, [] => 0 :: takeBytes n []
  | n + 1, b :: t => b :: takeBytes n t

/-- Add one to a saturating counter of any width. -/
def satInc {w : Nat} (x : BitVec w) : BitVec w := if x.toNat + 1 < 2 ^ w then x + 1 else x

/-- Add `n` to a saturating counter of any width. -/
def satAdd {w : Nat} (x : BitVec w) (n : Nat) : BitVec w :=
  BitVec.ofNat w (min (x.toNat + n) (2 ^ w - 1))

/-- A number that a field of `w` bits holds, saturating. -/
def satOf (w n : Nat) : BitVec w := BitVec.ofNat w (min n (2 ^ w - 1))

/-- The larger of two counters. -/
def bvMax {w : Nat} (a b : BitVec w) : BitVec w := if a.toNat < b.toNat then b else a

/-- The signed value of a field. -/
def sInt {w : Nat} (x : BitVec w) : Int := x.toInt

/-- The numbers lo, lo + 1, …, lo + n - 1. -/
def upFrom : Nat → Nat → List Nat
  | _, 0 => []
  | lo, n + 1 => lo :: upFrom (lo + 1) n

/-- The numbers below `n` whose bit is set in `x`, ascending. -/
def setBits {w : Nat} (x : BitVec w) (n : Nat) : List Nat := (upFrom 0 n).filter fun i => bitAt x i

/-- The number of set bits of `x` below `n`. -/
def popCount {w : Nat} (x : BitVec w) (n : Nat) : Nat := (setBits x n).length

/-- The least element of a list under a key, the earliest on a tie. -/
def minBy {α : Type} (key : α → Nat) : List α → Option α
  | [] => none
  | a :: t =>
    match minBy key t with
    | none => some a
    | some b => if key b < key a then some b else some a

/-- Element `k` of a list, counted modulo its length. -/
def pickFrom {α : Type} (k : Nat) (xs : List α) : Option α := xs[k % xs.length]?

/-- Replace element `i` of a list. -/
def listSet {α : Type} : List α → Nat → α → List α
  | [], _, _ => []
  | _ :: t, 0, v => v :: t
  | a :: t, i + 1, v => a :: listSet t i v

end Sys2Proof.Machine
end

