-- ==== Sys2Proof/Machine/Codes.lean ====
section
/-! DEFINITION. The codes the manual names: CRC-32 of IEEE 802.3 (R390), SHA-256, and the symbol code of
a DRAM line (R190, R191). -/

namespace Sys2Proof.Machine

/-! CRC-32 -/

/-- One bit of the reflected CRC of polynomial 0x04C11DB7. -/
def crcBit (c : BitVec 32) : BitVec 32 := if bitAt c 0 then (c >>> 1) ^^^ 0xEDB88320 else c >>> 1

/-- One byte, least significant bit first. -/
def crcByte (c : BitVec 32) (b : Byte) : BitVec 32 :=
  crcBit (crcBit (crcBit (crcBit (crcBit (crcBit (crcBit (crcBit (c ^^^ b.setWidth 32))))))))

/-- The CRC-32 of a byte string: start from 0xFFFFFFFF, invert the result (R390). -/
def crc32 (bs : List Byte) : BitVec 32 := ~~~ (bs.foldl crcByte 0xFFFFFFFF)

/-! SHA-256 -/

/-- The greatest `r` below `2 ^ n` above `r0` with `r ^ k ≤ x`, found bit by bit from the top. -/
def intRoot (k x : Nat) : Nat → Nat → Nat
  | 0, r0 => r0
  | n + 1, r0 => intRoot k x n (if (r0 + 2 ^ n) ^ k ≤ x then r0 + 2 ^ n else r0)

/-- The first `n` primes (`n` at most 64: the 64th is 311, and a composite below 324 has a factor up to 17). -/
def firstPrimes (n : Nat) : List Nat :=
  ((upFrom 2 310).filter fun p => (upFrom 2 16).all fun d => p % d != 0 || p == d).take n

/-- The first 32 bits of the fractional part of the `k`-th root of a number. -/
def rootFraction (k p : Nat) : BitVec 32 := BitVec.ofNat 32 (intRoot k (p * 2 ^ (32 * k)) 40 0)

/-- The working words before the first block: square roots of the first eight primes. -/
def shaStart : List (BitVec 32) := (firstPrimes 8).map (rootFraction 2)

/-- One constant a round: cube roots of the first 64 primes. -/
def shaRounds : List (BitVec 32) := (firstPrimes 64).map (rootFraction 3)

/-- The exclusive or of a word turned right by each distance listed. -/
def xorTurns (ds : List Nat) (x : BitVec 32) : BitVec 32 := ds.foldl (fun acc d => acc ^^^ x.rotateRight d) 0

/-- The message schedule, newest word first: extend 16 words by `n` more. -/
def shaSchedule : Nat → List (BitVec 32) → List (BitVec 32)
  | 0, ws => ws
  | n + 1, ws =>
    let back := fun (k : Nat) => ws.getD (k - 1) 0
    let mix := fun (ds : List Nat) (sh k : Nat) => xorTurns ds (back k) ^^^ (back k >>> sh)
    shaSchedule n ((back 16 + back 7 + mix [7, 18] 3 15 + mix [17, 19] 10 2) :: ws)

/-- One round: `add` is the sum of the round's constant and its schedule word. Of the eight working words
the fourth takes in the first sum, and the new head is both sums together. -/
def shaRound (h : List (BitVec 32)) (add : BitVec 32) : List (BitVec 32) :=
  match h with
  | [a, b, c, d, e, f, g, last] =>
    let choose := g ^^^ (e &&& (f ^^^ g))
    let most := (a &&& (b ||| c)) ||| (b &&& c)
    let x := last + xorTurns [6, 11, 25] e + choose + add
    [x + xorTurns [2, 13, 22] a + most, a, b, c, d + x, e, f, g]
  | other => other

/-- A big-endian 32-bit word. -/
def be32 (a b c d : Byte) : BitVec 32 := a ++ b ++ c ++ d

/-- The 32-bit words of a byte string. -/
def beWords : List Byte → List (BitVec 32)
  | a :: b :: c :: d :: t => be32 a b c d :: beWords t
  | _ => []

/-- Compress one 64-byte block. -/
def shaBlock (h : List (BitVec 32)) (blk : List Byte) : List (BitVec 32) :=
  let ws := (shaSchedule 48 (beWords blk).reverse).reverse
  let r := (List.zipWith (· + ·) shaRounds ws).foldl shaRound h
  List.zipWith (· + ·) h r

/-- Compress `n` blocks. -/
def shaBlocks : Nat → List (BitVec 32) → List Byte → List (BitVec 32)
  | 0, h, _ => h
  | n + 1, h, m => shaBlocks n (shaBlock h (m.take 64)) (m.drop 64)

/-- The padded message. -/
def shaPad (m : List Byte) : List Byte :=
  let z := (119 - m.length % 64) % 64
  m ++ [0x80] ++ List.replicate z 0 ++ (bytesOf 8 (8 * m.length)).reverse

/-- SHA-256 of a byte string, as 32 bytes. -/
def sha256 (m : List Byte) : List Byte :=
  let p := shaPad m
  (shaBlocks (p.length / 64) shaStart p).flatMap fun w => (bytesOf 4 w.toNat).reverse

/-! The symbol code (R190): GF(2^8) with polynomial 0x11D, alpha = 0x02. -/

/-- Multiply by alpha. -/
def gfTimesA (x : Byte) : Byte := if bitAt x 7 then (x <<< 1) ^^^ 0x1D else x <<< 1

/-- Multiply two field elements: shift and add over `n` bits of the second. -/
def gfMulN : Nat → Byte → Byte → Byte
  | 0, _, _ => 0
  | n + 1, a, b => (if bitAt b 0 then a else 0) ^^^ gfMulN n (gfTimesA a) (b >>> 1)

/-- The field product. -/
def gfMul (a b : Byte) : Byte := gfMulN 8 a b

/-- alpha to the power n. -/
def gfPow : Nat → Byte
  | 0 => 1
  | n + 1 => gfTimesA (gfPow n)

/-- Symbol p of a codeword or error pattern (coefficient c_p). -/
def symAt (e : BitVec 544) (p : Nat) : Byte := fld e (8 * p) 8

/-- The value at x of the polynomial whose coefficients are listed lowest first. -/
def gfEval (x : Byte) : List Byte → Byte
  | [] => 0
  | c :: t => c ^^^ gfMul x (gfEval x t)

/-- Syndrome j of R191; a codeword has four zero syndromes, so only the error pattern counts. -/
def syndrome (e : BitVec 544) (j : Nat) : Byte :=
  gfEval (gfPow j) ((upFrom 0 68).map (symAt e))

/-- What the column decides about a line (R191). -/
inductive LineVerdict where
  | clean
  | corrected (p : Nat) (magnitude : Byte)
  | uncorrectable
  deriving DecidableEq, Repr

/-- The decision of R191 for the error pattern `e` of a stored line. -/
def lineVerdict (e : BitVec 544) : LineVerdict :=
  if e = 0 then .clean else
  let s0 := syndrome e 0; let s1 := syndrome e 1; let s2 := syndrome e 2; let s3 := syndrome e 3
  if s0 = 0 ∧ s1 = 0 ∧ s2 = 0 ∧ s3 = 0 then .clean
  else if s0 ≠ 0 ∧ s1 ≠ 0 ∧ s2 ≠ 0 ∧ s3 ≠ 0 ∧ gfMul s1 s1 = gfMul s0 s2 ∧ gfMul s2 s2 = gfMul s1 s3 then
    match (upFrom 0 68).find? (fun p => gfMul (gfPow p) s0 = s1) with
    | some p => .corrected p s0
    | none => .uncorrectable
  else .uncorrectable

/-- The 64 data bytes of a codeword pattern, in address order: byte i is coefficient c_(67 - i). -/
def symData (e : BitVec 544) : List Byte := (upFrom 0 64).map fun i => symAt e (67 - i)

/-- The pattern with one symbol changed. -/
def symXor (e : BitVec 544) (p : Nat) (m : Byte) : BitVec 544 := e ^^^ (m.setWidth 544 <<< (8 * p))

end Sys2Proof.Machine
end

