-- ==== Sys2Proof/Machine/ShadowTypes.lean ====
section
/-! DEFINITION. The records of the shadow configuration (R69): everything that changes only at a lock
cycle. Field names are the manual's; a default is the field's reset value where the manual gives one. -/

namespace Sys2Proof.Machine

/-- What a physical tile carries (R491, R509): a logical number, nothing (unassigned spare), or it is
retired with its source (0 fuses, 1 start-up test, 2 run time). -/
inductive TileKind where
  | logical (n : Nat)
  | spare
  | retired (source : BitVec 2)
  deriving DecidableEq, Repr

/-- SET_POWER_POLICY (R39). -/
structure PowerPolicy where
  safeStep : BitVec 5 := 0x08
  perfCeil : BitVec 5 := 0x12
  excEn : Bool := true
  deriving DecidableEq, Repr

/-- The RW fields of a basin descriptor (R56); SAFETY, DEPTH, TILE_COUNT, PACE and HANDOVER follow. -/
structure BasinDesc where
  kind : BitVec 2 := 0
  dedicated : Bool := false
  parent : BitVec 10 := 0
  hasParent : Bool := false
  berth : BitVec 6 := 0
  endpoint : BitVec 18 := 0
  tileMask : BitVec 32 := 0
  dispatch : BitVec 2 := 0
  /-- the lock cycle that created it -/
  made : Nat := 0
  deriving DecidableEq, Repr

/-- A cut entry (R66). -/
structure CutEntry where
  valid : Bool := false
  srcKind : BitVec 3 := 0
  src : BitVec 18 := 0
  stage : BitVec 4 := 0
  destQueue : BitVec 18 := 0
  berth : BitVec 6 := 0
  gen : BitVec 16 := 0
  deriving DecidableEq, Repr

/-- A translation entry (R196); the table is zero at cold start. -/
structure XlatEntry where
  valid : Bool := false
  device1 : Bool := false
  target : BitVec 2 := 0
  read : Bool := false
  write : Bool := false
  prefetch : Bool := false
  device : BitVec 2 := 0
  frame : BitVec 32 := 0
  owner : BitVec 6 := 0
  deriving DecidableEq, Repr

/-- A frame of berth memory (R217, R220, R470): free, held by a berth, freed and not yet zeroed,
held for a model's weight copy, or retired. -/
inductive FrameState where
  | free
  | held (berth : BitVec 6)
  | freed (berth : BitVec 6) (cycle : Nat)
  | retired
  deriving DecidableEq, Repr

/-- The states of a berth (R406). -/
inductive BerthState where
  | free | live | closing
  deriving DecidableEq, Repr

/-- A berth descriptor (R402). -/
structure BerthDesc where
  state : BerthState := .free
  gen : BitVec 16 := 0
  wakeTol : BitVec 24 := 0xFFFFFF
  xlatFirst : BitVec 24 := 0
  xlatCount : BitVec 24 := 0
  queueFirst : BitVec 18 := 0
  queueCount : BitVec 19 := 0
  memQuota : BitVec 24 := 0
  memUsed : BitVec 24 := 0
  rasterShare : BitVec 8 := 0
  tileGrant : BitVec 32 := 0
  streamGrant : BitVec 32 := 0
  outputGrant : BitVec 4 := 0
  i3cGrant : BitVec 4 := 0
  txGrant : BitVec 4 := 0
  deriving DecidableEq, Repr

/-- A host-window grant (R405). -/
structure HostGrant where
  valid : Bool := false
  berth : BitVec 6 := 0
  first : BitVec 32 := 0
  frames : BitVec 32 := 0
  deriving DecidableEq, Repr

/-- The configured part of a queue descriptor (R163). -/
structure QueueDesc where
  valid : Bool := false
  kind : BitVec 2 := 0
  entry : BitVec 2 := 0
  priority : BitVec 3 := 0
  berth : BitVec 6 := 0
  gen : BitVec 16 := 0
  ringAddr : BitVec 40 := 0
  ringLog2 : BitVec 5 := 0
  cq : BitVec 18 := 0
  /-- the lock cycle that created the queue: its moving part starts afresh there -/
  made : Nat := 0
  deriving DecidableEq, Repr

/-- A loaded lane program (R129, R131): its header and the copied code. -/
structure Program where
  valid : Bool := false
  kind : BitVec 4 := 0
  laneIsa : BitVec 8 := 0
  regs : BitVec 8 := 0
  uniforms : BitVec 7 := 0
  rerunOk : Bool := false
  wgX : BitVec 11 := 0
  wgY : BitVec 11 := 0
  wgZ : BitVec 10 := 0
  shared : BitVec 7 := 0
  timeLimit : BitVec 16 := 0
  code : List Byte := []
  digest : BitVec 256 := 0
  deriving DecidableEq, Repr

/-- A tensor header (R98). -/
structure TensorHeader where
  format : BitVec 4 := 0
  layout : BitVec 2 := 0
  rank : BitVec 2 := 0
  dim0 : BitVec 24 := 0
  dim1 : BitVec 24 := 0
  dim2 : BitVec 24 := 0
  dim3 : BitVec 24 := 0
  dataAddr : BitVec 40 := 0
  scaleAddr : BitVec 40 := 0
  rowPitch : BitVec 32 := 0
  extLen : BitVec 32 := 0
  /-- where the header itself lies: CB4 codebooks follow it (R84) -/
  addr : BitVec 40 := 0
  /-- its 64 bytes are valid: check 4 of R113 -/
  ok : Bool := true
  deriving DecidableEq, Repr

/-- A shard of a model (R148) with the column of its anchor (R154). -/
structure Shard where
  weightOffset : BitVec 32 := 0
  weightBytes : BitVec 32 := 0
  work : BitVec 8 := 0
  anchor : Nat := 0
  /-- the logical tile of the anchor at registration: a SAFETY shard is assigned to it -/
  home : Nat := 0
  weights : List Byte := []
  deriving DecidableEq, Repr

/-- A step entry (R149). -/
structure ModelStep where
  kind : BitVec 4 := 0
  shard : BitVec 5 := 0
  waitCtr : BitVec 4 := 0
  waitEn : Bool := false
  signalEn : Bool := false
  signalCtr : BitVec 4 := 0
  waitTarget : BitVec 32 := 0
  signalValue : BitVec 32 := 0
  /-- the 48-byte parameter block at PARAM_OFFSET -/
  params : Params := 0
  deriving DecidableEq, Repr

/-- What calibration keeps of a single-shard SAFETY model (R450): the copied sounding input, a band
(lo, hi as FP32) for each output element, and CAL_WAVES. -/
structure Calibration where
  input : List Byte := []
  bands : List (BitVec 32 × BitVec 32) := []
  calWaves : Nat := 0
  deriving DecidableEq, Repr

/-- A registered model (R148, R154); key of the table is berth × 1024 + handle. -/
structure Model where
  valid : Bool := false
  safety : Bool := false
  rerunOk : Bool := false
  shards : List Shard := []
  io : List TensorHeader := []
  inputs : Nat := 0
  steps : List ModelStep := []
  imageLen : BitVec 32 := 0
  weightAddr : BitVec 40 := 0
  digest : BitVec 256 := 0
  /-- the copied image, and the units of the image pool that hold it (R154, R186) -/
  image : List Byte := []
  units : List Nat := []
  /-- frames that hold the weight copies, shard by shard (R154) -/
  frames : List Nat := []
  calibration : Option Calibration := none
  deriving DecidableEq, Repr

/-- SET_RESIDENCY (R157). -/
structure Residency where
  hotSet : Bool := false
  hotShare : BitVec 8 := 0x80
  deriving DecidableEq, Repr

/-- The configured part of a raster context (R223). -/
structure RasterCtx where
  valid : Bool := false
  compositor : Bool := false
  berth : BitVec 6 := 0
  basin : BitVec 10 := 0
  eventQueue : BitVec 18 := 0
  binVa : BitVec 40 := 0
  binPages : BitVec 24 := 0
  weirTimeout : BitVec 16 := 0
  /-- the lock cycles that created the context and that last grew its bin memory -/
  made : Nat := 0
  grown : Nat := 0
  deriving DecidableEq, Repr

/-- DISPLAY_CONFIGURE (R292). The manual gives these fields no reset value; ENABLE is 0 (off). -/
structure DisplayCfg where
  enable : Bool := false
  rgb101010 : Bool := false
  cphy : Bool := false
  lanes : BitVec 3 := 0
  hActive : BitVec 16 := 0
  hTotal : BitVec 16 := 0
  vActive : BitVec 16 := 0
  vTotal : BitVec 16 := 0
  hSync : BitVec 16 := 0
  vSync : BitVec 16 := 0
  frameNs : BitVec 32 := 0
  phaseNs : BitVec 32 := 0
  laneRate : BitVec 16 := 0
  /-- the lock cycle that configured the output: it restarts there -/
  made : Nat := 0
  deriving DecidableEq, Repr

/-- STREAM_CONFIG (R329). -/
structure StreamCfg where
  enable : Bool := false
  lidar : Bool := false
  port : BitVec 4 := 0
  vc : BitVec 5 := 0
  dt : BitVec 6 := 0x2B
  trigger : BitVec 5 := 0
  fnWrap : BitVec 16 := 65535
  fnOffset : BitVec 10 := 0
  fnBe : Bool := false
  expect : BitVec 32 := 0
  captureOffset : BitVec 32 := 0
  bufAddr : BitVec 40 := 0
  bufCount : BitVec 8 := 4
  bufSize : BitVec 16 := 0x10
  linePitch : BitVec 16 := 0
  sofOffset : BitVec 10 := 0
  sofMask : BitVec 8 := 0
  sofValue : BitVec 8 := 0
  udpPort : BitVec 16 := 0
  segPackets : BitVec 10 := 0x40
  embLines : BitVec 8 := 0
  deriving DecidableEq, Repr

/-- TRIGGER_CONFIG (R326). -/
structure TriggerCfg where
  enable : Bool := false
  polarity : Bool := false
  period : BitVec 32 := 50000
  phase : BitVec 32 := 0
  width : BitVec 16 := 100
  /-- the lock cycle that configured the trigger: its pulses follow it -/
  made : Nat := 0
  deriving DecidableEq, Repr

/-- CSI_RX_CONFIG. -/
structure CsiRxCfg where
  cphy : Bool := false
  lanes : BitVec 3 := 0
  rate : BitVec 16 := 0
  deriving DecidableEq, Repr

/-- CSI_TX_CONFIG (R341). -/
structure CsiTxCfg where
  enable : Bool := false
  memory : Bool := false
  lanes : BitVec 3 := 4
  rate : BitVec 16 := 2500
  srcPort : BitVec 4 := 0
  deriving DecidableEq, Repr

/-- I3C_CONFIG (R559): rates, the in-band interrupt queue and the packet whose result area the
in-band interrupt records use (R376). -/
structure I3cCfg where
  sdrKhz : BitVec 16 := 0
  i2cKhz : BitVec 16 := 0
  ibiQueue : BitVec 18 := 0
  owner : Option Cmd := none
  /-- the generation of that packet, and the lock cycle that configured the bus -/
  gen : BitVec 16 := 0
  made : Nat := 0
  deriving DecidableEq, Repr

/-- FUSION_GROUP_CONFIG (R348). -/
structure GroupCfg where
  enable : Bool := false
  berth : BitVec 6 := 0
  intake : BitVec 12 := 0x100
  period : BitVec 32 := 50000
  phase : BitVec 32 := 0
  close : BitVec 32 := 20000
  blockAddr : BitVec 40 := 0
  blockCount : BitVec 8 := 4
  blockSize : BitVec 16 := 0x10
  confirm : BitVec 8 := 3
  drop : BitVec 8 := 5
  tableAddr : BitVec 40 := 0
  deriving DecidableEq, Repr

/-- FUSION_STREAM_CONFIG (R350). -/
structure FusionStreamCfg where
  join : Bool := false
  group : BitVec 2 := 0
  project : Bool := false
  ptFmt : BitVec 2 := 0
  ptOffset : BitVec 10 := 0
  ptStride : BitVec 8 := 12
  winLo : BitVec 32 := BitVec.ofInt 32 (-5000)
  winHi : BitVec 32 := 15000
  deriving DecidableEq, Repr

/-- A projection pair with its calibration block (R357): M0 to M11, FX, FY, CX, CY as FP32. -/
structure PairCfg where
  valid : Bool := false
  lidar : BitVec 5 := 0
  camera : BitVec 5 := 0
  w : BitVec 16 := 0
  h : BitVec 16 := 0
  cal : List (BitVec 32) := []
  deriving DecidableEq, Repr

/-- TIME_DOMAIN_CONFIG (R308); DOMAIN_NUMBER is 0 for A and 1 for B. -/
structure DomainCfg where
  enable : Bool := false
  source : BitVec 2 := 0
  peer : BitVec 2 := 0
  domainNumber : BitVec 8 := 0
  logSync : BitVec 4 := 0xD
  syncLoss : BitVec 4 := 3
  kp : BitVec 16 := 0x400
  ki : BitVec 16 := 0x40
  stepNs : BitVec 32 := 1000
  lockNs : BitVec 16 := 100
  lockCount : BitVec 8 := 8
  freqLimit : BitVec 16 := 20000
  holdMs : BitVec 16 := 1000
  deriving DecidableEq, Repr

/-- TIME_PORT_CONFIG (R307). -/
structure TimePortCfg where
  roleA : BitVec 2 := 0
  roleB : BitVec 2 := 0
  logPdelay : BitVec 4 := 0
  nbrThresh : BitVec 16 := 800
  asym : BitVec 32 := 0
  txPhy : BitVec 32 := 0
  rxPhy : BitVec 32 := 0
  deriving DecidableEq, Repr

/-- The configured part of a Gauge entry (R446) with the physical address Veldon resolved (R448). -/
structure GaugeCfg where
  valid : Bool := false
  mooring : Bool := false
  cls : BitVec 16 := 0
  deadline : BitVec 32 := 0
  stampVa : BitVec 40 := 0
  stampPa : BitVec 48 := 0
  /-- the lock cycle that set the Gauge: it starts afresh there -/
  made : Nat := 0
  deriving DecidableEq, Repr

/-- SOUNDING_SET (R451). -/
structure SoundingCfg where
  group : BitVec 2 := 0
  enable : Bool := false
  fttiMs : BitVec 16 := 100
  offset : BitVec 32 := 0
  window : BitVec 32 := 1000
  slotWaves : BitVec 32 := 0
  resGranules : BitVec 8 := 0
  models : List (BitVec 10) := []
  count : BitVec 5 := 0
  deriving DecidableEq, Repr

/-- The whole shadow configuration (R69): every table that a configuration command writes. Keys are
the numbers the manual gives the objects. -/
structure Shadow where
  /-- key: physical tile -/
  tiles : Tab TileKind := []
  policy : PowerPolicy := {}
  basins : Tab BasinDesc := []
  cuts : Tab CutEntry := []
  xlat : Tab XlatEntry := []
  /-- key: frame number, device physical address [47:16] -/
  frames : Tab FrameState := []
  /-- key: berth; the last column of the berth's spread allocations plus one, 0 for none yet (R217) -/
  spreadNext : Tab Nat := []
  /-- key: berth × 1024 + basin; the logical tile last used plus one, 0 for none yet (R217) -/
  basinNext : Tab Nat := []
  berths : Tab BerthDesc := []
  /-- key: berth; the wanted next state of R406 when BERTH_RESET or BERTH_DESTROY is in this shadow -/
  genRaise : Tab Nat := []
  grants : Tab HostGrant := []
  queues : Tab QueueDesc := []
  /-- key: berth × 64 + slot -/
  programs : Tab Program := []
  /-- key: berth × 1024 + handle -/
  models : Tab Model := []
  residency : Tab Residency := []
  rasterCtx : Tab RasterCtx := []
  /-- key: berth × 1024 + handle; the 128-byte block, none when free -/
  rasterState : Tab (Option (BitVec 1024)) := []
  displays : Tab DisplayCfg := []
  streams : Tab StreamCfg := []
  triggers : Tab TriggerCfg := []
  csiRx : Tab CsiRxCfg := []
  csiTx : Tab CsiTxCfg := []
  i3c : Tab I3cCfg := []
  groups : Tab GroupCfg := []
  fusionStreams : Tab FusionStreamCfg := []
  pairs : Tab PairCfg := []
  domainA : DomainCfg := {}
  domainB : DomainCfg := { domainNumber := 1 }
  timePorts : Tab TimePortCfg := []
  selected : Bool := false
  auto : Bool := true
  gauges : Tab GaugeCfg := []
  sounding : SoundingCfg := {}
  /-- the device is running, that is out of the service state (R399, R500) -/
  running : Bool := false
  /-- logical numbers that a retirement has ended (R69, R476) -/
  ceased : BitVec 36 := 0
  /-- QUEUE_RESUME commands of this shadow: 1, or 2 with DISCARD (R180); consumed at the commit edge -/
  resumes : Tab Nat := []
  deriving DecidableEq, Repr

end Sys2Proof.Machine
end

