-- ==== Sys2Proof/Machine/ProtoTypes.lean ====
section
/-! DEFINITION. What the device holds of packets in progress: queues, mailboxes, the supervisor's I3C
target port, the accepted commands of a lock cycle, memory and its line errors, error records and the
interrupt files of the harts. -/

namespace Sys2Proof.Machine

/-- The fields of a queue descriptor that move between lock cycles (R163), with the slots reserved for
records not yet written (R166) and the SEQ that R373 expects next (none: any). -/
structure QueueDyn where
  faulted : Bool := false
  prod : BitVec 21 := 0
  cons : BitVec 21 := 0
  overrun : BitVec 16 := 0
  faultSeq : BitVec 32 := 0
  lost : BitVec 16 := 0
  reserved : Nat := 0
  expSeq : Option (BitVec 32) := none
  /-- untaken commands that a QUEUE_RESUME with DISCARD 1 still has to cancel (R180) -/
  toCancel : Nat := 0
  /-- working-clock time at which the oldest untaken entry became the oldest, 2^-16 ns (R172) -/
  headSince : Nat := 0
  /-- SEQ of the oldest untaken command and the leaf that its composite basin was resolved to (R168) -/
  headLeaf : Option (BitVec 32 × Nat) := none
  deriving DecidableEq, Repr

/-- The states of a mailbox (R388), with the encodings 0 to 3. -/
inductive MbState where
  | empty | posted | taken | replied
  deriving DecidableEq, Repr

/-- A mailbox (R388): both slots, keyed by byte offset, the STATUS fields, the negotiated set of its
berth or of the supervisor (R398), and the SEQ expected next (R373). -/
structure Mailbox where
  state : MbState := .empty
  inb : Tab Byte := []
  outb : List Byte := []
  overrun : BitVec 16 := 0
  negotiated : Bool := false
  features : BitVec 64 := 0
  expSeq : Option (BitVec 32) := none
  deriving DecidableEq, Repr

/-- The supervisor's I3C target port (R391 to R393). -/
structure I3cTarget where
  dynAddr : Option (BitVec 7) := none
  /-- in-band interrupts enabled (ENEC and DISEC, event bit 0) -/
  ibiOn : Bool := true
  /-- the index byte selected for the next private read -/
  index : Option Byte := none
  /-- mandatory bytes of in-band interrupts requested and not yet sent, oldest first -/
  ibis : List Byte := []
  /-- the bytes that the last read or GET command code returned, none after a NACK -/
  reply : Option (List Byte) := none
  deriving DecidableEq, Repr

/-- A packet that was accepted and whose record is still to be written: its opcode, the packet, and
the GEN its record carries (R375). -/
structure Ticket where
  opcode : BitVec 16
  cmd : Cmd
  gen : BitVec 16
  /-- the completion queue in which the slot of its record is reserved (R166) -/
  cq : BitVec 18 := 0
  /-- what a configuration command read from memory at its check, once (R99, R131, R154, R227, R357) -/
  data : List Byte := []
  deriving DecidableEq, Repr

/-- A result block of up to 64 bytes (R376): its length 16, 32 or 64, and its bits. -/
structure Result where
  len : Nat := 16
  bits : Nat := 0
  deriving DecidableEq, Repr

/-- A memory command whose entries commit over several lock cycles (R219). -/
structure LongMap where
  ticket : Ticket
  /-- it changes at most 4,096 entries, all in one cycle that has room for them (R199) -/
  whole : Bool := false
  berth : BitVec 6
  todo : List (Nat × XlatEntry)
  result : Result
  deriving DecidableEq, Repr

/-- Where the lock cycle stands (R69). -/
inductive LockPhase where
  | idle | closed | committed
  deriving DecidableEq, Repr

/-- What the retirement of a physical tile did (R476): the logical number it carried, the physical tile that took it,
and the performance-pool number that ceased when its tile was taken. -/
structure Retirement where
  tile : Nat
  logical : Option Nat := none
  heir : Option Nat := none
  taken : Option Nat := none
  deriving DecidableEq, Repr

/-- The lock cycle unit (R69 to R74): its number, the open shadow that commands change, the shadow that
closed, the commands of each in acceptance order, and what waits for the next close. -/
structure Lock where
  number : BitVec 64 := 0
  phase : LockPhase := .idle
  opn : Shadow := {}
  openCmds : List Ticket := []
  /-- those of them that R200 and R219 keep from being checked yet -/
  waiting : List Ticket := []
  staged : Shadow := {}
  stagedCmds : List (Ticket × Result) := []
  longMaps : List LongMap := []
  /-- configuration N, kept until it is freed (R71) -/
  prev : Option Shadow := none
  /-- registrations of SAFETY models whose shards are not all loaded: the record to write, and the model's key (R154) -/
  loading : List (Ticket × Result × Nat) := []
  /-- the time by which the shadow has to close (R74) -/
  closeBy : Option Nat := none
  /-- the time of the last commit edge (R21) -/
  lastEdge : Nat := 0
  /-- physical tiles to retire at the next close (R476) -/
  retireTiles : List Nat := []
  /-- frames to retire at the next close (R470) -/
  retireFrames : List Nat := []
  /-- translation entries whose line was lost in both copies (R472) -/
  lostEntries : List Nat := []
  /-- BERTH_DESTROY commands that wait for their berth to become FREE (R407) -/
  destroys : List Ticket := []
  /-- berths whose translation range is void (R200); the flag: the stored entries are cleared -/
  voids : Tab (Option Bool) := []
  /-- what the closed cycle commits: void marks that clear, tiles and frames retired -/
  clearing : List Nat := []
  retirements : List Retirement := []
  goneFrames : List Nat := []
  deriving DecidableEq, Repr

/-- Device memory (R183): the bytes of the data symbols, and for each 64-byte line the difference
between the codeword stored and the codeword of those bytes (R190). -/
structure Memory where
  bytes : Tab Byte := []
  errs : Tab (BitVec 544) := []
  deriving DecidableEq, Repr

/-- An error record (R477), without its number. -/
structure ErrRec where
  kind : BitVec 4
  source : BitVec 3
  ctxValid : Bool := false
  unit : BitVec 6 := 0
  symbol : BitVec 7 := 0x7F
  berth : BitVec 6 := 0
  gen : BitVec 16 := 0
  queue : BitVec 18 := 0
  seq : BitVec 32 := 0
  addr : BitVec 48 := 0
  count : BitVec 16 := 0
  time : BitVec 80 := 0
  lockCycle : BitVec 64 := 0
  deriving DecidableEq, Repr

/-- A running count of one line's corrections or one lane's replays in the current second (R477). -/
structure SecCount where
  unit : BitVec 6 := 0
  source : BitVec 3 := 0
  ctxValid : Bool := false
  berth : BitVec 6 := 0
  gen : BitVec 16 := 0
  queue : BitVec 18 := 0
  seq : BitVec 32 := 0
  symbol : BitVec 7 := 0x7F
  count : Nat := 0
  first : BitVec 80 := 0
  lockCycle : BitVec 64 := 0
  deriving DecidableEq, Repr

/-- The correction history of one column (R471) with its spare rows per die. -/
structure Column where
  /-- line number and working-clock time of its last correction -/
  history : List (Nat × Nat) := []
  spared1 : Nat := 0
  spared2 : Nat := 0
  deriving DecidableEq, Repr

/-- A soft defect log entry (R499), without its number: KIND, SOURCE, UNIT, TIME, LOCK_CYCLE. -/
structure DefectEntry where
  kind : BitVec 2
  source : BitVec 2
  unit : BitVec 48
  time : BitVec 80 := 0
  lockCycle : BitVec 64 := 0
  deriving DecidableEq, Repr

/-- Error records and what Veldon keeps of faults (R467 to R480). -/
structure Errors where
  /-- key: record number; at most the last 524,288 -/
  ring : Tab (Option ErrRec) := []
  nextNumber : Nat := 0
  /-- key: line number (device physical address / 64) -/
  lineSecs : Tab SecCount := []
  /-- key: port × 8 + lane -/
  laneSecs : Tab SecCount := []
  columns : Tab Column := []
  /-- frames marked: the home answers every access with an error (R470) -/
  badFrames : Tab Bool := []
  defects : List DefectEntry := []
  /-- both copies of Veldon code or data were uncorrectable: no lock cycle commits (R472) -/
  veldonHalted : Bool := false
  /-- models whose bands or sounding input were lost in both copies (R472): berth × 1024 + handle -/
  lostBands : List Nat := []
  deriving DecidableEq, Repr

/-- A line in a prefetch buffer (R204, R521): its context, the line, the stamp of the read that caused it; `data` for a
line of another device once it has arrived, with the working-clock time of that. -/
structure PrefLine where
  job : Nat
  line : Nat
  stamp : Nat
  arrived : Bool := true
  data : List Byte := []
  time : Nat := 0
  deriving DecidableEq, Repr

/-- What a requester was answered (R206, R209, R213): the data of a read or the old value of an atomic,
or an address fault, or an uncorrectable error. -/
inductive Answer where
  | data (bytes : List Byte)
  | done
  | addressFault
  | uncorrectable
  deriving DecidableEq, Repr

/-- A berth's interrupt target (R533). -/
structure IntTarget where
  valid : Bool := false
  hart : BitVec 5 := 0
  file : BitVec 4 := 0
  base : BitVec 11 := 0
  deriving DecidableEq, Repr

/-- The harts (R530): KBERTH and the allow mask of each, the berths' interrupt targets, and the pending
identities of each interrupt file, keyed (hart × 16 + file) × 2048 + identity. -/
structure Cores where
  kberth : Tab (BitVec 6) := []
  allow : Tab (BitVec 64) := []
  targets : Tab IntTarget := []
  pending : Tab Bool := []
  /-- key: hart; the exception that its last access or KBERTH access raised: 1 virtual instruction, 2 illegal
  instruction, 3 access fault (R532), 0 none -/
  traps : Tab (BitVec 2) := []
  /-- key: hart; the local line it has reserved by a load-reserved, plus one -/
  reservations : Tab Nat := []
  deriving DecidableEq, Repr

end Sys2Proof.Machine
end

