-- ==== Sys2Proof/Machine/IslandTypes.lean ====
section
/-! DEFINITION. What timekeeping, Lockkeeper and the safety monitors hold. Times are counts of 2^-48 ns
(the hidden unit of R301) unless a field says otherwise; 80-bit times are counts of 2^-16 ns (R300). -/

namespace Sys2Proof.Machine

/-- The states of a time domain (R309), codes 0 to 5. -/
inductive DomState where
  | disabled | acquiring | locked | holdover | lost | grandmaster
  deriving DecidableEq, Repr

/-- A time domain (R308 to R310). Frequencies are in units of 2^-24 ppb, theta in 2^-16 ns. -/
structure DomainDyn where
  clock : Nat := 0
  f : Int := 0
  integ : Int := 0
  state : DomState := .disabled
  good : Nat := 0
  theta : Int := 0
  diverged : Bool := false
  stratum : BitVec 4 := 0xF
  missed : BitVec 16 := 0
  /-- working-clock time from which the next SYNC_LOSS count runs -/
  lastSync : Nat := 0
  /-- when HOLDOVER was entered -/
  heldSince : Nat := 0
  deriving DecidableEq, Repr

/-- A time stamp: corrected samples of the domain A clock, the domain B clock and the working clock on one tick (R305), in
units of 2^-16 ns. -/
structure TimeStamp where
  a : Int := 0
  b : Int := 0
  wc : Int := 0
  deriving DecidableEq, Repr

/-- A message that a master port sent for a domain: a Sync, or the Follow_Up that carries the Sync's egress stamp as its
origin (R304). -/
structure SyncOut where
  domain : Fin 2
  origin : Option Int := none
  stamp : TimeStamp := {}
  deriving DecidableEq, Repr

/-- A gateway Ethernet port's time status (R306, R320). -/
structure TimePortDyn where
  txPath : BitVec 16 := 0
  rxPath : BitVec 16 := 0
  /-- mean link delay, in units of 2^-16 ns -/
  linkDelay : Int := 0
  asCapable : Bool := false
  linkUp : Bool := false
  measurePending : Bool := false
  /-- neighborRateRatio - 1, in units of 2^-8 ppb -/
  rateRatio : Int := 0
  /-- measured paths that apply from the next lock cycle (R306) -/
  newPaths : Option (BitVec 16 × BitVec 16) := none
  /-- TIME_PORT_MEASURE commands whose values apply, and which complete, at the next lock cycle -/
  measures : List Ticket := []
  /-- Sync and Follow_Up messages sent on the port, newest first (R304) -/
  syncs : List SyncOut := []
  /-- working-clock times of the last Sync sent for each domain, plus one, and of the last Pdelay exchange (R304) -/
  sentA : Nat := 0
  sentB : Nat := 0
  lastPdelay : Nat := 0
  deriving DecidableEq, Repr

/-- Timekeeping (R299 to R320). -/
structure TimeState where
  wc : Nat := 0
  /-- ticks of the timing clock since the last edge of the 25 MHz reference, 0 to 9 (R299) -/
  refPhase : Nat := 0
  /-- the working clock's frequency adjustment -/
  wcF : Int := 0
  domA : DomainDyn := {}
  domB : DomainDyn := {}
  /-- the offset frequency w of R313 -/
  w : Int := 0
  acquired : Bool := false
  /-- the device has left the service state unacquired: its working clock never steps (R312) -/
  neverSteps : Bool := false
  slewing : Bool := false
  offsetHeld : Bool := false
  doubtArmed : Bool := false
  timeDoubt : Bool := false
  tcxoFault : Bool := false
  /-- consecutive 100 us windows outside 500 ppm (R316) -/
  tcxoRun : Nat := 0
  /-- time of the last run of R313 -/
  lastSlew : Nat := 0
  ports : Tab TimePortDyn := []
  /-- key: peer device; the last beacon sent and the link delay of its exchange (R317) -/
  beacons : Tab (Nat × Int) := []
  deriving DecidableEq, Repr

/-- The states of a lockstep pair (R442). -/
inductive PairState where
  | healthy | fenced | failed
  deriving DecidableEq, Repr

/-- The unmatched tokens of one output channel of a pair, oldest first, each with the island time at
which it was produced; they all come from one copy (R428). -/
structure TokenQueue where
  leadB : Bool := false
  toks : List (Token × Nat) := []
  deriving DecidableEq, Repr

/-- An input token that both copies take before instruction `at` retires (R433). -/
structure InEvent where
  kind : IslandInput
  payload : BitVec 64
  takeAt : Nat
  deriving DecidableEq, Repr

/-- One lockstep pair (R424 to R438). -/
structure PairDyn where
  state : PairState := .healthy
  cause : BitVec 4 := 0
  channel : BitVec 3 := 0
  /-- the level of ISL_BEAT[p] and the island time of the last beat write -/
  beat : Bool := false
  lastBeat : Nat := 0
  /-- key: channel 0 to 4 -/
  chans : Tab TokenQueue := []
  /-- tokens released to their targets, newest first -/
  released : List Token := []
  /-- read-port addresses released and not yet answered, oldest first -/
  reads : List (BitVec 48) := []
  /-- responses and other input tokens handed to both copies, newest first; none is an error -/
  inputs : List (Option (List Byte)) := []
  events : List InEvent := []
  retiredA : Nat := 0
  retiredB : Nat := 0
  /-- both copies are halted by debug, since this island time (R438) -/
  halted : Option Nat := none
  /-- the answer of the last debug read; none inside is an error -/
  debugRead : Option (Option (BitVec 64)) := none
  deriving DecidableEq, Repr

/-- A mooring plan entry (R459). -/
structure PlanEntry where
  tOffset : BitVec 32 := 0
  channel : BitVec 2 := 0
  final : Bool := false
  stream : BitVec 5 := 0
  length : BitVec 8 := 0
  repeatMs : BitVec 16 := 0
  frame : List Byte := []
  deriving DecidableEq, Repr

/-- A mooring plan (R459); VALIDITY in units of 2^-16 ns. -/
structure Plan where
  horizon : BitVec 32 := 0
  validity : Nat := 0
  entries : List PlanEntry := []
  deriving DecidableEq, Repr

/-- A frame that left one of the island's channels (R423, R461). -/
structure IslandTx where
  channel : BitVec 2
  stream : BitVec 5
  frame : List Byte
  time : Nat
  deriving DecidableEq, Repr

/-- Lockkeeper (R418 to R442). -/
structure Island where
  /-- ISL_PWRGD -/
  powered : Bool := false
  /-- the island reached step 8 of R439 -/
  operational : Bool := false
  split : Bool := false
  pair0 : PairDyn := {}
  pair1 : PairDyn := {}
  roleMonitor : Fin 2 := 0
  rolePlayout : Fin 2 := 1
  /-- a takeover of R424 under way: it ends when ROLE_TAKEOVER arrives -/
  takeover : Bool := false
  time : Nat := 0
  disciplined : Bool := false
  /-- what its timer added at the last tick: the steered frequency (R419) -/
  rate : Nat := 4 * 2 ^ 48
  paceLow : Bool := false
  pace : BitVec 16 := 0
  tj : BitVec 16 := 0
  lowRun : Nat := 0
  okRun : Nat := 0
  imageSlot : Bool := false
  fwVersion : BitVec 32 := 0
  digest : BitVec 256 := 0
  maxLead : BitVec 16 := 0
  maxWait : BitVec 16 := 0
  watchdogOff : Bool := false
  /-- island SRAM, keyed by island address (R431) -/
  sram : Tab Byte := []
  /-- frames sent on the owned channels, newest first -/
  sent : List IslandTx := []
  deriving DecidableEq, Repr

/-- The states of a Gauge (R446). -/
inductive GaugeRun where
  | free | watching | expired
  deriving DecidableEq, Repr

/-- The running part of a Gauge (R446, R449); times in units of 2^-16 ns. -/
structure GaugeDyn where
  state : GaugeRun := .free
  expireAt : Nat := 0
  lastValidity : Nat := 0
  expiries : BitVec 16 := 0
  badStamps : BitVec 16 := 0
  /-- a stamp read is outstanding since this island time -/
  readSince : Option Nat := none
  /-- island time of the last poll of an expired Gauge -/
  lastPoll : Nat := 0
  deriving DecidableEq, Repr

/-- A sounding in progress (R453, R454). -/
structure SoundingRun where
  instant : Nat
  handle : BitVec 10
  /-- logical tile -/
  tile : Nat
  /-- R(i), working clock -/
  release : Nat
  started : Bool := false
  rerun : Bool := false
  /-- the number of the sounding's job -/
  job : Nat := 0
  deriving DecidableEq, Repr

/-- A sounding mismatch that is not yet clear (R444): its model and physical tile. -/
structure Mismatch where
  handle : BitVec 10
  tile : Nat
  otherPassed : Bool := false
  tilePassed : Bool := false
  deriving DecidableEq, Repr

/-- A checker (R455): the time of its last passed test. -/
structure CheckerDyn where
  lastPass : Nat := 0
  failed : Bool := false
  /-- the last squall check or SELF_TEST failed (R501 check 3) -/
  unfit : Bool := false
  deriving DecidableEq, Repr

/-- A waiting drizzle request (R458): SELF_TEST of a checker, TIME_PORT_MEASURE of a port, or the
test that R475 queues for a tile's checker. -/
inductive DrizzleReq where
  | selfTest (t : Ticket) (checker : Nat)
  | measure (t : Ticket) (port : Nat)
  | tileTest (checker : Nat)
  deriving DecidableEq, Repr

/-- A drizzle slice in progress (R457). -/
structure Slice where
  checker : Nat
  req : Option DrizzleReq
  at16 : Nat
  /-- checkers still to test, and the first that failed: SELF_TEST of all in the service state -/
  rest : List Nat := []
  bad : Option Nat := none
  deriving DecidableEq, Repr

/-- The doubt latch and every monitor that reports to it (R443 to R464). -/
structure Safety where
  latch : Bool := true
  noPlan : Bool := false
  playing : Bool := false
  /-- sources raised and not clear -/
  sources : BitVec 10 := 0
  seen : BitVec 10 := 0
  first : BitVec 4 := 0
  /-- island time of the last set, 2^-16 ns -/
  setAt : Nat := 0
  gauge : BitVec 12 := 0
  gaugeSeen : Bool := false
  releases : BitVec 16 := 0
  gauges : Tab GaugeDyn := []
  passed : BitVec 32 := 0
  mismatched : BitVec 16 := 0
  missed : BitVec 16 := 0
  lastModel : BitVec 10 := 0
  lastTile : BitVec 6 := 0
  lastElement : BitVec 32 := 0
  sounding : Option SoundingRun := none
  /-- the instant of the last sounding released -/
  soundingLast : Option Nat := none
  mismatches : List Mismatch := []
  /-- uncorrectable reads of safety contexts not yet cleared: frame, and whether the context still runs -/
  uncorrectable : List (Nat × Bool) := []
  checkers : Tab CheckerDyn := []
  requests : List DrizzleReq := []
  /-- checkers whose tile request found the queue full (R475) -/
  tileWaiting : List Nat := []
  slice : Option Slice := none
  /-- self-tests of the service state that wait for the slice in progress: ticket and TARGET (R458) -/
  serviceTests : List (Ticket × Nat) := []
  lastSlot : Nat := 0
  deferrals : BitVec 16 := 0
  failedIndex : BitVec 7 := 0x7F
  activePlan : Option Plan := none
  stagedPlan : Option Plan := none
  newestPlan : Option Nat := none
  /-- a plan has been staged since the latch last set (R445) -/
  stagedSince : Bool := false
  /-- playout: the plan being played, the set time, and the entries sent -/
  playPlan : Option Plan := none
  playFrom : Nat := 0
  playSent : List Nat := []
  /-- key: channel × 32 + stream; the time of the last sending of a FINAL entry -/
  finals : Tab (Option Nat) := []
  hbArmed : Bool := false
  hbCounter : Option (BitVec 32) := none
  /-- the heartbeat deadline that has not passed yet, 2^-16 ns -/
  hbDeadline : Option Nat := none
  hbInTurn : Nat := 0
  deriving DecidableEq, Repr

end Sys2Proof.Machine
end

