-- ==== Sys2Proof/Machine/SystemTypes.lean ====
section
/-! DEFINITION. What bring-up, Isgal, the gateway and the PCIe root port hold (chapters 18 to 21). -/

namespace Sys2Proof.Machine

/-- A licence token as stored (R505): whether its key and signature are valid, and its 128-byte body. -/
structure Licence where
  signed : Bool := false
  body : BitVec 1024 := 0
  deriving DecidableEq, Repr

/-- A flash image slot (R504, R440): whether key and signature are valid, the 64-byte header, the whole
image and its SHA-256. -/
structure ImageSlot where
  signed : Bool := false
  header : BitVec 512 := 0
  image : List Byte := []
  digest : BitVec 256 := 0
  deriving DecidableEq, Repr

/-- What a flash write in progress stores (R506). -/
inductive FlashJob where
  | licence (t : Ticket) (token : Licence)
  | firmware (t : Ticket) (image : ImageSlot) (raise : Bool)
  | chunk (t : Ticket)
  deriving DecidableEq, Repr

/-- The fuses (R510): what manufacture wrote; the manual gives their layout and not their values. -/
structure Fuses where
  uid : BitVec 128 := 0
  stepping : BitVec 8 := 0
  tileBad : BitVec 36 := 0
  laneBad : BitVec 48 := 0
  /-- column, die, row -/
  rowList : List (Nat × Bool × BitVec 17) := []
  fwKey : BitVec 256 := 0
  licKey : BitVec 256 := 0
  rollbackFloor : BitVec 6 := 0
  crcOk : Bool := true
  deriving DecidableEq, Repr

/-- The warm-valid record (R495): the map, failure counts, spare rows and retired frames, with the lock
cycle and COLD_ID it carries. -/
structure WarmRecord where
  lockCycle : BitVec 64 := 0
  coldId : BitVec 64 := 0
  tiles : Tab TileKind := []
  /-- key: physical tile; failure count, SUSPECT follows -/
  failures : Tab Nat := []
  /-- key: column; spare rows used on die 1 and die 2 -/
  spared : Tab (Nat × Nat) := []
  /-- frames retired -/
  frames : List Nat := []
  deriving DecidableEq, Repr

/-- Bring-up (R484 to R510). -/
structure Bring where
  /-- the grade in force: that of the token, A before any start -/
  grade : BitVec 2 := 0
  devId : BitVec 2 := 0
  boardN : BitVec 2 := 0
  i3cAddr : BitVec 3 := 0
  step : BitVec 4 := 2
  path : BitVec 2 := 0
  ready : Bool := false
  overflow : Bool := false
  fwSlot : Bool := false
  capacityClass : BitVec 3 := 0
  haltCause : BitVec 4 := 0
  goodTiles : BitVec 6 := 0
  failedColumn : BitVec 6 := 0
  testBad : BitVec 36 := 0
  checkersFailed : BitVec 4 := 0
  isgalRefused : BitVec 6 := 0
  refuseCause : BitVec 2 := 0
  rowsSpared : BitVec 16 := 0
  framesRetired : BitVec 16 := 0
  readyMs : BitVec 16 := 0
  /-- a lock cycle has committed since the start (R508) -/
  cycled : Bool := false
  /-- the Veldon image that runs -/
  image : ImageSlot := {}
  fuses : Fuses := {}
  /-- the token in force, and the one the island took at its start (R505) -/
  licence : Option Licence := none
  islandLicence : Option Licence := none
  /-- boot flash: two image slots, the preferred one, two token slots; and the island's flash -/
  slot0 : ImageSlot := { signed := true }
  slot1 : ImageSlot := {}
  preferred : Bool := false
  token0 : Licence := { signed := true, body := 0x100010001 }
  token1 : Licence := {}
  islandSlot0 : ImageSlot := { signed := true }
  islandSlot1 : ImageSlot := {}
  islandToken0 : Licence := { signed := true, body := 0x100010001 }
  islandToken1 : Licence := {}
  /-- flash writes, the first in progress, and the OFFSET of the last recovery chunk accepted (R507) -/
  flash : List FlashJob := []
  lastChunk : Option Nat := none
  coldId : BitVec 64 := 0
  /-- the two copies of the warm-valid record -/
  warm0 : Option WarmRecord := none
  warm1 : Option WarmRecord := none
  /-- every column's REFRESH_KEPT bit (R496) -/
  refreshKept : Bool := false
  deriving DecidableEq, Repr

/-- Isgal port states (R513). -/
inductive PortRun where
  | down | training | up
  deriving DecidableEq, Repr

/-- An Isgal port (R512 to R516, R527). -/
structure PortDyn where
  state : PortRun := .down
  cause : BitVec 3 := 0
  peer : BitVec 2 := 0
  peerPort : BitVec 3 := 0
  lanes : BitVec 8 := 0
  replays : BitVec 32 := 0
  lockRetries : BitVec 16 := 0
  lockTimeouts : BitVec 16 := 0
  peerDrops : BitVec 16 := 0
  rxSeq : BitVec 16 := 0
  txSeq : BitVec 16 := 0
  /-- slots of the peer's pounds that this port's flits hold (R53, R54), keyed as `poundKey` of unit 0 -/
  slots : Tab Nat := []
  /-- flits sent and not yet acknowledged, oldest first, with who made each -/
  replay : List (BitVec 16 × IsgalTx × Option Requester) := []
  /-- lane and time of CRC failures of the last second -/
  laneFails : List (Nat × Nat) := []
  /-- consecutive replays of the oldest flit -/
  replayRun : Nat := 0
  /-- a NAK is owed to the peer -/
  nak : Bool := false
  /-- transactions received and not yet served, oldest first -/
  received : List IsgalTx := []
  /-- transactions sent to the peer, newest first -/
  sent : List IsgalTx := []
  /-- working-clock time of the last sign of the peer, 2^-16 ns -/
  heard : Nat := 0
  deriving DecidableEq, Repr

/-- A lock held at a column for a peer's locked sequence (R522). -/
structure ColLock where
  holder : BitVec 2
  line : Nat
  expiry : Nat
  port : Nat
  tag : BitVec 16
  deriving DecidableEq, Repr

/-- Where a prefetched line goes: the NI of a physical tile, or the bridge's buffer of a peer; context, line, stamp. -/
structure FillAt where
  tile : Option Nat := none
  job : Nat := 0
  line : Nat := 0
  stamp : Nat := 0
  deriving DecidableEq, Repr

/-- A request that waits at a column or an edge port: for the tile under the column to wake, for a lock to end, for a
credit, for an access of an earlier lock cycle, or behind one that waits (R44, R51, R54, R72, R202, R522). -/
structure HeldReq where
  /-- the column 0 to 35, or the edge port -/
  unit : Nat
  /-- the lock cycle of its admission (R52) -/
  stamp : Nat
  cls : PoundKind
  safety : Bool := false
  /-- the unit it comes from, and the line it names -/
  src : Nat
  line : Nat
  /-- berth and page of an access that is translated here -/
  page : Option (BitVec 6 × Nat) := none
  instr : Instr
  deriving DecidableEq, Repr

/-- A transaction to a peer that waits for a port, for a credit, or for room in a replay buffer (R54, R517). -/
structure WaitTx where
  dev : BitVec 2
  tx : IsgalTx
  owner : Option Requester := none
  stamp : Nat := 0
  deriving DecidableEq, Repr

/-- A LOCK_READ of this device: outstanding, waiting to be sent again, or granted (R522, R523). -/
structure OutLock where
  tag : BitVec 16
  peer : BitVec 2
  hart : Fin 24
  va : Nat
  tx : IsgalTx
  retries : Nat := 0
  /-- when the resend is due, if it waits -/
  resendAt : Option Nat := none
  granted : Bool := false
  /-- bytes asked for, and the port that the LOCK_READ left by -/
  len : Nat := 0
  port : Option Nat := none
  /-- the lock cycle of its admission (R52) -/
  stamp : Nat := 0
  deriving DecidableEq, Repr

/-- A request to a peer that waits for its completion (R515). -/
structure OutReq where
  tag : BitVec 16
  peer : BitVec 2
  reader : Option Requester := none
  va : Nat := 0
  tx : IsgalTx
  /-- a store-conditional: its completion says whether it wrote -/
  conditional : Bool := false
  /-- bytes asked for (of a flush, the write number it waits for), and the port that the request left by -/
  len : Nat := 0
  port : Option Nat := none
  /-- the lock cycle of its admission (R52), and whether its page is ordered-device (R202) -/
  stamp : Nat := 0
  ordered : Bool := false
  /-- the prefetch that its data fill (R204, R521) -/
  fill : Option FillAt := none
  deriving DecidableEq, Repr

/-- Isgal (R512 to R527). -/
structure Isgal where
  ports : Tab PortDyn := []
  /-- ports up at this lock cycle (R517) -/
  upSet : BitVec 6 := 0
  pollUs : BitVec 10 := 10
  /-- key: column -/
  colLocks : Tab (Option ColLock) := []
  /-- requests that wait at columns and edge ports, oldest first (R44, R51, R522) -/
  held : List HeldReq := []
  outLocks : List OutLock := []
  outs : List OutReq := []
  nextTag : BitVec 16 := 0
  /-- transactions that wait to leave, oldest first -/
  waiting : List WaitTx := []
  /-- write number of the last posted write committed here for a peer's berth (R207, R518); key
  (peer × 64 + berth) × 36 + column -/
  committed : Tab (BitVec 16) := []
  /-- the bridge's prefetched lines, keyed by peer (R521): at most 512, most recently used first -/
  bridge : Tab (List PrefLine) := []
  /-- key: peer; the time of the last side-band poll plus one, and whether its record is outstanding -/
  polled : Tab (Nat × Bool) := []
  /-- what the last record of each peer said; key: peer -/
  peerLock : Tab (BitVec 64) := []
  peerRunning : Tab Bool := []
  peerLatch : Tab Bool := []
  peerLive : Tab (BitVec 64) := []
  /-- NOTIFY words this device offers to each peer -/
  offer : Tab (BitVec 64) := []
  deriving DecidableEq, Repr

/-- A gateway channel (R534 to R541): CAN XL 0 to 7, Ethernet 8 to 15. -/
structure Channel where
  /-- the channel entry of the platform block -/
  entry : BitVec 256 := 0
  /-- transmit descriptors taken, modulo 4,096, and receive descriptors filled -/
  txCons : Nat := 0
  rxNext : Nat := 0
  /-- the ring frame on the bus, with its pin time -/
  sending : Option (List Byte × Nat) := none
  sentCount : BitVec 32 := 0
  refused : BitVec 16 := 0
  rxDrops : BitVec 16 := 0
  notSent : BitVec 16 := 0
  linkUp : Bool := false
  busOff : Bool := false
  deriving DecidableEq, Repr

/-- A setpoint class (R536 to R541). -/
structure SetpointClass where
  /-- the class entry of the platform block -/
  entry : BitVec 512 := 0
  sent : BitVec 32 := 0
  gated : BitVec 16 := 0
  stale : BitVec 16 := 0
  noPoint : BitVec 16 := 0
  faults : BitVec 16 := 0
  lastAge : BitVec 32 := 0
  lastPin : Nat := 0
  /-- COUNT of the last frame built -/
  count : BitVec 8 := 0
  /-- the slot (in microseconds) of the last read point, and the frame built for it with its age -/
  readFor : Option Nat := none
  built : Option (List Byte × Nat) := none
  deriving DecidableEq, Repr

/-- A non-posted request at the PCIe root port (R542): a read carries its requester, a write its data. -/
structure PcieReq where
  tag : Nat
  reader : Option Requester := none
  va : Nat := 0
  len : Nat := 0
  data : List Byte := []
  since : Nat
  /-- the berth it is made for, the lock cycle of its admission (R52), and whether its page is ordered-device (R202) -/
  berth : BitVec 6 := 0
  stamp : Nat := 0
  ordered : Bool := false
  fill : Option FillAt := none
  deriving DecidableEq, Repr

/-- The gateway and the PCIe root port (R528 to R543). -/
structure Gateway where
  /-- VERSION and CHECK of the platform block were right at the start (R529) -/
  valid : Bool := false
  channels : Tab Channel := []
  classes : Tab SetpointClass := []
  /-- key: MAC × 64 + entry -/
  gates : Tab (BitVec 64) := []
  /-- the eight requester ranges -/
  ranges : List (BitVec 64) := []
  /-- frames that left a channel, newest first: channel, frame, pin time -/
  sent : List (Nat × List Byte × Nat) := []
  requests : List PcieReq := []
  nextTag : Nat := 0
  /-- completions given to inbound PCIe requests, newest first; none is Unsupported Request -/
  answers : List (Option (List Byte)) := []
  deriving DecidableEq, Repr

end Sys2Proof.Machine
end

