-- ==== Sys2Proof/Machine/TileTypes.lean ====
section
/-! DEFINITION. What the power governor and each physical tile hold (R25 to R47, R62, R474, R475). -/

namespace Sys2Proof.Machine

/-- The power states of a tile (R41), codes 0 to 5. -/
inductive TilePower where
  | active | idle | nap | doze | deep | off
  deriving DecidableEq, Repr

/-- The governor (R36 to R38) and the rail supply (R546 to R550). Power in units of 0.1 mW. -/
structure Power where
  /-- the performance pool's step -/
  step : BitVec 5 := 0x08
  /-- the issue cap in eighths: 8, 4, 2, 1 or 0 -/
  cap : Nat := 8
  /-- excursion time in microseconds -/
  excTime : Nat := 0
  /-- the last ten samples were below 460 W, newest first -/
  below460 : List Bool := []
  /-- microseconds since the governor last changed a control -/
  sinceChange : Nat := 0
  /-- microseconds continuously at or below 480 W since the last excursion; saturates at 90,000 -/
  sinceExc : Nat := 90000
  /-- an excursion is in progress -/
  inExc : Bool := false
  /-- the rail setpoint in force, in mV (R547) -/
  railMv : Nat := 720
  /-- a setpoint that the regulator has not acknowledged, when it was last sent, and how often again -/
  wanted : Option Nat := none
  sentAt : Nat := 0
  retries : Nat := 0
  /-- the third retry failed: every step is held until the bus answers (R547) -/
  held : Bool := false
  /-- THERM_TRIP_N driven low (R551) -/
  thermTrip : Bool := false
  corePwrgd : Bool := false
  /-- the fabric is held in reset: WARM_RESET_N low, or the island has lost power (R485, R549) -/
  warmReset : Bool := false
  /-- the working-clock time at which it was held -/
  heldSince : Nat := 0
  deriving DecidableEq, Repr

/-- Why a tile is in HANDOVER (R62, R412, R476): what remains before it takes new work. -/
structure Handover where
  /-- the tile's state is to be zeroed -/
  zero : Bool := false
  /-- resident safety shards are to be loaded (R160) -/
  reload : Bool := false
  deriving DecidableEq, Repr

/-- The part of a physical tile that the weather station, the power states and the maintenance rules
hold. Key of the table: physical tile c = 6y + x. -/
structure TileDyn where
  pace : BitVec 16 := 0
  tj : BitVec 16 := 0
  vlocal : BitVec 16 := 0
  step : BitVec 5 := 0x08
  floorLow : BitVec 16 := 0
  paceMin : BitVec 16 := 0
  /-- lowest window pace since the last lock cycle, none before the first window -/
  windowMin : Option (BitVec 16) := none
  /-- consecutive low, good and hot windows -/
  lowRun : Nat := 0
  okRun : Nat := 0
  hotRun : Nat := 0
  power : TilePower := .idle
  /-- working-clock time since which the tile has been idle -/
  idleSince : Nat := 0
  /-- the time at which a wake in progress ends -/
  wakeEnds : Option Nat := none
  handover : Option Handover := none
  suspect : Bool := false
  failures : Nat := 0
  /-- the TILE_TEST commands of this tile (R502), and whether it takes no new work for them -/
  tests : List Ticket := []
  testDrain : Bool := false
  deriving DecidableEq, Repr

end Sys2Proof.Machine
end

