-- ==== Sys2Proof/Machine/WorkTypes.lean ====
section
/-! DEFINITION. Work in flight: jobs, lane workgroups, render passes, sensor samples, fusion instants,
image presentations (chapters 4 to 9, 11, 12). -/

namespace Sys2Proof.Machine

/-- What a job runs (R110, R111, R133, R175, R159, R230, R450, R453). -/
inductive JobKind where
  | model | preload | dispatch | matmul | convert | sounding | pass
  deriving DecidableEq, Repr

/-- A product or conversion in progress on the array (R100 to R111): the headers read when it was checked,
how many loads are done, and the accumulators of the block in progress. -/
structure ArrayRun where
  convert : Bool := false
  /-- A, or the source of a conversion -/
  a : TensorHeader := {}
  b : TensorHeader := {}
  /-- C, or the destination -/
  c : TensorHeader := {}
  bias : Nat := 0
  stochastic : Bool := false
  accumulate : Bool := false
  /-- logical tiles over which the parts are dealt (R171) -/
  tiles : List Nat := []
  /-- contiguous ranges into which K is cut (R171) -/
  split : Nat := 1
  next : Nat := 0
  /-- key: logical tile; the berth's generator there when the work began (R89) -/
  sr : Tab (BitVec 64) := []
  /-- the K-step whose block of B stood in the cells when the block in progress began (R103) -/
  first : Option Nat := none
  /-- key: row × 256 + column of the block in progress -/
  acc : Tab (BitVec 32) := []
  /-- finished partial accumulators of the block, when K is split (R103) -/
  partials : List (Tab (BitVec 32)) := []
  sat : Nat := 0
  nan : Nat := 0
  /-- key: logical tile; waves spent there by a product (R106) -/
  waves : Tab Nat := []
  deriving DecidableEq, Repr

/-- What last worked in a tile's array: the run (job, shard and step) with the row chunk it was at, and the block of B in
the cells: berth, data address, the job and shard whose working store holds it, K-step and N-step, batch entry, column
block, K-step number (R103, R105, R107). -/
structure CellBlock where
  job : Nat
  shard : Option Nat
  step : Nat
  chunk : Nat
  berth : BitVec 6
  addr : Nat
  owner : Option (Nat × Nat)
  size : Nat × Nat
  batch : Nat
  block : Nat
  k : Nat
  deriving DecidableEq, Repr

/-- A grid of workgroups: a LANE_DISPATCH, or a LANES step of a model (R133, R151). -/
structure LaneRun where
  step : Nat := 0
  program : Program := {}
  /-- the slot that the program is loaded in -/
  slot : BitVec 6 := 0
  args : List (BitVec 32) := []
  async : Bool := false
  gx : Nat := 1
  gy : Nat := 1
  gz : Nat := 1
  /-- linear index of the next workgroup, indices to run again, workgroups ended -/
  next : Nat := 0
  again : List Nat := []
  done : Nat := 0
  deriving DecidableEq, Repr

/-- One shard of a job on its tile (R150, R161). -/
structure ShardRun where
  shard : Nat := 0
  /-- logical tile -/
  tile : Nat := 0
  borrowed : Bool := false
  /-- its switch has been made (R161) -/
  switched : Bool := false
  reloaded : Bool := false
  /-- step indices that have finished, and that are running -/
  done : List Nat := []
  running : List Nat := []
  /-- the array step and the lane step in progress -/
  array : Option (Nat × ArrayRun) := none
  lanes : Option LaneRun := none
  /-- the outputs that a sounding binds to reserved granules (R453), keyed by offset, and its weights there -/
  work : Tab Byte := []
  weights : List Byte := []
  deriving DecidableEq, Repr

/-- A job: one model invocation, one LANE_DISPATCH, or one tensor command. -/
structure Job where
  kind : JobKind
  ticket : Ticket
  berth : BitVec 6
  gen : BitVec 16
  queue : Option (BitVec 18)
  priority : BitVec 3 := 0
  /-- the leaf basin that runs it -/
  basin : BitVec 10
  handle : BitVec 10 := 0
  model : Model := {}
  io : List TensorHeader := []
  /-- the shards; none placed yet while the job waits for tiles (R60, R176) -/
  placed : Bool := true
  /-- its place among the jobs placed so far (R169) -/
  placedNo : Nat := 0
  /-- a logical tile of another basin that is lent to it (R172) -/
  lent : Option Nat := none
  shards : List ShardRun := []
  array : Option ArrayRun := none
  lanes : Option LaneRun := none
  /-- program slot of a dispatch -/
  slot : BitVec 6 := 0
  /-- ranges that the command reads and writes (R116, R177) -/
  ins : List (Nat × Nat) := []
  outs : List (Nat × Nat) := []
  /-- logical tiles used -/
  tiles : List Nat := []
  switchWaves : Nat := 0
  reloads : Nat := 0
  reruns : Nat := 0
  /-- accepted at this working-clock time, 2^-16 ns -/
  since : Nat := 0
  deriving DecidableEq, Repr

/-- What a vertex program wrote for one vertex (R238). -/
structure VertexOut where
  x : BitVec 32
  y : BitVec 32
  z : BitVec 32
  w : BitVec 32
  psize : BitVec 32 := 0
  clip : List (BitVec 32) := []
  varyings : List (BitVec 128) := []
  deriving DecidableEq, Repr

/-- A vertex of a primitive record (R250): screen position in 1/256 pixel, depth and 1/w as FP32, varyings. -/
structure ScreenVert where
  x : Int := 0
  y : Int := 0
  z : BitVec 32 := 0
  invW : BitVec 32 := 0
  vary : List (BitVec 128) := []
  deriving DecidableEq, Repr

/-- A primitive record (R250), the provoking vertex first; `sub` numbers its sub-triangles (R237, R241). -/
structure Prim where
  batch : Nat := 0
  number : Nat := 0
  sub : Nat := 0
  state : BitVec 10 := 0
  /-- 0 point, 1 line, 2 triangle -/
  cls : BitVec 2 := 2
  back : Bool := false
  psize : BitVec 32 := 0
  nvar : Nat := 0
  verts : List ScreenVert := []
  /-- the varyings of the provoking vertex (R245); it need not be a vertex of the clipped primitive -/
  flat : List (BitVec 128) := []
  /-- the offset of the record in bin memory -/
  place : Nat := 0
  deriving DecidableEq, Repr

/-- What a bundle waits for: a counter to reach a target (R141), a free block of counters (R140), the flushes of its release
fence (R142). -/
inductive BundleWait where
  | counter (i : BitVec 4) (target : BitVec 32)
  | block
  | fence
  deriving DecidableEq, Repr

/-- A bundle of 32 threads (R118, R119). Registers are keyed lane × 256 + register; one that nothing has written
since the workgroup started is unlisted, and reads as zero where they were zeroed, else as a free value numbered from
`seed`. -/
structure Bundle where
  seed : Nat := 0
  /-- its registers were zeroed before it started (R46) -/
  clean : Bool := false
  mask : BitVec 32 := 0
  initMask : BitVec 32 := 0
  pc : Nat := 0
  /-- reconvergence stack: point, mask to restore, the other side still to run -/
  stack : List (Nat × BitVec 32 × Option (Nat × BitVec 32)) := []
  regs : Tab (Option (BitVec 32)) := []
  atBarrier : Bool := false
  /-- what it waited for when it last issued -/
  waiting : Option BundleWait := none
  ended : Bool := false
  deriving DecidableEq, Repr

/-- Which bundle of a render pass a shading bundle is (R238, R260): the vertices `32 part` and up of a batch, or the quads of
bundle `number` of a screen tile. -/
inductive ShadePart where
  | vertices (batch part : Nat)
  | quads (screenTile number : Nat)
  deriving DecidableEq, Repr

/-- What a shading bundle works on, and what it has written. -/
structure Shade where
  ctx : Nat
  part : ShadePart
  /-- its program and uniforms -/
  run : LaneRun := {}
  /-- the record of a fragment bundle, the pixel of each lane, and the lanes that only help (R260) -/
  prim : Prim := {}
  pixels : List (Nat × Nat) := []
  helpers : BitVec 32 := 0
  /-- key: lane × 128 + output -/
  outs : Tab (Option (BitVec 32)) := []
  discards : BitVec 32 := 0
  deriving DecidableEq, Repr

/-- A workgroup placed on a lane group (R126). -/
structure Workgroup where
  job : Nat
  /-- the shard of the model step it belongs to, none for a dispatch -/
  shard : Option Nat := none
  index : Nat
  /-- it is a shading bundle of a render pass -/
  shade : Option Shade := none
  group : Nat
  async : Bool := false
  priority : BitVec 3 := 0
  /-- registers allocated per thread (R125) -/
  alloc : Nat := 8
  bundles : List Bundle := []
  shared : Tab Byte := []
  sharedKb : Nat := 0
  /-- which of its job's granules on the tile holds its shared memory (R127) -/
  granule : Nat := 0
  /-- working-clock time of its start, 2^-16 ns, and its limit in microseconds -/
  started : Nat := 0
  limit : Nat := 0
  deriving DecidableEq, Repr

/-- A resident shard of a model on a physical tile (R159, R160); times in microseconds. -/
structure Resident where
  berth : BitVec 6
  handle : BitVec 10
  shard : Nat
  safety : Bool := false
  granules : Nat := 0
  lastStart : Nat := 0
  /-- reload waves to this tile (R161) -/
  cost : Nat := 0
  weights : List Byte := []
  /-- a line of the copy was uncorrectable when it was loaded -/
  bad : Bool := false
  /-- jobs that use it -/
  users : List Nat := []
  deriving DecidableEq, Repr

/-- What a granule of the tile store is held for (R45): a resident shard's weights, a shard's working store, shared
memory of a dispatch or step, screen tiles of a render pass. -/
inductive GranuleUse where
  | weights (berth : BitVec 6) (handle : BitVec 10) (shard : Nat)
  | work (job shard : Nat)
  | shared (job n : Nat)
  | raster (ctx : Nat)
  deriving DecidableEq, Repr

/-- A granule's context: the one that holds it, or held it last, with its berth and generation (R45). Bytes that nothing
has written since are zero (`seed` 0), or free values numbered from `seed`. -/
structure Granule where
  use : GranuleUse
  berth : BitVec 6
  gen : BitVec 16
  seed : Nat := 0
  deriving DecidableEq, Repr

/-- The compute state of a physical tile. -/
structure TileWork where
  /-- the 256 granules of the tile store (R45), and the bytes of working granules that have been written -/
  granules : Tab (Option Granule) := []
  store : Tab (Option Byte) := []
  /-- key: lane group; the berths whose threads have held its registers since they were zeroed (R46) -/
  regBerths : Tab (List (BitVec 6)) := []
  workgroups : List Workgroup := []
  residents : List Resident := []
  /-- the block of B last loaded into the cells -/
  array : Option CellBlock := none
  /-- stochastic-rounding generators, keyed by berth (R89) -/
  sr : Tab (BitVec 64) := []
  /-- key: block 0 to 15; the job that holds it plus one (R140) -/
  counterOwner : Tab Nat := []
  /-- key: block × 16 + index -/
  counters : Tab (BitVec 32) := []
  /-- granules held by screen tiles of render passes, keyed by context (R47) -/
  raster : Tab Nat := []
  /-- NI prefetch buffer (R204), most recently used first -/
  prefetch : List PrefLine := []
  /-- the last demand line of each job plus one -/
  lastLine : Tab Nat := []
  /-- posted writes of each job to each column, and the numbers its last fence confirmed (R142); key
  job × 256 + column, a peer's columns following the local ones -/
  writeNo : Tab Nat := []
  fenceNo : Tab Nat := []
  deriving DecidableEq, Repr

/-- Everything that runs on the tiles. -/
structure Work where
  /-- key: job number -/
  jobs : Tab (Option Job) := []
  nextJob : Nat := 0
  /-- jobs placed so far -/
  placings : Nat := 0
  /-- key: physical tile -/
  tiles : Tab TileWork := []
  /-- stochastic-rounding seed of each berth (R90) -/
  seeds : Tab (BitVec 64) := []
  /-- key: basin × 8 + level; the queue last served at that level plus one (R168) -/
  lastServed : Tab Nat := []
  /-- key: basin; the tile or child last chosen plus one by round-robin dispatch (R61, R170) -/
  lastTile : Tab Nat := []
  /-- key: berth × 1024 + handle; jobs started since registration -/
  started : Tab (BitVec 32) := []
  /-- slots in use at the pounds (R53): key (unit × 3 + class) × 2 + reserve -/
  slots : Tab Nat := []
  /-- key: NI or edge port; the entries in its translation cache, most recently used first (R198) -/
  xlatCache : Tab (List Nat) := []
  deriving DecidableEq, Repr

/-- Where a batch stands in the draw list (R237): its number, draw record, instance and batch of the instance. -/
structure BatchAt where
  number : Nat := 0
  draw : Nat := 0
  inst : Nat := 0
  part : Nat := 0
  /-- assembled primitives that an earlier round published: the batch resumes behind them (R288) -/
  skip : Nat := 0
  deriving DecidableEq, Repr

/-- A batch dealt to a slice (R247 to R252). -/
structure Batch where
  at_ : BatchAt := {}
  /-- logical tile of the slice -/
  tile : Nat := 0
  /-- the front end works on it, or has done (R247) -/
  started : Bool := false
  /-- its primitives, by LOCAL, as vertex indices; the distinct indices in order of first use; what the vertex program
  wrote for them (R235 to R238); none are left once it has been clipped and set up -/
  prims : List (Nat × List Nat) := []
  indices : List Nat := []
  verts : Tab (Option VertexOut) := []
  /-- the state handle of its draw, its instance index, and its argument block -/
  state : BitVec 10 := 0
  inst : BitVec 32 := 0
  shaded : Bool := false
  /-- primitives not yet binned: the record and the screen tiles that list it, with COVER -/
  todo : List (Prim × List (Nat × Bool)) := []
  /-- primitives binned, in order -/
  binned : List (Prim × List (Nat × Bool)) := []
  assembled : Nat := 0
  /-- chunks held, by page number, in the order they were taken; which is being filled, and its bytes used -/
  chunks : List Nat := []
  cur : Nat := 0
  used : Nat := 0
  /-- key: screen tile; block offsets in bytes, newest first, and the entries of the newest -/
  chains : Tab (List Nat × Nat) := []
  /-- the next record or block finds no room in the chunks held -/
  wants : Bool := false
  published : Bool := false
  deriving DecidableEq, Repr

/-- A fragment bundle whose results are still to be applied (R261): its record, for each pixel that is shaded its lane and the
samples that the fragment may write, and the outputs and discards once the program has ended. -/
structure FragBundle where
  number : Nat
  prim : Prim
  pixels : List (Nat × (Nat × Nat) × List Nat)
  outs : Option (Tab (Option (BitVec 32)) × BitVec 32) := none
  deriving DecidableEq, Repr

/-- A screen tile bound to a slice, with its samples in the tile store (R259 to R261, R277). -/
structure ScreenTile where
  /-- logical tile -/
  tile : Nat := 0
  /-- key: target × 4096 + pixel × 4 + sample; an image target's texel, or a tensor target's four FP32 channels -/
  samples : Tab (BitVec 128) := []
  /-- the next primitive of its list, and the quads of it that are done -/
  prim : Nat := 0
  quads : Nat := 0
  /-- fragment bundles formed so far; those that are shaded, in the order of the list -/
  made : Nat := 0
  pending : List FragBundle := []
  /-- write-out has started: targets written (R263) -/
  out : Option Nat := none
  deriving DecidableEq, Repr

/-- The phase of a render pass (R223). -/
inductive PassPhase where
  | idle | binning | weir | rendering
  deriving DecidableEq, Repr

/-- A raster context's running pass, and the fields of its descriptor that move (R223, R230, R247 to R264). -/
structure PassRun where
  phase : PassPhase := .idle
  job : Option Ticket := none
  /-- its number among the jobs, and the leaf basin that runs it (R61) -/
  jobNo : Nat := 0
  leaf : Nat := 0
  weirs : BitVec 16 := 0
  seq : BitVec 32 := 0
  /-- the target table as read at the check -/
  targets : List (BitVec 256) := []
  /-- descriptors or headers of the targets, and of the resolve images -/
  images : List (BitVec 512) := []
  resolves : List (BitVec 512) := []
  /-- memory that the pass writes (R285) -/
  outs : List (Nat × Nat) := []
  /-- the next batch of the draw list; batches undealt, ascending -/
  cursor : BatchAt := {}
  undealt : List BatchAt := []
  /-- batches dealt, ascending in number -/
  batches : List Batch := []
  /-- batches and primitives published and assembled; tile-list entries written -/
  publishedTo : Nat := 0
  prims : Nat := 0
  listed : Nat := 0
  peak : Nat := 0
  passWeirs : Nat := 0
  /-- working-clock time of the weir, 2^-16 ns -/
  weirAt : Nat := 0
  /-- a slot of EVENT_QUEUE is reserved; BIN_GROW has committed and binning resumes once one is (R255, R256) -/
  slotHeld : Bool := false
  resumeDue : Bool := false
  /-- key: screen tile; its published list, and the offsets of its blocks -/
  lists : Tab (List Prim) := []
  blocks : Tab (List Nat) := []
  /-- a flush of a compositor context is rendering (R288); the batch that goes on alone -/
  flushing : Bool := false
  alone : Option Nat := none
  /-- key: screen tile; bound now, written out in this round, written out in an earlier round -/
  bound : Tab (Option ScreenTile) := []
  written : Tab Bool := []
  earlier : Tab Bool := []
  /-- key: batch; the argument block as read when the batch was dealt (R233) -/
  args : Tab (List (BitVec 32)) := []
  /-- logical tiles whose granules the pass holds (R47) -/
  tilesHeld : List Nat := []
  deriving DecidableEq, Repr

/-- The raster pipeline (R222 to R264). -/
structure Raster where
  /-- key: context -/
  passes : Tab PassRun := []
  /-- key: logical tile; the berth whose batches the front end takes in the present round, and how many (R410) -/
  front : Tab (Nat × Nat) := []
  /-- key: logical tile; job and draw of the last batch dealt to the slice, of a draw with at most 1,024 primitives per
  instance (R289) -/
  frontDraw : Tab (Option (Nat × Nat)) := []
  deriving DecidableEq, Repr

/-- A display output (R291 to R296). -/
structure DisplayDyn where
  frame : BitVec 32 := 0
  repeats : BitVec 32 := 0
  underruns : BitVec 32 := 0
  /-- berth and descriptor of the image in scan-out -/
  image : Option (BitVec 6 × BitVec 40) := none
  /-- the presentation that waits for a latch point, and the working-clock time of its start, 2^-16 ns -/
  pending : Option (Ticket × Nat) := none
  /-- the working-clock time of its last commit edge: frames start behind it -/
  since : Nat := 0
  /-- number n of the last frame latched plus one, and of the last frame started plus one (R293) -/
  latched : Nat := 0
  started : Nat := 0
  /-- a frame is in progress; its lines already sent, and their pixels, newest first -/
  active : Bool := false
  lines : Nat := 0
  sent : List (List Nat) := []
  /-- the buffer of 8 lines (R293), oldest first: frame plus one, line, its pixels; none where it could not be read -/
  buffer : List (Nat × Nat × Option (List Nat)) := []
  /-- the frame plus one that is read ahead, its image and the line to read next -/
  readFrame : Nat := 0
  readImage : Option (BitVec 6 × BitVec 40) := none
  readLine : Nat := 0
  deriving DecidableEq, Repr

/-- Stream states (R328). -/
inductive StreamLock where
  | off | seeking | locked
  deriving DecidableEq, Repr

/-- A sample in progress on a stream (R330 to R339); times in 2^-16 ns. -/
structure Sample where
  /-- its number among the samples of its stream -/
  number : Nat := 0
  buffer : Nat := 0
  seq : Nat := 0
  fn : BitVec 16 := 0
  lock : Bool := false
  dev : Int := 0
  arrive : Nat := 0
  time : Int := 0
  seg : Nat := 0
  last : Bool := true
  /-- the cut in force at its start: queue, berth, and whether it goes through Confluence -/
  queue : BitVec 18 := 0
  berth : BitVec 6 := 0
  gen : BitVec 16 := 0
  stage1 : Bool := false
  /-- the fusion group whose intake slot it holds (R354) -/
  group : Option Nat := none
  lines : Nat := 0
  embedded : Nat := 0
  bytes : Nat := 0
  /-- bytes of the buffer used (lidar) -/
  used : Nat := 0
  deriving DecidableEq, Repr

/-- A lidar scan in progress: what its start packet matched, segments so far, packets of the segment. -/
structure Scan where
  seq : Nat := 0
  fn : BitVec 16 := 0
  lock : Bool := false
  dev : Int := 0
  duplicate : Bool := false
  segs : Nat := 0
  packets : Nat := 0
  deriving DecidableEq, Repr

/-- The running part of a stream (R322 to R345). -/
structure StreamDyn where
  state : StreamLock := .off
  fb : Nat := 0
  sb : Nat := 0
  last : Nat := 0
  ps : Nat := 0
  pfn : Nat := 0
  run : Nat := 0
  /-- the next trigger that MISSING looks at; none before the first frame -/
  watch : Option Nat := none
  slips : BitVec 16 := 0
  missing : BitVec 16 := 0
  duplicate : BitVec 16 := 0
  noRoute : BitVec 16 := 0
  queueFull : BitVec 16 := 0
  bufBusy : BitVec 16 := 0
  fifo : BitVec 16 := 0
  error : BitVec 16 := 0
  oversize : BitVec 16 := 0
  frames : BitVec 32 := 0
  lastSeq : BitVec 32 := 0
  nextBuf : Nat := 0
  drops : BitVec 16 := 0
  /-- samples started -/
  samples : Nat := 0
  /-- between a Frame Start and its Frame End -/
  inFrame : Bool := false
  sample : Option Sample := none
  scan : Option Scan := none
  deriving DecidableEq, Repr

/-- A trigger output (R326). -/
structure TriggerDyn where
  /-- working-clock time of the commit edge that configured it: pulses follow it -/
  since : Nat := 0
  /-- sequence number of the last pulse plus one, and its time; pulses driven -/
  seq : Nat := 0
  time : Nat := 0
  count : Nat := 0
  /-- when the pulse ends: its time and the WIDTH of the configuration that drove it (R327) -/
  ends : Nat := 0
  deriving DecidableEq, Repr

/-- What waits in a port's elastic buffer for the mesh (R338): bytes of a sample for its buffer, or the end of a sample whose bytes
are all written. -/
structure ElasticItem where
  stream : Nat
  sample : Sample
  data : Option (Nat × List Byte) := none
  deriving DecidableEq, Repr

/-- A packet on a CSI-2 transmit port: kind 0 Frame Start, 1 long packet, 2 Frame End. -/
structure TxPacket where
  kind : BitVec 2
  vc : BitVec 5
  dt : BitVec 6 := 0
  fn : BitVec 16 := 0
  payload : List Byte := []
  deriving DecidableEq, Repr

/-- A buffer or block that a record in a queue names until its consumer passes the record (R331, R354, R360). -/
structure Held where
  queue : Nat
  index : BitVec 21
  /-- an instant block of a fusion group, else a buffer of a stream -/
  block : Bool
  unit : Nat
  buffer : Nat
  deriving DecidableEq, Repr

/-- An I3C_XFER in progress: its entries. -/
structure XferRun where
  ticket : Ticket
  entries : List (BitVec 128) := []
  /-- the rates of the bus at its start, which it keeps (R559) -/
  sdrKhz : BitVec 16 := 0
  i2cKhz : BitVec 16 := 0
  deriving DecidableEq, Repr

/-- Sensor ingest (chapter 11): streams, triggers, transmit ports, I3C controller buses. -/
structure Ingest where
  streams : Tab StreamDyn := []
  /-- key: camera port, or 16 plus lidar MAC; what its elastic buffer holds, oldest first (R338) -/
  elastic : Tab (List ElasticItem) := []
  triggers : Tab TriggerDyn := []
  /-- key: transmit port; the CSI_TX_SEND in progress with the lines it sends -/
  tx : Tab (Option (Ticket × List (List Byte))) := []
  /-- key: transmit port; packets sent, newest first -/
  txSent : Tab (List TxPacket) := []
  /-- key: bus -/
  xfer : Tab (Option XferRun) := []
  /-- key: bus; records of in-band interrupts written so far (R376) -/
  ibiCount : Tab Nat := []
  held : List Held := []
  deriving DecidableEq, Repr

/-- A sample on its way to Confluence, or held by an instant (R352): its record and where its buffer is. -/
structure Contribution where
  stream : Nat
  kind : Bool
  lock : Bool
  time : Int
  record : List Byte
  buffer : Nat
  /-- virtual address of the buffer and its berth -/
  addr : Nat
  berth : BitVec 6
  packets : Nat
  /-- the reserved slot, and the fusion group whose intake slot it holds -/
  queue : BitVec 18
  group : Option Nat := none
  carried : Bool := false
  deriving DecidableEq, Repr

/-- A pending instant with samples (R349, R352). -/
structure InstantRun where
  number : Nat
  contribs : List Contribution := []
  deriving DecidableEq, Repr

/-- An instant that has closed and waits for its Level 0 run (R355, R356, R360, R361). -/
structure ClosedRun where
  group : Nat
  number : Nat
  /-- its time of validity, 2^-16 ns -/
  validity : Nat
  /-- the group's configuration at its close -/
  cfg : GroupCfg := {}
  cutShort : Bool := false
  contribs : List Contribution := []
  block : Option Nat := none
  /-- the next block was not free at the close -/
  busy : Bool := false
  /-- the reserved slot -/
  queue : Option (BitVec 18) := none
  /-- the working clock at its close, 2^-16 ns -/
  closed : Nat := 0
  deriving DecidableEq, Repr

/-- The stamps kept of a published Level 0 instant (R363); `oldest`: per stream, the least TIME. -/
structure Stamp where
  number : Nat
  validity : Nat
  mask : BitVec 32
  carry : BitVec 32
  oldest : List (Nat × Int)
  deriving DecidableEq, Repr

/-- A track slot (R364): STATE 0 free, 1 tentative, 2 confirmed, 3 coasting. -/
structure Track where
  state : BitVec 2 := 0
  hits : BitVec 8 := 0
  misses : BitVec 8 := 0
  id : BitVec 32 := 0
  lastInstant : BitVec 32 := 0
  lastValidity : BitVec 80 := 0
  tag : BitVec 32 := 0
  deriving DecidableEq, Repr

/-- The running part of a fusion group (R348 to R367). -/
structure GroupDyn where
  /-- the lowest instant not yet closed -/
  next : Nat := 0
  instants : List InstantRun := []
  nextBlock : Nat := 0
  lastInstant : BitVec 32 := 0
  lastAge : BitVec 32 := 0
  records : BitVec 32 := 0
  unlocked : BitVec 16 := 0
  outside : BitVec 16 := 0
  early : BitVec 16 := 0
  late : BitVec 16 := 0
  superseded : BitVec 16 := 0
  outFull : BitVec 16 := 0
  blockBusy : BitVec 16 := 0
  /-- samples excluded since the previous Level 0 record -/
  dropped : BitVec 16 := 0
  /-- the last 16 published, newest first -/
  stamps : List Stamp := []
  /-- key: slot -/
  tracks : Tab Track := []
  nextId : BitVec 32 := 1
  lastAssoc : Option Nat := none
  deriving DecidableEq, Repr

/-- Confluence (chapter 12). -/
structure Fusion where
  groups : Tab GroupDyn := []
  /-- samples on their way, oldest first -/
  arriving : List Contribution := []
  /-- closed instants in the order their Level 0 runs take -/
  runs : List ClosedRun := []
  deriving DecidableEq, Repr

end Sys2Proof.Machine
end

