-- ==== Sys2Proof/Machine/State.lean ====
section
/-! DEFINITION. The machine's state, the reasons a step may stop, and the state after reset. -/

namespace Sys2Proof.Machine

/-- Everything that the device latches as status at a lock cycle (R14). -/
structure Dyn where
  /-- the live configuration -/
  cfg : Shadow := {}
  time : TimeState := {}
  power : Power := {}
  /-- key: physical tile -/
  tiles : Tab TileDyn := []
  /-- key: queue -/
  queues : Tab QueueDyn := []
  work : Work := {}
  raster : Raster := {}
  displays : Tab DisplayDyn := []
  ingest : Ingest := {}
  fusion : Fusion := {}
  island : Island := {}
  safety : Safety := {}
  bring : Bring := {}
  errors : Errors := {}
  isgal : Isgal := {}
  gateway : Gateway := {}
  cores : Cores := {}
  deriving DecidableEq, Repr

/-- The whole machine. `snap` is the snapshot of the last lock cycle, `free` counts the values taken
from the free-value constants of Config, `pending` is the queue of commands waiting, first in first out. -/
structure State where
  dyn : Dyn := {}
  snap : Dyn := {}
  lock : Lock := {}
  /-- key: mailbox 0 to 64 -/
  mailboxes : Tab Mailbox := []
  i3c : I3cTarget := {}
  mem : Memory := {}
  /-- what requesters were answered, newest first -/
  answers : List (Requester × BitVec 40 × Answer) := []
  free : Nat := 0
  /-- columns and ports that could not take an access of the step in progress; empty between steps -/
  blocked : List Nat := []
  pending : List Instr := []
  deriving DecidableEq, Repr

/-- Why a step stops with a fault. -/
inductive Fault where
  /-- PATROL_READ or FRAME_ZERO names an address that no DRAM column holds (R183, R194). Safe: the
  home of such an address does not exist. -/
  | outsideDram (address : Nat)
  deriving DecidableEq, Repr

/-- Why a step is refused. -/
inductive Refusal where
  /-- The command has no meaning in the model yet. Safe: nothing is claimed of it. -/
  | notModelled (mnemonic : String)
  deriving DecidableEq, Repr

/-- The machine at the start of a cold start (R486): the latch is set (R439), bring-up stands at step
2, nothing is configured, memory lists nothing and no command waits. -/
def State.reset : State := {}

end Sys2Proof.Machine
end

