-- ==== Sys2Proof/Machine/Setters.lean ====
section
/-! DEFINITION. Named updates of the state, one per part. -/

namespace Sys2Proof.Machine

/-- Update the live configuration. -/
def State.modCfg (f : Shadow → Shadow) (s : State) : State :=
  { s with dyn := { s.dyn with cfg := f s.dyn.cfg } }

/-- Update `time`. -/
def State.modTime (g : TimeState → TimeState) (s : State) : State :=
  { s with dyn := { s.dyn with time := g s.dyn.time } }

/-- Update `power`. -/
def State.modPower (g : Power → Power) (s : State) : State :=
  { s with dyn := { s.dyn with power := g s.dyn.power } }

/-- Update `tiles`. -/
def State.modTiles (g : Tab TileDyn → Tab TileDyn) (s : State) : State :=
  { s with dyn := { s.dyn with tiles := g s.dyn.tiles } }

/-- Update `queues`. -/
def State.modQueues (g : Tab QueueDyn → Tab QueueDyn) (s : State) : State :=
  { s with dyn := { s.dyn with queues := g s.dyn.queues } }

/-- Update `work`. -/
def State.modWork (g : Work → Work) (s : State) : State :=
  { s with dyn := { s.dyn with work := g s.dyn.work } }

/-- Update `raster`. -/
def State.modRaster (g : Raster → Raster) (s : State) : State :=
  { s with dyn := { s.dyn with raster := g s.dyn.raster } }

/-- Update `displays`. -/
def State.modDisplays (g : Tab DisplayDyn → Tab DisplayDyn) (s : State) : State :=
  { s with dyn := { s.dyn with displays := g s.dyn.displays } }

/-- Update `ingest`. -/
def State.modIngest (g : Ingest → Ingest) (s : State) : State :=
  { s with dyn := { s.dyn with ingest := g s.dyn.ingest } }

/-- Update `fusion`. -/
def State.modFusion (g : Fusion → Fusion) (s : State) : State :=
  { s with dyn := { s.dyn with fusion := g s.dyn.fusion } }

/-- Update `island`. -/
def State.modIsland (g : Island → Island) (s : State) : State :=
  { s with dyn := { s.dyn with island := g s.dyn.island } }

/-- Update `safety`. -/
def State.modSafety (g : Safety → Safety) (s : State) : State :=
  { s with dyn := { s.dyn with safety := g s.dyn.safety } }

/-- Update `bring`. -/
def State.modBring (g : Bring → Bring) (s : State) : State :=
  { s with dyn := { s.dyn with bring := g s.dyn.bring } }

/-- Update `errors`. -/
def State.modErrors (g : Errors → Errors) (s : State) : State :=
  { s with dyn := { s.dyn with errors := g s.dyn.errors } }

/-- Update `isgal`. -/
def State.modIsgal (g : Isgal → Isgal) (s : State) : State :=
  { s with dyn := { s.dyn with isgal := g s.dyn.isgal } }

/-- Update `gateway`. -/
def State.modGateway (g : Gateway → Gateway) (s : State) : State :=
  { s with dyn := { s.dyn with gateway := g s.dyn.gateway } }

/-- Update `cores`. -/
def State.modCores (g : Cores → Cores) (s : State) : State :=
  { s with dyn := { s.dyn with cores := g s.dyn.cores } }

/-- Update `lock`. -/
def State.modLock (g : Lock → Lock) (s : State) : State :=
  { s with lock := g s.lock }

/-- Update `mailboxes`. -/
def State.modMailboxes (g : Tab Mailbox → Tab Mailbox) (s : State) : State :=
  { s with mailboxes := g s.mailboxes }

/-- Update `i3c`. -/
def State.modI3c (g : I3cTarget → I3cTarget) (s : State) : State :=
  { s with i3c := g s.i3c }

/-- Update `mem`. -/
def State.modMem (g : Memory → Memory) (s : State) : State :=
  { s with mem := g s.mem }

/-- Update the live, the open and the closed configuration alike: what changes outside a lock cycle. -/
def State.modAllCfg (f : Shadow → Shadow) (s : State) : State :=
  { s with dyn := { s.dyn with cfg := f s.dyn.cfg },
           lock := { s.lock with opn := f s.lock.opn, staged := f s.lock.staged } }

/-- One more free value has been taken. -/
def State.bump (s : State) : State := { s with free := s.free + 1 }

/-- Update one queue's moving part. -/
def State.modQueue (q : Nat) (f : QueueDyn → QueueDyn) (s : State) : State :=
  s.modQueues fun t => tabMod {} t q f

/-- Update one mailbox. -/
def State.modMailbox (m : Nat) (f : Mailbox → Mailbox) (s : State) : State :=
  s.modMailboxes fun t => tabMod {} t m f

/-- Update one physical tile. -/
def State.modTile (p : Nat) (f : TileDyn → TileDyn) (s : State) : State :=
  s.modTiles fun t => tabMod {} t p f

/-- Update the work held by one physical tile. -/
def State.modTileWork (p : Nat) (f : TileWork → TileWork) (s : State) : State :=
  s.modWork fun w => { w with tiles := tabMod {} w.tiles p f }

/-- Update one job. -/
def State.modJob (j : Nat) (f : Job → Job) (s : State) : State :=
  s.modWork fun w => { w with jobs := tabMod none w.jobs j (Option.map f) }

/-- The queue's moving part. -/
def State.queue (s : State) (q : Nat) : QueueDyn := tabGet {} s.dyn.queues q

/-- The mailbox. -/
def State.mailbox (s : State) (m : Nat) : Mailbox := tabGet {} s.mailboxes m

/-- The physical tile. -/
def State.tile (s : State) (p : Nat) : TileDyn := tabGet {} s.dyn.tiles p

/-- The job. -/
def State.job (s : State) (j : Nat) : Option Job := tabGet none s.dyn.work.jobs j

/-- The work held by a physical tile. -/
def State.tileWork (s : State) (p : Nat) : TileWork := tabGet {} s.dyn.work.tiles p

end Sys2Proof.Machine
end

