-- ==== Sys2Proof/Machine/Lookup.lean ====
section
/-! DEFINITION. Reading the configuration and the time: berths, basins, the tile map, the safety
basin, address translation, 80-bit times. Nothing here changes the state. -/

namespace Sys2Proof.Machine

/-! Time -/

/-- One microsecond in the hidden unit of 2^-48 ns. -/
def us48 : Nat := 1000 * 2 ^ 48

/-- A hidden-unit time in the unit of an 80-bit time, 2^-16 ns (R300, R301). -/
def t16 (t : Nat) : Nat := t / 2 ^ 32

/-- One microsecond in units of 2^-16 ns. -/
def us16 : Nat := 1000 * 2 ^ 16

/-- The layout of R300 for a time in units of 2^-16 ns. -/
def layout80 (t : Nat) : Nat :=
  packFields [(0, 16, t), (16, 30, t / 2 ^ 16 % 10 ^ 9), (46, 34, t / 2 ^ 16 / 10 ^ 9)]

/-- The time that an 80-bit field of R300 spells, in units of 2^-16 ns. -/
def ofLayout80 (v : Nat) : Nat :=
  (v / 2 ^ 46 % 2 ^ 34 * 10 ^ 9 + v / 2 ^ 16 % 2 ^ 30) * 2 ^ 16 + v % 2 ^ 16

/-- The working clock, in units of 2^-16 ns. -/
def State.now16 (s : State) : Nat := t16 s.dyn.time.wc

/-- The working clock in whole microseconds. -/
def State.nowUs (s : State) : Nat := s.dyn.time.wc / us48

/-- Island time, in units of 2^-16 ns (R419). -/
def State.island16 (s : State) : Nat := t16 s.dyn.island.time

/-! Berths, basins, tiles -/

/-- The descriptor of a berth (R402). -/
def Shadow.berth (c : Shadow) (b : BitVec 6) : BerthDesc := tabGet {} c.berths b.toNat

/-- The descriptor of a basin (R56). -/
def Shadow.basin (c : Shadow) (n : Nat) : BasinDesc := tabGet {} c.basins n

/-- The descriptor of a queue (R163). -/
def Shadow.queueDesc (c : Shadow) (q : Nat) : QueueDesc := tabGet {} c.queues q

/-- The basin is in use. -/
def Shadow.basinUsed (c : Shadow) (n : Nat) : Bool := (c.basin n).kind != 0

/-- Is basin `n` the basin `a` or a descendant of it? `fuel` bounds the walk up the parents. -/
def Shadow.underN (c : Shadow) (a : Nat) : Nat → Nat → Bool
  | 0, _ => false
  | fuel + 1, n =>
    if n = a then true
    else if (c.basin n).hasParent then c.underN a fuel (c.basin n).parent.toNat else false

/-- Is basin `n` the basin `a` or a descendant of it (R56)? -/
def Shadow.under (c : Shadow) (a n : Nat) : Bool := c.underN a 1024 n

/-- Levels above a basin (R56, DEPTH). -/
def Shadow.depthN (c : Shadow) : Nat → Nat → Nat
  | 0, _ => 0
  | fuel + 1, n =>
    if (c.basin n).hasParent then 1 + c.depthN fuel (c.basin n).parent.toNat else 0

/-- SAFETY of a basin: it is 0x000 or a descendant of it. -/
def Shadow.safetyBasin (c : Shadow) (n : Nat) : Bool := c.basinUsed n && c.under 0 n

/-- The children of a basin, ascending. -/
def Shadow.children (c : Shadow) (n : Nat) : List Nat :=
  tabKeys (fun _ d => d.kind != 0 && d.hasParent && d.parent.toNat == n) c.basins

/-- The leaf basin that holds a logical tile, if any (R57). -/
def Shadow.leafOf (c : Shadow) (t : Nat) : Option Nat :=
  (tabKeys (fun _ d => d.kind == 1 && bitAt d.tileMask t) c.basins).head?

/-- The physical tile that carries a logical tile (R51, R492). -/
def Shadow.physOf (c : Shadow) (t : Nat) : Option Nat :=
  (tabKeys (fun _ k => k == .logical t) c.tiles).head?

/-- The logical tile that a physical tile carries. -/
def Shadow.logicalOf (c : Shadow) (p : Nat) : Option Nat :=
  match tabGet TileKind.spare c.tiles p with
  | .logical t => some t
  | _ => none

/-- The logical tiles that a physical tile carries, ascending. -/
def Shadow.enabledTiles (c : Shadow) : List Nat :=
  (upFrom 0 36).filter fun t => (c.physOf t).isSome

/-- The logical tile is enabled. -/
def Shadow.enabled (c : Shadow) (t : Nat) : Bool := (c.physOf t).isSome

/-- The logical tiles under a basin, ascending (R56). -/
def Shadow.tilesUnder (c : Shadow) (n : Nat) : List Nat :=
  c.enabledTiles.filter fun t =>
    match c.leafOf t with
    | some l => c.under n l
    | none => false

/-- Every logical number that the masks of the leaf basins under `n` name, enabled or not. -/
def Shadow.maskUnder (c : Shadow) (n : Nat) : List Nat :=
  (upFrom 0 32).filter fun t =>
    match c.leafOf t with
    | some l => c.under n l
    | none => false

/-- The logical tile is in the safety basin. -/
def Shadow.safetyTile (c : Shadow) (t : Nat) : Bool :=
  match c.leafOf t with
  | some l => c.safetyBasin l
  | none => false

/-- The owner of basin 0x000, if it is in use (R447). -/
def Shadow.safetyOwner (c : Shadow) : Option (BitVec 6) :=
  if c.basinUsed 0 then some (c.basin 0).berth else none

/-- The basin whose ENDPOINT a queue is, if any (R58). -/
def Shadow.basinOfQueue (c : Shadow) (q : Nat) : Option Nat :=
  (tabKeys (fun _ d => d.kind != 0 && d.endpoint.toNat == q) c.basins).head?

/-- A queue is the endpoint of a basin in the safety basin (R50, R379). -/
def Shadow.safetyQueue (c : Shadow) (q : Nat) : Bool :=
  match c.basinOfQueue q with
  | some n => c.safetyBasin n
  | none => false

/-- The column of a device physical address in DRAM (R183). -/
def columnOf (pa : Nat) : Nat := pa / 0x80000000

/-- The address lies in DRAM. -/
def inDram (pa : Nat) : Bool := pa < 36 * 0x80000000

/-- The frame lies in berth memory: DRAM below the reserved region of its column (R186). -/
def berthFrame (f : Nat) : Bool := f < 36 * 0x8000 && f % 0x8000 < 0x7800

/-- The frame lies in the register range (R184). -/
def registerFrame (f : Nat) : Bool := 0x80000000 ≤ f && f < 0x80010000

/-- The frame lies in the PCIe range (R184). -/
def pcieFrame (f : Nat) : Bool := 0xC0000000 ≤ f && f < 0x100000000

/-! The power budget (R40) -/

/-- Worst-case tile power at a step, in mW (R40), linear between the rows of the table. -/
def tilePowerMw (step : Nat) : Nat :=
  if step ≤ 4 then 7600 + (9600 - 7600) * step / 4
  else if step ≤ 8 then 9600 + (12000 - 9600) * (step - 4) / 4
  else if step ≤ 13 then 12000 + (15000 - 12000) * (step - 8) / 5
  else 15000 + (18400 - 15000) * (step - 13) / 5

/-- The budget of R40 in mW. -/
def Shadow.budgetMw (c : Shadow) : Nat :=
  let ns := (c.tilesUnder 0).length
  ns * tilePowerMw c.policy.safeStep.toNat + (c.enabledTiles.length - ns) * 1000 + 162000

/-- The budget fits 480 W. -/
def Shadow.budgetOk (c : Shadow) : Bool := c.budgetMw ≤ 480000

/-! Translation (R195 to R202) -/

/-- The number of the entry that translates a berth virtual address, if it lies in the range (R195). -/
def Shadow.entryNo (c : Shadow) (b : BitVec 6) (va : Nat) : Option Nat :=
  let d := c.berth b
  let v := va / 0x10000
  if va < 2 ^ 40 ∧ v < d.xlatCount.toNat then some (d.xlatFirst.toNat + v) else none

/-- The configuration that a transaction admitted at lock cycle `n` uses to its end (R52, R71). -/
def State.cfgAt (s : State) (n : Nat) : Shadow :=
  if n < s.lock.number.toNat then s.lock.prev.getD s.dyn.cfg else s.dyn.cfg

/-- The valid entry of a configuration that translates an address for a berth: R195, R197 (owner), R200 (void ranges). -/
def State.lookupIn (s : State) (c : Shadow) (b : BitVec 6) (va : Nat) : Option XlatEntry :=
  if (tabGet none s.lock.voids b.toNat).isSome then none
  else
    match c.entryNo b va with
    | none => none
    | some n =>
      let e := tabGet {} c.xlat n
      if e.valid ∧ e.owner = b then some e else none

/-- The entry for a transaction admitted at lock cycle `n` (R72, R199). -/
def State.lookupAt (s : State) (n : Nat) (b : BitVec 6) (va : Nat) : Option XlatEntry := s.lookupIn (s.cfgAt n) b va

/-- The entry for a transaction admitted now. -/
def State.lookup (s : State) (b : BitVec 6) (va : Nat) : Option XlatEntry := s.lookupIn s.dyn.cfg b va

/-- The device physical (or remote) address behind an entry. -/
def XlatEntry.addr (e : XlatEntry) (va : Nat) : Nat := e.frame.toNat * 0x10000 + va % 0x10000

/-- The pages that `len` bytes from `va` touch, by their first address. -/
def pagesOf (va len : Nat) : List Nat :=
  if len = 0 then []
  else (upFrom (va / 0x10000) ((va + len - 1) / 0x10000 - va / 0x10000 + 1)).map (· * 0x10000)

/-- Every page of a range is mapped, of type normal, and permits reads (or writes). -/
def State.rangeOk (s : State) (b : BitVec 6) (va len : Nat) (write : Bool) : Bool :=
  va + len ≤ 2 ^ 40 && (pagesOf va len).all fun p =>
    match s.lookup b p with
    | none => false
    | some e => !e.device1 && (if write then e.write else e.read)

/-- Berth virtual addresses behind which nothing is mapped or readable fault; others read. -/
def State.readable (s : State) (b : BitVec 6) (va len : Nat) : Bool := s.rangeOk b va len false

/-- The range is on mapped, writable normal pages. -/
def State.writable (s : State) (b : BitVec 6) (va len : Nat) : Bool := s.rangeOk b va len true

/-- A job is placed on a logical tile. -/
def Job.placedOn (j : Job) (t : Nat) : Bool :=
  j.placed && (j.tiles.contains t || j.shards.any fun x => x.tile == t)

/-- A task of a job beside its workgroups runs on a logical tile: array work, or a shard that has switched (R62). -/
def Job.uses (j : Job) (t : Nat) : Bool :=
  j.placed && ((j.array.isSome && j.tiles.contains t) || j.shards.any fun x => x.tile == t && x.switched)

/-- A physical tile has work: a job, a workgroup or a screen tile (R41). -/
def Dyn.tileBusy (d : Dyn) (p : Nat) : Bool :=
  let w := tabGet {} d.work.tiles p
  !w.workgroups.isEmpty || !w.raster.isEmpty ||
  match d.cfg.logicalOf p with
  | none => false
  | some l => tabAny (fun _ j => match j with
      | some j => j.uses l
      | none => false) d.work.jobs

/-- The service state (R399). -/
def State.inService (s : State) : Bool := !s.dyn.cfg.running

end Sys2Proof.Machine
end

