-- ==== Sys2Proof/Machine/Mesh.lean ====
section
/-! DEFINITION. The mesh: routes, traffic classes and channels, units and their pounds (R48 to R55, R481, R483). -/

namespace Sys2Proof.Machine

/-! Routes (R48) -/

/-- The next router from `a` towards `b`, for physical tiles 6y + x: along x to its column, then along y. -/
def nextRouter (a b : Nat) : Nat :=
  if a % 6 < b % 6 then a + 1
  else if b % 6 < a % 6 then a - 1
  else if a / 6 < b / 6 then a + 6
  else if b / 6 < a / 6 then a - 6
  else a

/-- The routers that a transaction passes after `a`, up to and with `b`; `fuel` bounds them. -/
def routeN : Nat → Nat → Nat → List Nat
  | 0, _, _ => []
  | fuel + 1, a, b => if a = b then [] else nextRouter a b :: routeN fuel (nextRouter a b) b

/-- The route between two physical tiles. -/
def meshRoute (a b : Nat) : List Nat := routeN 10 a b

/-- Router hops between two physical tiles. -/
def hops (a b : Nat) : Nat := (meshRoute a b).length

/-! Units: the NIs 0 to 35, and the edge ports behind them (R50, R53) -/

/-- The port of an edge unit. -/
def edgePort : EdgeUnit → Nat
  | .ingest => 36
  | .confluence => 37
  | .gateway => 41
  | .display => 42

/-- The port of a hart's cluster, one of three of 8 harts. -/
def clusterPort (h : Fin 24) : Nat := 38 + h.val / 8
/-- The ports of Veldon, of Lockkeeper's read port, and of the Isgal ports. -/
def veldonPort : Nat := 43
def readPortPort : Nat := 44
def isgalPort (p : Nat) : Nat := 45 + p

/-- The unit that a requester's completions return to. -/
def State.requesterUnit (s : State) : Requester → Nat
  | .context t _ => (s.dyn.cfg.physOf t).getD 0
  | .hart h => clusterPort h
  | .edge u _ => edgePort u

/-! Classes (R50, R481) -/

/-- The number of a class: the order in which flits are chosen. -/
def poundIndex : PoundKind → Nat
  | .completion => 0
  | .posted => 1
  | .request => 2

/-- The class of a transaction's CLASS field. -/
def poundOf (cls : BitVec 2) : PoundKind :=
  if cls = 0 then .completion else if cls = 1 then .posted else .request

/-- The place of a class and channel in the order of R481. -/
def sendRank (k : PoundKind) (safety : Bool) : Nat := 2 * poundIndex k + b2n (!safety)

/-- A list in the order of R481, and otherwise as it stood. -/
def bySendRank {α : Type} (rank : α → Nat) (l : List α) : List α :=
  (upFrom 0 6).flatMap fun k => l.filter fun x => rank x == k

/-! Pounds (R53 to R55) -/

/-- Slots of a pound: all, and the safety reserve among them. -/
def poundSlots : PoundKind → Nat × Nat
  | .completion => (1024, 256)
  | .posted => (512, 128)
  | .request => (512, 128)

/-- The key of a pound's general slots, or of its reserve. -/
def poundKey (unit : Nat) (k : PoundKind) (reserve : Bool) : Nat := (unit * 3 + poundIndex k) * 2 + b2n reserve

/-- Take one slot of a pound: general traffic a general slot, safety traffic the reserve first. -/
def takeSlot (unit : Nat) (k : PoundKind) (safety : Bool) (t : Tab Nat) : Option (Tab Nat) :=
  let (all, reserve) := poundSlots k
  let g := poundKey unit k false
  let r := poundKey unit k true
  if safety ∧ tabGet 0 t r < reserve then some (tabMod 0 t r (· + 1))
  else if tabGet 0 t g < all - reserve then some (tabMod 0 t g (· + 1))
  else none

/-- Give slots of a pound back. -/
def returnSlots (unit : Nat) (k : PoundKind) (reserve : Bool) (n : Nat) (t : Tab Nat) : Tab Nat :=
  tabMod 0 t (poundKey unit k reserve) (· - n)

end Sys2Proof.Machine
end

