-- ==== Sys2Proof/Machine/Reserved.lean ====
section
/-! DEFINITION. The reserved region of the columns: what lies where, and where second copies lie (R186, R198, R472). -/

namespace Sys2Proof.Machine

/-- The uses of the reserved region, in the order of R186's table: 0 the translation table, 1 lane programs, 2 model
images, 3 Veldon code and data, 4 safety calibration data, 5 records and logs, 6 second copies, 7 the firmware reserve. -/
def useTotal (u : Nat) : Nat := [2048, 16384, 16384, 8192, 4096, 1024].getD u 0

/-- Chunks of 64 KB of one of the uses 0 to 5 in a column: chunk j of a use lies in column j mod 36. -/
def evenShare (u c : Nat) : Nat := useTotal u / 36 + b2n (c < useTotal u % 36)

/-- The uses that are held twice (R472). -/
def doubleUses : List Nat := [0, 3, 4]

/-- Chunks of a use in a column; the firmware reserve has what is left of 128 MB. -/
def useCount (u c : Nat) : Nat :=
  let second := (doubleUses.map fun d => evenShare d ((c + 18) % 36)).foldl (· + ·) 0
  if u < 6 then evenShare u c
  else if u = 6 then second
  else 2048 - second - ((upFrom 0 6).map fun d => evenShare d c).foldl (· + ·) 0

/-- The arrangement of a list that a number picks. -/
def arrange : Nat → Nat → List Nat → List Nat
  | 0, _, _ => []
  | fuel + 1, n, l => match l with
    | [] => []
    | a :: t =>
      let x := l.getD (n % l.length) a
      x :: arrange fuel (n / l.length) ((a :: t).erase x)

/-- The order of the uses within the region of every column: the manual gives none. -/
def useOrder : List Nat := arrange 8 Config.reservedOrder (upFrom 0 8)

/-- The first chunk of a use in a column. -/
def useBase (u c : Nat) : Nat := ((useOrder.takeWhile (· != u)).map fun v => useCount v c).foldl (· + ·) 0

/-- The line number at which the reserved region of a column begins. -/
def reservedLine (c : Nat) : Nat := c * 0x2000000 + 0x1E00000

/-- The line `k` of chunk `i` of a use in a column. -/
def useLine (u c i k : Nat) : Nat := reservedLine c + (useBase u c + i) * 1024 + k

/-- Where a chunk of a column's region lies: its use, and its number within the use there. -/
def chunkUse (c : Nat) : List Nat → Nat → Nat × Nat
  | [], i => (7, i)
  | u :: t, i => if i < useCount u c then (u, i) else chunkUse c t (i - useCount u c)

/-- What a line of the reserved region holds: its use and the number of its chunk within the use in its column. -/
def lineUse (l : Nat) : Nat × Nat :=
  let c := columnOf (l * 64)
  chunkUse c useOrder ((l - reservedLine c) / 1024)

/-- The number in its use of chunk `i` of a column. -/
def spreadChunk (c i : Nat) : Nat := 36 * i + c

/-- The line of the translation table that holds an entry (R198). -/
def tableLine (n : Nat) : Nat := useLine 0 (n / 8192 % 36) (n / 8192 / 36) (n % 8192 / 8)

/-- The first of the eight entries on a line of the translation table. -/
def tableEntry (l : Nat) : Nat := spreadChunk (columnOf (l * 64)) (lineUse l).2 * 8192 + l % 1024 * 8

/-- Chunks of the doubled uses before `u` in a column: where its copies begin in the second-copy area. -/
def copyBase (u c : Nat) : Nat := ((doubleUses.takeWhile (· != u)).map fun v => evenShare v c).foldl (· + ·) 0

/-- Which doubled use and chunk of column `c` the chunk `i` of its second-copy area is. -/
def copiedFrom (c : Nat) : List Nat → Nat → Nat × Nat
  | [], i => (7, i)
  | u :: t, i => if i < evenShare u c then (u, i) else copiedFrom c t (i - evenShare u c)

/-- What a line of the reserved region holds in two copies: the use and the line of the other copy; none: it is held
once. -/
def otherCopy (l : Nat) : Option (Nat × Nat) :=
  let c := columnOf (l * 64)
  let d := (c + 18) % 36
  let (u, i) := lineUse l
  if doubleUses.contains u then some (u, useLine 6 d (copyBase u c + i) (l % 1024))
  else if u = 6 then
    let (v, k) := copiedFrom d doubleUses i
    some (v, useLine v d k (l % 1024))
  else none

/-- The lines of a slot of the lane program area: 64 berths of 64 slots of four chunks. -/
def programLine (b slot off : Nat) : Nat :=
  let j := (b * 64 + slot) * 4 + off / 0x10000
  useLine 1 (j % 36) (j / 36) (off % 0x10000 / 64)

/-- The line of a unit of the model image pool, at an offset. -/
def imageLine (u off : Nat) : Nat := useLine 2 (u % 36) (u / 36) (off % 0x10000 / 64)

end Sys2Proof.Machine
end

