-- ==== Sys2Proof/Machine/Ops.lean ====
section
/-! DEFINITION. The named operations over the state: doubts, interrupts, error records, memory with its
symbol code, and access through translation. -/

namespace Sys2Proof.Machine

/-! Interrupts and in-band interrupts -/

/-- Raise identity BASE + k at a berth's interrupt target (R533); nothing without a valid target. -/
def raiseBerth (b k : Nat) (s : State) : State :=
  let t := tabGet {} s.dyn.cores.targets b
  if t.valid then
    s.modCores fun c =>
      let id := (t.hart.toNat * 16 + t.file.toNat) * 2048 + t.base.toNat + k
      { c with pending := tabPut false c.pending id true }
  else s

/-- The target port requests an in-band interrupt with a mandatory byte, unless the supervisor has
disabled them (R393). -/
def requestIbi (b : Byte) (s : State) : State :=
  s.modI3c fun i => if i.ibiOn then { i with ibis := i.ibis ++ [b] } else i

/-- The supervisor has negotiated IBI_DOUBT (R396). -/
def State.ibiDoubt (s : State) : Bool := bitAt (s.mailbox 64).features 3

/-! Doubts (R443, R444) -/

/-- What raising source `i` does to the latch and its record, at island time `now`. -/
def Safety.raise (i : Nat) (now : Nat) (f : Safety) : Safety :=
  let bit : BitVec 10 := BitVec.ofNat 10 (2 ^ i)
  if f.latch then { f with sources := f.sources ||| bit, seen := f.seen ||| bit }
  else
    { f with latch := true, sources := f.sources ||| bit, seen := bit, first := BitVec.ofNat 4 i,
             setAt := now, gaugeSeen := false, gauge := 0, stagedSince := false, noPlan := false,
             playing := false }

/-- Raise doubt source `i`: the source bit, the latch, and in-band interrupt 0x02 when the latch sets. -/
def raiseDoubt (i : Nat) (s : State) : State :=
  let s' := s.modSafety (Safety.raise i s.island16)
  if s.dyn.safety.latch then s' else if s.ibiDoubt then requestIbi 0x02 s' else s'

/-! Error records (R477, R561) -/

/-- Who made an access, as error records name it. -/
structure Src where
  source : BitVec 3 := 1
  ctxValid : Bool := false
  berth : BitVec 6 := 0
  gen : BitVec 16 := 0
  queue : BitVec 18 := 0
  seq : BitVec 32 := 0
  /-- the access is made by a safety-basin context, or by the read port for a Gauge or plan (R444) -/
  safety : Bool := false
  /-- the access travels on the safety channel for another reason (R50, R338, R361, R379) -/
  channel : Bool := false
  /-- the NI or edge port that translates the access (R198); none: device physical addresses (R185) -/
  unit : Option Nat := none
  deriving DecidableEq, Repr

/-- The access travels on the safety channel (R50). -/
def Src.onSafety (a : Src) : Bool := a.safety || a.channel

/-- Enter a finished error record; the ring keeps the last 524,288. -/
def enterError (r : ErrRec) (s : State) : State :=
  s.modErrors fun e =>
    let ring := tabPut none e.ring e.nextNumber (some r)
    { e with ring := if e.nextNumber < 524288 then ring
                     else tabPut none ring (e.nextNumber - 524288) none,
             nextNumber := e.nextNumber + 1 }

/-- The second of a count's first event. -/
def SecCount.second (c : SecCount) : Nat := fldN c.first 46 34

/-- The record of a finished second of one line or lane (R477, R561). -/
def secondRecord (kind : BitVec 4) (addr : Nat) (c : SecCount) : ErrRec :=
  { kind := kind, source := c.source, ctxValid := c.ctxValid, unit := c.unit, symbol := c.symbol, berth := c.berth,
    gen := c.gen, queue := c.queue, seq := c.seq, addr := BitVec.ofNat 48 addr, count := satOf 16 c.count,
    time := c.first, lockCycle := c.lockCycle }

/-- Before a line or lane is counted in a new second, the count of a second that has ended is written. -/
def flushSecond (kind : BitVec 4) (addr : Nat) (c : SecCount) (s : State) : State :=
  if 0 < c.count ∧ c.second < s.now16 / (10 ^ 9 * 2 ^ 16) then enterError (secondRecord kind addr c) s else s

/-- The count goes on within a second; a count of an ended second starts anew from `fresh`. -/
def SecCount.next (fresh c : SecCount) (now : Nat) : SecCount :=
  if c.count = 0 ∨ c.second < now / (10 ^ 9 * 2 ^ 16) then fresh else { c with count := c.count + 1 }

/-- Write the error record of an event of this moment. -/
def addError (r : ErrRec) (s : State) : State :=
  enterError { r with time := BitVec.ofNat 80 (layout80 s.now16), lockCycle := s.lock.number } s

/-- The record of an event met by an access. -/
def Src.toRec (a : Src) (kind : BitVec 4) : ErrRec :=
  { kind := kind, source := a.source, ctxValid := a.ctxValid, berth := a.berth, gen := a.gen,
    queue := a.queue, seq := a.seq }

/-! DRAM lines (R190 to R194, R468 to R473) -/

/-- The bytes of the data symbols of line `l`. -/
def Memory.lineBytes (m : Memory) (l : Nat) : List Byte := (upFrom (64 * l) 64).map (tabGet 0 m.bytes)

/-- The difference of the stored codeword of line `l` from the codeword of its bytes. -/
def Memory.err (m : Memory) (l : Nat) : BitVec 544 := tabGet 0 m.errs l

/-- The canonical form: addresses and lines strictly rising, nothing listed that reads as unlisted. -/
def Memory.wf (m : Memory) : Bool := tabWf 0 m.bytes && tabWf 0 m.errs

/-- Store bytes from an address upwards. -/
def putBytes (t : Tab Byte) (a : Nat) : List Byte → Tab Byte
  | [] => t
  | b :: bs => putBytes (tabPut 0 t a b) (a + 1) bs

/-- Replace a whole line by a clean codeword (R193). -/
def Memory.setLine (m : Memory) (l : Nat) (bs : List Byte) : Memory :=
  { m with bytes := putBytes m.bytes (64 * l) (takeBytes 64 bs), errs := tabPut 0 m.errs l 0 }

/-- What a read of line `l` delivers: the data, and the corrected symbol if one was corrected; none
when the line is uncorrectable (R191). -/
def Memory.readLine (m : Memory) (l : Nat) : Option (List Byte × Option Nat) :=
  let e := m.err l
  match lineVerdict e with
  | .clean => some (List.zipWith (· ^^^ ·) (m.lineBytes l) (symData e), none)
  | .corrected p x => some (List.zipWith (· ^^^ ·) (m.lineBytes l) (symData (symXor e p x)), some p)
  | .uncorrectable => none

/-- The frame is marked: its home answers every access with an error (R470). -/
def State.badFrame (s : State) (f : Nat) : Bool := tabGet false s.dyn.errors.badFrames f

/-- Retire a frame at the next close (R470). -/
def queueFrame (f : Nat) (s : State) : State :=
  s.modLock fun k => if k.retireFrames.contains f then k else { k with retireFrames := k.retireFrames ++ [f] }

/-- The line, die and row of a line number: column, second die, row index (R183). -/
def rowOf (l : Nat) : Nat × Bool × Nat :=
  let off := l * 64 % 0x80000000
  (columnOf (l * 64), decide (0x40000000 ≤ off), off % 0x40000000 / 8192)

/-- Copy the lines of a row to a spare, correcting each (R471): lines that stay uncorrectable stand as
they are and their frame is retired. -/
def copyRow : List Nat → State → State
  | [], s => s
  | l :: t, s =>
    match s.mem.readLine l with
    | some (d, _) => copyRow t (s.modMem fun m => m.setLine l d)
    | none => copyRow t (if berthFrame (l / 1024) then queueFrame (l / 1024) s else s)

/-- Spare the row that holds line `l` (R471). -/
def spareRow (l : Nat) (s : State) : State :=
  let (c, die2, _) := rowOf l
  let first := l / 128 * 128
  let s := copyRow (upFrom first 128) s
  let s := s.modErrors fun e =>
    { e with columns := tabMod {} e.columns c fun col =>
        { col with history := col.history.filter fun h => h.1 / 128 != l / 128,
                   spared1 := if die2 then col.spared1 else col.spared1 + 1,
                   spared2 := if die2 then col.spared2 + 1 else col.spared2 } }
  addError { kind := 2, source := 1, unit := BitVec.ofNat 6 c, addr := BitVec.ofNat 48 (first * 64) } s

/-- Twenty-four hours in units of 2^-16 ns. -/
def day16 : Nat := 86400 * 10 ^ 9 * 2 ^ 16

/-- What a corrected read does to the column's history (R471). -/
def noteCorrection (l : Nat) (s : State) : State :=
  let (c, die2, _) := rowOf l
  let col := tabGet {} s.dyn.errors.columns c
  let now := s.now16
  match col.history.find? (fun h => h.1 == l) with
  | some h =>
    if now < h.2 + day16 then
      if (if die2 then col.spared2 else col.spared1) < 512 then spareRow l s
      else addError { kind := 0xE, source := 1, unit := BitVec.ofNat 6 c,
                      addr := BitVec.ofNat 48 (l / 128 * 128 * 64) } s
    else
      s.modErrors fun e => { e with columns := tabMod {} e.columns c fun col =>
        { col with history := col.history.map fun h => if h.1 = l then (l, now) else h } }
  | none =>
    s.modErrors fun e => { e with columns := tabMod {} e.columns c fun col =>
      { col with history :=
          (if col.history.length < 64 then col.history
           else match minBy (fun h => h.2) col.history with
             | some o => col.history.filter fun h => h.1 != o.1
             | none => col.history) ++ [(l, now)] } }

/-- Count a correction of line `l` in the current second (R477). -/
def countCorrection (a : Src) (l p : Nat) (s : State) : State :=
  let s := flushSecond 0 (l * 64) (tabGet {} s.dyn.errors.lineSecs l) s
  let fresh : SecCount :=
    { unit := BitVec.ofNat 6 (columnOf (l * 64)), source := a.source, ctxValid := a.ctxValid, berth := a.berth, gen := a.gen,
      queue := a.queue, seq := a.seq, symbol := BitVec.ofNat 7 p, count := 1, first := BitVec.ofNat 80 (layout80 s.now16),
      lockCycle := s.lock.number }
  s.modErrors fun e => { e with lineSecs := tabMod {} e.lineSecs l fun c => SecCount.next fresh c s.now16 }

/-- What an uncorrectable read does besides the error completion: the record, the retirement of the
frame at the next close, and for a safety context the doubt (R444, R470, R477). -/
def noteUncorrectable (a : Src) (l : Nat) (s : State) : State :=
  let s := addError { a.toRec 1 with unit := BitVec.ofNat 6 (columnOf (l * 64)),
                                     addr := BitVec.ofNat 48 (l * 64) } s
  let s := if berthFrame (l / 1024) then queueFrame (l / 1024) s else s
  if a.safety then
    raiseDoubt 6 (s.modSafety fun f =>
      { f with uncorrectable := f.uncorrectable ++ [(l / 1024, a.ctxValid)] })
  else s

/-- Read one DRAM line on behalf of `a`: clean or corrected data (a correction is written back, counted
and entered in the history), or none (R191, R192, R470). -/
def readDramLine (a : Src) (l : Nat) (s : State) : State × Option (List Byte) :=
  if s.badFrame (l / 1024) then (s, none) else
  match s.mem.readLine l with
  | some (d, none) => (s, some d)
  | some (d, some p) =>
    (noteCorrection l (countCorrection a l p (s.modMem fun m => m.setLine l d)), some d)
  | none => (noteUncorrectable a l s, none)

/-- Errors that the read meets are in the stored line: flip its codeword. -/
def flipLine (l : Nat) (e : BitVec 544) (s : State) : State :=
  if e = 0 then s else s.modMem fun m => { m with errs := tabMod 0 m.errs l fun x => x ^^^ e }

/-- Read the lines listed; none if any of them is uncorrectable. -/
def readDramLines (a : Src) : List Nat → State → State × Option (List Byte)
  | [], s => (s, some [])
  | l :: t, s =>
    match readDramLine a l s with
    | (s, none) => (s, none)
    | (s, some d) =>
      match readDramLines a t s with
      | (s, none) => (s, none)
      | (s, some r) => (s, some (d ++ r))

/-- The lines that `len` bytes from `pa` touch. -/
def linesOf (pa len : Nat) : List Nat :=
  if len = 0 then [] else upFrom (pa / 64) ((pa + len - 1) / 64 - pa / 64 + 1)

/-- Read bytes of DRAM on behalf of `a`. -/
def readDram (a : Src) (pa len : Nat) (s : State) : State × Option (List Byte) :=
  match readDramLines a (linesOf pa len) s with
  | (s, none) => (s, none)
  | (s, some d) => (s, some ((d.drop (pa % 64)).take len))

/-- What a write to a line ends: a peer's lock on it, so that the store-conditional fails (R522), the local
reservations of harts, and the copies in prefetch buffers (R208). -/
def endLockOn (l : Nat) (s : State) : State :=
  let col := columnOf (l * 64)
  let s := s.modCores fun c => { c with reservations := tabMap 0 (fun _ v => if v = l + 1 then 0 else v) c.reservations }
  let s := s.modWork fun w =>
    { w with tiles := tabMap {} (fun _ t => { t with prefetch := t.prefetch.filter fun e => e.line != l }) w.tiles }
  match tabGet none s.dyn.isgal.colLocks col with
  | some k => if k.line = l then s.modIsgal fun g => { g with colLocks := tabPut none g.colLocks col none } else s
  | none => s

/-- Write bytes within one line (R193): a whole line replaces the codeword, a part is merged into the
stored line, and an uncorrectable stored line drops the write. The flag: the write was committed. -/
def writeDramLine (a : Src) (pa : Nat) (bs : List Byte) (s : State) : State × Bool :=
  let l := pa / 64
  let s := endLockOn l s
  if s.badFrame (l / 1024) then (s, false) else
  if bs.length = 64 ∧ pa % 64 = 0 then (s.modMem fun m => m.setLine l bs, true)
  else
    match readDramLine a l s with
    | (s, none) => (s, false)
    | (s, some d) => (s.modMem fun m => m.setLine l (d.take (pa % 64) ++ bs ++ d.drop (pa % 64 + bs.length)), true)

/-- Write bytes of DRAM on behalf of `a`, line by line; `fuel` bounds the lines. The flag: every line
was committed. -/
def writeDramN (a : Src) : Nat → Nat → List Byte → State → State × Bool
  | 0, _, _, s => (s, true)
  | fuel + 1, pa, bs, s =>
    if bs.isEmpty then (s, true) else
    let n := 64 - pa % 64
    match writeDramLine a pa (bs.take n) s with
    | (s, ok) =>
      match writeDramN a fuel (pa + n) (bs.drop n) s with
      | (s, ok') => (s, ok && ok')

/-- Write bytes of DRAM on behalf of `a`. -/
def writeDram (a : Src) (pa : Nat) (bs : List Byte) (s : State) : State × Bool :=
  writeDramN a (bs.length + 1) pa bs s

/-! Lines held twice, and the translation caches (R198, R472) -/

/-- Both copies of a line are uncorrectable: the eight entries, the bands, or Veldon are lost. -/
def loseLine (u l : Nat) (s : State) : State :=
  if u = 0 then s.modLock fun k => { k with lostEntries := k.lostEntries ++ upFrom (tableEntry l) 8 }
  else if u = 4 then s.modErrors fun e => { e with lostBands := Config.bandModel l :: e.lostBands }
  else s.modErrors fun e => { e with veldonHalted := true }

/-- A read of a line of a doubled use: a bad copy is rewritten from the other. The flag: one copy was good. -/
def readDoubled (a : Src) (u l other : Nat) (s : State) : State × Bool :=
  match s.mem.readLine l with
  | some _ => ((readDramLine a l s).1, true)
  | none =>
    match s.mem.readLine other with
    | some (d, _) =>
      (noteCorrection l (addError { kind := 0xD, source := 1, unit := BitVec.ofNat 6 (columnOf (l * 64)), addr := BitVec.ofNat 48 (l * 64) }
        (s.modMem fun m => m.setLine l d)), true)
    | none => (loseLine u l (noteUncorrectable a l s), false)

/-- An entry comes to the front of a unit's translation cache of 2,048. -/
def cacheEntry (unit n : Nat) (s : State) : State :=
  s.modWork fun w => { w with xlatCache := tabMod [] w.xlatCache unit fun l => (n :: l.filter (· != n)).take 2048 }

/-- A unit looks an entry up: in its cache, or by a read of the entry's line. The flag: it has the entry. -/
def walk (unit : Option Nat) (entry : Option Nat) (s : State) : State × Bool :=
  match unit, entry with
  | some u, some n =>
    if (tabGet [] s.dyn.work.xlatCache u).contains n then (cacheEntry u n s, true)
    else
      let l := tableLine n
      match s.mem.readLine l with
      | some (_, none) => (cacheEntry u n s, true)
      | _ =>
        match otherCopy l with
        | some (v, o) =>
          match readDoubled { source := 1 } v l o s with
          | (s, true) => (cacheEntry u n s, true)
          | (s, false) => (s, false)
        | none => (cacheEntry u n s, true)
  | _, _ => (s, true)

/-! Accesses through translation -/

/-- An edge unit acts for a berth (R561). -/
def edgeSrc (s : State) (u : EdgeUnit) (b : BitVec 6) : Src :=
  { source := 3, berth := b, gen := (s.dyn.cfg.berth b).gen, unit := some (edgePort u) }

/-- What a read or write through translation meets. -/
inductive Access (α : Type) where
  | ok (v : α)
  | addressFault
  | uncorrectable
  deriving DecidableEq, Repr

/-- An Isgal port. -/
def State.port (s : State) (p : Nat) : PortDyn := tabGet {} s.dyn.isgal.ports p

/-- Update an Isgal port. -/
def State.modPort (p : Nat) (f : PortDyn → PortDyn) (s : State) : State :=
  s.modIsgal fun g => { g with ports := tabMod {} g.ports p f }

/-- The device physical address of a transaction. -/
def txColumnAddr (tx : IsgalTx) : Nat := tx.addr.toNat % 2 ^ 48

/-- The ports of a peer's group in this lock cycle's set, ascending (R517). -/
def State.peerPorts (s : State) (dev : BitVec 2) : List Nat :=
  (upFrom 0 6).filter fun p => bitAt s.dyn.isgal.upSet p && (s.port p).peer == dev

/-- Some port of the peer's group is up: without one every access to the peer is an address fault. -/
def State.peerUp (s : State) (dev : BitVec 2) : Bool :=
  (upFrom 0 6).any fun p => (s.port p).state == .up && (s.port p).peer == dev

/-- The port that a transaction leaves by: its target column selects among the peer's group (R517). -/
def State.portTo (s : State) (dev : BitVec 2) (addr : Nat) : Option Nat :=
  let ps := s.peerPorts dev
  if ps.isEmpty then none else some (ps.getD (columnOf (addr % 2 ^ 48) % ps.length) 0)

/-- A flit leaves a port with a transaction, in slots of the peer's port, and stays in its replay buffer. -/
def transmit (p : Nat) (tx : IsgalTx) (owner : Option Requester) (slots : Tab Nat) (s : State) : State :=
  let asks := tx.cls = 2
  let s := s.modPort p fun d =>
    { d with txSeq := d.txSeq + 1, replay := d.replay ++ [(d.txSeq + 1, tx, owner)], sent := tx :: d.sent, slots := slots }
  if asks then
    s.modIsgal fun g =>
      { g with outs := g.outs.map fun (o : OutReq) => if o.tag = tx.tag then { o with port := some p } else o
               outLocks := g.outLocks.map fun (o : OutLock) => if o.tag = tx.tag then { o with port := some p } else o }
  else s

/-- A transaction follows one that waits: one class and channel, one column (R51, R518). -/
def WaitTx.before (w : WaitTx) (dev : BitVec 2) (tx : IsgalTx) : Bool :=
  w.dev == dev && w.tx.cls == tx.cls && w.tx.safety == tx.safety && columnOf (txColumnAddr w.tx) == columnOf (txColumnAddr tx)

/-- The same context has a read of the line outstanding, which a posted write waits for (R518). -/
def State.readAhead (s : State) (tx : IsgalTx) (owner : Option Requester) : Bool :=
  tx.kind == 1 && owner.isSome && s.dyn.isgal.outs.any fun (o : OutReq) =>
    o.reader == owner && o.tx.kind == 0 && o.tx.addr.toNat / 64 == tx.addr.toNat / 64

/-- Send a transaction to a peer, or let it wait: while its port is down, its replay buffer of 64 flits is full, the
peer's port has no slot for it, an earlier one of its order waits, or a read of its line is outstanding. -/
def sendStamped (w : WaitTx) (s : State) : State :=
  let wait := s.modIsgal fun g => { g with waiting := g.waiting ++ [w] }
  if s.dyn.isgal.waiting.any (fun v => v.before w.dev w.tx) || s.readAhead w.tx w.owner then wait
  else
    match s.portTo w.dev w.tx.addr.toNat with
    | none => wait
    | some p =>
      if (s.port p).state = .up ∧ (s.port p).replay.length < 64 then
        match takeSlot 0 (poundOf w.tx.cls) w.tx.safety (s.port p).slots with
        | some t => transmit p w.tx w.owner t s
        | none => wait
      else wait

/-- Send a transaction of this moment to a peer. -/
def sendPeer (dev : BitVec 2) (tx : IsgalTx) (owner : Option Requester) (s : State) : State :=
  sendStamped { dev := dev, tx := tx, owner := owner, stamp := s.lock.number.toNat } s

/-- Transactions that waited are sent, in the order of R481. -/
def sendWaiting (s : State) : State :=
  (bySendRank (fun w => sendRank (poundOf w.tx.cls) w.tx.safety) s.dyn.isgal.waiting).foldl (fun s w => sendStamped w s)
    (s.modIsgal fun g => { g with waiting := [] })

/-- Put a non-posted request to the PCIe root port (R542). -/
def putPcie (r : PcieReq) (s : State) : State :=
  s.modGateway fun g =>
    { g with requests := g.requests ++ [{ r with tag := g.nextTag, since := s.now16, stamp := s.lock.number.toNat }],
             nextTag := g.nextTag + 1 }

/-- A requester is answered. -/
def respond (r : Requester) (va : Nat) (a : Answer) (s : State) : State :=
  { s with answers := (r, BitVec.ofNat 40 va, a) :: s.answers }

/-- Bytes that come from outside the device: free values. -/
def remoteBytes (s : State) (addr len : Nat) : List Byte :=
  (upFrom addr len).map (Config.remoteByte s.free)

/-- The parts of an access that lie in one line each. -/
def lineParts : Nat → Nat → Nat → List (Nat × Nat)
  | 0, _, _ => []
  | fuel + 1, va, len =>
    if len = 0 then [] else
    let n := min len (64 - va % 64)
    (va, n) :: lineParts fuel (va + n) (len - n)

/-- Cut bytes at line boundaries. -/
def cutLines : Nat → Nat → List Byte → List (Nat × List Byte)
  | 0, _, _ => []
  | fuel + 1, va, d =>
    if d.isEmpty then [] else
    let n := 64 - va % 64
    (va, d.take n) :: cutLines fuel (va + n) (d.drop n)

/-- SIZE of a transaction (R515): the least power of two that covers the bytes. -/
def sizeCode (len : Nat) : BitVec 4 :=
  if len ≤ 1 then 0 else if len ≤ 2 then 1 else if len ≤ 4 then 2 else if len ≤ 8 then 3
  else if len ≤ 16 then 4 else if len ≤ 32 then 5 else 6

/-- An access that R202 allows on an ordered-device page. -/
def deviceSize (va len : Nat) : Bool := (len == 1 || len == 2 || len == 4 || len == 8) && va % len == 0

/-- Veldon and the edge units wait within their step for the tile over a column in Deep to wake (R44): it is Idle
then. -/
def awaken (col : Nat) (s : State) : State :=
  if (s.tile col).power = .deep then
    s.modTile col fun d => { d with power := .idle, wakeEnds := none, idleSince := s.dyn.time.wc }
  else s

/-- The transaction of an access to a peer's page. -/
def remoteTx (a : Src) (b : BitVec 6) (e : XlatEntry) (va : Nat) (s : State) : IsgalTx :=
  { kind := 0, cls := 2, safety := a.onSafety, berth := b, gen := (s.dyn.cfg.berth b).gen,
    addr := BitVec.ofNat 50 (e.device.toNat * 2 ^ 48 + e.addr va), tag := s.dyn.isgal.nextTag }

/-- Send a read or non-posted write whose completion nobody of the model waits for: what it reads is a free value. -/
def sendUnheard (dev : BitVec 2) (va len : Nat) (ordered : Bool) (tx : IsgalTx) (s : State) : State :=
  let o : OutReq := { tag := tx.tag, peer := dev, va := va, tx := tx, len := len, stamp := s.lock.number.toNat, ordered := ordered }
  sendPeer dev tx none (s.modIsgal fun g => { g with outs := g.outs ++ [o], nextTag := g.nextTag + 1 })

/-- Read one page's share of a range through an entry that permits it. -/
def readEntry (a : Src) (b : BitVec 6) (e : XlatEntry) (va len : Nat) (s : State) : State × Access (List Byte) :=
  let pa := e.addr va
  if e.device1 && !deviceSize va len then (s, .addressFault)
  else if e.target = 0 then
    match readDram a pa len (awaken (columnOf pa) s) with
    | (s, some d) => (s, .ok d)
    | (s, none) => (s, .uncorrectable)
  else if e.target = 1 then
    if !s.peerUp e.device then (s, .addressFault)
    else
      let s := (lineParts (len / 64 + 2) va len).foldl (fun s x =>
        sendUnheard e.device x.1 x.2 e.device1 { remoteTx a b e x.1 s with size := sizeCode x.2 } s) s
      (s.bump, .ok (remoteBytes s (e.device.toNat * 2 ^ 48 + pa) len))
  else
    let s := if pcieFrame (pa / 0x10000) then
        putPcie { tag := 0, va := va, len := len, since := 0, berth := b, ordered := e.device1 } s else s
    (s.bump, .ok (remoteBytes s (e.device.toNat * 2 ^ 48 + pa) len))

/-- The parts of a range that lie on one page each: address and length. -/
def pageParts : Nat → Nat → Nat → List (Nat × Nat)
  | 0, _, _ => []
  | fuel + 1, va, len =>
    if len = 0 then [] else
    let n := min len (0x10000 - va % 0x10000)
    (va, n) :: pageParts fuel (va + n) (len - n)

/-- Read the parts listed through translation. -/
def readParts (a : Src) (b : BitVec 6) : List (Nat × Nat) → State → State × Access (List Byte)
  | [], s => (s, .ok [])
  | (va, len) :: t, s =>
    match s.lookup b va with
    | none => (s, .addressFault)
    | some e =>
      if !e.read then (s, .addressFault) else
      match walk a.unit (s.dyn.cfg.entryNo b va) s with
      | (s, false) => (s, .uncorrectable)
      | (s, true) =>
        match readEntry a b e va len s with
        | (s, .ok d) =>
          match readParts a b t s with
          | (s, .ok r) => (s, .ok (d ++ r))
          | r => r
        | r => r

/-- Read `len` bytes at a berth virtual address. -/
def readVirt (a : Src) (b : BitVec 6) (va len : Nat) (s : State) : State × Access (List Byte) :=
  readParts a b (pageParts (len / 0x10000 + 2) va len) s

/-- Write one page's share of a range through an entry that permits it: DRAM, or transactions that leave for the peer or
the root port (R202, R482, R519). -/
def writeEntry (a : Src) (b : BitVec 6) (e : XlatEntry) (va : Nat) (bs : List Byte) (s : State) :
    State × Access Unit :=
  let pa := e.addr va
  if e.device1 && !deviceSize va bs.length then (s, .addressFault)
  else if e.target = 0 then
    match writeDram a pa bs (awaken (columnOf pa) s) with
    | (s, true) => (s, .ok ())
    | (s, false) => (s, .uncorrectable)
  else if e.target = 1 then
    if !s.peerUp e.device then (s, .addressFault)
    else
      ((cutLines (bs.length / 64 + 2) va bs).foldl (fun s x =>
        let tx := { remoteTx a b e x.1 s with data := x.2, size := sizeCode x.2.length }
        if e.device1 then sendUnheard e.device x.1 x.2.length true { tx with kind := 2 } s
        else sendPeer e.device { tx with kind := 1, cls := 1, tag := 0 } none s) s, .ok ())
  else if pcieFrame (pa / 0x10000) then
    (putPcie { tag := 0, va := va, len := bs.length, data := bs, since := 0, berth := b, ordered := e.device1 } s, .ok ())
  else (s, .ok ())

/-- Write the parts listed through translation; a part that faults ends the write. -/
def writeParts (a : Src) (b : BitVec 6) : List (Nat × Nat) → List Byte → State → State × Access Unit
  | [], _, s => (s, .ok ())
  | (va, n) :: t, bs, s =>
    match s.lookup b va with
    | none => (s, .addressFault)
    | some e =>
      if !e.write then (s, .addressFault) else
      match walk a.unit (s.dyn.cfg.entryNo b va) s with
      | (s, false) => (s, .uncorrectable)
      | (s, true) =>
        match writeEntry a b e va (bs.take n) s with
        | (s, .ok _) => writeParts a b t (bs.drop n) s
        | r => r

/-- Write bytes at a berth virtual address. -/
def writeVirt (a : Src) (b : BitVec 6) (va : Nat) (bs : List Byte) (s : State) : State × Access Unit :=
  writeParts a b (pageParts (bs.length / 0x10000 + 2) va bs.length) bs s

/-! Rings (R164 to R166, R558) -/

/-- The entry size of a ring in bytes. -/
def QueueDesc.entryBytes (d : QueueDesc) : Nat := 32 * 2 ^ d.entry.toNat

/-- The entries of a ring. -/
def QueueDesc.slots (d : QueueDesc) : Nat := 2 ^ d.ringLog2.toNat

/-- Entries between two indices (R165). -/
def ringDistance (newer older : BitVec 21) : Nat := (newer - older).toNat

/-- Entries present in a ring. -/
def QueueDyn.present (q : QueueDyn) : Nat := ringDistance q.prod q.cons

/-- A completion or sample queue has room for one more reserved record. -/
def State.slotFree (s : State) (q : Nat) : Bool :=
  (s.queue q).present + (s.queue q).reserved < (s.dyn.cfg.queueDesc q).slots

/-- Write the index that the device advances behind the ring (R165); a fault changes nothing else. -/
def writeIndex (q : Nat) (index : BitVec 21) (s : State) : State :=
  let d := s.dyn.cfg.queueDesc q
  (writeVirt {} d.berth (d.ringAddr.toNat + d.slots * d.entryBytes) (bytesOf 8 index.toNat) s).1

/-- Write a record into a completion or sample ring, in a slot reserved for it; `safe`: on the safety channel (R50). The slot is released in
every case; a record that cannot be written is lost and counted (R558). -/
def ringWrite (safe : Bool) (q : Nat) (bs : List Byte) (s : State) : State × Bool :=
  let d := s.dyn.cfg.queueDesc q
  let y := s.queue q
  let va := d.ringAddr.toNat + y.prod.toNat % d.slots * d.entryBytes
  match writeVirt { berth := d.berth, channel := safe } d.berth va (takeBytes d.entryBytes bs) s with
  | (s, .ok _) =>
    let s := s.modQueue q fun y => { y with prod := y.prod + 1, reserved := y.reserved - 1 }
    (writeIndex q (y.prod + 1) s, true)
  | (s, _) => (s.modQueue q fun y => { y with lost := satInc y.lost, reserved := y.reserved - 1 }, false)

/-- Reserve a slot in a completion or sample ring. -/
def reserveSlot (q : Nat) (s : State) : State :=
  s.modQueue q fun y => { y with reserved := y.reserved + 1 }

/-- Release a slot without writing. -/
def releaseSlot (q : Nat) (s : State) : State :=
  s.modQueue q fun y => { y with reserved := y.reserved - 1 }

/-! Completion records (R375 to R379) -/

/-- The SOURCE field of a record. -/
def pathSource : Path → Nat
  | .queue _ => 0
  | .mailbox _ => 1
  | .supervisor => 2

/-- The mailbox a path replies on, if it is a mailbox path. -/
def pathMailbox? : Path → Option Nat
  | .queue _ => none
  | .mailbox m => some m.toNat
  | .supervisor => some 64

/-- The 32-byte record (R375). -/
def recordBytes (t : Ticket) (status : Nat) (r : Result) (written : Bool) (block : Nat) : List Byte :=
  bytesOf 32 (packFields
    [(0, 32, t.cmd.seq.toNat), (32, 16, t.opcode.toNat), (48, 16, status), (64, 6, t.cmd.berth.toNat),
     (70, 2, pathSource t.cmd.path), (72, 1, b2n (decide (16 < r.len))), (73, 1, b2n written),
     (80, 16, t.gen.toNat), (96, 8, block), (128, 128, r.bits)])

/-- A message of the outbound slot with its header and CHECK (R389, R390). -/
def outMessage (kind : Nat) (body : List Byte) : List Byte :=
  let head := bytesOf 8 (packFields [(0, 8, 1), (8, 8, 2), (16, 2, kind), (24, 8, body.length)])
  head ++ bytesOf 4 (crc32 (head ++ body)).toNat ++ [0, 0, 0, 0] ++ body

/-- The mailbox enters REPLIED with a message: the berth's interrupt, or in-band interrupt 0x01
(R388, R393). -/
def mailboxReply (m : Nat) (msg : List Byte) (s : State) : State :=
  let s := s.modMailbox m fun x => { x with state := .replied, outb := msg }
  if m < 64 then raiseBerth m 0 s else requestIbi 0x01 s

/-- The features that govern a packet's path: its berth's set, or the supervisor's (R398). -/
def State.features (s : State) (c : Cmd) : BitVec 64 :=
  match c.path with
  | .queue _ => (s.mailbox c.berth.toNat).features
  | .mailbox m => (s.mailbox m.toNat).features
  | .supervisor => (s.mailbox 64).features

/-- Reply to a mailbox packet: the record, and a block longer than 16 bytes when RESULT_BLOCK is
negotiated or the opcode always carries it (R376, R396, R560). A reply is discarded when the mailbox no
longer stands in TAKEN. -/
def replyMailbox (m : Nat) (t : Ticket) (status : Nat) (r : Result) (s : State) : State :=
  if (s.mailbox m).state = .taken then
    let carries := 16 < r.len && (bitAt (s.mailbox m).features 0 || t.opcode == 0x0002 || t.opcode == 0xA001)
    let body := recordBytes t status r false 0 ++
      (if carries then takeBytes 64 (bytesOf r.len r.bits) else [])
    mailboxReply m (outMessage 1 body) s
  else s

/-- Write a result block at RESULT_ADDR + 64 × block; the flag: the whole block was written (R376). -/
def writeBlock (t : Ticket) (r : Result) (block : Nat) (s : State) : State × Bool :=
  if t.cmd.resultAddr = 0 ∨ r.len ≤ 16 then (s, false)
  else
    let va := t.cmd.resultAddr.toNat * 256 + 64 * block
    if s.writable t.cmd.berth va r.len then
      match writeVirt { berth := t.cmd.berth, gen := t.gen, seq := t.cmd.seq } t.cmd.berth va
          (bytesOf r.len r.bits) s with
      | (s, .ok _) => (s, true)
      | (s, _) => (s, false)
    else (s, false)

/-- The records of a path travel on the safety channel: its queue is the endpoint of a safety basin (R50, R379). -/
def State.safePath (s : State) : Path → Bool
  | .queue q => s.dyn.cfg.safetyQueue q.toNat
  | _ => false

/-- Write a record on a completion ring, in a slot reserved there, with its block and, with NOTIFY, its interrupt. -/
def recordQueue (cq : Nat) (t : Ticket) (status : Nat) (r : Result) (block : Nat) (s : State) : State :=
  let (s, written) := writeBlock t r block s
  let (s, done) := ringWrite (s.safePath t.cmd.path) cq (recordBytes t status r written block) s
  if done ∧ t.cmd.notify then
    -- the NOTIFY word kept for each peer (R524)
    let s := s.modIsgal fun g =>
      { g with offer := (upFrom 0 4).foldl (fun o d => tabMod 0 o d fun w => w ||| BitVec.ofNat 64 (2 ^ t.cmd.berth.toNat)) g.offer }
    raiseBerth t.cmd.berth.toNat
      (4 + (cq - (s.dyn.cfg.berth t.cmd.berth).queueFirst.toNat) % 60) s
  else s

/-- The record carries a generation that its berth has left behind: it is discarded (R380). -/
def State.stale (s : State) (t : Ticket) : Bool := !t.cmd.device && (s.dyn.cfg.berth t.cmd.berth).gen != t.gen

/-- Write the one record of a command (R377): on its mailbox, or on the completion queue of its
submission queue; a queue command with SILENT that succeeds writes none and its slot is released. -/
def writeRecord (t : Ticket) (status : Nat) (r : Result) (s : State) : State :=
  if s.stale t then s else
  match t.cmd.path with
  | .mailbox m => replyMailbox m.toNat t status r s
  | .supervisor => replyMailbox 64 t status r s
  | .queue _ =>
    if status = 0 ∧ t.cmd.silent then releaseSlot t.cq.toNat s
    else recordQueue t.cq.toNat t status r 0 s

/-- A record that a class names in addition (R377), in a slot reserved for it: NOTIFY and the result block area of the
packet hold for it as well, on a queue path. -/
def moreRecord (cq : Nat) (t : Ticket) (status : Nat) (r : Result) (block : Nat) (s : State) : State :=
  match t.cmd.path with
  | .queue _ => recordQueue cq t status r block s
  | _ => (ringWrite false cq (recordBytes t status r false block) s).1

/-- A result of at most 16 bytes. -/
def shortResult (fields : List (Nat × Nat × Nat)) : Result := { len := 16, bits := packFields fields }

/-- A result block of 32 or 64 bytes. -/
def longResult (len : Nat) (fields : List (Nat × Nat × Nat)) : Result :=
  { len := len, bits := packFields fields }

/-- An empty result. -/
def noResult : Result := {}

end Sys2Proof.Machine
end

