-- ==== Sys2Proof/Machine/Carry.lean ====
section
/-! DEFINITION. How a packet is taken, checked (R371 to R374), answered and, for a configuration
command, entered in the open shadow (R58, R69, R372). -/

namespace Sys2Proof.Machine

/-- What the checks of R374 need to know of an opcode. -/
structure OpInfo where
  opcode : BitVec 16
  /-- in the run-time subset of the supervisor path (R394) -/
  runTime : Bool := false
  /-- check 12: reserved parameter bits are zero and no field holds a reserved encoding -/
  wellFormed : Params → Bool := fun p => p = 0
  /-- the command takes its owning berth from the caller: it is refused at device scope (R371) -/
  needsBerth : Bool := false
  /-- bytes of the result block area that check 13 asks for -/
  area : Nat := 64

/-- Every parameter bit outside the fields (lowest bit, width) is zero. -/
def onlyFields (fields : List (Nat × Nat)) (p : Params) : Bool :=
  p.toNat == packFields (fields.map fun f => (f.1, f.2, fldN p f.1 f.2))

/-- The opcodes that the boot ROM serves while bring-up is halted (R487). -/
def haltedOpcode (o : BitVec 16) : Bool :=
  o == 0x0001 || o == 0x0002 || o == 0x8003 || o == 0xA002 || o == 0xA020

/-- Bring-up has halted (R508). -/
def State.halted (s : State) : Bool := s.dyn.bring.step == 0xF

/-- A packet that reaches the device is taken up: before READY no packet is, but for the supervisor path
of a halted device (R486, R487), and none once Veldon has halted (R472). -/
def State.serves (s : State) (p : Path) : Bool :=
  (s.dyn.bring.ready && !s.dyn.errors.veldonHalted) || (s.halted && p == .supervisor)

/-- The expected SEQ of a path (R373). -/
def State.expected (s : State) (p : Path) : Option (BitVec 32) :=
  match p with
  | .queue q => (s.queue q.toNat).expSeq
  | .mailbox m => (s.mailbox m.toNat).expSeq
  | .supervisor => (s.mailbox 64).expSeq

/-- Move the expected SEQ of a path on to `v`. -/
def setExpected (p : Path) (v : BitVec 32) (s : State) : State :=
  match p with
  | .queue q => s.modQueue q.toNat fun y => { y with expSeq := some v }
  | .mailbox m => s.modMailbox m.toNat fun x => { x with expSeq := some v }
  | .supervisor => s.modMailbox 64 fun x => { x with expSeq := some v }

/-- Check 6 of R374: the berth is LIVE, and DEVICE and BERTH suit the path. -/
def berthSuits (c : Cmd) (s : State) : Bool :=
  if c.device then c.path == .supervisor && c.berth == 0
  else
    (s.dyn.cfg.berth c.berth).state == .live &&
    match c.path with
    | .queue q => c.berth == (s.dyn.cfg.queueDesc q.toNat).berth
    | .mailbox m => c.berth == m
    | .supervisor => true

/-- The generation a packet has to carry: its berth's, or 0 at device scope. -/
def State.genOf (s : State) (c : Cmd) : BitVec 16 :=
  if c.device then 0 else (s.dyn.cfg.berth c.berth).gen

/-- The path's berth, or the supervisor, has negotiated (R374 check 9, R398). -/
def State.hasNegotiated (s : State) (c : Cmd) : Bool :=
  match c.path with
  | .queue _ => (s.mailbox c.berth.toNat).negotiated
  | .mailbox m => (s.mailbox m.toNat).negotiated
  | .supervisor => (s.mailbox 64).negotiated

/-- Check 9 exempts ECHO, NEGOTIATE and GET_FW_IDENTITY on a mailbox. -/
def exempt (op : OpInfo) (c : Cmd) : Bool :=
  (op.opcode == 0x0001 || op.opcode == 0x0002 || op.opcode == 0xA001) && (pathMailbox? c.path).isSome

/-- Check 10: the path permits the opcode (R394, R395, R487). -/
def pathPermits (op : OpInfo) (c : Cmd) (s : State) : Bool :=
  match c.path with
  | .queue _ => op.opcode != 0x0002
  | .mailbox _ => true
  | .supervisor => if s.halted then haltedOpcode op.opcode else s.inService || op.runTime

/-- Check 11: a queue packet uses only negotiated features (R396). -/
def featuresHeld (c : Cmd) (s : State) : Bool :=
  match c.path with
  | .queue _ =>
    let f := s.features c
    (!c.notify || bitAt f 1) && (!c.silent || bitAt f 2) && (c.resultAddr == 0 || bitAt f 0)
  | _ => true

/-- Check 13: the result block area of a queue packet is mapped, writable normal memory. -/
def areaOk (op : OpInfo) (c : Cmd) (s : State) : Bool :=
  match c.path with
  | .queue _ => c.resultAddr == 0 || s.writable c.berth (c.resultAddr.toNat * 256) op.area
  | _ => true

/-- The first of checks 6 to 13 that a packet fails, and after them a command that needs a berth at device scope: the
status and the result bytes (R371, R374, R375, R382). -/
def firstFailure (op : OpInfo) (c : Cmd) (s : State) : Option (Nat × Result) :=
  if !berthSuits c s then some (0x0004, noResult)
  else if c.gen ≠ s.genOf c then
    some (0x0005, shortResult [(0, 16, c.gen.toNat), (16, 16, (s.genOf c).toNat)])
  else if !exempt op c && !s.hasNegotiated c then some (0x0008, noResult)
  else if !pathPermits op c s then some (0x0003, noResult)
  else if !featuresHeld c s then some (0x0009, noResult)
  else if !op.wellFormed c.params then some (0x0001, noResult)
  else if !areaOk op c s then some (0x000A, noResult)
  else if op.needsBerth && c.device then some (0x0004, noResult)
  else none

/-- The completion queue that takes the record of a packet, on a queue path (R166). -/
def State.cqOf (s : State) : Path → BitVec 18
  | .queue q => (s.dyn.cfg.queueDesc q.toNat).cq
  | _ => 0

/-- The ticket of a packet: its record carries the berth's generation at acceptance (R375). -/
def ticketOf (op : OpInfo) (c : Cmd) (s : State) : Ticket :=
  { opcode := op.opcode, cmd := c, gen := s.genOf c, cq := s.cqOf c.path }

/-- Check 5 of R374 on a packet that has been taken, then what the later checks answered: the ticket once every
check has passed; else its record is written (R373). -/
def passChecks5 (t : Ticket) (failure : Option (Nat × Result)) (s : State) : State × Option Ticket :=
  let c := t.cmd
  let later := fun (s : State) =>
    let s := setExpected c.path (c.seq + 1) s
    match failure with
    | some (st, r) => (writeRecord t st r s, none)
    | none => (s, some t)
  match s.expected c.path with
  | some e => if c.seq ≠ e then (writeRecord t 0x0006 (shortResult [(0, 32, e.toNat)]) s, none) else later s
  | none => later s

/-- Carry a packet that has been taken through checks 5 to 13, and hand it to its class. -/
def carryTaken (op : OpInfo) (c : Cmd) (act : Ticket → State → State) (s : State) : State :=
  match passChecks5 (ticketOf op c s) (firstFailure op c s) s with
  | (s, some t) => act t s
  | (s, none) => s

/-- A render pass with BARRIER that a queue brought is running: no later command of the queue starts (R234). -/
def State.barred (s : State) (q : Nat) : Bool :=
  tabAny (fun _ p => match p.job with
    | some t => t.cmd.path == .queue (BitVec.ofNat 18 q) && bitAt t.cmd.params 16
    | none => false) s.dyn.raster.passes

/-- A job of the queue waits at its head for tiles (R60, R172): no later command of the queue starts. -/
def State.headWaits (s : State) (q : Nat) : Bool :=
  tabAny (fun _ j => match j with
    | some (j : Job) => !j.placed && j.reruns == 0 && j.queue == some (BitVec.ofNat 18 q)
    | none => false) s.dyn.work.jobs

/-- A submission queue of which a command may start: in use, not faulted, no cancellation pending, no BARRIER
pass running, no job waiting for tiles, and a slot free in its completion queue (R166, R180, R234). -/
def State.mayStart (s : State) (q : Nat) : Bool :=
  let d := s.dyn.cfg.queueDesc q
  d.valid && d.kind == 0 && !(s.queue q).faulted && (s.queue q).toCancel == 0 && !s.barred q && !s.headWaits q
  && s.slotFree d.cq.toNat

/-- A packet reaches the device on its path: a mailbox takes it when EMPTY, and counts it in OVERRUN
otherwise; a queue takes it when a command may start on it, reserving the slot of its record. None: the
packet is not taken. -/
def arrive (c : Cmd) (s : State) : Option State × State :=
  if !s.serves c.path then (none, s) else
  match pathMailbox? c.path with
  | some m =>
    if (s.mailbox m).state = .empty then
      (some (s.modMailbox m fun x => { x with state := .taken }), s)
    else (none, s.modMailbox m fun x => { x with overrun := satInc x.overrun })
  | none =>
    match c.path with
    | .queue q =>
      if s.mayStart q.toNat then (some (reserveSlot (s.dyn.cfg.queueDesc q.toNat).cq.toNat s), s)
      else (none, s)
    | _ => (none, s)

/-- A packet of an opcode arrives on its path and is taken. -/
def carry (op : OpInfo) (c : Cmd) (act : Ticket → State → State) (s : State) :
    Host.Outcome State Fault Refusal :=
  match arrive c s with
  | (some s', _) => .next (carryTaken op c act s')
  | (none, s') => .next s'

/-- A packet arrives on its path and is taken, unless its command may not start yet (`act` answers none): then it
stays where it was. -/
def carryWait (op : OpInfo) (c : Cmd) (act : Ticket → State → Option State) (s : State) :
    Host.Outcome State Fault Refusal :=
  match arrive c s with
  | (some s', _) => .next (carryTaken op c (fun t x => (act t x).getD s) s')
  | (none, s') => .next s'

/-! Configuration commands -/

/-- What a configuration command's checks answer against a shadow. -/
inductive Verdict where
  /-- it passes and leaves this shadow; its record will carry this result -/
  | pass (c : Shadow) (r : Result)
  /-- it is refused with this status and result -/
  | refuse (status : Nat) (r : Result)
  /-- it cannot be checked yet (R200, R219) -/
  | wait

/-- The checks and effect of a configuration command on a shadow, in the state of that moment. -/
abbrev ConfigRule := State → Ticket → Shadow → Verdict

/-- A configuration command is accepted: refused at once, or entered in the open shadow in acceptance
order, its record to follow the lock cycle that commits it (R70, R372, R378). -/
def acceptConfig (rule : ConfigRule) (t : Ticket) (s : State) : State :=
  match rule s t s.lock.opn with
  | .pass c _ => (s.modLock fun k => { k with opn := c, openCmds := k.openCmds ++ [t] }).bump
  | .refuse st r => writeRecord t st r s
  | .wait => s.modLock fun k => { k with openCmds := k.openCmds ++ [t], waiting := k.waiting ++ [t] }

/-- An immediate command: its record is written at once. -/
def answer (st : Nat) (r : Result) (t : Ticket) (s : State) : State := writeRecord t st r s

/-- The caller of a packet is the supervisor path (R371). -/
def Ticket.fromSupervisor (t : Ticket) : Bool := t.cmd.path == .supervisor

/-- An object of berth `b` belongs to the caller: its own, or any on the supervisor path (R371). -/
def Ticket.owns (t : Ticket) (b : BitVec 6) : Bool := t.fromSupervisor || t.cmd.berth == b

/-- Who a Veldon read on behalf of a packet is recorded as (R561): Veldon. -/
def Ticket.src (t : Ticket) : Src :=
  { source := 1, berth := t.cmd.berth, gen := t.gen, seq := t.cmd.seq }

/-- The basin is the caller's: in use and owned (R58 check 2). -/
def Ticket.ownsBasin (t : Ticket) (c : Shadow) (n : Nat) : Bool :=
  c.basinUsed n && t.owns (c.basin n).berth

/-! Refusals of mailbox messages (R374 checks 1 to 3, R392, R560) -/

/-- A refusal of KIND 0x2: the record copies SEQ, OPCODE and BERTH from the bytes as they arrived. -/
def refuseMessage (m : Nat) (packet : List Byte) (status : Nat) (s : State) : State :=
  let p : BitVec 512 := BitVec.ofNat 512 (ofBytes packet)
  let c : Cmd := { path := if m = 64 then .supervisor else .mailbox (BitVec.ofNat 6 m),
                   berth := fld p 16 6, seq := fld p 64 32 }
  let gen : BitVec 16 := if m = 64 then 0 else (s.dyn.cfg.berth (BitVec.ofNat 6 m)).gen
  mailboxReply m (outMessage 2 (recordBytes { opcode := fld p 0 16, cmd := c, gen := gen } status noResult false 0)) s

end Sys2Proof.Machine
end

