-- ==== Sys2Proof/Machine/Basins.lean ====
section
/-! DEFINITION. Basins (R56 to R62) and cuts (R66 to R68). -/

namespace Sys2Proof.Machine

/-- The RW fields of a basin descriptor at descriptor bit + 64 (R59): KIND 3 and DISPATCH 3 are reserved. -/
def basinParamsOk (p : Params) : Bool :=
  onlyFields [(0, 10), (74, 2), (77, 1), (80, 10), (90, 1), (96, 6), (104, 18), (128, 32), (160, 2)] p
    && fldN p 74 2 ≠ 3 && fldN p 160 2 ≠ 3

/-- The descriptor that the parameters carry. -/
def basinOfParams (p : Params) : BasinDesc :=
  { kind := fld p 74 2, dedicated := bitAt p 77, parent := fld p 80 10, hasParent := bitAt p 90,
    berth := fld p 96 6, endpoint := fld p 104 18, tileMask := fld p 128 32, dispatch := fld p 160 2 }

/-- Check 6 of R58 on the tiles that a mask adds to basin `n` of berth `b`: one in another leaf basin, not
enabled or outside the grant (R404) is in use; a number that no longer exists is retired (R69). -/
def Shadow.tileCheck (c : Shadow) (n : Nat) (b : BitVec 6) (added : BitVec 32) : Option Nat :=
  (setBits added 32).findSome? fun t =>
    if (match c.leafOf t with
        | some l => l != n
        | none => false) then some 0x0052
    else if bitAt c.ceased t && !c.enabled t then some 0x0056
    else if !c.enabled t || !bitAt (c.berth b).tileGrant t then some 0x0052
    else none

/-- Checks 3 to 9 of R58 for a create or modify of basin `n` with descriptor `d`; `old` is the
descriptor before (free for a create). -/
def basinChecks (s : State) (t : Ticket) (c : Shadow) (n : Nat) (old d : BasinDesc) (create : Bool) : Option Nat :=
  let c' := { c with basins := tabPut {} c.basins n d }
  let touches := n == 0 || (!create && c.under 0 n) || (d.hasParent && c.under 0 d.parent.toNat)
  if touches && !(t.fromSupervisor && s.inService) then some 0x0053
  else if d.kind == 0 || (d.kind == 2 && d.tileMask != 0)
      || !(if t.fromSupervisor then (c.berth d.berth).state == .live else d.berth == t.cmd.berth)
      || (d.hasParent && !((c.basin d.parent.toNat).kind == 2 && (c.basin d.parent.toNat).berth == d.berth))
      || (!create && d.berth != old.berth && (old.hasParent || !(c.children n).isEmpty)) then some 0x0057
  else if d.hasParent && (d.parent.toNat == n || (!create && c.under n d.parent.toNat)) then some 0x0051
  else if (c.tileCheck n d.berth (d.tileMask &&& ~~~ old.tileMask)).isSome then
    c.tileCheck n d.berth (d.tileMask &&& ~~~ old.tileMask)
  else if !create && old.kind == 2 && d.kind == 1 && !(c.children n).isEmpty then some 0x0054
  else if tabAny (fun k e => k != n && e.kind != 0 && e.endpoint == d.endpoint) c.basins then some 0x0055
  else if !c'.budgetOk then some 0x0040
  else none

/-- Check 2 of R58 on the named parent: in use and the caller's. -/
def parentKnown (t : Ticket) (c : Shadow) (d : BasinDesc) : Bool :=
  !d.hasParent || t.ownsBasin c d.parent.toNat

/-- BASIN_CREATE (R58, R59). -/
def ruleBasinCreate : ConfigRule := fun s t c =>
  let n := fldN t.cmd.params 0 10
  let d := basinOfParams t.cmd.params
  if c.basinUsed n then .refuse 0x0050 noResult
  else if !parentKnown t c d then .refuse 0x0050 noResult
  else
    match basinChecks s t c n {} d true with
    | some st => .refuse st noResult
    | none =>
      .pass { c with basins := tabPut {} c.basins n { d with made := s.lock.number.toNat + 1 },
                     basinNext := tabMap 0 (fun k v => if k % 1024 = n then 0 else v) c.basinNext } noResult

/-- BASIN_MODIFY (R58, R59). -/
def ruleBasinModify : ConfigRule := fun s t c =>
  let n := fldN t.cmd.params 0 10
  let d := basinOfParams t.cmd.params
  if !t.ownsBasin c n then .refuse 0x0050 noResult
  else if !parentKnown t c d then .refuse 0x0050 noResult
  else
    match basinChecks s t c n (c.basin n) d false with
    | some st => .refuse st noResult
    | none => .pass { c with basins := tabPut {} c.basins n { d with made := (c.basin n).made } } noResult

/-- BASIN_DESTROY (R58): only an empty basin. -/
def ruleBasinDestroy : ConfigRule := fun s t c =>
  let n := fldN t.cmd.params 0 10
  let c' := { c with basins := tabPut {} c.basins n {} }
  if !t.ownsBasin c n then .refuse 0x0050 noResult
  else if c.under 0 n && !(t.fromSupervisor && s.inService) then .refuse 0x0053 noResult
  else if !(c.children n).isEmpty || (c.basin n).tileMask != 0 then .refuse 0x0054 noResult
  else if !c'.budgetOk then .refuse 0x0040 noResult
  else .pass c' noResult

/-- The opcodes of the basin commands. -/
def opBasinCreate : OpInfo := { opcode := 0x9010, wellFormed := basinParamsOk }
/-- BASIN_MODIFY. -/
def opBasinModify : OpInfo := { opcode := 0x9011, wellFormed := basinParamsOk }
/-- BASIN_DESTROY. -/
def opBasinDestroy : OpInfo := { opcode := 0x9012, wellFormed := onlyFields [(0, 10)] }
/-- GET_BASIN. -/
def opGetBasin : OpInfo := { opcode := 0x9013, wellFormed := onlyFields [(0, 10)] }

/-- BASIN_CREATE fills a free descriptor. -/
def execBasinCreate (c : Cmd) (s : State) : Host.Outcome State Fault Refusal :=
  carry opBasinCreate c (acceptConfig ruleBasinCreate) s

/-- BASIN_MODIFY rewrites the RW fields of a descriptor in use. -/
def execBasinModify (c : Cmd) (s : State) : Host.Outcome State Fault Refusal :=
  carry opBasinModify c (acceptConfig ruleBasinModify) s

/-- BASIN_DESTROY frees an empty descriptor. -/
def execBasinDestroy (c : Cmd) (s : State) : Host.Outcome State Fault Refusal :=
  carry opBasinDestroy c (acceptConfig ruleBasinDestroy) s

/-- The tile is in HANDOVER (R62): its physical tile is being handed over. -/
def Dyn.inHandover (d : Dyn) (t : Nat) : Bool :=
  match d.cfg.physOf t with
  | some p => (tabGet {} d.tiles p).handover.isSome
  | none => false

/-- The lowest measured pace among the tiles of a basin (R25). -/
def Dyn.basinPace (d : Dyn) (n : Nat) : Nat :=
  let paces := (d.cfg.tilesUnder n).filterMap fun t => (d.cfg.physOf t).map fun p => (tabGet {} d.tiles p).pace.toNat
  (minBy id paces).getD 0

/-- The latched basin descriptor (R56). -/
def basinRecord (d : Dyn) (n : Nat) : Result :=
  let b := d.cfg.basin n
  let hand : Nat := if b.kind = 1
    then packFields ((d.cfg.tilesUnder n).map fun t => (t, 1, b2n (d.inHandover t))) else 0
  longResult 32 [(0, 10, n), (10, 2, b.kind.toNat), (12, 1, b2n (d.cfg.safetyBasin n)), (13, 1, b2n b.dedicated),
    (16, 10, b.parent.toNat), (26, 1, b2n b.hasParent), (32, 6, b.berth.toNat), (40, 18, b.endpoint.toNat),
    (64, 32, b.tileMask.toNat), (96, 2, b.dispatch.toNat), (104, 8, d.cfg.depthN 1024 n),
    (112, 8, (d.cfg.tilesUnder n).length), (128, 16, d.basinPace n), (144, 32, hand)]

/-- GET_BASIN passes checks 1 and 2 only, against the shadow as every earlier command left it, and returns the descriptor
latched at the last lock cycle (R58, R372). -/
def actGetBasin (t : Ticket) (s : State) : State :=
  let n := fldN t.cmd.params 0 10
  if t.ownsBasin s.lock.opn n then writeRecord t 0 (basinRecord s.snap n) s
  else writeRecord t 0x0050 noResult s

/-- GET_BASIN returns a basin descriptor. -/
def execGetBasin (c : Cmd) (s : State) : Host.Outcome State Fault Refusal := carry opGetBasin c actGetBasin s

/-! Cuts -/

/-- The RW fields of a cut entry at entry bit + 64 (R66): SRC_KIND 5 to 7 and STAGE 2 to 15 are reserved. -/
def opCutSet : OpInfo :=
  { opcode := 0x4001,
    wellFormed := fun p =>
      onlyFields [(0, 12), (64, 1), (65, 3), (72, 18), (96, 4), (104, 18), (128, 6)] p
        && fldN p 65 3 ≤ 4 && fldN p 96 4 ≤ 1 }

/-- CUT_CLEAR takes CUT in bits [11:0]. -/
def opCutClear : OpInfo := { opcode := 0x4002, wellFormed := onlyFields [(0, 12)] }

/-- The entry that CUT_SET carries; GEN is filled in at the commit. -/
def cutOfParams (p : Params) : CutEntry :=
  { valid := bitAt p 64, srcKind := fld p 65 3, src := fld p 72 18, stage := fld p 96 4,
    destQueue := fld p 104 18, berth := fld p 128 6 }

/-- SRC lies in its kind's range and uses only its kind's bits (R67). -/
def srcInRange (s : State) (e : CutEntry) : Bool :=
  let v := e.src.toNat
  match e.srcKind.toNat with
  | 0 => v < 32
  | 1 => v < 32
  | 2 => true
  | 3 => fldN e.src 16 2 ≠ s.dyn.bring.devId.toNat && fldN e.src 16 2 ≤ s.dyn.bring.boardN.toNat
      && fldN e.src 12 4 = 0
  | 4 => v < 64
  | _ => false

/-- Two cuts have the same source (R67). -/
def sameSource (a b : CutEntry) : Bool := a.srcKind == b.srcKind && a.src == b.src

/-- A queue number belongs to a berth other than `b`: it lies in that berth's QUEUE range (R402, R403). -/
def Shadow.queueOfOther (c : Shadow) (b : BitVec 6) (q : Nat) : Bool :=
  tabAny (fun k d => k != b.toNat && d.state != .free && d.queueFirst.toNat ≤ q && q < d.queueFirst.toNat + d.queueCount.toNat)
    c.berths

/-- The checks and effect of CUT_SET (R67). -/
def ruleCutSet : ConfigRule := fun s t c =>
  let n := fldN t.cmd.params 0 12
  let e := cutOfParams t.cmd.params
  let old := tabGet {} c.cuts n
  let streamKind := e.srcKind == 0 || e.srcKind == 1
  if (!t.fromSupervisor && e.berth != t.cmd.berth) || (old.valid && !t.owns old.berth)
      || (streamKind && e.src.toNat < 32 && !bitAt (c.berth e.berth).streamGrant e.src.toNat) then
    .refuse 0x00C1 noResult
  else if (c.berth e.berth).state ≠ .live || !srcInRange s e then .refuse 0x00C0 noResult
  else if tabAny (fun k x => k != n && x.valid && sameSource x e) c.cuts || c.queueOfOther e.berth e.destQueue.toNat then
    .refuse 0x00C8 noResult
  else .pass { c with cuts := tabPut {} c.cuts n { e with gen := (c.berth e.berth).gen } } noResult

/-- The checks and effect of CUT_CLEAR (R67). -/
def ruleCutClear : ConfigRule := fun _ t c =>
  let n := fldN t.cmd.params 0 12
  let old := tabGet {} c.cuts n
  if old.valid && !t.owns old.berth then .refuse 0x00C1 noResult
  else if !old.valid then .refuse 0x00C0 noResult
  else .pass { c with cuts := tabPut {} c.cuts n {} } noResult

/-- CUT_SET writes a cut entry. -/
def execCutSet (c : Cmd) (s : State) : Host.Outcome State Fault Refusal := carry opCutSet c (acceptConfig ruleCutSet) s

/-- CUT_CLEAR frees a cut entry. -/
def execCutClear (c : Cmd) (s : State) : Host.Outcome State Fault Refusal := carry opCutClear c (acceptConfig ruleCutClear) s

/-- The valid cut of a source whose GEN is its berth's current generation (R20, R68). -/
def Shadow.cutOf (c : Shadow) (kind : BitVec 3) (src : Nat) : Option CutEntry :=
  match (tabKeys (fun _ e => e.valid && e.srcKind == kind && e.src.toNat == src) c.cuts).head? with
  | some n =>
    let e := tabGet {} c.cuts n
    if e.gen = (c.berth e.berth).gen then some e else none
  | none => none

end Sys2Proof.Machine
end

