-- ==== Sys2Proof/Machine/Berths.lean ====
section
/-! DEFINITION. Berths: their descriptors, lifecycle, grants and resizing (R402 to R409). -/

namespace Sys2Proof.Machine

/-- The RW fields of a berth descriptor, at their descriptor bits, with BERTH in [13:8] (R402). -/
def berthFields : List (Nat × Nat) :=
  [(8, 6), (32, 24), (64, 24), (96, 24), (128, 18), (160, 19), (192, 24), (256, 8), (288, 32), (320, 32),
   (352, 4), (356, 4), (360, 4)]

/-- The descriptor with the RW fields of the parameters. -/
def BerthDesc.withParams (d : BerthDesc) (p : Params) : BerthDesc :=
  { d with wakeTol := fld p 32 24, xlatFirst := fld p 64 24, xlatCount := fld p 96 24,
           queueFirst := fld p 128 18, queueCount := fld p 160 19, memQuota := fld p 192 24,
           rasterShare := fld p 256 8, tileGrant := fld p 288 32, streamGrant := fld p 320 32,
           outputGrant := fld p 352 4, i3cGrant := fld p 356 4, txGrant := fld p 360 4 }

/-- Check 1 of R407: the supervisor path, or (for `own`) mailbox m naming berth m. -/
def berthPathOk (t : Ticket) (b : Nat) (own : Bool) : Bool :=
  t.fromSupervisor || (own && match t.cmd.path with
    | .mailbox m => m.toNat == b
    | _ => false)

/-- Check 4 of R407 on a descriptor: ranges aligned and inside the tables. -/
def BerthDesc.fieldsOk (d : BerthDesc) : Bool :=
  d.xlatCount.toNat ≤ 0xFF0000 && d.xlatFirst.toNat + d.xlatCount.toNat ≤ 16777216
  && d.queueFirst.toNat % 16 == 0 && d.queueCount.toNat % 16 == 0
  && d.queueFirst.toNat + d.queueCount.toNat ≤ 262144 && d.memQuota.toNat ≤ 1105920

/-- Check 4 of R407 on the tiles of a grant: one that no longer exists is retired (R69), one that is not enabled is out of
range. -/
def Shadow.grantCheck (c : Shadow) (d : BerthDesc) : Option Nat :=
  (setBits d.tileGrant 32).findSome? fun t =>
    if c.enabled t then none else if bitAt c.ceased t then some 0x0056 else some 0x0110

/-- Two ranges, each a first number and a count, meet. -/
def rangesMeet (a n b m : Nat) : Bool := n != 0 && m != 0 && a < b + m && b < a + n

/-- R403 for berth `b` with descriptor `d` against every other LIVE or CLOSING berth. -/
def Shadow.rangesClear (c : Shadow) (b : Nat) (d : BerthDesc) : Bool :=
  !tabAny (fun k e => k != b && e.state != .free &&
    (rangesMeet d.xlatFirst.toNat d.xlatCount.toNat e.xlatFirst.toNat e.xlatCount.toNat
     || rangesMeet d.queueFirst.toNat d.queueCount.toNat e.queueFirst.toNat e.queueCount.toNat
     || d.tileGrant &&& e.tileGrant != 0 || d.streamGrant &&& e.streamGrant != 0
     || d.outputGrant &&& e.outputGrant != 0 || d.i3cGrant &&& e.i3cGrant != 0
     || d.txGrant &&& e.txGrant != 0)) c.berths

/-- Check 6 of R407: every object of the berth lies inside its new ranges and grants (R409). -/
def Shadow.objectsInside (c : Shadow) (b : Nat) (old d : BerthDesc) : Bool :=
  let inQ := fun q => d.queueFirst.toNat ≤ q && q < d.queueFirst.toNat + d.queueCount.toNat
  let inX := fun n => d.xlatFirst.toNat ≤ n && n < d.xlatFirst.toNat + d.xlatCount.toNat
  !tabAny (fun q e => e.valid && e.berth.toNat == b && !inQ q) c.queues
  && !tabAny (fun n e => e.valid && e.owner.toNat == b && (!inX n || d.xlatFirst != old.xlatFirst)) c.xlat
  && !tabAny (fun _ e => e.valid && e.berth.toNat == b && (e.srcKind == 0 || e.srcKind == 1)
        && bitAt old.streamGrant e.src.toNat && !bitAt d.streamGrant e.src.toNat) c.cuts
  && (upFrom 0 4).all (fun o => !(bitAt old.outputGrant o && !bitAt d.outputGrant o
        && (tabGet {} c.displays o).enable))
  && (upFrom 0 4).all (fun u => !(bitAt old.i3cGrant u && !bitAt d.i3cGrant u
        && (match (tabGet {} c.i3c u).owner with
            | some k => k.berth.toNat == b
            | none => false)))

/-- Frames of berth memory in service (R186, R470). -/
def Shadow.framesInService (c : Shadow) : Nat :=
  1105920 - tabCount (fun f x => berthFrame f && x == .retired) c.frames

/-- The sum of the quotas. -/
def Shadow.quotaSum (c : Shadow) : Nat := (c.berths.map fun k => k.2.memQuota.toNat).foldl (· + ·) 0

/-- Tiles that leave the grant leave their leaf basin in the shadow at once (R409). -/
def Shadow.takeTiles (c : Shadow) (gone : BitVec 32) : Shadow :=
  { c with basins := tabMap {} (fun _ d => { d with tileMask := d.tileMask &&& ~~~ gone }) c.basins }

/-- Some tile of a mask is under basin 0x000. -/
def Shadow.touchesSafety (c : Shadow) (m : BitVec 32) : Bool :=
  (c.maskUnder 0).any fun t => bitAt m t

/-- Checks 4 to 8 of R407 for a create or modify. -/
def berthChecks (c : Shadow) (b : Nat) (old d : BerthDesc) : Option Nat :=
  let c' := { c.takeTiles (old.tileGrant &&& ~~~ d.tileGrant) with berths := tabPut {} c.berths b d }
  if !d.fieldsOk then some 0x0110
  else if let some st := c.grantCheck d then some st
  else if !c.rangesClear b d then some 0x0112
  else if !c.objectsInside b old d then some 0x0113
  else if d.memQuota.toNat < d.memUsed.toNat
      || (old.memQuota.toNat < d.memQuota.toNat && c.framesInService < c'.quotaSum) then some 0x0114
  else if !c'.budgetOk then some 0x0040
  else none

/-- BERTH_CREATE (R402 to R407): FREE to LIVE, the generation rises at the commit edge. -/
def ruleBerthCreate : ConfigRule := fun s t c =>
  let b := fldN t.cmd.params 8 6
  let old := tabGet {} c.berths b
  let d : BerthDesc := { (({} : BerthDesc).withParams t.cmd.params) with state := .live, gen := old.gen + 1 }
  if !berthPathOk t b false then .refuse 0x0115 noResult
  else if old.state ≠ .free then .refuse 0x0111 noResult
  else if !s.inService && c.touchesSafety d.tileGrant then .refuse 0x0053 noResult
  else
    match berthChecks c b {} d with
    | some st => .refuse st noResult
    | none => .pass { c with berths := tabPut {} c.berths b d, genRaise := tabPut 0 c.genRaise b 1 } noResult

/-- BERTH_MODIFY (R409). -/
def ruleBerthModify : ConfigRule := fun s t c =>
  let b := fldN t.cmd.params 8 6
  let old := tabGet {} c.berths b
  let d := old.withParams t.cmd.params
  if !berthPathOk t b false then .refuse 0x0115 noResult
  else if old.state ≠ .live then .refuse 0x0111 noResult
  else if !s.inService && c.touchesSafety (old.tileGrant ^^^ d.tileGrant) then .refuse 0x0053 noResult
  else
    match berthChecks c b old d with
    | some st => .refuse st noResult
    | none =>
      let c := c.takeTiles (old.tileGrant &&& ~~~ d.tileGrant)
      .pass { c with berths := tabPut {} c.berths b d } noResult

/-- What a generation increment takes from a berth in the configuration (R412): queues, cuts,
translation entries (their frames wait to be zeroed), raster contexts and state handles. -/
def Shadow.dropBerth (c : Shadow) (b : Nat) (cycle : Nat) : Shadow :=
  let weights := c.models.flatMap fun m => if m.1 / 1024 = b then m.2.frames else []
  { c with
    queues := tabMap {} (fun _ d => if d.berth.toNat = b then {} else d) c.queues
    cuts := tabMap {} (fun _ e => if e.berth.toNat = b then {} else e) c.cuts
    frames := tabMap .free (fun f x => if x = .held (BitVec.ofNat 6 b) ∧ !weights.contains f then .freed (BitVec.ofNat 6 b) cycle else x) c.frames
    xlat := tabMap {} (fun _ e => if e.owner.toNat = b then {} else e) c.xlat
    rasterCtx := tabMap {} (fun _ x => if x.berth.toNat = b then {} else x) c.rasterCtx
    rasterState := tabMap none (fun k x => if k / 1024 = b then none else x) c.rasterState
    spreadNext := tabPut 0 c.spreadNext b 0
    basinNext := tabMap 0 (fun k x => if k / 1024 = b then 0 else x) c.basinNext }

/-- The generation of a berth rises at most once per lock cycle (R406). -/
def Shadow.raiseGen (c : Shadow) (b : Nat) (st : BerthState) (cycle : Nat) : Shadow :=
  let d := tabGet {} c.berths b
  let fresh := tabGet 0 c.genRaise b = 0
  let c := if fresh then c.dropBerth b cycle else c
  { c with berths := tabPut {} c.berths b { d with state := st, gen := if fresh then d.gen + 1 else d.gen },
           genRaise := tabPut 0 c.genRaise b 1 }

/-- The berth owns basin 0x000. -/
def Shadow.ownsSafety (c : Shadow) (b : Nat) : Bool := c.basinUsed 0 && (c.basin 0).berth.toNat == b

/-- The checks that BERTH_RESET and BERTH_DESTROY share (R407). -/
def endChecks (s : State) (t : Ticket) (c : Shadow) (b : Nat) (own : Bool) : Option Nat :=
  if !berthPathOk t b own then some 0x0115
  else if (tabGet {} c.berths b).state ≠ .live then some 0x0111
  else if !s.inService && c.ownsSafety b then some 0x0053
  else none

/-- BERTH_RESET (R406, R408): LIVE stays LIVE, the generation rises. -/
def ruleBerthReset : ConfigRule := fun s t c =>
  let b := fldN t.cmd.params 0 6
  match endChecks s t c b true with
  | some st => .refuse st noResult
  | none => .pass (c.raiseGen b .live (s.lock.number.toNat + 1)) noResult

/-- The frames of a berth's weight copies wait to be zeroed (R406). -/
def Shadow.dropWeights (c : Shadow) (b : Nat) (cycle : Nat) : Shadow :=
  { c with frames := tabMap .free (fun _ x => if x = .held (BitVec.ofNat 6 b) then .freed (BitVec.ofNat 6 b) cycle else x) c.frames }

/-- BERTH_DESTROY (R406, R408): LIVE to CLOSING, the generation rises. -/
def ruleBerthDestroy : ConfigRule := fun s t c =>
  let b := fldN t.cmd.params 0 6
  match endChecks s t c b false with
  | some st => .refuse st noResult
  | none =>
    let cycle := s.lock.number.toNat + 1
    .pass ((c.raiseGen b .closing cycle).dropWeights b cycle) noResult

/-- A frame is granted to a berth by some valid host-window grant other than `except` (R405). -/
def Shadow.granted (c : Shadow) (b : Nat) (f : Nat) (except : Option Nat) : Bool :=
  tabAny (fun k g => some k != except && g.valid && g.berth.toNat == b && g.first.toNat ≤ f
    && f < g.first.toNat + g.frames.toNat) c.grants

/-- Some valid entry of the berth maps a frame of grant `n` that no other grant of the berth holds (R409). -/
def Shadow.grantInUse (c : Shadow) (n : Nat) (g : HostGrant) : Bool :=
  tabAny (fun _ e => e.valid && e.target == 2 && e.owner == g.berth && pcieFrame e.frame.toNat
    && g.first.toNat ≤ e.frame.toNat && e.frame.toNat < g.first.toNat + g.frames.toNat
    && !c.granted g.berth.toNat e.frame.toNat (some n)) c.xlat

/-- BERTH_GRANT (R405, R407, R409). -/
def ruleBerthGrant : ConfigRule := fun _ t c =>
  let p := t.cmd.params
  let n := fldN p 0 7
  let b := fldN p 8 6
  let old := tabGet {} c.grants n
  let g : HostGrant := { valid := true, berth := fld p 8 6, first := fld p 32 32, frames := fld p 64 32 }
  if !berthPathOk t b false then .refuse 0x0115 noResult
  else if bitAt p 7 then
    if (tabGet {} c.berths b).state ≠ .live then .refuse 0x0111 noResult
    else if g.first.toNat < 0xC0000000 || g.frames == 0 || 0x100000000 < g.first.toNat + g.frames.toNat then
      .refuse 0x0110 noResult
    else if tabAny (fun k e => k != n && e.valid && e.berth != g.berth
        && rangesMeet g.first.toNat g.frames.toNat e.first.toNat e.frames.toNat) c.grants then .refuse 0x0112 noResult
    else if old.valid && ({ c with grants := tabPut {} c.grants n g }).grantInUse 128 old then .refuse 0x0113 noResult
    else .pass { c with grants := tabPut {} c.grants n g } noResult
  else if !(old.valid && old.berth.toNat == b) then .refuse 0x0110 noResult
  else if c.grantInUse n old then .refuse 0x0113 noResult
  else .pass { c with grants := tabPut {} c.grants n {} } noResult

/-- BERTH_CREATE. -/
def opBerthCreate : OpInfo := { opcode := 0x9001, runTime := true, wellFormed := onlyFields berthFields }
/-- BERTH_MODIFY. -/
def opBerthModify : OpInfo := { opcode := 0x9002, runTime := true, wellFormed := onlyFields berthFields }
/-- BERTH_RESET. -/
def opBerthReset : OpInfo := { opcode := 0x9003, runTime := true, wellFormed := onlyFields [(0, 6)] }
/-- BERTH_DESTROY. -/
def opBerthDestroy : OpInfo := { opcode := 0x9004, runTime := true, wellFormed := onlyFields [(0, 6)] }
/-- GET_BERTH. -/
def opGetBerth : OpInfo := { opcode := 0x9005, runTime := true, wellFormed := onlyFields [(0, 6)] }
/-- BERTH_GRANT; for a revoke FIRST and FRAMES are reserved. -/
def opBerthGrant : OpInfo :=
  { opcode := 0x9006, runTime := true,
    wellFormed := fun p => onlyFields [(0, 7), (7, 1), (8, 6), (32, 32), (64, 32)] p
      && (bitAt p 7 || (fldN p 32 64 == 0)) }

/-- BERTH_CREATE brings a FREE berth into use. -/
def execBerthCreate (c : Cmd) (s : State) : Host.Outcome State Fault Refusal :=
  carry opBerthCreate c (acceptConfig ruleBerthCreate) s

/-- BERTH_MODIFY resizes a LIVE berth. -/
def execBerthModify (c : Cmd) (s : State) : Host.Outcome State Fault Refusal :=
  carry opBerthModify c (acceptConfig ruleBerthModify) s

/-- BERTH_RESET raises a berth's generation. -/
def execBerthReset (c : Cmd) (s : State) : Host.Outcome State Fault Refusal :=
  carry opBerthReset c (acceptConfig ruleBerthReset) s

/-- BERTH_DESTROY closes a berth; it completes when the berth becomes FREE. -/
def execBerthDestroy (c : Cmd) (s : State) : Host.Outcome State Fault Refusal :=
  carry opBerthDestroy c (acceptConfig ruleBerthDestroy) s

/-- BERTH_GRANT writes or revokes a host-window grant. -/
def execBerthGrant (c : Cmd) (s : State) : Host.Outcome State Fault Refusal :=
  carry opBerthGrant c (acceptConfig ruleBerthGrant) s

/-- The code of a berth state (R402). -/
def BerthState.code : BerthState → Nat
  | .free => 0
  | .live => 1
  | .closing => 2

/-- The latched berth descriptor as a 64-byte block (R402). -/
def berthRecord (d : BerthDesc) (b : Nat) : Result :=
  longResult 64 [(0, 2, d.state.code), (8, 6, b), (16, 16, d.gen.toNat), (32, 24, d.wakeTol.toNat),
    (64, 24, d.xlatFirst.toNat), (96, 24, d.xlatCount.toNat), (128, 18, d.queueFirst.toNat),
    (160, 19, d.queueCount.toNat), (192, 24, d.memQuota.toNat), (224, 24, d.memUsed.toNat),
    (256, 8, d.rasterShare.toNat), (288, 32, d.tileGrant.toNat), (320, 32, d.streamGrant.toNat),
    (352, 4, d.outputGrant.toNat), (356, 4, d.i3cGrant.toNat), (360, 4, d.txGrant.toNat)]

/-- GET_BERTH returns the descriptor of a berth in any state (R407, R408). -/
def actGetBerth (t : Ticket) (s : State) : State :=
  let b := fldN t.cmd.params 0 6
  if berthPathOk t b true then writeRecord t 0 (berthRecord (tabGet {} s.snap.cfg.berths b) b) s
  else writeRecord t 0x0115 noResult s

/-- GET_BERTH returns a berth descriptor. -/
def execGetBerth (c : Cmd) (s : State) : Host.Outcome State Fault Refusal := carry opGetBerth c actGetBerth s

end Sys2Proof.Machine
end

