-- ==== Sys2Proof/Machine/Numbers.lean ====
section
/-! DEFINITION. The number formats of the array and the lanes (R78 to R89): exact values, decoding,
rounding, encoding, block scales, codebooks and the stochastic-rounding generator. -/

namespace Sys2Proof.Machine

/-! Exact values -/

/-- An exact element value: a finite dyadic (-1)^neg × m × 2^e, an infinity, or NaN. -/
inductive Val where
  | fin (neg : Bool) (m : Nat) (e : Int)
  | inf (neg : Bool)
  | nan
  deriving DecidableEq, Repr

/-- Positive zero. -/
def Val.zero : Val := .fin false 0 0

/-- The signed mantissa of a finite value. -/
def signed (neg : Bool) (m : Nat) : Int := if neg then -(m : Int) else m

/-- The finite value with signed mantissa `i`; an exact zero is positive. -/
def ofSigned (i : Int) (e : Int) : Val := .fin (decide (i < 0)) i.natAbs e

/-- A non-negative shift. -/
def shl (i : Int) (n : Int) : Int := i * 2 ^ n.toNat

/-- The exact sum of two values; the sum of two negative zeros is negative zero (IEEE 754). -/
def Val.add : Val → Val → Val
  | .nan, _ => .nan
  | _, .nan => .nan
  | .inf a, .inf b => if a = b then .inf a else .nan
  | .inf a, _ => .inf a
  | _, .inf b => .inf b
  | .fin a m e, .fin b n f =>
    if m = 0 ∧ n = 0 then .fin (a && b) 0 0
    else
      let g := min e f
      ofSigned (shl (signed a m) (e - g) + shl (signed b n) (f - g)) g

/-- The exact product of two values. -/
def Val.mul : Val → Val → Val
  | .nan, _ => .nan
  | _, .nan => .nan
  | .inf a, .inf b => .inf (a != b)
  | .inf a, .fin b n _ => if n = 0 then .nan else .inf (a != b)
  | .fin a m _, .inf b => if m = 0 then .nan else .inf (a != b)
  | .fin a m e, .fin b n f => .fin (a != b) (m * n) (e + f)

/-- Negation. -/
def Val.neg : Val → Val
  | .fin a m e => .fin (!a) m e
  | .inf a => .inf (!a)
  | .nan => .nan

/-- A value times 2^k. -/
def Val.scale (k : Int) : Val → Val
  | .fin a m e => .fin a m (e + k)
  | v => v

/-- The exact magnitude of a finite value is at most that of another. -/
def magLe (m : Nat) (e : Int) (n : Nat) (f : Int) : Bool :=
  let g := min e f
  shl m (e - g) ≤ shl n (f - g)

/-- Numeric order of two values that are not NaN. -/
def Val.lt : Val → Val → Bool
  | .nan, _ => false
  | _, .nan => false
  | .inf a, .inf b => a && !b
  | .inf a, _ => a
  | _, .inf b => !b
  | .fin a m e, .fin b n f =>
    let g := min e f
    shl (signed a m) (e - g) < shl (signed b n) (f - g)

/-- Numeric equality of two values. -/
def Val.eq (a b : Val) : Bool := a != .nan && b != .nan && !a.lt b && !b.lt a

/-! Formats (R78, R79) -/

/-- A float encoding: exponent and mantissa widths, bias, whether it has infinities, whether it has NaN,
and the mantissa of its largest finite value under the highest exponent field. -/
structure FloatFmt where
  ebits : Nat
  mbits : Nat
  bias : Int
  hasInf : Bool := false
  hasNan : Bool := false
  /-- the largest exponent field and mantissa of a finite value -/
  topE : Nat
  topM : Nat
  canonicalNan : Nat := 0
  deriving DecidableEq, Repr

def fmtFp32 : FloatFmt :=
  { ebits := 8, mbits := 23, bias := 127, hasInf := true, hasNan := true, topE := 254, topM := 0x7FFFFF, canonicalNan := 0x7FC00000 }
def fmtFp16 : FloatFmt :=
  { ebits := 5, mbits := 10, bias := 15, hasInf := true, hasNan := true, topE := 30, topM := 0x3FF, canonicalNan := 0x7E00 }
def fmtBf16 : FloatFmt :=
  { ebits := 8, mbits := 7, bias := 127, hasInf := true, hasNan := true, topE := 254, topM := 0x7F, canonicalNan := 0x7FC0 }
def fmtE4M3 : FloatFmt := { ebits := 4, mbits := 3, bias := 7, hasNan := true, topE := 15, topM := 6, canonicalNan := 0x7F }
def fmtE5M2 : FloatFmt :=
  { ebits := 5, mbits := 2, bias := 15, hasInf := true, hasNan := true, topE := 30, topM := 3, canonicalNan := 0x7F }
def fmtE3M2 : FloatFmt := { ebits := 3, mbits := 2, bias := 3, topE := 7, topM := 3 }
def fmtE2M3 : FloatFmt := { ebits := 2, mbits := 3, bias := 1, topE := 3, topM := 7 }
def fmtE2M1 : FloatFmt := { ebits := 2, mbits := 1, bias := 1, topE := 3, topM := 1 }

/-- The value an element encodes (R80). -/
def FloatFmt.decode (f : FloatFmt) (x : Nat) : Val :=
  let m := x % 2 ^ f.mbits
  let e := x / 2 ^ f.mbits % 2 ^ f.ebits
  let neg := x / 2 ^ (f.mbits + f.ebits) % 2 == 1
  if f.hasInf ∧ e = 2 ^ f.ebits - 1 then (if m = 0 then .inf neg else .nan)
  else if f.hasNan ∧ !f.hasInf ∧ e = 2 ^ f.ebits - 1 ∧ m = 2 ^ f.mbits - 1 then .nan
  else if e = 0 then .fin neg m (1 - f.bias - f.mbits)
  else .fin neg (2 ^ f.mbits + m) (e - f.bias - f.mbits)

/-- The bits of sign, exponent field and mantissa. -/
def FloatFmt.pack (f : FloatFmt) (neg : Bool) (e m : Nat) : Nat := b2n neg * 2 ^ (f.ebits + f.mbits) + e * 2 ^ f.mbits + m

/-- The exponent of the unit in the last place at magnitude m × 2^e, with the exponent range taken as
unbounded above (R88). -/
def FloatFmt.quantum (f : FloatFmt) (m : Nat) (e : Int) : Int :=
  max ((Nat.log2 m : Int) + e) (1 - f.bias) - f.mbits

/-- Round a magnitude m × 2^e to a whole number of units of 2^q: to nearest, ties to even, or upwards when
D + r reaches 65,536 (R88). -/
def roundUnits (m : Nat) (e q : Int) (draw : Option Nat) : Nat :=
  if q ≤ e then (shl m (e - q)).toNat
  else
    let d := 2 ^ (q - e).toNat
    let lo := m / d
    let rem := m % d
    match draw with
    | none => if 2 * rem < d then lo else if d < 2 * rem then lo + 1 else if lo % 2 = 0 then lo else lo + 1
    | some r => if 65536 ≤ 65536 * rem / d + r then lo + 1 else lo

/-- What a conversion produced: the bits and whether it saturated or wrote a NaN (R85). -/
structure Conv where
  bits : Nat
  sat : Bool := false
  nan : Bool := false
  deriving DecidableEq, Repr

/-- The encoding of n units of 2^q, above the largest finite or not. -/
def FloatFmt.place (f : FloatFmt) (neg : Bool) (n : Nat) (q : Int) : Option Nat :=
  if n = 0 then some (f.pack neg 0 0)
  else
    -- n can be 2^(mbits+1) after rounding up
    let (n, q) := if n = 2 ^ (f.mbits + 1) then (2 ^ f.mbits, q + 1) else (n, q)
    if n < 2 ^ f.mbits then some (f.pack neg 0 n)
    else
      let e := (q + f.mbits + f.bias).toNat
      let m := n - 2 ^ f.mbits
      if f.topE < e ∨ (e = f.topE ∧ f.topM < m) then none else some (f.pack neg e m)

/-- The largest finite element of a sign. -/
def FloatFmt.largest (f : FloatFmt) (neg : Bool) : Nat := f.pack neg f.topE f.topM

/-- Convert an exact value to a float format (R85); the draw is that of stochastic rounding. -/
def FloatFmt.convert (f : FloatFmt) (draw : Option Nat) : Val → Conv
  | .nan => { bits := f.canonicalNan, nan := true }
  | .inf neg =>
    if f.hasInf then { bits := f.pack neg (2 ^ f.ebits - 1) 0 } else { bits := f.largest neg, sat := true }
  | .fin neg m e =>
    let q := f.quantum m e
    match f.place neg (roundUnits m e q draw) q with
    | some b => { bits := b }
    | none => { bits := f.largest neg, sat := true }

/-- Round an exact value to FP32 as arithmetic does: an overflow gives infinity (R101, R121). -/
def fp32Round : Val → BitVec 32
  | .nan => 0x7FC00000
  | .inf neg => BitVec.ofNat 32 (fmtFp32.pack neg 255 0)
  | .fin neg m e =>
    let q := fmtFp32.quantum m e
    match fmtFp32.place neg (roundUnits m e q none) q with
    | some b => BitVec.ofNat 32 b
    | none => BitVec.ofNat 32 (fmtFp32.pack neg 255 0)

/-- The value of an FP32 word. -/
def fp32Val (x : BitVec 32) : Val := fmtFp32.decode x.toNat

/-- An FP32 sum, product, or fused multiply-add, rounded once. -/
def fp32Add (a b : BitVec 32) : BitVec 32 := fp32Round ((fp32Val a).add (fp32Val b))
def fp32Mul (a b : BitVec 32) : BitVec 32 := fp32Round ((fp32Val a).mul (fp32Val b))
def fp32Fma (a b c : BitVec 32) : BitVec 32 := fp32Round (((fp32Val a).mul (fp32Val b)).add (fp32Val c))

/-! Integers (R81, R85) -/

/-- The value of a signed or unsigned integer element. -/
def intVal (isSigned : Bool) (w x : Nat) : Int :=
  if isSigned ∧ 2 ^ (w - 1) ≤ x then (x : Int) - 2 ^ w else x

/-- The range of an integer format. -/
def intRange (isSigned : Bool) (w : Nat) : Int × Int := if isSigned then (-(2 ^ (w - 1)), 2 ^ (w - 1) - 1) else (0, 2 ^ w - 1)

/-- The bits of an integer of width `w`. -/
def intBits (w : Nat) (i : Int) : Nat := (i % 2 ^ w).toNat

/-- Convert an exact value to an integer format (R85). -/
def intConvert (isSigned : Bool) (w : Nat) (draw : Option Nat) : Val → Conv
  | .nan => { bits := 0, nan := true }
  | .inf neg =>
    let (lo, hi) := intRange isSigned w
    { bits := intBits w (if neg then lo else hi), sat := true }
  | .fin neg m e =>
    let (lo, hi) := intRange isSigned w
    let i := signed neg (roundUnits m e 0 draw)
    if i < lo then { bits := intBits w lo, sat := true }
    else if hi < i then { bits := intBits w hi, sat := true }
    else { bits := intBits w i }

/-- An INT32 sum that saturates, and whether it did (R102). -/
def satAdd32 (a b : Int) : Int × Bool :=
  let s := a + b
  if s < -(2 ^ 31) then (-(2 ^ 31), true) else if 2 ^ 31 - 1 < s then (2 ^ 31 - 1, true) else (s, false)

/-! The format codes of R78 -/

/-- Bits per element. -/
def formatBits (f : Nat) : Nat :=
  match f with
  | 0 | 9 => 32
  | 1 | 2 | 0xA => 16
  | 3 | 4 | 5 | 0xB | 0xC => 8
  | 6 | 7 => 6
  | _ => 4

/-- The float encoding of a format's elements; CB4 entries are E4M3. -/
def formatFloat (f : Nat) : FloatFmt :=
  match f with
  | 0 => fmtFp32
  | 1 => fmtFp16
  | 2 => fmtBf16
  | 3 | 5 => fmtE4M3
  | 4 => fmtE5M2
  | 6 => fmtE3M2
  | 7 => fmtE2M3
  | 8 => fmtE2M1
  | _ => fmtE4M3

/-- Float formats, CB4 among them. -/
def formatIsFloat (f : Nat) : Bool := f ≤ 8 || f == 0xE
/-- Formats with a block scale (R82). -/
def formatIsMx (f : Nat) : Bool := 5 ≤ f && f ≤ 8
/-- Integer formats that are signed. -/
def formatSigned (f : Nat) : Bool := f != 0xC

/-- The value of a stored element, without scale or codebook. -/
def elementVal (f x : Nat) : Val :=
  if formatIsFloat f then (formatFloat f).decode x else ofSigned (intVal (formatSigned f) (formatBits f) x) 0

/-- emax of R86. -/
def mxEmax (f : Nat) : Int := if f = 5 then 8 else if f = 6 then 4 else 2

/-- The value of an element under an E8M0 scale code (R82). -/
def scaled (code : Nat) (v : Val) : Val := if code = 0xFF then .nan else v.scale ((code : Int) - 127)

/-! Block conversion (R85 to R87) -/

/-- The larger magnitude of a block so far and the next value. -/
def magMax (best : Nat × Int) : Val → Nat × Int
  | .fin _ m e => if magLe m e best.1 best.2 then best else (m, e)
  | _ => best

/-- The scale exponent of a block with largest magnitude m × 2^e (R86). -/
def mxScale (f m : Nat) (e : Int) : Nat :=
  if m = 0 then 0
  else
    let s := (Nat.log2 m : Int) + e - mxEmax f
    (max (-127) (min 127 s) + 127).toNat

/-- A converted block: the scale code of an MX block, the element bits, saturations and NaNs. -/
structure Block where
  scale : Nat := 0
  bits : List Nat := []
  sat : Nat := 0
  nan : Nat := 0
  deriving DecidableEq, Repr

/-- Convert a block of at most 32 values to an MX format with the draws given (none: to nearest). -/
def mxBlock (f : Nat) (vs : List Val) (draws : List (Option Nat)) : Block :=
  let bad := vs.filter fun v => match v with
    | .fin _ _ _ => false
    | _ => true
  if !bad.isEmpty then { scale := 0xFF, bits := vs.map fun _ => 0, nan := bad.length }
  else
    let (m, e) := vs.foldl magMax (0, 0)
    let code := mxScale f m e
    let cs := List.zipWith (fun v d => (formatFloat f).convert d (v.scale (127 - code))) vs draws
    if m = 0 then { scale := 0, bits := cs.map (·.bits) }
    else { scale := code, bits := cs.map (·.bits), sat := (cs.filter (·.sat)).length }

/-- Convert one value to a format without scale. -/
def convertOne (f : Nat) (draw : Option Nat) (v : Val) : Conv :=
  if formatIsFloat f then (formatFloat f).convert draw v else intConvert (formatSigned f) (formatBits f) draw v

/-- The exact distance of two finite values, as a magnitude. -/
def valDist (a b : Val) : Option (Nat × Int) :=
  match a.add b.neg with
  | .fin _ m e => some (m, e)
  | _ => none

/-- The index of the codebook entry nearest to a finite value, the lowest on a tie (R87); a NaN entry is at no
distance. None: every entry is NaN. -/
def nearestEntry (v : Val) : Nat → List Val → Option (Nat × Nat × Int) → Option Nat
  | _, [], best => best.map fun b => b.1
  | i, c :: t, best =>
    match valDist v c with
    | none => nearestEntry v (i + 1) t best
    | some (m, e) =>
      match best with
      | none => nearestEntry v (i + 1) t (some (i, m, e))
      | some (j, m', e') =>
        if magLe m' e' m e then nearestEntry v (i + 1) t (some (j, m', e')) else nearestEntry v (i + 1) t (some (i, m, e))

/-- Convert a value to a CB4 index (R87). Which entry is nearest to an infinity, or when every entry is NaN, the manual
does not say: a free value. -/
def cb4Convert (book : List Byte) (v : Val) : Conv :=
  match v with
  | .nan => { bits := 0, nan := true }
  | .inf neg => { bits := (Config.nearestOpen book neg).toNat }
  | .fin neg m e =>
    match nearestEntry (.fin neg m e) 0 (book.map fun c => fmtE4M3.decode c.toNat) none with
    | some i => { bits := i }
    | none => { bits := (Config.nearestOpen book neg).toNat }

/-! Stochastic rounding (R89, R90) -/

/-- Advance a generator by one draw. -/
def srStep (s : BitVec 64) : BitVec 64 :=
  let s := s ^^^ (s <<< 13)
  let s := s ^^^ (s >>> 7)
  s ^^^ (s <<< 17)

/-- The number a draw returns: bits [63:48] of the advanced state. -/
def srDraw (s : BitVec 64) : Nat := fldN s 48 16

/-- A seed advanced by `n` steps. -/
def srSeeded : Nat → BitVec 64 → BitVec 64
  | 0, s => s
  | n + 1, s => srSeeded n (srStep s)

/-- `n` draws: the numbers in order and the state they leave. -/
def srDraws : Nat → BitVec 64 → List Nat × BitVec 64
  | 0, s => ([], s)
  | n + 1, s =>
    let s := srStep s
    let (t, s') := srDraws n s
    (srDraw s :: t, s')

/-! Bit streams (R93) -/

/-- Pack elements of `w` bits, element 0 lowest. -/
def packElems (w : Nat) : List Nat → Nat
  | [] => 0
  | x :: t => x % 2 ^ w + 2 ^ w * packElems w t

/-- `n` elements of `w` bits from a number. -/
def unpackElems (w : Nat) : Nat → Nat → List Nat
  | 0, _ => []
  | n + 1, v => v % 2 ^ w :: unpackElems w n (v / 2 ^ w)

end Sys2Proof.Machine
end

