-- ==== Sys2Proof/Machine/Exact.lean ====
section
/-! DEFINITION. Exact fractions, and FP32 arithmetic that rounds them once (R240 to R245, R274, R281, R282). -/

namespace Sys2Proof.Machine

/-- The fraction that a finite value is. -/
def Val.rat : Val → Option Rat
  | .fin neg m e => some (if 0 ≤ e then (shl (signed neg m) e : Rat) else (signed neg m : Rat) / (2 ^ (-e).toNat : Nat))
  | _ => none

/-- The value of an FP32 word as a fraction; none for infinities and NaN. -/
def fp32Rat (x : BitVec 32) : Option Rat := (fp32Val x).rat

/-- A value within a relative 2^-200 of a fraction, on the same side of every tie: rounding it rounds the fraction. -/
def ratVal (q : Rat) : Val :=
  let n := q.num.natAbs
  let k := 200 + Nat.log2 q.den
  let m := n * 2 ^ k
  .fin (decide (q < 0)) (2 * (m / q.den) + b2n (m % q.den != 0)) (-(k + 1 : Nat))

/-- A fraction rounded to FP32, to nearest, ties to even. -/
def fp32OfRat (q : Rat) : BitVec 32 := fp32Round (ratVal q)

/-- The FP32 word next to a finite one, above or below. -/
def fp32Next (up : Bool) (x : BitVec 32) : BitVec 32 :=
  if fldN x 0 31 = 0 then (if up then 1 else 0x80000001) else if bitAt x 31 == up then x - 1 else x + 1

/-- A fraction as FP32 where the manual gives no rounding: the FP32 value equal to it, else one of the two next to it, freely
chosen. -/
def fp32Free (q : Rat) : BitVec 32 :=
  let x := fp32OfRat q
  match fp32Rat x with
  | some v => if v = q then x else if Config.fp32Far q then fp32Next (decide (v < q)) x else x
  | none => x

/-- A weighted mean of FP32 values in FP32, the weights adding up to `d`; the manual gives no order of operations. -/
def fp32Weigh (d : Nat) (xs : List (Nat × BitVec 32)) : BitVec 32 :=
  let qs := xs.filterMap fun x => (fp32Rat x.2).map fun q => (x.1 : Rat) * q
  if qs.length = xs.length then fp32Free (qs.foldl (· + ·) 0 / (d : Rat)) else Config.fp32Mean xs

/-- FP32 subtraction. -/
def fp32Sub (a b : BitVec 32) : BitVec 32 := fp32Round ((fp32Val a).add (fp32Val b).neg)

/-- The sign of a value. -/
def Val.isNeg : Val → Bool
  | .fin n _ _ => n
  | .inf n => n
  | .nan => false

/-- FP32 division, rounded once. -/
def fp32Div (a b : BitVec 32) : BitVec 32 :=
  let x := fp32Val a
  let y := fp32Val b
  let neg := x.isNeg != y.isNeg
  match x, y with
  | .nan, _ => 0x7FC00000
  | _, .nan => 0x7FC00000
  | .inf _, .inf _ => 0x7FC00000
  | .inf _, _ => fp32Round (.inf neg)
  | _, .inf _ => fp32Round (.fin neg 0 0)
  | .fin _ m _, .fin _ n _ =>
    if n = 0 then (if m = 0 then 0x7FC00000 else fp32Round (.inf neg))
    else if m = 0 then fp32Round (.fin neg 0 0)
    else
      match x.rat, y.rat with
      | some p, some q => fp32OfRat (p / q)
      | _, _ => 0x7FC00000

/-- A fraction rounded to an integer, ties to even. -/
def roundRat (q : Rat) : Int :=
  let f := q.floor
  let r := q - f
  if r < 1 / 2 then f else if 1 / 2 < r then f + 1 else if f % 2 = 0 then f else f + 1

/-- An integer as FP32. -/
def fp32OfInt (i : Int) : BitVec 32 := fp32Round (ofSigned i 0)

/-- FP32 order: false with a NaN. -/
def fp32Lt (a b : BitVec 32) : Bool := (fp32Val a).lt (fp32Val b)
/-- FP32 less or equal. -/
def fp32Le (a b : BitVec 32) : Bool := fp32Lt a b || (fp32Val a).eq (fp32Val b)

/-- The lesser and the greater of two values; a NaN gives the other one. -/
def fp32Min (a b : BitVec 32) : BitVec 32 :=
  if fp32Val a = .nan then (if fp32Val b = .nan then 0x7FC00000 else b)
  else if fp32Val b = .nan then a else if fp32Lt b a then b else a
/-- The greater of two values. -/
def fp32Max (a b : BitVec 32) : BitVec 32 :=
  if fp32Val a = .nan then (if fp32Val b = .nan then 0x7FC00000 else b)
  else if fp32Val b = .nan then a else if fp32Lt a b then b else a

/-- One, as FP32. -/
def fp32One : BitVec 32 := 0x3F800000

/-- A value clamped to [0, 1]; NaN gives 0. -/
def fp32Clamp01 (a : BitVec 32) : BitVec 32 := fp32Min fp32One (fp32Max 0 a)

/-- VkCompareOp (R273, R280): 0 never, 1 less, 2 equal, 3 less or equal, 4 greater, 5 not equal, 6 greater or equal,
7 always. -/
def compareOp {α : Type} (lt : α → α → Bool) (eq : α → α → Bool) (op : Nat) (a b : α) : Bool :=
  match op with
  | 0 => false
  | 1 => lt a b
  | 2 => eq a b
  | 3 => lt a b || eq a b
  | 4 => lt b a
  | 5 => !eq a b
  | 6 => lt b a || eq a b
  | _ => true

end Sys2Proof.Machine
end

