-- ==== Sys2Proof/Machine/Granules.lean ====
section
/-! DEFINITION. The tile store's granules: how many are held, which, by whom, and what they hold (R45 to R47, R127,
R149). -/

namespace Sys2Proof.Machine

/-! Granules (R45, R47) -/

/-- Working granules that the shards started on a logical tile hold (R149). -/
def Dyn.workGranules (d : Dyn) (l : Nat) : Nat :=
  (d.work.jobs.map fun kv => match kv.2 with
    | none => 0
    | some j => ((j.shards.filter fun x => x.tile == l && x.switched).map fun x =>
        (j.model.shards.getD x.shard {}).work.toNat).foldl (· + ·) 0).foldl (· + ·) 0

/-- Granules that the shared memory of a job's workgroups holds on a tile (R127). -/
def sharedGranules (w : TileWork) (j : Nat) : Nat :=
  (((w.workgroups.filter fun g => g.job == j && g.sharedKb != 0).map fun g => g.granule).eraseDups).length

/-- The granule of job `j` that takes `kb` KB more: a held one with room, or the lowest free number (R127). -/
def sharedFit (w : TileWork) (j kb : Nat) : Nat :=
  let mine := w.workgroups.filter fun g => g.job == j && g.sharedKb != 0
  let filled := fun n => ((mine.filter fun g => g.granule == n).map fun g => g.sharedKb).foldl (· + ·) 0
  let held := (mine.map fun g => g.granule).eraseDups
  match held.find? fun n => filled n + kb ≤ 64 with
  | some n => n
  | none => ((upFrom 0 (held.length + 1)).find? fun n => !held.contains n).getD 0

/-- The jobs with workgroups on a tile, each once. -/
def TileWork.groupJobs (w : TileWork) : List Nat := (w.workgroups.map fun g => g.job).eraseDups

/-- Granules of a physical tile's store in use, of 256. -/
def Dyn.usedGranules (d : Dyn) (p : Nat) : Nat :=
  let w := tabGet {} d.work.tiles p
  let weights := (w.residents.map fun r => r.granules).foldl (· + ·) 0
  let shared := (w.groupJobs.map (sharedGranules w)).foldl (· + ·) 0
  let raster := (w.raster.map fun kv => kv.2).foldl (· + ·) 0
  let working := match d.cfg.logicalOf p with
    | some l => d.workGranules l
    | none => 0
  weights + shared + raster + working

/-- Free granules of a physical tile. -/
def Dyn.freeGranules (d : Dyn) (p : Nat) : Nat := 256 - d.usedGranules p

/-! Which granules, and what they hold (R45, R46) -/

/-- What the contexts on a physical tile hold, with berth, generation and the number of granules. -/
def Dyn.demand (d : Dyn) (p : Nat) : List (Granule × Nat) :=
  let w := tabGet {} d.work.tiles p
  let gen := fun (b : BitVec 6) => (d.cfg.berth b).gen
  let jobOf := fun (j : Nat) => tabGet none d.work.jobs j
  let weights := w.residents.map fun r =>
    (({ use := .weights r.berth r.handle r.shard, berth := r.berth, gen := gen r.berth } : Granule), r.granules)
  let shared := (w.workgroups.filter fun g => g.sharedKb != 0).filterMap fun g => (jobOf g.job).map fun j =>
    (({ use := .shared g.job g.granule, berth := j.berth, gen := j.gen } : Granule), 1)
  let raster := w.raster.map fun kv =>
    let b := (tabGet {} d.cfg.rasterCtx kv.1).berth
    (({ use := .raster kv.1, berth := b, gen := gen b } : Granule), kv.2)
  let work := d.work.jobs.flatMap fun kv => match kv.2 with
    | none => []
    | some j => (j.shards.filter fun x => d.cfg.logicalOf p == some x.tile && x.switched).map fun x =>
        (({ use := .work kv.1 x.shard, berth := j.berth, gen := j.gen } : Granule),
          (j.model.shards.getD x.shard {}).work.toNat)
  weights ++ shared.eraseDups ++ raster ++ work

/-- The granules that a context holds, ascending. -/
def TileWork.granulesOf (w : TileWork) (u : GranuleUse) : List Nat :=
  tabKeys (fun _ g => g.any fun x => x.use == u) w.granules

/-- A granule's working bytes are known: it held a working store. -/
def Granule.exact (g : Granule) : Bool := match g.use with
  | .work _ _ => true
  | _ => false

/-- Granule `n` passes to a context: zeroed when it comes from another berth, or from none; else not, and what other uses
left in it are free values from `seed`. -/
def TileWork.passGranule (n seed : Nat) (g : Granule) (w : TileWork) : TileWork :=
  let old := tabGet none w.granules n
  let same := old.any fun o => o.berth == g.berth
  let kept := same && old.any Granule.exact
  { w with granules := tabPut none w.granules n (some { g with seed := if kept then (old.map (·.seed)).getD 0 else if same then seed + 1 else 0 })
           store := if kept then w.store else w.store.filter fun kv => kv.1 / 0x10000 != n }

/-- A context gets the granules that it still lacks: the lowest that no context holds. -/
def TileWork.grant (live : List GranuleUse) (seed : Nat) (w : TileWork) (x : Granule × Nat) : TileWork :=
  let free := (upFrom 0 256).filter fun n => match tabGet none w.granules n with
    | some g => !live.contains g.use
    | none => true
  (free.take (x.2 - (w.granulesOf x.1.use).length)).foldl (fun w n => w.passGranule n seed x.1) w

/-- Every context on a physical tile gets its granules. -/
def regrant (p : Nat) (s : State) : State :=
  let ds := s.dyn.demand p
  let w := s.tileWork p
  if ds.all fun x => (w.granulesOf x.1.use).length == x.2 then s
  else
    let live := ds.map fun x => x.1.use
    let s' := s.modTileWork p fun w => ds.foldl (TileWork.grant live s.free) w
    { s' with free := s.free + 0x1000000 }

/-- The byte keys of `len` bytes from an offset of a context's granules; none where one is not tagged with the berth and
generation, or is not there (R45). -/
def TileWork.storeKeys (w : TileWork) (u : GranuleUse) (b : BitVec 6) (gen : BitVec 16) (off len : Nat) : Option (List Nat) :=
  let gs := w.granulesOf u
  (upFrom off len).mapM fun o =>
    match gs[o / 0x10000]? with
    | none => none
    | some n => if (tabGet none w.granules n).any fun g => g.berth == b && g.gen == gen then some (n * 0x10000 + o % 0x10000) else none

/-- A byte of the tile store. -/
def TileWork.storeByte (w : TileWork) (k : Nat) : Byte :=
  (tabGet none w.store k).getD
    (match tabGet none w.granules (k / 0x10000) with
     | some g => if g.seed = 0 then 0 else Config.freeBits 8 (g.seed + k)
     | none => 0)

/-- Store bytes of the tile store. -/
def TileWork.putStore (w : TileWork) (ks : List Nat) (d : List Byte) : TileWork :=
  { w with store := (ks.zip d).foldl (fun t x => tabPut none t x.1 (some x.2)) w.store }

/-! When a tile is idle (R41) -/

/-- The queue endpoints of a tile's leaf basin and of the basins above it hold no entry (R41). -/
def Dyn.endpointEmpty (d : Dyn) (p : Nat) : Bool :=
  match d.cfg.logicalOf p with
  | none => true
  | some l => match d.cfg.leafOf l with
    | none => true
    | some n =>
      !tabAny (fun k b => b.kind != 0 && d.cfg.under k n &&
        (let y := tabGet {} d.queues b.endpoint.toNat
         y.prod != y.cons)) d.cfg.basins

/-- A bundle may issue: it has not ended and does not wait. -/
def Bundle.runs (b : Bundle) : Bool := !b.ended && !b.atBarrier && b.waiting.isNone

/-- A shard has work beside its threads: an array step, or no step under way though steps are left. -/
def ShardRun.inFlight (x : ShardRun) (steps : Nat) : Bool :=
  x.array.isSome || (x.running.isEmpty && x.done.length < steps) || !x.switched

/-- A job has waves on a logical tile beside those of its threads: array work, steps to start, workgroups to place. -/
def Job.inFlight (j : Job) (l : Nat) : Bool :=
  j.placedOn l && (j.array.isSome
    || j.lanes.any (fun r => !r.again.isEmpty || r.next < r.gx * r.gy * r.gz)
    || j.shards.any fun x => x.tile == l && x.inFlight (j.model.steps.filter fun y => y.shard.toNat == x.shard).length)

/-- A wave is in flight on a physical tile (R41): threads that may issue, array work, a pass that is not in a weir. -/
def Dyn.inFlight (d : Dyn) (p : Nat) : Bool :=
  let w := tabGet {} d.work.tiles p
  w.workgroups.any (fun g => g.bundles.any Bundle.runs)
  || w.raster.any (fun kv => (tabGet {} d.raster.passes kv.1).phase != .weir)
  || match d.cfg.logicalOf p with
     | none => false
     | some l => tabAny (fun _ j => j.any fun j => j.inFlight l) d.work.jobs

/-- The tile counts as idle (R41). -/
def Dyn.tileIdle (d : Dyn) (p : Nat) : Bool := !d.inFlight p && d.endpointEmpty p

end Sys2Proof.Machine
end

