-- ==== Sys2Proof/Machine/Queues.lean ====
section
/-! DEFINITION. Hardware queues: their descriptors, doorbells and commands (R163 to R167, R180, R386). -/

namespace Sys2Proof.Machine

/-- QUEUE_CREATE and QUEUE_MODIFY carry the RW fields at descriptor bit + 64; KIND 3 is reserved. -/
def queueParamsOk (p : Params) : Bool :=
  onlyFields [(0, 18), (64, 1), (65, 2), (67, 2), (69, 3), (72, 6), (96, 40), (136, 5), (144, 18)] p
    && fldN p 65 2 ≠ 3

/-- The descriptor that the parameters carry. -/
def queueOfParams (p : Params) : QueueDesc :=
  { valid := bitAt p 64, kind := fld p 65 2, entry := fld p 67 2, priority := fld p 69 3, berth := fld p 72 6,
    ringAddr := fld p 96 40, ringLog2 := fld p 136 5, cq := fld p 144 18 }

/-- The fields of a descriptor are in range (R163). -/
def queueFieldsOk (d : QueueDesc) : Bool :=
  d.ringAddr.toNat % 4096 == 0 && 4 ≤ d.ringLog2.toNat && d.ringLog2.toNat ≤ 20
  && (d.kind != 0 || d.entry == 1) && (d.kind != 1 || d.entry == 0) && (d.kind == 0 || d.cq == 0)

/-- CQ of a submission queue is a completion queue of the same berth (R167). -/
def Shadow.cqOk (c : Shadow) (d : QueueDesc) : Bool :=
  d.kind != 0 ||
    ((c.queueDesc d.cq.toNat).valid && (c.queueDesc d.cq.toNat).kind == 1 && (c.queueDesc d.cq.toNat).berth == d.berth)

/-- A queue holds nothing and reserves nothing (R167). -/
def queueEmpty (s : State) (d : QueueDesc) (q : Nat) : Bool :=
  (s.queue q).prod == (s.queue q).cons && (d.kind == 0 || (s.queue q).reserved == 0)

/-- A basin ENDPOINT, a cut or another queue's CQ names the queue (R167). -/
def Shadow.queueNamed (c : Shadow) (q : Nat) : Bool :=
  (c.basinOfQueue q).isSome
  || tabAny (fun _ e => e.valid && (e.destQueue.toNat == q || (e.srcKind == 2 && e.src.toNat == q))) c.cuts
  || tabAny (fun k d => k != q && d.valid && d.kind == 0 && d.cq.toNat == q) c.queues

/-- The queue is a valid queue of the caller's berth (R167 check 1). -/
def Ticket.ownsQueue (t : Ticket) (c : Shadow) (q : Nat) : Bool :=
  (c.queueDesc q).valid && t.owns (c.queueDesc q).berth

/-- QUEUE_CREATE (R167). -/
def ruleQueueCreate : ConfigRule := fun s t c =>
  let q := fldN t.cmd.params 0 18
  let d := queueOfParams t.cmd.params
  let b := c.berth d.berth
  if (c.queueDesc q).valid
      || !(if t.fromSupervisor then b.state == .live else d.berth == t.cmd.berth) then .refuse 0x0090 noResult
  else if !(b.queueFirst.toNat ≤ q && q < b.queueFirst.toNat + b.queueCount.toNat) then .refuse 0x0094 noResult
  else if !queueFieldsOk d || !d.valid || !c.cqOk d then .refuse 0x0091 noResult
  else .pass { c with queues := tabPut {} c.queues q { d with gen := b.gen, made := s.lock.number.toNat + 1 } } noResult

/-- QUEUE_MODIFY (R167). -/
def ruleQueueModify : ConfigRule := fun s t c =>
  let q := fldN t.cmd.params 0 18
  let old := c.queueDesc q
  let d := { queueOfParams t.cmd.params with gen := old.gen, made := old.made }
  if !t.ownsQueue c q then .refuse 0x0090 noResult
  else if !queueFieldsOk d || !d.valid || d.berth ≠ old.berth || !c.cqOk d then .refuse 0x0091 noResult
  else if !queueEmpty s old q
      && (d.ringAddr ≠ old.ringAddr || d.ringLog2 ≠ old.ringLog2 || d.kind ≠ old.kind || d.entry ≠ old.entry) then
    .refuse 0x0093 noResult
  else if (d.kind ≠ old.kind || d.entry ≠ old.entry) && c.queueNamed q then .refuse 0x0093 noResult
  else .pass { c with queues := tabPut {} c.queues q d } noResult

/-- QUEUE_DESTROY (R167). -/
def ruleQueueDestroy : ConfigRule := fun s t c =>
  let q := fldN t.cmd.params 0 18
  if !t.ownsQueue c q then .refuse 0x0090 noResult
  else if !queueEmpty s (c.queueDesc q) q || c.queueNamed q then .refuse 0x0093 noResult
  else .pass { c with queues := tabPut {} c.queues q {} } noResult

/-- QUEUE_RESUME (R180): applied at the commit edge. -/
def ruleQueueResume : ConfigRule := fun _ t c =>
  let q := fldN t.cmd.params 0 18
  if !t.ownsQueue c q then .refuse 0x0090 noResult
  else .pass { c with resumes := tabPut 0 c.resumes q (max (tabGet 0 c.resumes q) (if bitAt t.cmd.params 18 then 2 else 1)) } noResult

/-- QUEUE_CREATE. -/
def opQueueCreate : OpInfo := { opcode := 0x9020, wellFormed := queueParamsOk }
/-- QUEUE_MODIFY. -/
def opQueueModify : OpInfo := { opcode := 0x9021, wellFormed := queueParamsOk }
/-- QUEUE_DESTROY. -/
def opQueueDestroy : OpInfo := { opcode := 0x9022, wellFormed := onlyFields [(0, 18)] }
/-- GET_QUEUE. -/
def opGetQueue : OpInfo := { opcode := 0x9023, wellFormed := onlyFields [(0, 18)] }
/-- QUEUE_RESUME. -/
def opQueueResume : OpInfo := { opcode := 0x9024, wellFormed := onlyFields [(0, 18), (18, 1)] }

/-- QUEUE_CREATE fills an unused descriptor. -/
def execQueueCreate (c : Cmd) (s : State) : Host.Outcome State Fault Refusal :=
  carry opQueueCreate c (acceptConfig ruleQueueCreate) s

/-- QUEUE_MODIFY rewrites a queue descriptor. -/
def execQueueModify (c : Cmd) (s : State) : Host.Outcome State Fault Refusal :=
  carry opQueueModify c (acceptConfig ruleQueueModify) s

/-- QUEUE_DESTROY frees an empty queue. -/
def execQueueDestroy (c : Cmd) (s : State) : Host.Outcome State Fault Refusal :=
  carry opQueueDestroy c (acceptConfig ruleQueueDestroy) s

/-- QUEUE_RESUME clears FAULTED at the lock cycle that commits it. -/
def execQueueResume (c : Cmd) (s : State) : Host.Outcome State Fault Refusal :=
  carry opQueueResume c (acceptConfig ruleQueueResume) s

/-- The latched queue descriptor as a 32-byte block (R163). -/
def queueRecord (d : QueueDesc) (y : QueueDyn) : Result :=
  longResult 32 [(0, 1, b2n d.valid), (1, 2, d.kind.toNat), (3, 2, d.entry.toNat), (5, 3, d.priority.toNat),
    (8, 6, d.berth.toNat), (14, 1, b2n y.faulted), (16, 16, d.gen.toNat), (32, 40, d.ringAddr.toNat),
    (72, 5, d.ringLog2.toNat), (80, 18, d.cq.toNat), (128, 21, y.prod.toNat), (160, 21, y.cons.toNat),
    (192, 16, y.overrun.toNat), (208, 32, y.faultSeq.toNat), (240, 16, y.lost.toNat)]

/-- GET_QUEUE returns the descriptor latched at the last lock cycle. -/
def actGetQueue (t : Ticket) (s : State) : State :=
  let q := fldN t.cmd.params 0 18
  if t.ownsQueue s.snap.cfg q then
    writeRecord t 0 (queueRecord (s.snap.cfg.queueDesc q) (tabGet {} s.snap.queues q)) s
  else writeRecord t 0x0090 noResult s

/-- GET_QUEUE returns a queue descriptor. -/
def execGetQueue (c : Cmd) (s : State) : Host.Outcome State Fault Refusal := carry opGetQueue c actGetQueue s

/-! Doorbells -/

/-- A new index that the device accepts (R165): not past the ring, not backwards. -/
def indexOk (slots : Nat) (oldIndex newIndex newProd newCons : BitVec 21) : Bool :=
  ringDistance newProd newCons ≤ slots && ringDistance newIndex oldIndex ≤ slots

/-- The buffers and blocks whose records a consumer has passed are free (R331, R354). -/
def freeConsumed (q : Nat) (cons : BitVec 21) (s : State) : State :=
  s.modIngest fun g => { g with held := g.held.filter fun h =>
    !(h.queue == q && 1 ≤ ringDistance cons h.index && ringDistance cons h.index ≤ 2 ^ 20) }

/-- A doorbell write (R164, R165, R386): the new PROD of a submission queue or the new CONS of a
completion or sample queue; a value the device ignores counts in OVERRUN. -/
def doorbell (q : Nat) (v : BitVec 64) (s : State) : State :=
  let d := s.dyn.cfg.queueDesc q
  let y := s.queue q
  let i := fld v 0 21
  let ignore := s.modQueue q fun y => { y with overrun := satInc y.overrun }
  if !d.valid then s
  else if fldN v 21 43 ≠ 0 then ignore
  else if d.kind = 0 then
    if indexOk d.slots y.prod i i y.cons then
      s.modQueue q fun y => { y with prod := i, headSince := if y.prod = y.cons then s.now16 else y.headSince }
    else ignore
  else
    if indexOk d.slots y.cons i y.prod i then freeConsumed q i (s.modQueue q fun y => { y with cons := i })
    else ignore

/-- DOORBELL_WRITE. -/
def execDoorbellWrite (q : BitVec 18) (value : BitVec 64) (s : State) : Host.Outcome State Fault Refusal :=
  .next (doorbell q.toNat value s)

end Sys2Proof.Machine
end

