-- ==== Sys2Proof/Machine/Mailboxes.lean ====
section
/-! DEFINITION. The register range, the mailboxes and the supervisor's I3C target port (R385 to R393). -/

namespace Sys2Proof.Machine

/-! Mailboxes (R388) -/

/-- The encoding of a mailbox state. -/
def MbState.code : MbState → Nat
  | .empty => 0
  | .posted => 1
  | .taken => 2
  | .replied => 3

/-- The STATUS word of a mailbox. -/
def mailboxStatus (s : State) (m : Nat) : Nat :=
  let x := s.mailbox m
  let gen := if m = 64 then 0 else (s.dyn.cfg.berth (BitVec.ofNat 6 m)).gen.toNat
  packFields [(0, 2, x.state.code), (2, 1, b2n x.negotiated), (16, 16, x.overrun.toNat), (32, 16, gen)]

/-- A write to CONTROL (R388): each bit is judged against the state before the write; one that does not act
counts in OVERRUN. -/
def Mailbox.control (post ack : Bool) (x : Mailbox) : Mailbox :=
  let acts := (post && x.state == .empty, ack && x.state == .replied)
  let lost := b2n (post && !acts.1) + b2n (ack && !acts.2)
  let x := { x with overrun := satAdd x.overrun lost }
  if acts.1 then { x with state := .posted }
  else if acts.2 then { x with state := .empty, outb := [] }
  else x

/-- Write CONTROL of a mailbox. -/
def controlWrite (m : Nat) (post ack : Bool) (s : State) : State := s.modMailbox m (Mailbox.control post ack)

/-- MAILBOX_POST. -/
def execMailboxPost (m : Fin 65) (ackToo : Bool) (s : State) : Host.Outcome State Fault Refusal :=
  .next (controlWrite m true ackToo s)

/-- MAILBOX_ACK. -/
def execMailboxAck (m : Fin 65) (postToo : Bool) (s : State) : Host.Outcome State Fault Refusal :=
  .next (controlWrite m postToo true s)

/-- Bytes written to the inbound slot from an offset: they take effect only in EMPTY. -/
def Mailbox.fill (off : Nat) (bs : List Byte) (x : Mailbox) : Mailbox :=
  if x.state = .empty then { x with inb := putBytes x.inb off (bs.take (128 - off)) } else x

/-! The register range (R385, R386) -/

/-- The bytes of the time page (R303). -/
def timePage (s : State) : List Byte :=
  let t := layout80 s.now16
  bytesOf 8 (t / 2 ^ 16) ++ bytesOf 8 t ++ bytesOf 8 (b2n s.dyn.time.acquired)

/-- One byte of the register range, at an offset from its start; what can only be written reads as zero. -/
def registerByte (s : State) (off : Nat) : Byte :=
  if 0x40000000 ≤ off ∧ off < 0x40410000 then
    let m := (off - 0x40000000) / 0x10000
    let o := off % 0x10000
    if 0x80 ≤ o ∧ o < 0x100 then (s.mailbox m).outb.getD (o - 0x80) 0
    else if 0x108 ≤ o ∧ o < 0x110 then (bytesOf 8 (mailboxStatus s m)).getD (o - 0x108) 0
    else 0
  else if 0x80000000 ≤ off ∧ off < 0x80000018 then (timePage s).getD (off - 0x80000000) 0
  else 0

/-- A write to the register range: a doorbell, a mailbox's slot or CONTROL; every other location ignores
it. -/
def registerWrite (off : Nat) (bs : List Byte) (s : State) : State :=
  let v : BitVec 64 := BitVec.ofNat 64 (ofBytes (bs.take 8))
  if off < 0x40000000 then
    if off % 0x1000 = 0 then doorbell (off / 0x1000) v s else s
  else if off < 0x40410000 then
    let m := (off - 0x40000000) / 0x10000
    let o := off % 0x10000
    if o < 0x80 then s.modMailbox m (Mailbox.fill o bs)
    else if o = 0x100 then controlWrite m (bitAt v 0) (bitAt v 1) s
    else s
  else s

/-- REGISTER_WRITE. -/
def execRegisterWrite (addr : BitVec 32) (data : List Byte) (s : State) : Host.Outcome State Fault Refusal :=
  .next (registerWrite addr.toNat data s)

/-! The I3C target port (R391 to R393) -/

/-- The port answers a read or a GET command code. -/
def i3cAnswer (bs : List Byte) (s : State) : State := s.modI3c fun i => { i with reply := some bs }

/-- A private write with index 0x00. -/
def i3cPost (bs : List Byte) (s : State) : State :=
  if (s.mailbox 64).state ≠ .empty then s.modMailbox 64 fun x => { x with overrun := satInc x.overrun }
  else if bs.length = 80 then
    s.modMailbox 64 fun x => { x with inb := putBytes x.inb 0 bs, state := .posted }
  else refuseMessage 64 (takeBytes 64 (bs.drop 16)) 0x0001 s

/-- I3C_PRIVATE_WRITE (R392). A NACK leaves the selection as it was. -/
def execI3cPrivateWrite (bytes : List Byte) (s : State) : Host.Outcome State Fault Refusal :=
  match bytes with
  | [] => .next s
  | i :: rest =>
    if i = 0x00 then .next (i3cPost rest (s.modI3c fun x => { x with index := none }))
    else if i = 0x01 ∨ i = 0x10 then .next (s.modI3c fun x => { x with index := some i })
    else .next (s.modI3c fun x => { x with reply := none })

/-- I3C_REPLY_READ (R392): a read that reaches the last byte of the reply frees mailbox 64; with index 0x10
it returns the time page. -/
def execI3cReplyRead (len : Nat) (s : State) : Host.Outcome State Fault Refusal :=
  let x := s.mailbox 64
  if s.i3c.index = some 0x10 then
    .next (i3cAnswer ((bytesOf 16 (layout80 s.now16 + b2n s.dyn.time.acquired * 2 ^ 80)).take len) s)
  else if s.i3c.index = some 0x01 ∧ x.state = .replied then
    let s' := i3cAnswer (x.outb.take len) s
    if x.outb.length ≤ len then .next (s'.modMailbox 64 fun x => { x with state := .empty, outb := [] }) else .next s'
  else .next (s.modI3c fun i => { i with reply := none })

/-- ENTDAA: the port takes a dynamic address. -/
def execEntdaa (addr : BitVec 7) (s : State) : Host.Outcome State Fault Refusal :=
  if s.i3c.dynAddr.isNone then .next (s.modI3c fun i => { i with dynAddr := some addr }) else .next s

/-- SETDASA: the static address gives way to a dynamic one. -/
def execSetdasa (addr : BitVec 7) (s : State) : Host.Outcome State Fault Refusal :=
  if s.i3c.dynAddr.isNone then .next (s.modI3c fun i => { i with dynAddr := some addr }) else .next s

/-- SETNEWDA: a new dynamic address. -/
def execSetnewda (addr : BitVec 7) (s : State) : Host.Outcome State Fault Refusal :=
  if s.i3c.dynAddr.isSome then .next (s.modI3c fun i => { i with dynAddr := some addr }) else .next s

/-- RSTDAA: the dynamic address is given up. -/
def execRstdaa (s : State) : Host.Outcome State Fault Refusal := .next (s.modI3c fun i => { i with dynAddr := none })

/-- GETPID. -/
def execGetpid (s : State) : Host.Outcome State Fault Refusal := .next (i3cAnswer (bytesOf 6 Config.i3cPid.toNat).reverse s)

/-- GETBCR. -/
def execGetbcr (s : State) : Host.Outcome State Fault Refusal := .next (i3cAnswer [Config.i3cBcr] s)

/-- GETDCR. -/
def execGetdcr (s : State) : Host.Outcome State Fault Refusal := .next (i3cAnswer [Config.i3cDcr] s)

/-- GETSTATUS: two bytes, the low 16 bits of mailbox 64's STATUS, higher byte first. -/
def execGetstatus (s : State) : Host.Outcome State Fault Refusal :=
  .next (i3cAnswer (bytesOf 2 (mailboxStatus s 64)).reverse s)

/-- GETMRL: 113 bytes (R391). -/
def execGetmrl (s : State) : Host.Outcome State Fault Refusal := .next (i3cAnswer [0, 113] s)

/-- GETMWL: 81 bytes (R391). -/
def execGetmwl (s : State) : Host.Outcome State Fault Refusal := .next (i3cAnswer [0, 81] s)

/-- ENEC: the supervisor enables in-band interrupts when event bit 0 is set. -/
def execEnec (events : Byte) (s : State) : Host.Outcome State Fault Refusal :=
  if bitAt events 0 then .next (s.modI3c fun i => { i with ibiOn := true }) else .next s

/-- DISEC: the supervisor disables in-band interrupts when event bit 0 is set. -/
def execDisec (events : Byte) (s : State) : Host.Outcome State Fault Refusal :=
  if bitAt events 0 then .next (s.modI3c fun i => { i with ibiOn := false }) else .next s

end Sys2Proof.Machine
end

