-- ==== Sys2Proof/Machine/Jobs.lean ====
section
/-! DEFINITION. Jobs: the identity of their accesses, how they end and what their end frees (R137, R178,
R179, R181). -/

namespace Sys2Proof.Machine

/-- Who an access of a job is (R561), on a logical tile. -/
def State.jobSrc (s : State) (j tile : Nat) : Src :=
  match s.job j with
  | none => { source := 0 }
  | some b => { source := 0, ctxValid := true, berth := b.berth, gen := b.gen, queue := b.queue.getD 0,
                seq := b.ticket.cmd.seq, safety := s.dyn.cfg.safetyTile tile }

/-- The berth keeps shards resident after their jobs (R158, R159). -/
def Shadow.hotSet (c : Shadow) (b : BitVec 6) : Bool := (tabGet {} c.residency b.toNat).hotSet

/-- The residents of a tile once job `j` no longer uses them: in swap mode what nobody uses is freed. -/
def freeResidents (c : Shadow) (j : Nat) (rs : List Resident) : List Resident :=
  (rs.map fun r => { r with users := r.users.filter (· != j) }).filter fun r =>
    r.safety || c.hotSet r.berth || !r.users.isEmpty

/-- The counter blocks of a context that is `j + 1`, freed and zeroed (R140, R179). -/
def TileWork.freeBlocks (owner : Nat) (w : TileWork) : TileWork :=
  let mine := tabKeys (fun _ o => o == owner) w.counterOwner
  { w with counterOwner := tabMap 0 (fun _ o => if o = owner then 0 else o) w.counterOwner
           counters := tabMap 0 (fun k v => if mine.contains (k / 16) then 0 else v) w.counters }

/-- The key of a job's posted writes to a column (R142). -/
def writeKey (j col : Nat) : Nat := j * 256 + col

/-- The column behind an entry: local columns, then each peer's. -/
def XlatEntry.column (e : XlatEntry) (va : Nat) : Nat :=
  if e.target = 0 then columnOf (e.addr va) else 36 + 36 * e.device.toNat + columnOf (e.addr va)

/-- What a tile holds once job `j` is gone: workgroups with registers and shared memory, counter blocks,
prefetched lines and write numbers go; weights go in swap mode. -/
def TileWork.without (c : Shadow) (j : Nat) (w : TileWork) : TileWork :=
  { w.freeBlocks (j + 1) with
    workgroups := w.workgroups.filter fun g => g.job != j
    residents := freeResidents c j w.residents
    prefetch := w.prefetch.filter fun e => e.job != j
    lastLine := tabPut 0 w.lastLine j 0
    writeNo := tabMap 0 (fun k v => if writeKey j 0 ≤ k ∧ k < writeKey (j + 1) 0 then 0 else v) w.writeNo
    fenceNo := tabMap 0 (fun k v => if writeKey j 0 ≤ k ∧ k < writeKey (j + 1) 0 then 0 else v) w.fenceNo }

/-- Send a column of a peer the flush of a fence, unless one is under way (R142, R518). -/
def flushPeer (a : Src) (l j col n : Nat) (s : State) : State :=
  let dev : BitVec 2 := BitVec.ofNat 2 ((col - 36) / 36)
  let va := (col - 36) % 36 * 0x80000000
  let tx : IsgalTx := { kind := 8, cls := 2, safety := a.safety, berth := a.berth, gen := a.gen, wnum := BitVec.ofNat 16 n,
                        addr := BitVec.ofNat 50 (dev.toNat * 2 ^ 48 + va), tag := s.dyn.isgal.nextTag }
  let reader := if h : l < 36 then some (Requester.context ⟨l, h⟩ j) else none
  let o : OutReq := { tag := tx.tag, peer := dev, reader := reader, va := va, tx := tx, len := n, stamp := s.lock.number.toNat }
  if s.dyn.isgal.outs.any (fun (x : OutReq) => x.reader == o.reader && x.tx.kind == 8 && x.peer == dev && x.va == va && x.len == n) then s
  else sendPeer dev tx o.reader (s.modIsgal fun g => { g with outs := g.outs ++ [o], nextTag := g.nextTag + 1 })

/-- A release fence of a job on a tile (R142): the homes of this device commit each write as it arrives; a peer's
columns are asked, and answer with the number they have committed. -/
def fenceWrites (a : Src) (p l j : Nat) (s : State) : State :=
  let mine := (s.tileWork p).writeNo.filter fun kv => kv.1 / 256 = j
  let s := s.modTileWork p fun w =>
    { w with fenceNo := mine.foldl (fun f kv => if kv.1 % 256 < 36 then tabPut 0 f kv.1 kv.2 else f) w.fenceNo }
  (mine.filter fun kv => 36 ≤ kv.1 % 256 && tabGet 0 (s.tileWork p).fenceNo kv.1 < kv.2).foldl
    (fun s kv => flushPeer a l j (kv.1 % 256) kv.2 s) s

/-- Every write of the job on the tile is confirmed. -/
def State.fenced (s : State) (p j : Nat) : Bool :=
  let w := s.tileWork p
  w.writeNo.all fun kv => kv.1 / 256 != j || kv.2 ≤ tabGet 0 w.fenceNo kv.1

/-- A physical tile's idle time starts now (R41). -/
def touchTile (p : Nat) (s : State) : State := s.modTile p fun d => { d with idleSince := s.dyn.time.wc }

/-- The physical tiles that a job uses. -/
def State.jobTiles (s : State) (j : Nat) : List Nat :=
  match s.job j with
  | none => []
  | some b => (upFrom 0 36).filter fun p =>
      (match s.dyn.cfg.logicalOf p with
       | some l => b.placedOn l
       | none => false) || (s.tileWork p).workgroups.any fun g => g.job == j

/-- Job `j` ends: all that it holds on every tile is freed, and it leaves the table. -/
def releaseJob (j : Nat) (s : State) : State :=
  let ps := s.jobTiles j
  let s := s.modWork fun w =>
    { w with tiles := tabMap {} (fun _ t => t.without s.dyn.cfg j) w.tiles, jobs := tabPut none w.jobs j none }
  ps.foldl (fun s p => touchTile p s) s

/-- FAULT_CAUSE codes (R137, R178, R264). -/
def faultCode : JobFault → Nat
  | .illegalInstruction => 1
  | .addressFault => 2
  | .timeLimit => 3
  | .uncorrectable => 4
  | .tileRetired => 5

/-- Workgroups of a job that ended (GROUPS_DONE). -/
def Job.groupsDone (j : Job) : Nat := match j.lanes with
  | some l => l.done
  | none => 0

/-- Saturations and NaNs of a job's array work (R115). -/
def Job.satNan (j : Job) : Nat × Nat := match j.array with
  | some a => (a.sat, a.nan)
  | none => (0, 0)

/-- Waves of a conversion on the tile that ran longest: 512 elements per wave, and 24 (R111). -/
def ArrayRun.convertWaves (r : ArrayRun) : Nat :=
  (r.tiles.map fun l => tabGet 0 r.waves l).foldl (fun m n => if n = 0 then m else max m ((n + 511) / 512 + 24)) 0

/-- WAVES of a tensor command: those of the tile that ran longest (R106, R111, R115). -/
def Job.tensorWaves (j : Job) : Nat := match j.array with
  | some r => if r.convert then r.convertWaves else (r.waves.map fun kv => kv.2).foldl max 0
  | none => 0

/-- The result record of a job (R115, R137, R178); WAVES of a dispatch or a model is a free value. -/
def jobResult (b : Job) (waves : BitVec 32) (cause shard step : Nat) : Result :=
  match b.kind with
  | .dispatch =>
    shortResult [(0, 32, waves.toNat), (32, 32, (satOf 32 b.groupsDone).toNat), (64, 6, b.tiles.length), (72, 4, cause)]
  | .matmul | .convert =>
    shortResult [(0, 32, (satOf 32 b.tensorWaves).toNat), (32, 32, (satOf 32 b.satNan.1).toNat), (64, 32, (satOf 32 b.satNan.2).toNat),
                 (96, 6, b.tiles.length)]
  | _ =>
    shortResult [(0, 32, waves.toNat), (32, 32, (satOf 32 b.switchWaves).toNat), (64, 6, b.reloads),
                 (72, 6, b.tiles.length), (80, 4, cause), (88, 5, shard), (96, 12, step)]

/-- The status of a job that was torn down (R179): that of its class. -/
def faultStatus (k : JobKind) : Nat :=
  match k with
  | .dispatch => 0x0076
  | .matmul | .convert => 0x0066
  | _ => 0x008B

/-- The result bytes of a job that was torn down (R137, R178). DESIGN CHOICE: R115 gives a tensor command's on success only, so those of
one that faulted are a free value. -/
def faultResult (b : Job) (cause shard step : Nat) (s : State) : Result :=
  match b.kind with
  | .matmul | .convert => shortResult [(0, 128, (Config.freeBits 128 s.free).toNat)]
  | _ => jobResult b (Config.freeWaves s.free) cause shard step

/-- A free value is taken for WAVES. -/
def State.waves (s : State) : BitVec 32 := Config.freeWaves s.free

/-- A job completes: its record says SUCCESS, and what it held is freed. -/
def completeJob (j : Nat) (s : State) : State :=
  match s.job j with
  | none => s
  | some b =>
    let s := writeRecord b.ticket 0 (jobResult b s.waves 0 0 0) (releaseJob j s)
    s.bump

/-- A queue job faults its queue (R179, R180). -/
def faultQueue (q : Option (BitVec 18)) (seq : BitVec 32) (s : State) : State :=
  match q with
  | none => s
  | some q => s.modQueue q.toNat fun y => { y with faulted := true, faultSeq := seq }

/-- A job is torn down (R179): its queue is FAULTED, its state is zeroed, its record carries the cause. A
sounding leaves no record: its completion is the monitor's to judge (R454). The uncorrectable reads of safety
contexts no longer have a context behind them (R444). -/
def failJob (j : Nat) (f : JobFault) (shard step : Nat) (s : State) : State :=
  match s.job j with
  | none => s
  | some b =>
    let s := faultQueue b.queue b.ticket.cmd.seq s
    let s := releaseJob j s
    let s := s.modSafety fun f => { f with uncorrectable := f.uncorrectable.map fun u => (u.1, false) }
    if b.kind = .sounding then s
    else (writeRecord b.ticket (faultStatus b.kind) (faultResult b (faultCode f) shard step s) s).bump

/-- The shard of a job on a logical tile, and the step that it runs there: FAULT_SHARD and FAULT_STEP of a fault that names
no step. DESIGN CHOICE: of several steps running, the one started last. -/
def Job.stepOn (b : Job) (l : Nat) : Nat × Nat :=
  match b.shards.find? fun x => x.tile == l with
  | some x => (x.shard, x.running.headD 0)
  | none => (0, 0)

/-- A job is torn down for a fault on a logical tile. -/
def failOn (j : Nat) (f : JobFault) (l : Nat) (s : State) : State :=
  match s.job j with
  | none => s
  | some b => failJob j f (b.stepOn l).1 (b.stepOn l).2 s

/-- What a fault of an access does to the job that made it. -/
def accessFailed {α : Type} (j : Nat) (a : Access α) (shard step : Nat) (s : State) : State :=
  match a with
  | .ok _ => s
  | .addressFault => failJob j .addressFault shard step s
  | .uncorrectable => failJob j .uncorrectable shard step s

/-- A job may be run again after a tile of it is retired (R146, R181). -/
def Job.rerunOk (b : Job) : Bool :=
  match b.kind with
  | .dispatch => match b.lanes with
    | some l => l.program.rerunOk
    | none => false
  | .model | .preload => b.model.rerunOk && b.reruns == 0
  | _ => false

/-- Two byte ranges meet. -/
def spansMeet (a b : Nat × Nat) : Bool := a.2 != 0 && b.2 != 0 && a.1 < b.1 + b.2 && b.1 < a.1 + a.2

/-- Some range of the first list meets one of the second. -/
def anyMeet (xs ys : List (Nat × Nat)) : Bool := xs.any fun x => ys.any fun y => spansMeet x y

/-- A command of queue `q` that reads `ins` has to wait for an earlier one (R116, R177). -/
def State.mustWait (s : State) (q : BitVec 18) (ins : List (Nat × Nat)) (n : Nat) : Bool :=
  tabAny (fun k j => match j with
    | some j => k < n && j.queue == some q && anyMeet ins j.outs
    | none => false) s.dyn.work.jobs
  || tabAny (fun _ p => match p.job with
    | some t => t.cmd.path == .queue q && anyMeet ins p.outs
    | none => false) s.dyn.raster.passes

/-- Enter a new job in the table; one that has its tiles is placed. -/
def addJob (b : Job) (s : State) : State :=
  s.modWork fun w =>
    { w with jobs := tabPut none w.jobs w.nextJob (some { b with placedNo := w.placings }), nextJob := w.nextJob + 1,
             placings := if b.placed then w.placings + 1 else w.placings }

/-- A job that waited has its tiles: it is the youngest placed (R169). -/
def setPlaced (j : Nat) (b : Job) (s : State) : State :=
  s.modWork fun w =>
    { w with jobs := tabPut none w.jobs j (some { b with placed := true, placedNo := w.placings }), placings := w.placings + 1 }

/-- The queue a packet came by. -/
def pathQueue? : Path → Option (BitVec 18)
  | .queue q => some q
  | _ => none

/-! Commands that are not completed (R112, R234) -/

/-- The ticket of a drizzle request. -/
def DrizzleReq.tickets : DrizzleReq → List Ticket
  | .selfTest t _ => [t]
  | .measure t _ => [t]
  | .tileTest _ => []

/-- The ticket of a flash write. -/
def FlashJob.ticket : FlashJob → Ticket
  | .licence t _ => t
  | .firmware t _ _ => t
  | .chunk t => t

/-- The commands that have started and not completed: configuration commands until their lock cycle, jobs, render passes, and
those that a unit carries out over time. -/
def State.openTickets (s : State) : List Ticket :=
  let k := s.lock
  let d := s.dyn
  k.openCmds ++ k.stagedCmds.map (·.1) ++ k.longMaps.map (·.ticket) ++ k.destroys ++ k.loading.map (·.1)
  ++ d.work.jobs.filterMap (fun kv => kv.2.map (·.ticket))
  ++ d.raster.passes.filterMap (fun kv => kv.2.job)
  ++ d.displays.filterMap (fun kv => kv.2.pending.map (·.1))
  ++ d.ingest.tx.filterMap (fun kv => kv.2.map (·.1))
  ++ d.ingest.xfer.filterMap (fun kv => kv.2.map (·.ticket))
  ++ d.tiles.flatMap (fun kv => kv.2.tests)
  ++ d.safety.requests.flatMap (·.tickets) ++ d.safety.serviceTests.map (·.1)
  ++ (d.safety.slice.bind (·.req)).toList.flatMap (·.tickets)
  ++ d.time.ports.flatMap (fun kv => kv.2.measures)
  ++ d.bring.flash.map (·.ticket)

/-- Some command of a queue has started and not completed. -/
def State.queueWorks (s : State) (q : BitVec 18) : Bool := s.openTickets.any fun t => t.cmd.path == .queue q

/-! The leaf of a command (R168) -/

/-- The leaf that a queue's oldest untaken command was resolved to. -/
def State.headLeafOf (s : State) (t : Ticket) : Option Nat :=
  (pathQueue? t.cmd.path).bind fun q => (s.queue q.toNat).headLeaf.bind fun h => if h.1 = t.cmd.seq then some h.2 else none

/-- A command that may not start yet stays where it was; the leaf that it was resolved to in the try, from `s` to `s'`,
is its own from now on. -/
def keepLeaf (q : Nat) (seq : BitVec 32) (s s' : State) : State :=
  match (s'.job s.dyn.work.nextJob).map fun b => b.basin.toNat with
  | none => s
  | some n =>
    (s.modQueue q fun y => { y with headLeaf := some (seq, n) }).modWork fun w =>
      { w with lastTile := tabPut 0 s'.dyn.work.lastTile n (tabGet 0 w.lastTile n) }

/-- Take a packet only if the job it makes may start now: else it stays where it was (R116, R166). -/
def startable (c : Cmd) (s s' : State) : State :=
  if s'.dyn.work.nextJob = s.dyn.work.nextJob then s'
  else
    match s'.job s.dyn.work.nextJob with
    | some b => match b.queue with
      | some q => if (b.kind = .pass ∧ !b.placed) || s'.mustWait q b.ins s.dyn.work.nextJob then keepLeaf q.toNat c.seq s s' else s'
      | none => s'
    | none => s'

/-- An earlier command of the queue still writes a header that the packet names (R116). -/
def State.headersWait (s : State) (heads : Ticket → State → List (Nat × Nat)) (op : OpInfo) (c : Cmd) : Bool :=
  match c.path with
  | .queue q => (firstFailure op c s).isNone && s.mustWait q (heads (ticketOf op c s) s) s.dyn.work.nextJob
  | _ => false

/-- A packet that makes a job arrives on its path and is taken, unless an earlier command of its queue still
writes what it reads. -/
def carryJob (op : OpInfo) (heads : Ticket → State → List (Nat × Nat)) (c : Cmd) (act : Ticket → State → State) (s : State) :
    Host.Outcome State Fault Refusal :=
  match arrive c s with
  | (some s', _) => if s.headersWait heads op c then .next s else .next (startable c s (carryTaken op c act s'))
  | (none, s') => .next s'

end Sys2Proof.Machine
end

