-- ==== Sys2Proof/Machine/Mapping.lean ====
section
/-! DEFINITION. The memory mapping commands (R195 to R200, R215 to R221, R387, R519). -/

namespace Sys2Proof.Machine

/-- The fields of the memory commands (R216). -/
def memVa (p : Params) : Nat := fldN p 0 40
/-- PAGES. -/
def memPages (p : Params) : Nat := fldN p 64 24

/-- The entry flags that READ, WRITE, PREFETCH and TYPE carry. -/
def XlatEntry.withFlags (e : XlatEntry) (p : Params) : XlatEntry :=
  { e with read := bitAt p 128, write := bitAt p 129, prefetch := bitAt p 130, device1 := bitAt p 131 }

/-- Check 1 of R218: VA aligned, PAGES in range, the whole range inside the berth's entries. -/
def Shadow.mapRangeOk (c : Shadow) (b : BitVec 6) (va pages : Nat) : Bool :=
  va % 0x10000 == 0 && 1 ≤ pages && pages ≤ 16711680 && va / 0x10000 + pages ≤ (c.berth b).xlatCount.toNat

/-- The entry numbers of a range, ascending. -/
def Shadow.mapEntries (c : Shadow) (b : BitVec 6) (va pages : Nat) : List Nat :=
  upFrom ((c.berth b).xlatFirst.toNat + va / 0x10000) pages

/-- What R197 and R387 ask of an entry's flags for its frame: TYPE 1 has PREFETCH 0; a local register
frame has TYPE 1, and the time page READ 1 and WRITE 0. -/
def entryFlagsOk (e : XlatEntry) : Bool :=
  !(e.device1 && e.prefetch)
  && (e.target != 2 || !registerFrame e.frame.toNat || e.device1)
  && (e.target != 2 || e.frame.toNat != 0x80008000 || (e.read && !e.write))

/-- A register frame that the berth may map (R387): a doorbell page of 16 queues all in its range, its
own mailbox page, the time page. -/
def Shadow.registerAllowed (c : Shadow) (b : BitVec 6) (f : Nat) : Bool :=
  let d := c.berth b
  if f < 0x80004000 then
    let q := 16 * (f - 0x80000000)
    d.queueFirst.toNat ≤ q && q + 16 ≤ d.queueFirst.toNat + d.queueCount.toNat
  else f == 0x80004000 + b.toNat || f == 0x80008000

/-- A frame of a window is granted to the berth (R218 check 5): a register page, a PCIe frame of a valid
grant, or a peer's frame that the peer says it holds. -/
def windowGranted (s : State) (c : Shadow) (b : BitVec 6) (target dev : Nat) (device1 : Bool) (f : Nat) : Bool :=
  if target = 2 then
    if registerFrame f then c.registerAllowed b f else c.granted b.toNat f none
  else
    dev != s.dyn.bring.devId.toNat && dev ≤ s.dyn.bring.boardN.toNat
    && (berthFrame f || (device1 && registerFrame f && f < 0x80004000))
    && Config.peerHolds s.free dev f b.toNat

/-- Memory commands of the berth may not be checked yet: its range is void (R200), or an earlier one
commits over several lock cycles (R219). -/
def memMustWait (s : State) (b : BitVec 6) : Bool :=
  (tabGet none s.lock.voids b.toNat).isSome
  || s.lock.longMaps.any (fun l => l.berth == b)
  || s.lock.openCmds.any (fun t => t.cmd.berth == b && fldN t.opcode 4 12 == 0x903 && 4096 < memPages t.cmd.params)
  || s.lock.waiting.any (fun t => t.cmd.berth == b)

/-- The first frame at or above `n` that a table of frames does not list. -/
def firstGap {α : Type} : List (Nat × α) → Nat → Nat
  | [], n => n
  | (k, _) :: t, n => if k < n then firstGap t n else if k = n then firstGap t (n + 1) else n

/-- A free frame of a column: R217 does not say which, so the search starts at a free value; `k` numbers the choice. -/
def Shadow.freeFrame (k : Nat) (c : Shadow) (col : Nat) : Option Nat :=
  let start := col * 0x8000 + Config.pick k c.frames.length % 0x7800
  let f := firstGap c.frames start
  if f < col * 0x8000 + 0x7800 then some f
  else
    let g := firstGap c.frames (col * 0x8000)
    if g < start then some g else none

/-- Place `n` pages over columns taken in turn (R217): the frames, the shadow with the frames held, and
how far the turn went. -/
def placePages (k : Nat) (b : BitVec 6) : Nat → List Nat → Shadow → Option (List Nat × List Nat × Shadow)
  | 0, cols, c => some ([], cols, c)
  | n + 1, cols, c =>
    match cols.findIdx? (fun x => (c.freeFrame k x).isSome) with
    | none => none
    | some i =>
      match c.freeFrame k (cols.getD i 0) with
      | none => none
      | some f =>
        let c := { c with frames := tabPut .free c.frames f (.held b) }
        match placePages k b n (cols.drop (i + 1) ++ cols.take (i + 1)) c with
        | none => none
        | some (fs, cols, c) => some (f :: fs, cols, c)

/-- A list turned so that it starts behind the first element that satisfies `p`, if any does. -/
def turnAfter {α : Type} (p : α → Bool) (l : List α) : List α :=
  match l.findIdx? p with
  | some i => l.drop (i + 1) ++ l.take (i + 1)
  | none => l

/-- What a memory command does to the configuration: the shadow with frames and quotas settled, and the
entries it changes, in ascending VA. -/
inductive MemPlan where
  | plan (c : Shadow) (changes : List (Nat × XlatEntry))
  | refuse (status : Nat)
  deriving DecidableEq, Repr

/-- MEM_ALLOC (R216 to R218). -/
def planAlloc (s : State) (t : Ticket) (c : Shadow) : MemPlan :=
  let p := t.cmd.params
  let b := t.cmd.berth
  let va := memVa p
  let n := memPages p
  let place := fldN p 96 2
  let wh := fldN p 112 10
  let es := c.mapEntries b va n
  let e0 := (({ valid := true, owner := b } : XlatEntry).withFlags p)
  let d := c.berth b
  if !c.mapRangeOk b va n then .refuse 0x00A0
  else if !entryFlagsOk e0 || (place == 2 && !c.enabled wh) then .refuse 0x00A1
  else if place == 1 && !t.ownsBasin c wh then .refuse 0x0050
  else if es.any (fun k => (tabGet {} c.xlat k).valid) then .refuse 0x00A2
  else if d.memQuota.toNat < d.memUsed.toNat + n then .refuse 0x00A5
  else
    let tiles := if place = 1 then c.tilesUnder wh else if place = 2 then [wh] else []
    let last := if place = 0 then tabGet 0 c.spreadNext b.toNat else tabGet 0 c.basinNext (b.toNat * 1024 + wh)
    let cols := if place = 0 then turnAfter (fun k => k + 1 == last) (upFrom 0 36)
                else ((tiles.filter fun k => last ≤ k) ++ (tiles.filter fun k => k < last)).filterMap c.physOf
    let cols := if place = 2 then tiles.filterMap c.physOf else cols
    match placePages s.free b n cols c with
    | none => .refuse 0x00A6
    | some (fs, cols, c) =>
      let lastCol := cols.getLast?.getD 0
      let c := { c with berths := tabPut {} c.berths b.toNat { d with memUsed := d.memUsed + BitVec.ofNat 24 n } }
      let c := if place = 0 then { c with spreadNext := tabPut 0 c.spreadNext b.toNat (lastCol + 1) }
               else if place = 1 then
                 let k := b.toNat * 1024 + wh
                 { c with basinNext := tabPut 0 c.basinNext k ((c.logicalOf lastCol).getD 0 + 1) }
               else c
      .plan c ((es.zip fs).map fun ef => (ef.1, { e0 with frame := BitVec.ofNat 32 ef.2 }))

/-- MEM_MAP_WINDOW (R216, R218, R387, R519). -/
def planWindow (s : State) (t : Ticket) (c : Shadow) : MemPlan :=
  let p := t.cmd.params
  let b := t.cmd.berth
  let n := memPages p
  let target := fldN p 96 2
  let dev := fldN p 112 2
  let first := fldN p 160 32
  let es := c.mapEntries b (memVa p) n
  let e0 := (({ valid := true, owner := b, target := fld p 96 2, device := fld p 112 2 } : XlatEntry).withFlags p)
  let entries := (es.zip (upFrom first n)).map fun ef => (ef.1, { e0 with frame := BitVec.ofNat 32 ef.2 })
  let local2 := fun f => registerFrame f || pcieFrame f
  if !c.mapRangeOk b (memVa p) n then .refuse 0x00A0
  else if 0x100000000 < first + n
      || (target == 2 && !(upFrom first n).all local2)
      || !entries.all (fun x => entryFlagsOk x.2) then .refuse 0x00A1
  else if es.any (fun k => (tabGet {} c.xlat k).valid) then .refuse 0x00A2
  else if !(upFrom first n).all (windowGranted s c b target dev e0.device1) then .refuse 0x00A4
  else .plan c entries

/-- A watching Gauge's stamp line lies on one of the pages of a range of the owner of basin 0x000 (R448). -/
def Shadow.stampOn (c : Shadow) (b : BitVec 6) (va pages : Nat) : Bool :=
  c.safetyOwner == some b &&
  tabAny (fun _ g => g.valid && !g.mooring && va ≤ g.stampVa.toNat && g.stampVa.toNat < va + pages * 0x10000) c.gauges

/-- MEM_FREE (R218, R220, R448). -/
def planFree (s : State) (t : Ticket) (c : Shadow) : MemPlan :=
  let p := t.cmd.params
  let b := t.cmd.berth
  let es := c.mapEntries b (memVa p) (memPages p)
  if !c.mapRangeOk b (memVa p) (memPages p) then .refuse 0x00A0
  else if !es.all (fun k => (tabGet {} c.xlat k).valid) then .refuse 0x00A3
  else if c.stampOn b (memVa p) (memPages p) then .refuse 0x0053
  else
    let fs := es.filterMap fun k =>
      let e := tabGet {} c.xlat k
      if e.target = 0 then some e.frame.toNat else none
    .plan { c with frames := fs.foldl (fun t f =>
        if tabGet .free t f = .held b then tabPut .free t f (.freed b (s.lock.number.toNat + 1)) else t) c.frames }
      (es.map fun k => (k, {}))

/-- MEM_PROTECT (R218, R220, R448). -/
def planProtect (t : Ticket) (c : Shadow) : MemPlan :=
  let p := t.cmd.params
  let b := t.cmd.berth
  let es := c.mapEntries b (memVa p) (memPages p)
  let new := es.map fun k => (k, (tabGet {} c.xlat k).withFlags p)
  if !c.mapRangeOk b (memVa p) (memPages p) then .refuse 0x00A0
  else if !new.all (fun x => entryFlagsOk x.2) then .refuse 0x00A1
  else if !es.all (fun k => (tabGet {} c.xlat k).valid) then .refuse 0x00A3
  else if !bitAt p 128 && c.stampOn b (memVa p) (memPages p) then .refuse 0x0053
  else .plan c new

/-- The plan of a memory command, by opcode; the caller needs a berth (R371). -/
def memPlan (s : State) (t : Ticket) (c : Shadow) : MemPlan :=
  if t.cmd.device then .refuse 0x0004
  else if t.opcode = 0x9030 then planAlloc s t c
  else if t.opcode = 0x9031 then planWindow s t c
  else if t.opcode = 0x9032 then planFree s t c
  else planProtect t c

/-- Store entries into a translation table. -/
def putEntries (x : Tab XlatEntry) (es : List (Nat × XlatEntry)) : Tab XlatEntry :=
  es.foldl (fun t e => tabPut {} t e.1 e.2) x

/-- A memory command as a configuration command. -/
def ruleMem : ConfigRule := fun s t c =>
  if !t.cmd.device && memMustWait s t.cmd.berth then .wait
  else
    match memPlan s t c with
    | .refuse st => .refuse st noResult
    | .plan c es => .pass { c with xlat := putEntries c.xlat es } noResult

/-- The parameter fields that every memory command but GET_MAPPING uses. -/
def memCore : List (Nat × Nat) := [(0, 40), (64, 24)]

/-- MEM_ALLOC: PLACE 3 is reserved, and WHERE is zero for PLACE 0. -/
def opMemAlloc : OpInfo :=
  { opcode := 0x9030,
    wellFormed := fun p => onlyFields (memCore ++ [(96, 2), (112, 10), (128, 4)]) p
      && fldN p 96 2 ≠ 3 && (fldN p 96 2 ≠ 0 || fldN p 112 10 = 0) }

/-- MEM_MAP_WINDOW: TARGET 0 and 3 are reserved; WHERE holds the peer for TARGET 1, else zero. -/
def opMemMapWindow : OpInfo :=
  { opcode := 0x9031,
    wellFormed := fun p => onlyFields (memCore ++ [(96, 2), (112, 2), (128, 4), (160, 32)]) p
      && (fldN p 96 2 = 1 || (fldN p 96 2 = 2 && fldN p 112 2 = 0)) }

/-- MEM_FREE. -/
def opMemFree : OpInfo := { opcode := 0x9032, wellFormed := onlyFields memCore }
/-- MEM_PROTECT. -/
def opMemProtect : OpInfo := { opcode := 0x9033, wellFormed := onlyFields (memCore ++ [(128, 4)]) }
/-- GET_MAPPING. -/
def opGetMapping : OpInfo := { opcode := 0x9034, wellFormed := onlyFields [(0, 40)] }

/-- MEM_ALLOC maps new zeroed frames. -/
def execMemAlloc (c : Cmd) (s : State) : Host.Outcome State Fault Refusal := carry opMemAlloc c (acceptConfig ruleMem) s

/-- MEM_MAP_WINDOW maps peer or host-window frames. -/
def execMemMapWindow (c : Cmd) (s : State) : Host.Outcome State Fault Refusal := carry opMemMapWindow c (acceptConfig ruleMem) s

/-- MEM_FREE unmaps pages. -/
def execMemFree (c : Cmd) (s : State) : Host.Outcome State Fault Refusal := carry opMemFree c (acceptConfig ruleMem) s

/-- MEM_PROTECT rewrites the permissions of pages. -/
def execMemProtect (c : Cmd) (s : State) : Host.Outcome State Fault Refusal := carry opMemProtect c (acceptConfig ruleMem) s

/-- Bits [6:0] of an entry (R196, R221). -/
def XlatEntry.flags (e : XlatEntry) : Nat :=
  packFields [(0, 1, b2n e.valid), (1, 1, b2n e.device1), (2, 2, e.target.toNat), (4, 1, b2n e.read),
    (5, 1, b2n e.write), (6, 1, b2n e.prefetch)]

/-- GET_MAPPING from the snapshot (R221): no frame number reaches the driver. -/
def actGetMapping (t : Ticket) (s : State) : State :=
  let c := s.snap.cfg
  let va := fldN t.cmd.params 0 40
  if t.cmd.device then writeRecord t 0x0004 noResult s
  else if va % 0x10000 ≠ 0 then writeRecord t 0x00A0 noResult s
  else
    match c.entryNo t.cmd.berth va with
    | none => writeRecord t 0x00A0 noResult s
    | some n =>
      let e := tabGet {} c.xlat n
      if !e.valid then writeRecord t 0 (longResult 32 [(16, 6, 0x3F)]) s
      else
        let tile := if e.target = 0 then (c.logicalOf (columnOf (e.frame.toNat * 0x10000))).getD 0x3F else 0x3F
        writeRecord t 0 (longResult 32 [(0, 7, e.flags), (8, 2, e.device.toNat), (16, 6, tile)]) s

/-- GET_MAPPING returns the mapping of a page. -/
def execGetMapping (c : Cmd) (s : State) : Host.Outcome State Fault Refusal := carry opGetMapping c actGetMapping s

end Sys2Proof.Machine
end

