-- ==== Sys2Proof/Machine/Time.lean ====
section
/-! DEFINITION. Timekeeping (R299 to R320): the tick, the servo, domain states, the working clock, and
the time commands. Frequencies are in units of 2^-24 ppb; offsets in units of 2^-16 ns. -/

namespace Sys2Proof.Machine

/-! The tick (R301) -/

/-- What one tick of the 250 MHz timing clock adds to a counter with frequency adjustment `f`, in units
of 2^-48 ns: 4 ns times (1 + f). -/
def tickStep (f : Int) : Nat := (4 * 2 ^ 48 + f * 2 ^ 26 / 10 ^ 9).toNat

/-- One tick of the timekeeping block. -/
def TimeState.tick (t : TimeState) : TimeState :=
  let wc := t.wc + tickStep t.wcF
  let adv := fun (d : DomainDyn) =>
    { d with clock := if d.state = .grandmaster then wc else d.clock + tickStep d.f }
  { t with wc := wc, domA := adv t.domA, domB := adv t.domB, refPhase := (t.refPhase + 1) % 10 }

/-- The timing clock stands on an edge of the 25 MHz reference (R299). -/
def TimeState.onEdge (t : TimeState) : Bool := t.refPhase == 0

/-- What a tick adds to island time (R419): while it is disciplined and equal to the working clock, what the working clock
adds; while it is apart, 4 ns steered towards it by at most 50 ppm; without discipline, what the last tick added. -/
def Island.step (i : Island) (wc wc' : Nat) : Nat :=
  if !i.disciplined then i.rate
  else if i.time = wc then wc' - wc
  else max (4 * 2 ^ 48 - 4 * 2 ^ 48 / 20000) (min (4 * 2 ^ 48 + 4 * 2 ^ 48 / 20000) (wc' - i.time))

/-- A tick of the island's timer. -/
def Island.tick (i : Island) (wc wc' : Nat) : Island := { i with time := i.time + i.step wc wc', rate := i.step wc wc' }

/-- One tick of the clocks. -/
def clockTick (s : State) : State :=
  let s' := s.modTime TimeState.tick
  s'.modIsland fun i => i.tick s.dyn.time.wc s'.dyn.time.wc

/-! Domains -/

/-- A domain's moving part. -/
def TimeState.dom (t : TimeState) (d : Nat) : DomainDyn := if d = 0 then t.domA else t.domB

/-- Update a domain. -/
def TimeState.modDom (t : TimeState) (d : Nat) (f : DomainDyn → DomainDyn) : TimeState :=
  if d = 0 then { t with domA := f t.domA } else { t with domB := f t.domB }

/-- A domain's configuration. -/
def Shadow.domain (c : Shadow) (d : Nat) : DomainCfg := if d = 0 then c.domainA else c.domainB

/-- The role of a port in a domain (R304): 0 disabled, 1 slave, 2 master, 3 passive. -/
def TimePortCfg.role (p : TimePortCfg) (d : Nat) : Nat := if d = 0 then p.roleA.toNat else p.roleB.toNat

/-- A number kept within plus or minus `lim`. -/
def clampInt (v lim : Int) : Int := if v > lim then lim else if v < -lim then -lim else v

/-- FREQ_LIMIT in units of 2^-24 ppb (10 ppb each). -/
def DomainCfg.limit (g : DomainCfg) : Int := g.freqLimit.toNat * 10 * 2 ^ 24

/-- A SYNC_LOSS interval in units of 2^-48 ns: 2^LOG_SYNC s, or 1 ms for SOURCE 1 (R309). -/
def DomainCfg.interval (g : DomainCfg) : Nat :=
  if g.source = 1 then 1000 * us48
  else if g.logSync = 0 then 10 ^ 9 * 2 ^ 48
  else 10 ^ 9 * 2 ^ 48 / 2 ^ (16 - g.logSync.toNat)

/-- The servo of R308 on a usable Sync with offset `theta`. -/
def servo (g : DomainCfg) (theta : Int) (now : Nat) (d : DomainDyn) : DomainDyn :=
  let big := decide ((g.stepNs.toNat : Int) * 2 ^ 16 < theta.natAbs)
  let near := decide ((theta.natAbs : Int) < g.lockNs.toNat * 2 ^ 16)
  let gone := (now - d.lastSync) / g.interval
  let d := { d with theta := theta, lastSync := now, missed := satAdd d.missed (gone - 1) }
  if (d.state = .acquiring ∨ d.state = .lost) ∧ big then
    { d with clock := ((d.clock : Int) - theta * 2 ^ 32).toNat, integ := 0, good := 0, state := .acquiring }
  else if d.state = .locked ∧ big then { d with state := .acquiring, good := 0 }
  else
    let integ := clampInt (d.integ + g.ki.toNat * theta) g.limit
    let f := clampInt (-(g.kp.toNat * theta + integ)) g.limit
    let good := if near then d.good + 1 else 0
    let st := if d.state = .holdover then (if near then .locked else .acquiring)
              else if d.state = .lost then .acquiring else d.state
    let st := if st = .acquiring ∧ g.lockCount.toNat ≤ good then .locked else st
    { d with integ := integ, f := f, good := good, state := st }

/-- Some domain is LOCKED, in HOLDOVER or GRANDMASTER (R315). -/
def TimeState.anyTime (t : TimeState) : Bool :=
  let ok := fun (x : DomState) => x == .locked || x == .holdover || x == .grandmaster
  ok t.domA.state || ok t.domB.state

/-- Raise the loss-of-both-domains doubt when it is armed and no domain keeps time (R315). -/
def timeDoubtCheck (s : State) : State :=
  let t := s.dyn.time
  if t.doubtArmed ∧ !t.anyTime then raiseDoubt 7 (s.modTime fun t => { t with timeDoubt := true }) else s

/-- A length in picoseconds in units of 2^-16 ns. -/
def ps16 (n : Int) : Int := n * 2 ^ 16 / 1000

/-- A port's time configuration. -/
def Shadow.timePort (c : Shadow) (p : Nat) : TimePortCfg := tabGet {} c.timePorts p

/-- A port's time status. -/
def TimeState.port (t : TimeState) (p : Nat) : TimePortDyn := tabGet {} t.ports p

/-- Update a port. -/
def TimeState.modPort (t : TimeState) (p : Nat) (f : TimePortDyn → TimePortDyn) : TimeState :=
  { t with ports := tabMod {} t.ports p f }

/-- The three counters, moved by `by_` (R305). -/
def TimeState.stamp (t : TimeState) (by_ : Int) : TimeStamp :=
  { a := (t16 t.domA.clock : Int) + by_, b := (t16 t.domB.clock : Int) + by_, wc := (t16 t.wc : Int) + by_ }

/-- The stamp of a domain's clock. -/
def TimeStamp.dom (x : TimeStamp) (d : Nat) : Int := if d = 0 then x.a else x.b

/-- A port's ingress stamp, `ago` before now, corrected by RX_PHY and RX_PATH (R305). -/
def State.ingressStamp (s : State) (p : Nat) (ago : Int) : TimeStamp :=
  s.dyn.time.stamp (-(ago + ps16 (s.dyn.cfg.timePort p).rxPhy.toNat + ps16 (s.dyn.time.port p).rxPath.toNat))

/-- A port's egress stamp of this moment, corrected by TX_PHY and TX_PATH (R305). -/
def State.egressStamp (s : State) (p : Nat) : TimeStamp :=
  s.dyn.time.stamp (ps16 (s.dyn.cfg.timePort p).txPhy.toNat + ps16 (s.dyn.time.port p).txPath.toNat)

/-- The offset of R307 of a domain clock: `ago` is how long before now the start delimiter crossed; `rate` is the rate
ratio to the grandmaster, less 1, in units of 2^-8 ppb. -/
def syncOffset (s : State) (p d : Nat) (origin correction ago rate : Int) : Int :=
  let g := s.dyn.cfg.timePort p
  let y := s.dyn.time.port p
  let rx := (s.ingressStamp p ago).dom d
  let dr := y.linkDelay + y.linkDelay * rate / (2 ^ 8 * 10 ^ 9)
  rx - (origin + correction + dr + ps16 (sInt g.asym))

/-- The domain whose usable Sync this is (R308): its slave port, asCapable, its number. -/
def syncDomain (s : State) (p : Nat) (number : Byte) : Option Nat :=
  [0, 1].find? fun d =>
    let g := s.dyn.cfg.domain d
    g.enable && g.source == 0 && g.domainNumber == number && (s.dyn.cfg.timePort p).role d == 1
    && (s.dyn.time.port p).asCapable

/-- SYNC_RECEIVE (R307, R308): a usable Sync runs its domain's servo; any other Sync is ignored. `rate` is the rate ratio
to the grandmaster that it gives, less 1. -/
def execSyncReceive (port : Fin 8) (domainNumber : Byte) (origin : Int) (followUp : FollowUp) (ingress : Int) (s : State) :
    Host.Outcome State Fault Refusal :=
  match syncDomain s port domainNumber with
  | none => .next s
  | some d =>
    let theta := syncOffset s port d origin followUp.correction ingress (sInt followUp.rate)
    .next (timeDoubtCheck (s.modTime fun t =>
      t.modDom d fun x => { servo (s.dyn.cfg.domain d) theta t.wc x with stratum := 0 }))

/-- Two to a power in two's complement of 4 bits, in seconds, in units of 2^-48 ns. -/
def log2Period (l : BitVec 4) : Nat :=
  if l.toNat < 8 then 10 ^ 9 * 2 ^ 48 * 2 ^ l.toNat else 10 ^ 9 * 2 ^ 48 / 2 ^ (16 - l.toNat)

/-- The Sync last sent for a domain. -/
def TimePortDyn.sent (y : TimePortDyn) (d : Fin 2) : Nat := if d = 0 then y.sentA else y.sentB

/-- SYNC_SEND (R304, R305): a master port sends a two-step Sync every 2^LOG_SYNC s: the Sync, whose egress it stamps, and
the Follow_Up with that stamp. Not due, or no master: no effect. -/
def execSyncSend (port : Fin 8) (d : Fin 2) (s : State) : Host.Outcome State Fault Refusal :=
  let g := s.dyn.cfg.domain d
  let y := s.dyn.time.port port
  let now := s.dyn.time.wc
  if !g.enable || (s.dyn.cfg.timePort port).role d != 2 || !y.linkUp
      || (y.sent d != 0 && now + 1 < y.sent d + log2Period g.logSync) then .next s
  else
    let x := s.egressStamp port
    .next (s.modTime fun t => t.modPort port fun y =>
      { y with syncs := { domain := d, origin := some (x.dom d) } :: { domain := d, stamp := x } :: y.syncs,
               sentA := if d = 0 then now + 1 else y.sentA, sentB := if d = 0 then y.sentB else now + 1 })

/-- PDELAY_EXCHANGE (R304), every 2^LOG_PDELAY s: the mean link delay, the neighbour's rate ratio, and asCapable against the
port's threshold. The stamps t1 and t4 are this port's, t2 and t3 the neighbour's. Not due, or no link: no effect. -/
def execPdelayExchange (port : Fin 8) (t1 t2 t3 t4 : Int) (rateRatio : BitVec 32) (s : State) :
    Host.Outcome State Fault Refusal :=
  let g := s.dyn.cfg.timePort port
  let y := s.dyn.time.port port
  let now := s.dyn.time.wc
  if !y.linkUp || (y.lastPdelay != 0 && now + 1 < y.lastPdelay + log2Period g.logPdelay) then .next s
  else
    let own := (t4 - ps16 g.rxPhy.toNat - ps16 y.rxPath.toNat) - (t1 + ps16 g.txPhy.toNat + ps16 y.txPath.toNat)
    let delay := (own + own * sInt rateRatio / (2 ^ 8 * 10 ^ 9) - (t3 - t2)) / 2
    .next (s.modTime fun t => t.modPort port fun y =>
      { y with linkDelay := delay, rateRatio := sInt rateRatio, lastPdelay := now + 1,
               asCapable := decide (delay ≤ (g.nbrThresh.toNat : Int) * 2 ^ 16) })

/-- PORT_LINK_UP (R306): the in-package paths are measured and apply from the next lock cycle. -/
def execPortLinkUp (port : Fin 8) (txPath rxPath : BitVec 16) (s : State) : Host.Outcome State Fault Refusal :=
  let s := s.modTime fun t => t.modPort port fun y => { y with linkUp := true, newPaths := some (txPath, rxPath) }
  .next (s.modGateway fun g => { g with channels := tabMod {} g.channels (8 + port) fun c => { c with linkUp := true } })

/-- SYNC_LOSS (R309): with no usable Sync for SYNC_LOSS intervals a LOCKED domain enters HOLDOVER with its
frequency frozen at minus the integrator, and an ACQUIRING domain is LOST. Not due: no effect. -/
def execSyncLoss (d : Fin 2) (s : State) : Host.Outcome State Fault Refusal :=
  let g := s.dyn.cfg.domain d
  let x := s.dyn.time.dom d
  let now := s.dyn.time.wc
  if now < x.lastSync + g.syncLoss.toNat * g.interval then .next s
  else if x.state = .locked then
    .next (timeDoubtCheck (s.modTime fun t => t.modDom d fun x => { x with state := .holdover, f := -x.integ, heldSince := now }))
  else if x.state = .acquiring then
    .next (timeDoubtCheck (s.modTime fun t => t.modDom d fun x => { x with state := .lost }))
  else .next s

/-- HOLDOVER_EXPIRY (R309): a domain in HOLDOVER for HOLD_MS is LOST. Not due: no effect. -/
def execHoldoverExpiry (d : Fin 2) (s : State) : Host.Outcome State Fault Refusal :=
  let x := s.dyn.time.dom d
  if x.state = .holdover ∧ x.heldSince + (s.dyn.cfg.domain d).holdMs.toNat * 1000 * us48 ≤ s.dyn.time.wc then
    .next (timeDoubtCheck (s.modTime fun t => t.modDom d fun x => { x with state := .lost }))
  else .next s

/-- The integer square root of `n`, bit by bit from `2 ^ k`. -/
def isqrtFrom (n : Nat) : Nat → Nat → Nat
  | 0, r => r
  | k + 1, r => if (r + 2 ^ k) * (r + 2 ^ k) ≤ n then isqrtFrom n k (r + 2 ^ k) else isqrtFrom n k r

/-- The integer square root. -/
def isqrt (n : Nat) : Nat := isqrtFrom n 64 0

/-- 50 ppm and 0.001 ppm in units of 2^-24 ppb. -/
def ppm50 : Int := 50000 * 2 ^ 24
/-- 0.001 ppm: the most the working clock's frequency moves in 100 us (R313). -/
def slewStep : Int := 2 ^ 24

/-- One run of R313 towards the selected domain. A grandmaster's clock is the working clock: it returns to the TCXO with w
held at 0 (R314). -/
def slew (sel : Nat) (t : TimeState) : TimeState :=
  let d := t.dom sel
  let e : Int := (d.clock : Int) - t.wc
  let t := { t with lastSlew := t.wc }
  if d.state = .grandmaster then
    { t with wcF := t.wcF + clampInt (-t.wcF) slewStep, w := 0, slewing := false, offsetHeld := false }
  else
    let held := decide (10 ^ 9 * 2 ^ 48 < e.natAbs)
    if e.natAbs < 10 * 2 ^ 48 ∧ ((t.wcF - d.f).natAbs : Int) < slewStep then
      { t with wcF := d.f, w := 0, slewing := false, offsetHeld := false }
    else
      let w' : Int := if held ∨ d.state = .lost ∨ d.state = .disabled then 0
                      else (if e < 0 then -1 else 1) * min ppm50 (isqrt (20000 * e.natAbs) : Int)
      let f := t.wcF + clampInt (d.f + w' - t.wcF) slewStep
      { t with wcF := f, w := f - d.f, slewing := true, offsetHeld := held }

/-- WORKING_CLOCK_SLEW (R313), every 100 us of the working clock. Not due: no effect. -/
def execWorkingClockSlew (s : State) : Host.Outcome State Fault Refusal :=
  if s.dyn.time.wc < s.dyn.time.lastSlew + 100 * us48 then .next s
  else .next (s.modTime (slew (b2n s.dyn.cfg.selected)))

/-- TCXO_CHECK (R316): the island's count over one 100 us window, in ppm off; two windows outside 500 ppm
set TCXO_FAULT, raise the doubt and end the discipline. -/
def execTcxoCheck (ppm : Int) (s : State) : Host.Outcome State Fault Refusal :=
  if 500 < ppm.natAbs then
    let run := s.dyn.time.tcxoRun + 1
    let s := s.modTime fun t => { t with tcxoRun := run }
    if run < 2 then .next s
    else
      let s := s.modTime fun t => { t with tcxoFault := true, timeDoubt := true }
      .next (raiseDoubt 7 (s.modIsland fun i => { i with disciplined := false }))
  else .next (s.modTime fun t => { t with tcxoRun := 0 })

/-- The stratum that this device sends (R318). -/
def ownStratum (s : State) : Nat :=
  let sel := b2n s.dyn.cfg.selected
  let d := s.dyn.time.dom sel
  let g := s.dyn.cfg.domain sel
  if d.state = .grandmaster then 0
  else if d.state = .locked then (if g.source = 1 then min (d.stratum.toNat + 1) 0xF else 0)
  else 0xF

/-- BEACON_SEND (R317, R318): the working clock and the stratum go to the peer, every 1 ms. -/
def execBeaconSend (peer : BitVec 2) (s : State) : Host.Outcome State Fault Refusal :=
  let (last, delay) := tabGet (0, 0) s.dyn.time.beacons peer.toNat
  if last ≠ 0 ∧ s.dyn.time.wc < last + 1000 * us48 ∨ !s.peerUp peer then .next s
  else
    let data := bytesOf 16 (layout80 s.now16 + ownStratum s * 2 ^ 80)
    let s := s.modTime fun t => { t with beacons := tabPut (0, 0) t.beacons peer.toNat (t.wc, delay) }
    .next (sendPeer peer { kind := 0xA, addr := 0, data := data } none s)

/-- BEACON_RECEIVE (R317, R318): the link delay of the exchange; a beacon of stratum 0 to 2 is a usable
Sync of each domain that follows the peer. -/
def execBeaconReceive (peer : BitVec 2) (wc : Int) (stratum : BitVec 4) (linkDelay : Int) (s : State) :
    Host.Outcome State Fault Refusal :=
  let s := s.modTime fun t =>
    { t with beacons := tabMod (0, 0) t.beacons peer.toNat fun b => (b.1, linkDelay) }
  let use := fun (d : Nat) (t : TimeState) =>
    let g := s.dyn.cfg.domain d
    if g.enable ∧ g.source = 1 ∧ g.peer = peer ∧ stratum.toNat < 3 then
      t.modDom d fun x =>
        { servo g ((t16 x.clock : Int) - (wc + linkDelay)) t.wc x with stratum := stratum }
    else t
  .next (timeDoubtCheck (s.modTime fun t => use 1 (use 0 t)))

/-! Commands (R319, R320) -/

/-- The rules of R319 check 3 that a configuration breaks, by number. -/
def timeBreaks (s : State) (c : Shadow) : List Nat :=
  let slaves := fun d => (upFrom 0 8).filter fun p => (c.timePort p).role d == 1
  let gm := fun d => (c.domain d).enable && (c.domain d).source == 2
  let linked := fun (d : Nat) =>
    (c.domain d).source != 1 ||
      (upFrom 0 6).any fun p =>
        (tabGet {} s.dyn.isgal.ports p).state == .up && (tabGet {} s.dyn.isgal.ports p).peer == (c.domain d).peer
  (if c.domainA.domainNumber = c.domainB.domainNumber then [0] else [])
  ++ (if gm 0 && gm 1 then [1] else [])
  ++ (if 1 < (slaves 0).length || 1 < (slaves 1).length || (gm 0 && !(slaves 0).isEmpty)
        || (gm 1 && !(slaves 1).isEmpty) then [2] else [])
  ++ (if !linked 0 then [3] else []) ++ (if !linked 1 then [4] else [])
  ++ (if !(c.domain (b2n c.selected)).enable then [5] else [])

/-- Check 3 of R319: the result breaks no rule that the shadow kept before. -/
def timeConflict (s : State) (c c' : Shadow) : Bool :=
  (timeBreaks s c').any fun k => !(timeBreaks s c).contains k

/-- TIME_DOMAIN_CONFIG parameters. -/
def domainOfParams (p : Params) : DomainCfg :=
  { enable := bitAt p 1, source := fld p 2 2, peer := fld p 4 2, domainNumber := fld p 8 8, logSync := fld p 16 4,
    syncLoss := fld p 20 4, kp := fld p 32 16, ki := fld p 48 16, stepNs := fld p 64 32, lockNs := fld p 96 16,
    lockCount := fld p 112 8, freqLimit := fld p 128 16, holdMs := fld p 144 16 }

/-- The ranges of the domain fields. -/
def domainOk (g : DomainCfg) : Bool :=
  g.domainNumber.toNat ≤ 127 && (g.logSync == 0 || 9 ≤ g.logSync.toNat) && 2 ≤ g.syncLoss.toNat
  && 1 ≤ g.lockCount.toNat && 1 ≤ g.freqLimit.toNat && g.freqLimit.toNat ≤ 30000 && g.holdMs.toNat ≤ 60000

/-- Put a domain's configuration. -/
def Shadow.setDomain (c : Shadow) (d : Nat) (g : DomainCfg) : Shadow :=
  if d = 0 then { c with domainA := g } else { c with domainB := g }

/-- TIME_DOMAIN_CONFIG (R319). -/
def ruleTimeDomain : ConfigRule := fun s t c =>
  let g := domainOfParams t.cmd.params
  let c' := c.setDomain (fldN t.cmd.params 0 1) g
  if !t.fromSupervisor then .refuse 0x00E2 noResult
  else if !domainOk g then .refuse 0x00E0 noResult
  else if timeConflict s c c' then .refuse 0x00E1 noResult
  else .pass c' noResult

/-- TIME_PORT_CONFIG (R307, R319). -/
def ruleTimePort : ConfigRule := fun s t c =>
  let p := t.cmd.params
  let g : TimePortCfg := { roleA := fld p 4 2, roleB := fld p 6 2, logPdelay := fld p 8 4, nbrThresh := fld p 16 16,
                           asym := fld p 32 32, txPhy := fld p 64 32, rxPhy := fld p 96 32 }
  let c' := { c with timePorts := tabPut {} c.timePorts (fldN p 0 3) g }
  if !t.fromSupervisor then .refuse 0x00E2 noResult
  else if !(g.logPdelay.toNat ≤ 3 || 13 ≤ g.logPdelay.toNat) then .refuse 0x00E0 noResult
  else if timeConflict s c c' then .refuse 0x00E1 noResult
  else .pass c' noResult

/-- TIME_SELECT (R311, R319). -/
def ruleTimeSelect : ConfigRule := fun s t c =>
  let c' := { c with selected := bitAt t.cmd.params 0, auto := bitAt t.cmd.params 1 }
  if !t.fromSupervisor then .refuse 0x00E2 noResult
  else if timeConflict s c c' then .refuse 0x00E1 noResult
  else .pass c' noResult

/-- TIME_DOMAIN_CONFIG; SOURCE 3 is reserved. -/
def opTimeDomain : OpInfo :=
  { opcode := 0x6001,
    wellFormed := fun p => onlyFields [(0, 6), (8, 16), (32, 32), (64, 32), (96, 24), (128, 32)] p && fldN p 2 2 ≠ 3 }
/-- TIME_PORT_CONFIG. -/
def opTimePort : OpInfo :=
  { opcode := 0x6002, wellFormed := onlyFields [(0, 3), (4, 8), (16, 112)] }
/-- TIME_SELECT. -/
def opTimeSelect : OpInfo := { opcode := 0x6003, runTime := true, wellFormed := onlyFields [(0, 2)] }
/-- TIME_PORT_MEASURE. -/
def opTimeMeasure : OpInfo := { opcode := 0x6004, runTime := true, wellFormed := onlyFields [(0, 3)] }
/-- GET_TIME_STATUS; VIEW 3 to 7 are reserved. -/
def opGetTime : OpInfo :=
  { opcode := 0x6010, runTime := true,
    wellFormed := fun p => onlyFields [(0, 4)] p && (fldN p 0 4 ≤ 2 || 8 ≤ fldN p 0 4) }

/-- TIME_DOMAIN_CONFIG configures a domain. -/
def execTimeDomainConfig (c : Cmd) (s : State) : Host.Outcome State Fault Refusal :=
  carry opTimeDomain c (acceptConfig ruleTimeDomain) s

/-- TIME_PORT_CONFIG configures a port. -/
def execTimePortConfig (c : Cmd) (s : State) : Host.Outcome State Fault Refusal :=
  carry opTimePort c (acceptConfig ruleTimePort) s

/-- TIME_SELECT selects the domain and AUTO. -/
def execTimeSelect (c : Cmd) (s : State) : Host.Outcome State Fault Refusal :=
  carry opTimeSelect c (acceptConfig ruleTimeSelect) s

/-- The measurement of a port's in-package paths (R306): what is measured is a free value; it applies, and
the command completes, at the next lock cycle. -/
def measurePort (t : Ticket) (p : Nat) (s : State) : State :=
  let n := s.free
  (s.modTime fun x => x.modPort p fun y =>
    { y with newPaths := some (Config.freeBits 16 n, Config.freeBits 16 (n + 1)), measurePending := true,
             measures := y.measures ++ [t] }).bump.bump

/-- A drizzle request may join the queue of 16 (R458): a place is free and no tile request waits. -/
def Safety.roomForRequest (f : Safety) : Bool := f.requests.length < 16 && f.tileWaiting.isEmpty

/-- TIME_PORT_MEASURE (R306, R319, R458): at once in the service state, else in a drizzle slot. -/
def actTimeMeasure (t : Ticket) (s : State) : State :=
  let p := fldN t.cmd.params 0 3
  if !t.fromSupervisor then writeRecord t 0x00E2 noResult s
  else if s.inService then measurePort t p s
  else if s.dyn.safety.roomForRequest then
    (s.modTime fun x => x.modPort p fun y => { y with measurePending := true }).modSafety fun f =>
      { f with requests := f.requests ++ [.measure t p] }
  else writeRecord t 0x00F8 noResult s

/-- TIME_PORT_MEASURE measures a port's in-package paths. -/
def execTimePortMeasure (c : Cmd) (s : State) : Host.Outcome State Fault Refusal := carry opTimeMeasure c actTimeMeasure s

/-- A signed value in a field of `w` bits, saturating, as the field's bits. -/
def satSigned (w : Nat) (v : Int) : Nat :=
  (BitVec.ofInt w (clampInt v (2 ^ (w - 1) - 1))).toNat

/-- The code of a domain state (R309). -/
def DomState.code : DomState → Nat
  | .disabled => 0
  | .acquiring => 1
  | .locked => 2
  | .holdover => 3
  | .lost => 4
  | .grandmaster => 5

/-- The record of GET_TIME_STATUS (R320), from a latched state. -/
def timeRecord (d : Dyn) (view : Nat) : Result :=
  let t := d.time
  if view = 0 then
    shortResult [(0, 80, layout80 (t16 t.wc)), (80, 1, b2n d.cfg.selected), (81, 1, b2n d.cfg.auto),
      (82, 1, b2n t.acquired), (83, 1, b2n t.slewing), (84, 1, b2n t.offsetHeld), (85, 1, b2n t.timeDoubt),
      (86, 1, b2n t.tcxoFault), (96, 32, satSigned 32 (t.w / 2 ^ 16))]
  else if view ≤ 2 then
    let x := t.dom (view - 1)
    let g := d.cfg.domain (view - 1)
    let gone := if x.state = .disabled ∨ x.state = .grandmaster then 0 else (t.wc - x.lastSync) / g.interval
    shortResult [(0, 32, satSigned 32 (x.theta / 2 ^ 12)), (32, 32, satSigned 32 (x.f / 2 ^ 16)),
      (64, 3, x.state.code), (67, 1, b2n x.diverged), (68, 4, x.stratum.toNat),
      (80, 16, (satAdd x.missed gone).toNat),
      (96, 32, satSigned 32 (((x.clock : Int) - t.wc) / 2 ^ 44))]
  else
    let y := t.port (view - 8)
    shortResult [(0, 16, y.txPath.toNat), (16, 16, y.rxPath.toNat), (32, 32, satSigned 32 (y.linkDelay / 2 ^ 8)),
      (64, 1, b2n y.asCapable), (65, 1, b2n y.linkUp), (66, 1, b2n y.measurePending),
      (96, 32, satSigned 32 y.rateRatio)]

/-- GET_TIME_STATUS returns a view latched at the last commit edge. -/
def execGetTimeStatus (c : Cmd) (s : State) : Host.Outcome State Fault Refusal :=
  carry opGetTime c (fun t s => answer 0 (timeRecord s.snap (fldN c.params 0 4)) t s) s

/-! What a commit edge does to time -/

/-- A change of ENABLE, SOURCE, PEER or DOMAIN_NUMBER restarts the domain (R309). -/
def restartDomain (old new : DomainCfg) (now : Nat) (d : DomainDyn) : DomainDyn :=
  if old.enable = new.enable ∧ old.source = new.source ∧ old.peer = new.peer ∧ old.domainNumber = new.domainNumber
  then d
  else if !new.enable then { d with state := .disabled, f := 0, good := 0 }
  else if new.source = 2 then { d with state := .grandmaster, f := 0, clock := now, stratum := 0 }
  else { d with state := .acquiring, good := 0, lastSync := now, missed := 0, stratum := 0xF }

/-- A port's measured paths apply (R306). -/
def TimePortDyn.applyPaths (y : TimePortDyn) : TimePortDyn :=
  match y.newPaths with
  | some (tx, rx) =>
    { y with txPath := tx, rxPath := rx, newPaths := none, measures := [],
             measurePending := y.measures.isEmpty && y.measurePending }
  | none => y

/-- Measured paths apply (R306). -/
def applyPaths (t : TimeState) : TimeState :=
  { t with ports := tabMap {} (fun _ y => y.applyPaths) t.ports }

/-- The TIME_PORT_MEASURE commands that complete at this edge. -/
def measuresDone (t : TimeState) : List Ticket := t.ports.flatMap fun p => if p.2.newPaths.isSome then p.2.measures else []

/-- A domain counts as LOCKED: LOCKED, or GRANDMASTER (R309). -/
def DomState.keepsTime (x : DomState) : Bool := x == .locked || x == .grandmaster

/-- AUTO passes the selection from a domain that is not LOCKED to one that is (R311). -/
def autoSelect (s : State) : State :=
  let sel := b2n s.dyn.cfg.selected
  if s.dyn.cfg.auto ∧ !(s.dyn.time.dom sel).state.keepsTime ∧ (s.dyn.time.dom (1 - sel)).state.keepsTime then
    s.modAllCfg fun c => { c with selected := !c.selected }
  else s

/-- A time on a scale that steps by `by_`. -/
def shiftTime (by_ : Int) (t : Nat) : Nat := ((t : Int) + by_).toNat

/-- A domain's intervals run on over a step of the working clock; a grandmaster's clock steps with it (R309). -/
def DomainDyn.shift (by_ : Int) (d : DomainDyn) : DomainDyn :=
  { d with lastSync := shiftTime by_ d.lastSync, heldSince := shiftTime by_ d.heldSince,
           clock := if d.state = .grandmaster then shiftTime by_ d.clock else d.clock }

/-- The working clock steps by `by_`; the intervals that the block measures on it run on. -/
def TimeState.stepClock (by_ : Int) (t : TimeState) : TimeState :=
  let mark := fun n => if n = 0 then 0 else shiftTime by_ n
  { t with wc := shiftTime by_ t.wc, acquired := true, lastSlew := shiftTime by_ t.lastSlew,
           domA := t.domA.shift by_, domB := t.domB.shift by_,
           ports := tabMap {} (fun _ y => { y with sentA := mark y.sentA, sentB := mark y.sentB, lastPdelay := mark y.lastPdelay })
                      t.ports,
           beacons := tabMap (0, 0) (fun _ b => (mark b.1, b.2)) t.beacons }

/-- The intervals that the other units measure on the working clock run on over its step. -/
def shiftTimers (by_ : Int) (s : State) : State :=
  let d := fun n => shiftTime (by_ / 2 ^ 32) n
  let s := s.modTiles fun t => tabMap {} (fun _ x =>
    { x with idleSince := shiftTime by_ x.idleSince, wakeEnds := x.wakeEnds.map (shiftTime by_) }) t
  let s := s.modQueues fun t => tabMap {} (fun _ y => { y with headSince := d y.headSince }) t
  let s := s.modWork fun w =>
    { w with jobs := tabMap none (fun _ j => j.map fun b => { b with since := d b.since }) w.jobs,
             tiles := tabMap {} (fun _ t => { t with workgroups := t.workgroups.map fun g => { g with started := d g.started } })
                        w.tiles }
  let s := s.modRaster fun r => { r with passes := tabMap {} (fun _ p => { p with weirAt := d p.weirAt }) r.passes }
  let s := s.modGateway fun g => { g with requests := g.requests.map fun r => { r with since := d r.since } }
  let s := s.modIngest fun g =>
    { g with triggers := tabMap {} (fun _ y => { y with time := d y.time, ends := d y.ends }) g.triggers }
  s.modSafety fun f =>
    { f with lastSlot := d f.lastSlot, checkers := tabMap {} (fun _ c => { c with lastPass := d c.lastPass }) f.checkers }

/-- Acquisition (R312): the working clock takes the selected domain's time, and with it step island time, by the same amount,
and the watching Gauges (R419, R448). -/
def acquire (s : State) : State :=
  let d := s.dyn.time.dom (b2n s.dyn.cfg.selected)
  if !s.dyn.time.acquired ∧ !s.dyn.time.neverSteps ∧ s.inService ∧ d.state.keepsTime then
    let by_ : Int := (d.clock : Int) - s.dyn.time.wc
    let s := shiftTimers by_ (s.modTime (TimeState.stepClock by_))
    let s := s.modIsland fun i => { i with time := shiftTime by_ i.time }
    let restart := fun (g : Nat) (y : GaugeDyn) =>
      if y.state = .watching then
        { y with expireAt := s.island16 + (tabGet {} s.dyn.cfg.gauges g).deadline.toNat * us16 }
      else y
    s.modSafety fun f => { f with gauges := tabMap {} restart f.gauges }
  else s

/-- Divergence (R310), the arming of the time doubt (R315), and leaving the service state unacquired (R312). -/
def timeMarks (running : Bool) (t : TimeState) : TimeState :=
  let both := t.domA.state.keepsTime && t.domB.state.keepsTime
  let apart := decide (1000 * 2 ^ 48 < ((t.domA.clock : Int) - t.domB.clock).natAbs)
  let t := { t with neverSteps := t.neverSteps || (running && !t.acquired)
                    doubtArmed := t.doubtArmed || (running && (t.domA.state.keepsTime || t.domB.state.keepsTime)) }
  { t with domA := { t.domA with diverged := both && apart }, domB := { t.domB with diverged := both && apart } }

/-- What a commit edge does to timekeeping, from the configuration before it. -/
def timeAtEdge (old : Shadow) (s : State) : State :=
  let now := s.dyn.time.wc
  let done := measuresDone s.dyn.time
  let s := s.modTime fun t =>
    applyPaths { t with domA := restartDomain old.domainA s.dyn.cfg.domainA now t.domA,
                        domB := restartDomain old.domainB s.dyn.cfg.domainB now t.domB }
  let s := acquire (autoSelect s)
  let s := timeDoubtCheck (s.modTime (timeMarks s.dyn.cfg.running))
  done.foldl (fun s t => writeRecord t 0 noResult s) s

end Sys2Proof.Machine
end

