-- ==== Sys2Proof/Machine/Safety.lean ====
section
/-! DEFINITION. The doubt latch and its monitors: Gauges, soundings, drizzle, the mooring plan, the
heartbeat (R443 to R464), tile failures (R474, R475). -/

namespace Sys2Proof.Machine

/-! Checkers (R455) and tile failures (R474, R475) -/

/-- A checker whose unit is Off is skipped: that of a tile that carries no logical number. -/
def Shadow.checkerOff (c : Shadow) (i : Nat) : Bool :=
  if i < 44 then false else (c.logicalOf ((i - 44) % 36)).isNone

/-- The checkers that are not Off, ascending. -/
def Shadow.checkersOn (c : Shadow) : List Nat := (upFrom 0 116).filter fun i => !c.checkerOff i

/-- A checker's last passed test. -/
def Safety.lastPass (f : Safety) (i : Nat) : Nat := (tabGet {} f.checkers i).lastPass

/-- 64 ms in units of 2^-16 ns. -/
def lapse16 : Nat := 64000 * us16

/-- A tile's request for one of its checkers (R475): it joins the queue, or waits for a place. -/
def queueTileTest (i : Nat) (f : Safety) : Safety :=
  if f.requests.length < 16 then { f with requests := f.requests ++ [.tileTest i] }
  else { f with tileWaiting := f.tileWaiting ++ [i] }

/-- A tile failure (R474 to R476): counted and recorded; the first marks the tile SUSPECT and asks for
tests of its checkers, the second retires the tile at the next close. -/
def tileFailure (p : Nat) (a : Src) (s : State) : State :=
  let n := (s.tile p).failures + 1
  let s := s.modTile p fun d => { d with failures := n, suspect := true }
  let s := addError { a.toRec 8 with unit := BitVec.ofNat 6 p, count := satOf 16 n } s
  if n = 1 then s.modSafety fun f => queueTileTest (80 + p) (queueTileTest (44 + p) f)
  else s.modLock fun k => if k.retireTiles.contains p then k else { k with retireTiles := k.retireTiles ++ [p] }

/-! When a source counts as clear (R444) -/

/-- The mismatches that still hold the source: until a later sounding of the model has passed on another
tile and the tile has passed one or left the safety basin. -/
def openMismatches (s : State) : List Mismatch :=
  s.dyn.safety.mismatches.filter fun m =>
    !(m.otherPassed && (m.tilePassed || !(match s.dyn.cfg.logicalOf m.tile with
      | some t => s.dyn.cfg.safetyTile t
      | none => false)))

/-- The uncorrectable reads that still hold the source: until the context is torn down and the page
retired. -/
def openUncorrectable (s : State) : List (Nat × Bool) :=
  s.dyn.safety.uncorrectable.filter fun u => u.2 || !s.badFrame u.1

/-- The condition in the last column of R444 for source `i`; SOUNDING_MISSED clears when a sounding
passes, HEARTBEAT_LOSS at the third heartbeat in turn. -/
def sourceClear (s : State) (i : Nat) : Bool :=
  let f := s.dyn.safety
  match i with
  | 0 => !tabAny (fun g y => y.valid && (tabGet {} f.gauges g).state != .watching) s.dyn.cfg.gauges
  | 1 => (openMismatches s).isEmpty
  | 2 => false
  | 3 => false
  | 4 => false
  | 5 => s.dyn.cfg.checkersOn.all fun i => s.now16 ≤ f.lastPass i + lapse16 && !(tabGet {} f.checkers i).failed
  | 6 => (openUncorrectable s).isEmpty
  | 7 => (s.dyn.time.domA.state.keepsTime || s.dyn.time.domB.state.keepsTime) && !s.dyn.time.tcxoFault
  | 8 => 3 ≤ f.hbInTurn
  | _ => ((s.dyn.cfg.tilesUnder 0).filterMap s.dyn.cfg.physOf).all (fun p => 2 ≤ (s.tile p).okRun)
         && 2 ≤ s.dyn.island.okRun

/-- The source bits that remain once every raised source that counts as clear has cleared. -/
def settledSources (s : State) : BitVec 10 :=
  BitVec.ofNat 10 (packFields ((upFrom 0 10).map fun i =>
    (i, 1, b2n (bitAt s.dyn.safety.sources i && !sourceClear s i))))

/-- Clear every source whose condition holds. -/
def settle (s : State) : State :=
  let src := settledSources s
  let s' := s.modSafety fun f =>
    { f with sources := src, mismatches := openMismatches s, uncorrectable := openUncorrectable s }
  s'.modTime fun t => { t with timeDoubt := t.timeDoubt && bitAt src 7 }

/-! Gauges -/

/-- A Gauge's moving part. -/
def Safety.gaugeOf (f : Safety) (g : Nat) : GaugeDyn := tabGet {} f.gauges g

/-- Update a Gauge's moving part. -/
def State.modGauge (g : Nat) (f : GaugeDyn → GaugeDyn) (s : State) : State :=
  s.modSafety fun x => { x with gauges := tabMod {} x.gauges g f }

/-- A Gauge expires (R449): its state, its count, and GAUGE_EXPIRY; the first Gauge since the latch last
set is kept. -/
def expireGauge (g : Nat) (s : State) : State :=
  let s := s.modGauge g fun y => { y with state := .expired, expiries := satInc y.expiries }
  let s := raiseDoubt 0 s
  s.modSafety fun f => if f.gaugeSeen then f else { f with gauge := BitVec.ofNat 12 g, gaugeSeen := true }

/-- What a stamp read finds (R447, R449). -/
inductive StampVerdict where
  | bad
  | stale
  | fresh (validity : Nat)
  deriving DecidableEq, Repr

/-- Judge the line that a stamp read returned, at island time `now`; none is an error token. -/
def judgeStamp (g : GaugeCfg) (last now : Nat) (line : Option (List Byte)) : StampVerdict :=
  match line with
  | none => .bad
  | some l =>
    let v := ofLayout80 (ofBytes (l.take 10))
    let due := g.deadline.toNat * us16
    if BitVec.ofNat 32 (ofBytes (l.drop 60)) ≠ crc32 (l.take 60)
        || BitVec.ofNat 16 (ofBytes ((l.drop 10).take 2)) ≠ g.cls || now < v then .bad
    else if v ≤ last || v + due ≤ now then .stale
    else .fresh v

/-- Apply a verdict to a Gauge: a watching Gauge is refreshed or expires; an expired one returns to
watching when the read would have refreshed it. -/
def applyStamp (g : Nat) (v : StampVerdict) (s : State) : State :=
  let due := (tabGet {} s.dyn.cfg.gauges g).deadline.toNat * us16
  let watching := (s.dyn.safety.gaugeOf g).state == .watching
  let s := s.modGauge g fun y => { y with readSince := none }
  match v with
  | .fresh t => s.modGauge g fun y => { y with state := .watching, lastValidity := t, expireAt := t + due }
  | .stale => if watching then expireGauge g s else s
  | .bad =>
    let s := s.modGauge g fun y => { y with badStamps := satInc y.badStamps }
    if watching then expireGauge g s else s

/-- GAUGE_DEADLINE (R449): at the first reference edge at or after E a KIND 1 Gauge expires, a KIND 0 Gauge issues its stamp
read. Not due: no effect. -/
def execGaugeDeadline (g : BitVec 12) (s : State) : Host.Outcome State Fault Refusal :=
  let cfg := tabGet {} s.dyn.cfg.gauges g.toNat
  let y := s.dyn.safety.gaugeOf g.toNat
  if !cfg.valid || y.state ≠ .watching || s.island16 < y.expireAt || y.readSince.isSome || !s.dyn.time.onEdge then .next s
  else if cfg.mooring then .next (settle (expireGauge g.toNat s))
  else .next (s.modGauge g.toNat fun y => { y with readSince := some s.island16 })

/-- The fabric answers the read port: its rails are up and it is not held in reset (R421). -/
def State.fabricUp (s : State) : Bool := s.dyn.power.corePwrgd && !s.dyn.power.warmReset

/-- Read a line through the island's read port (R421); none is an error token. -/
def readPort (pa : Nat) (safety : Bool) (s : State) : State × Option (List Byte) :=
  if !s.fabricUp || !inDram pa then (s, none)
  else readDram { source := 4, safety := safety, channel := true } (pa / 64 * 64) 64 (awaken (columnOf pa) s)

/-- STAMP_READ_RESPONSE (R447, R449): the line is read at this moment and judged. -/
def execStampReadResponse (g : BitVec 12) (flips : BitVec 544) (s : State) : Host.Outcome State Fault Refusal :=
  let cfg := tabGet {} s.dyn.cfg.gauges g.toNat
  let y := s.dyn.safety.gaugeOf g.toNat
  if !cfg.valid || y.readSince.isNone then .next s
  else
    let s := flipLine (cfg.stampPa.toNat / 64) flips s
    let (s, line) := readPort cfg.stampPa.toNat true s
    .next (settle (applyStamp g.toNat (judgeStamp cfg y.lastValidity s.island16 line) s))

/-- STAMP_READ_TIMEOUT (R449): at a reference edge, no response within 10 us counts as a bad stamp. Not due: no effect. -/
def execStampReadTimeout (g : BitVec 12) (s : State) : Host.Outcome State Fault Refusal :=
  match (s.dyn.safety.gaugeOf g.toNat).readSince with
  | none => .next s
  | some t => if s.island16 < t + 10 * us16 || !s.dyn.time.onEdge then .next s else .next (settle (applyStamp g.toNat .bad s))

/-- EXPIRED_GAUGE_POLL (R449): an expired KIND 0 Gauge reads its line every 1 ms, at a reference edge. Not due: no effect. -/
def execExpiredGaugePoll (g : BitVec 12) (s : State) : Host.Outcome State Fault Refusal :=
  let cfg := tabGet {} s.dyn.cfg.gauges g.toNat
  let y := s.dyn.safety.gaugeOf g.toNat
  if !cfg.valid || cfg.mooring || y.state ≠ .expired || y.readSince.isSome
      || s.island16 < y.lastPoll + 1000 * us16 || !s.dyn.time.onEdge then .next s
  else .next (s.modGauge g.toNat fun y => { y with readSince := some s.island16, lastPoll := s.island16 })

/-- The valid entry of a berth's page in a shadow. -/
def Shadow.entryAt (c : Shadow) (b : BitVec 6) (va : Nat) : Option XlatEntry :=
  match c.entryNo b va with
  | none => none
  | some n =>
    let e := tabGet {} c.xlat n
    if e.valid ∧ e.owner = b then some e else none

/-- Every Gauge fits the FTTI (R463 check 4). -/
def Shadow.fttiOk (c : Shadow) : Bool :=
  !tabAny (fun _ g => g.valid && c.sounding.fttiMs.toNat * 1000 < g.deadline.toNat + 2000) c.gauges

/-- The stamp line's device physical address, on a mapped, readable normal page of berth memory of the
owner of basin 0x000 (R447, R448). -/
def Shadow.stampAddr (c : Shadow) (va : Nat) : Option Nat :=
  match c.safetyOwner with
  | none => none
  | some b =>
    match c.entryAt b va with
    | none => none
    | some e => if e.target = 0 ∧ e.read ∧ !e.device1 then some (e.addr va) else none

/-- GAUGE_SET (R446, R463). -/
def ruleGaugeSet : ConfigRule := fun s t c =>
  let p := t.cmd.params
  let n := fldN p 0 12
  let g : GaugeCfg := { valid := true, mooring := bitAt p 65, cls := fld p 80 16, deadline := fld p 96 32,
                        stampVa := fld p 128 40, made := s.lock.number.toNat + 1 }
  if !t.fromSupervisor then .refuse 0x00F0 noResult
  else if g.deadline.toNat < 1000 || 10000000 < g.deadline.toNat
      || (if g.mooring then g.cls ≠ 0 || g.stampVa ≠ 0 else g.stampVa.toNat % 64 ≠ 0) then .refuse 0x00F1 noResult
  else if !g.mooring && (c.stampAddr g.stampVa.toNat).isNone then .refuse 0x00F2 noResult
  else
    let pa := if g.mooring then 0 else (c.stampAddr g.stampVa.toNat).getD 0
    let c' := { c with gauges := tabPut {} c.gauges n { g with stampPa := BitVec.ofNat 48 pa } }
    if !c'.fttiOk then .refuse 0x00F3 noResult else .pass c' noResult

/-- GAUGE_CLEAR (R446, R463). -/
def ruleGaugeClear : ConfigRule := fun _ t c =>
  let n := fldN t.cmd.params 0 12
  if !t.fromSupervisor then .refuse 0x00F0 noResult
  else if !(tabGet {} c.gauges n).valid then .refuse 0x00F1 noResult
  else .pass { c with gauges := tabPut {} c.gauges n {} } noResult

/-- GAUGE_SET. -/
def opGaugeSet : OpInfo :=
  { opcode := 0x7001, wellFormed := onlyFields [(0, 12), (65, 1), (80, 16), (96, 32), (128, 40)] }
/-- GAUGE_CLEAR. -/
def opGaugeClear : OpInfo := { opcode := 0x7002, wellFormed := onlyFields [(0, 12)] }
/-- GET_GAUGE. -/
def opGetGauge : OpInfo := { opcode := 0x7003, runTime := true, wellFormed := onlyFields [(0, 12)] }

/-- GAUGE_SET writes a Gauge. -/
def execGaugeSet (c : Cmd) (s : State) : Host.Outcome State Fault Refusal := carry opGaugeSet c (acceptConfig ruleGaugeSet) s

/-- GAUGE_CLEAR frees a Gauge. -/
def execGaugeClear (c : Cmd) (s : State) : Host.Outcome State Fault Refusal := carry opGaugeClear c (acceptConfig ruleGaugeClear) s

/-- The code of a Gauge state. -/
def GaugeRun.code : GaugeRun → Nat
  | .free => 0
  | .watching => 1
  | .expired => 2

/-- The latched Gauge entry (R446). -/
def gaugeRecord (g : GaugeCfg) (y : GaugeDyn) : Result :=
  longResult 64 [(0, 1, b2n g.valid), (1, 1, b2n g.mooring), (2, 2, y.state.code), (16, 16, g.cls.toNat),
    (32, 32, g.deadline.toNat), (64, 40, g.stampVa.toNat), (128, 80, layout80 y.expireAt),
    (208, 80, layout80 y.lastValidity), (288, 16, y.expiries.toNat), (304, 16, y.badStamps.toNat)]

/-- GET_GAUGE returns a Gauge entry latched at the last lock cycle. -/
def execGetGauge (c : Cmd) (s : State) : Host.Outcome State Fault Refusal :=
  carry opGetGauge c (fun t s =>
    let n := fldN c.params 0 12
    answer 0 (gaugeRecord (tabGet {} s.snap.cfg.gauges n) (s.snap.safety.gaugeOf n)) t s) s

/-- What a commit edge does to the Gauges: one set by this cycle starts watching, one cleared is free. -/
def gaugesAtEdge (s : State) : State :=
  let cycle := s.lock.number.toNat
  let fresh := (s.dyn.cfg.gauges.filter fun g => g.2.valid && g.2.made == cycle).foldl
    (fun t g => tabPut {} t g.1
      { state := .watching, expireAt := s.island16 + g.2.deadline.toNat * us16 }) s.dyn.safety.gauges
  let keep := fun (n : Nat) (y : GaugeDyn) => if (tabGet {} s.dyn.cfg.gauges n).valid then y else {}
  s.modSafety fun f => { f with gauges := tabMap {} keep fresh }

/-! Soundings (R450 to R454) -/

/-- Ordering of FP32 numbers by sign and magnitude; both zeros are equal. -/
def fp32Key (x : BitVec 32) : Int := if bitAt x 31 then -(fldN x 0 31 : Int) else fldN x 0 31

/-- An FP32 NaN. -/
def fp32Nan (x : BitVec 32) : Bool := 0x7F800000 < fldN x 0 31

/-- An element lies inside its band, both bounds inclusive; NaN never does (R454). -/
def inBand (x : BitVec 32) (band : BitVec 32 × BitVec 32) : Bool :=
  !fp32Nan x && fp32Key band.1 ≤ fp32Key x && fp32Key x ≤ fp32Key band.2

/-- The first element outside its band, or missing, from index `i`. -/
def firstOutside : Nat → List (BitVec 32) → List (BitVec 32 × BitVec 32) → Option Nat
  | _, [], [] => none
  | i, [], _ :: _ => some i
  | i, _ :: _, [] => some i
  | i, x :: xs, b :: bs => if inBand x b then firstOutside (i + 1) xs bs else some i

/-- The granules that a shard's weights need (R149). -/
def Shard.weightGranules (x : Shard) : Nat := (x.weightBytes.toNat + 0xFFFF) / 0x10000

/-- The granules that the SAFETY shards assigned to a logical tile, and their WORK, hold. -/
def Shadow.safetyGranules (c : Shadow) (tile : Nat) : Nat :=
  (c.models.flatMap fun m => if m.2.valid && m.2.safety then
    (m.2.shards.filter fun x => x.home == tile).map fun x => x.weightGranules + x.work.toNat else []).foldl (· + ·) 0

/-- SOUNDING_SET parameters. -/
def soundingOfParams (p : Params) : SoundingCfg :=
  { group := fld p 0 2, enable := bitAt p 2, fttiMs := fld p 16 16, offset := fld p 32 32, window := fld p 64 32,
    slotWaves := fld p 96 32, resGranules := fld p 128 8, count := fld p 304 5,
    models := (upFrom 0 16).map fun n => fld p (144 + 10 * n) 10 }

/-- The handles that SOUNDING_SET lists. -/
def SoundingCfg.listed (x : SoundingCfg) : List (BitVec 10) := x.models.take x.count.toNat

/-- R452 and the ranges of R451. -/
def soundingOk (c : Shadow) (x : SoundingCfg) : Bool :=
  let g := tabGet {} c.groups x.group.toNat
  match c.safetyOwner with
  | none => false
  | some b =>
    100 ≤ x.fttiMs.toNat && x.fttiMs.toNat ≤ 10000 && x.offset.toNat < g.period.toNat
    && 100 ≤ x.window.toNat && x.window.toNat ≤ g.period.toNat && 1 ≤ x.count.toNat && x.count.toNat ≤ 16
    && g.enable
    && x.window.toNat * 820 + x.slotWaves.toNat ≤ g.period.toNat * 820
    && (x.listed.all fun h =>
      let m := tabGet {} c.models (b.toNat * 1024 + h.toNat)
      m.valid && m.safety &&
      (match m.calibration with
       | none => false
       | some k => k.calWaves ≤ x.slotWaves.toNat)
      && m.shards.all (fun sh => sh.weightGranules + sh.work.toNat ≤ x.resGranules.toNat))
    && ((c.tilesUnder 0).all fun n => c.safetyGranules n + x.resGranules.toNat ≤ 256)

/-- SOUNDING_SET (R451, R452, R463). -/
def ruleSoundingSet : ConfigRule := fun _ t c =>
  let x := soundingOfParams t.cmd.params
  let c' := { c with sounding := x }
  if !t.fromSupervisor then .refuse 0x00F0 noResult
  else if !soundingOk c x then .refuse 0x00F4 noResult
  else if !c'.fttiOk then .refuse 0x00F3 noResult
  else .pass c' noResult

/-- SOUNDING_SET. -/
def opSoundingSet : OpInfo :=
  { opcode := 0x7010, wellFormed := onlyFields [(0, 3), (16, 120), (144, 165)] }

/-- SOUNDING_SET configures the soundings. -/
def execSoundingSet (c : Cmd) (s : State) : Host.Outcome State Fault Refusal :=
  carry opSoundingSet c (acceptConfig ruleSoundingSet) s

/-- V(i) of a fusion group, in units of 2^-16 ns: PHASE + i × PERIOD on the working clock (R349). -/
def GroupCfg.validity (g : GroupCfg) (i : Nat) : Nat := (g.phase.toNat + i * g.period.toNat) * us16

/-- R(i): the release of the sounding of instant i (R453). -/
def Shadow.soundingRelease (c : Shadow) (i : Nat) : Nat :=
  (tabGet {} c.groups c.sounding.group.toNat).validity i + c.sounding.offset.toNat * us16

/-- The tile and model of instant i's sounding (R453). -/
def Shadow.soundingPick (c : Shadow) (i : Nat) : Option (Nat × BitVec 10) :=
  let ts := c.tilesUnder 0
  if ts.isEmpty || c.sounding.count = 0 then none
  else some (ts.getD (i % ts.length) 0, c.sounding.models.getD (i / ts.length % c.sounding.count.toNat) 0)

/-- Start the job of a sounding on a tile: it ranks above every safety job and binds the copied input. -/
def startSounding (i : Nat) (tile : Nat) (h : BitVec 10) (release : Nat) (rerun : Bool) (s : State) : State :=
  let b := (s.dyn.cfg.safetyOwner).getD 0
  let m := tabGet {} s.dyn.cfg.models (b.toNat * 1024 + h.toNat)
  let n := s.dyn.work.nextJob
  let job : Job := { kind := .sounding, ticket := { opcode := 0, cmd := { path := .supervisor }, gen := 0 }, berth := b,
                     gen := (s.dyn.cfg.berth b).gen, queue := none, basin := 0, handle := h, model := m,
                     shards := [{ shard := 0, tile := tile }], tiles := [tile], since := s.now16 }
  let s := s.modWork fun w => { w with jobs := tabPut none w.jobs n (some job), nextJob := n + 1 }
  s.modSafety fun f => { f with soundingLast := some i,
                                sounding := some { instant := i, handle := h, tile := tile, release := release,
                                                   rerun := rerun, job := n } }

/-- A sounding that was missed (R454): counted, the job stopped, SOUNDING_MISSED raised. -/
def missSounding (r : SoundingRun) (s : State) : State :=
  let s := releaseJob r.job s
  raiseDoubt 2 (s.modSafety fun f => { f with missed := satInc f.missed, sounding := none })

/-- SOUNDING_RELEASE (R453, R454): at R(i) a sounding still running is stopped as missed, and the sounding
of instant i is released. Not due, already released or not enabled: no effect. -/
def execSoundingRelease (instant : Nat) (s : State) : Host.Outcome State Fault Refusal :=
  let c := s.dyn.cfg
  let late := match s.dyn.safety.soundingLast with
    | some l => l < instant
    | none => true
  if !c.sounding.enable || s.now16 < c.soundingRelease instant || !late then .next s
  else
    let s := match s.dyn.safety.sounding with
      | some r => missSounding r s
      | none => s
    match c.soundingPick instant with
    | none => .next s
    | some (t, h) => .next (startSounding instant t h (c.soundingRelease instant) false s)

/-- SOUNDING_WINDOW_END (R454): a sounding that has not started by R(i) + WINDOW is not run. The re-run after a mismatch
runs at once and has no window. -/
def execSoundingWindowEnd (s : State) : Host.Outcome State Fault Refusal :=
  match s.dyn.safety.sounding with
  | none => .next s
  | some r =>
    if r.started || r.rerun || s.now16 < r.release + s.dyn.cfg.sounding.window.toNat * us16 then .next s
    else .next (missSounding r s)

/-- The next tile of the rotation after tile `t`. -/
def Shadow.nextSoundingTile (c : Shadow) (t : Nat) : Nat :=
  let ts := c.tilesUnder 0
  match ts.findIdx? (· == t) with
  | some i => ts.getD ((i + 1) % ts.length) t
  | none => ts.headD t

/-- A sounding passed: counted, SOUNDING_MISSED clears, and the mismatches it answers are marked. -/
def passSounding (r : SoundingRun) (p : Nat) (s : State) : State :=
  settle (s.modSafety fun f =>
    { f with passed := satInc f.passed, sounding := none,
             sources := f.sources &&& ~~~(4 : BitVec 10),
             mismatches := f.mismatches.map fun m =>
               { m with otherPassed := m.otherPassed || (m.handle == r.handle && m.tile != p),
                        tilePassed := m.tilePassed || m.tile == p } })

/-- A sounding failed (R454): recorded, SOUNDING_MISMATCH, a failure of the tile, and a re-run at once on
the next tile of the rotation. -/
def failSounding (r : SoundingRun) (p element : Nat) (s : State) : State :=
  let s := s.modSafety fun f =>
    { f with mismatched := satInc f.mismatched, lastModel := r.handle, lastTile := BitVec.ofNat 6 r.tile,
             lastElement := BitVec.ofNat 32 element, sounding := none,
             mismatches := f.mismatches ++ [{ handle := r.handle, tile := p }] }
  let s := tileFailure p { source := 7 } (raiseDoubt 1 s)
  startSounding r.instant (s.dyn.cfg.nextSoundingTile r.tile) r.handle r.release true s

/-- SOUNDING_COMPLETE (R454): the band comparator checks every output element; a fault of the job is a
mismatch. Without a started sounding: no effect. -/
def execSoundingComplete (outputs : List (BitVec 32)) (fault : Bool) (s : State) : Host.Outcome State Fault Refusal :=
  match s.dyn.safety.sounding with
  | none => .next s
  | some r =>
    if !r.started then .next s
    else
      let p := (s.dyn.cfg.physOf r.tile).getD 0
      let b := (s.dyn.cfg.safetyOwner).getD 0
      let m := tabGet {} s.dyn.cfg.models (b.toNat * 1024 + r.handle.toNat)
      let bands := match m.calibration with
        | some k => k.bands
        | none => []
      let gone := (s.job r.job).isNone
      let s := releaseJob r.job s
      let lost := s.dyn.errors.lostBands.contains (b.toNat * 1024 + r.handle.toNat)
      if fault || gone || lost then .next (failSounding r p 0 s)
      else
        match firstOutside 0 outputs bands with
        | some i => .next (failSounding r p i s)
        | none => .next (passSounding r p s)

/-! Drizzle (R455 to R458) -/

/-- The slice D of a checker or measurement, in units of 2^-16 ns. -/
def sliceTime (checker : Nat) (req : Option DrizzleReq) : Nat :=
  match req with
  | some (.measure _ _) => 50 * us16
  | _ => if checker < 4 then 2 * us16 else us16

/-- The checker of a request; a measurement tests none. -/
def DrizzleReq.checker : DrizzleReq → Nat
  | .selfTest _ c => c
  | .measure _ _ => 116
  | .tileTest c => c

/-- The least recently passed checker that is not Off, lowest index on a tie. -/
def oldestChecker (d : Dyn) : Nat := (minBy d.safety.lastPass d.cfg.checkersOn).getD 0

/-- The first time at or after `t` in the sequence base + i × period, if the period is not 0. -/
def nextInSequence (base period t : Nat) : Nat :=
  if t ≤ base then base else base + (t - base + period - 1) / period * period

/-- The next safety releases at or after `t` (R457): the sounding's, and the closes of the groups whose
Level 0 cut feeds the endpoint of a basin in the safety basin. -/
def safetyReleases (c : Shadow) (t : Nat) : List Nat :=
  let seq := fun (g : GroupCfg) (off : Nat) =>
    if g.period = 0 then [] else [nextInSequence ((g.phase.toNat + off) * us16) (g.period.toNat * us16) t]
  let sg := tabGet {} c.groups c.sounding.group.toNat
  (if c.sounding.enable then seq sg c.sounding.offset.toNat else [])
  ++ (upFrom 0 4).flatMap fun n =>
    let g := tabGet {} c.groups n
    match c.cutOf 4 n with
    | some e => if g.enable && c.safetyQueue e.destQueue.toNat then seq g g.close.toNat else []
    | none => []

/-- Freed places go to waiting tile requests in the order they arose (R475). -/
def refillRequests (f : Safety) : Safety :=
  let n := 16 - f.requests.length
  { f with requests := f.requests ++ (f.tileWaiting.take n).map .tileTest, tileWaiting := f.tileWaiting.drop n }

/-- Raise DRIZZLE_LAPSE when some checker not Off has gone more than 64 ms (R457). -/
def lapseCheck (t : Nat) (s : State) : State :=
  if !s.inService && s.dyn.cfg.checkersOn.any (fun i => s.dyn.safety.lastPass i + lapse16 < t) then raiseDoubt 5 s
  else s

/-- DRIZZLE_SLOT (R457), at each multiple of 250 us: the oldest request or the oldest checker runs its
slice, unless a safety release is near; then lapses are judged. No slot since the last: no effect. -/
def execDrizzleSlot (s : State) : Host.Outcome State Fault Refusal :=
  let t := s.now16 / (250 * us16) * (250 * us16)
  if t ≤ s.dyn.safety.lastSlot || !s.dyn.bring.ready then .next s
  else
    let f := s.dyn.safety
    let req := f.requests.head?
    let c := match req with
      | some r => r.checker
      | none => oldestChecker s.dyn
    let near := (safetyReleases s.dyn.cfg t).any fun r => r < t + sliceTime c req + 20 * us16
    let s := s.modSafety fun f => { f with lastSlot := t }
    let s := if near then s.modSafety fun f => { f with deferrals := satInc f.deferrals }
      else if f.slice.isSome then s
      else s.modSafety fun f => refillRequests
        { f with slice := some { checker := c, req := req, at16 := t }, requests := f.requests.drop 1 }
    .next (lapseCheck t s)

/-- A checker failed its test (R455, R458): the index is kept, an error record is written for a checker of
the fabric, the lapse is raised unless the checker is a performance tile's, and a tile's checker counts
as a failure of the tile. -/
def checkerFails (i : Nat) (s : State) : State :=
  let s := s.modSafety fun f =>
    { f with failedIndex := BitVec.ofNat 7 i, checkers := tabMod {} f.checkers i fun y => { y with failed := true } }
  let p := (i - 44) % 36
  let s := if i < 8 then s else
    addError { kind := 0xC, source := 7, unit := BitVec.ofNat 6 (if i < 44 then i - 8 else p) } s
  if i < 44 then raiseDoubt 5 s
  else
    let safety := match s.dyn.cfg.logicalOf p with
      | some t => s.dyn.cfg.safetyTile t
      | none => false
    tileFailure p { source := 7 } (if safety then raiseDoubt 5 s else s)

/-- A checker passed its test at time `t`. -/
def checkerPasses (i t : Nat) (s : State) : State :=
  s.modSafety fun f =>
    { f with checkers := tabMod {} f.checkers i fun y => { y with lastPass := t, failed := false } }

/-- A SELF_TEST, unlike a drizzle slice, decides whether its checker is fit (R501 check 3). -/
def noteFitness (x : Slice) (failed : Bool) (s : State) : State :=
  match x.req with
  | some (.selfTest _ _) =>
    s.modSafety fun f =>
      { f with checkers := tabMod {} f.checkers x.checker fun y => { y with unfit := failed } }
  | _ => s

/-- The record of a finished self-test (R458). -/
def selfTestRecord (t : Ticket) (bad : Option Nat) (s : State) : State :=
  match bad with
  | none => writeRecord t 0 noResult s
  | some i => writeRecord t 0x00F9 (shortResult [(0, 8, i)]) s

/-- A self-test of the service state begins: one checker, or all that are not Off (R458). -/
def beginSelfTest (t : Ticket) (target : Nat) (s : State) : State :=
  let all := s.dyn.cfg.checkersOn
  let x : Slice := { checker := if target = 0xFF then all.headD 0 else target, req := some (.selfTest t target), at16 := s.now16,
                     rest := if target = 0xFF then all.drop 1 else [] }
  s.modSafety fun f => { f with slice := some x }

/-- The self-test that waited for the slice in progress begins. -/
def nextSelfTest (s : State) : State :=
  match s.dyn.safety.serviceTests with
  | [] => s
  | x :: rest => beginSelfTest x.1 x.2 (s.modSafety fun f => { f with serviceTests := rest })

/-- What remains of a slice once its checker has been tested: the next checker of a test of all, or the
record of its request. -/
def finishSlice (x : Slice) (bad : Option Nat) (s : State) : State :=
  match x.rest with
  | c :: rest => s.modSafety fun f => { f with slice := some { x with checker := c, rest := rest, bad := bad } }
  | [] =>
    let s := s.modSafety fun f => { f with slice := none }
    match x.req with
    | some (.selfTest t _) => nextSelfTest (selfTestRecord t bad s)
    | some (.measure t p) => nextSelfTest (measurePort t p s)
    | _ => nextSelfTest s

/-- DRIZZLE_SLICE_END (R457, R458): the slice in progress ends, passed or failed. -/
def execDrizzleSliceEnd (failed : Bool) (s : State) : Host.Outcome State Fault Refusal :=
  match s.dyn.safety.slice with
  | none => .next s
  | some x =>
    if x.checker = 116 then .next (finishSlice x none s)
    else if failed then
      .next (finishSlice x (some (x.bad.getD x.checker)) (noteFitness x true (checkerFails x.checker s)))
    else .next (settle (finishSlice x x.bad (noteFitness x false (checkerPasses x.checker x.at16 s))))

/-- SELF_TEST; TARGET 116 to 0xFE are reserved. -/
def opSelfTest : OpInfo :=
  { opcode := 0x7030, runTime := true,
    wellFormed := fun p => onlyFields [(0, 8)] p && (fldN p 0 8 < 116 || fldN p 0 8 = 0xFF) }

/-- SELF_TEST (R458): in the service state it runs at once, else it joins the drizzle requests. -/
def actSelfTest (t : Ticket) (s : State) : State :=
  let c := fldN t.cmd.params 0 8
  if !t.fromSupervisor then writeRecord t 0x00F0 noResult s
  else if c = 0xFF && !s.inService then writeRecord t 0x0053 noResult s
  else if s.inService then
    if s.dyn.safety.slice.isNone then beginSelfTest t c s
    else s.modSafety fun f => { f with serviceTests := f.serviceTests ++ [(t, c)] }
  else if s.dyn.safety.roomForRequest then s.modSafety fun f => { f with requests := f.requests ++ [.selfTest t c] }
  else writeRecord t 0x00F8 noResult s

/-- SELF_TEST tests a checker. -/
def execSelfTest (c : Cmd) (s : State) : Host.Outcome State Fault Refusal := carry opSelfTest c actSelfTest s

/-! The mooring plan (R459 to R461) -/

/-- One plan entry from its 128 bytes. -/
def planEntryOf (bs : List Byte) : PlanEntry :=
  let v : BitVec 128 := BitVec.ofNat 128 (ofBytes (bs.take 16))
  { tOffset := fld v 0 32, channel := fld v 32 2, final := bitAt v 34, stream := fld v 35 5, length := fld v 40 8,
    repeatMs := fld v 48 16, frame := (bs.drop 16).take 112 }

/-- The entries of a plan body. -/
def planEntries : Nat → List Byte → List PlanEntry
  | 0, _ => []
  | n + 1, bs => planEntryOf (bs.take 128) :: planEntries n (bs.drop 128)

/-- Check 2 of R460 on the header. -/
def planHeaderOk (h : BitVec 512) : Bool :=
  fldN h 0 4 == 1 && fldN h 4 12 == 0 && 1 ≤ fldN h 16 13 && fldN h 16 13 ≤ 4096 && fldN h 29 3 == 0
  && 1 ≤ fldN h 32 32 && fldN h 32 32 ≤ 10000000 && fldN h 144 336 == 0

/-- The reserved bits of every entry are zero. -/
def planReservedOk : Nat → List Byte → Bool
  | 0, _ => true
  | n + 1, bs => (bs.drop 8).take 8 == List.replicate 8 0 && planReservedOk n (bs.drop 128)

/-- T_OFFSET never falls. -/
def offsetsRise : List PlanEntry → Bool
  | a :: b :: t => a.tOffset.toNat ≤ b.tOffset.toNat && offsetsRise (b :: t)
  | _ => true

/-- FINAL exactly once per stream, on its last entry. -/
def finalsOk : List PlanEntry → Bool
  | [] => true
  | e :: t => (e.final == !t.any fun x => x.channel == e.channel && x.stream == e.stream) && finalsOk t

/-- Check 5 of R460 on the entries. -/
def planEntriesOk (horizon : Nat) (es : List PlanEntry) : Bool :=
  offsetsRise es && finalsOk es && es.all fun e =>
    e.tOffset.toNat ≤ horizon && 1 ≤ e.length.toNat && e.length.toNat ≤ (if e.channel.toNat < 2 then 68 else 112)
    && (if e.final then 1 ≤ e.repeatMs.toNat && e.repeatMs.toNat ≤ 1000 else e.repeatMs == 0)

/-- Checks 2 to 6 of R460 on the bytes of a plan, at island time `now`. -/
def judgePlan (bs : List Byte) (newest : Option Nat) (now : Nat) : Except Nat Plan :=
  let h : BitVec 512 := BitVec.ofNat 512 (ofBytes (bs.take 64))
  let n := fldN h 16 13
  let body := bs.drop 64
  let v := ofLayout80 (fldN h 64 80)
  let es := planEntries n body
  if !planHeaderOk h || !planReservedOk n body then .error 0x00F6
  else if fld h 480 32 ≠ crc32 (bs.take 60 ++ body) then .error 0x00F6
  else if now < v || (match newest with
      | some m => v ≤ m
      | none => false) then .error 0x00F7
  else if !planEntriesOk (fldN h 32 32) es then .error 0x00F6
  else if v + fldN h 32 32 * us16 ≤ now then .error 0x00F7
  else .ok { horizon := fld h 32 32, validity := v, entries := es }

/-- What an accepted plan does to a KIND 1 Gauge (R449). -/
def mooringGauge (s : State) (v : Nat) (g : Nat) (y : GaugeDyn) : GaugeDyn :=
  let cfg := tabGet {} s.dyn.cfg.gauges g
  let e := v + cfg.deadline.toNat * us16
  if !cfg.valid || !cfg.mooring then y
  else if y.state = .watching then { y with expireAt := max y.expireAt e, lastValidity := max y.lastValidity v }
  else if y.state = .expired && s.island16 < e then { y with state := .watching, expireAt := e, lastValidity := max y.lastValidity v }
  else y

/-- A plan that passes every check becomes active, or is staged while the latch is set (R460). -/
def storePlan (p : Plan) (s : State) : State :=
  let gauges := tabMap {} (mooringGauge s p.validity) s.dyn.safety.gauges
  settle (s.modSafety fun f =>
    if f.latch then { f with newestPlan := some p.validity, stagedPlan := some p, stagedSince := true, gauges := gauges }
    else { f with newestPlan := some p.validity, activePlan := some p, gauges := gauges })

/-- The pages of a plan are mapped, readable, normal and in local DRAM, and the island reads them through its
port line by line; none: a read returned an error token or a page is not mapped. -/
def readPlan (b : BitVec 6) : List (Nat × Nat) → State → State × Option (List Byte)
  | [], s => (s, some [])
  | (va, len) :: t, s =>
    match s.lookup b va with
    | none => (s, none)
    | some e =>
      if !e.read || e.device1 || e.target ≠ 0 || !s.fabricUp then (s, none) else
      match readDram { source := 4, safety := true, channel := true } (e.addr va) len (awaken (columnOf (e.addr va)) s) with
      | (s, none) => (s, none)
      | (s, some d) =>
        match readPlan b t s with
        | (s, none) => (s, none)
        | (s, some r) => (s, some (d ++ r))

/-- MOORING_STORE (R460): accepted only from the endpoint queue of a basin in the safety basin. -/
def actMooringStore (t : Ticket) (s : State) : State :=
  let va := fldN t.cmd.params 0 40
  let b := t.cmd.berth
  let fromSafety := match t.cmd.path with
    | .queue q => s.dyn.cfg.safetyQueue q.toNat
    | _ => false
  if !fromSafety then writeRecord t 0x00F0 noResult s
  else if va % 64 ≠ 0 then writeRecord t 0x00F6 noResult s
  else
    match readPlan b [(va, 64)] s with
    | (s, none) => writeRecord t 0x00F6 noResult s
    | (s, some head) =>
      let n := fldN (BitVec.ofNat 512 (ofBytes head)) 16 13
      if n = 0 ∨ 4096 < n then writeRecord t 0x00F6 noResult s
      else
        match readPlan b (pageParts 16 (va + 64) (128 * n)) s with
        | (s, none) => writeRecord t 0x00F6 noResult s
        | (s, some body) =>
          match judgePlan (head ++ body) s.dyn.safety.newestPlan s.island16 with
          | .error st => writeRecord t st noResult s
          | .ok p => writeRecord t 0 noResult (storePlan p s)

/-- MOORING_STORE. -/
def opMooringStore : OpInfo := { opcode := 0x7020, needsBerth := true, wellFormed := onlyFields [(0, 40)] }

/-- MOORING_STORE checks and stores a mooring plan. -/
def execMooringStore (c : Cmd) (s : State) : Host.Outcome State Fault Refusal := carry opMooringStore c actMooringStore s

/-- A pair of the island. -/
def Island.pair (i : Island) (p : Fin 2) : PairDyn := if p = 0 then i.pair0 else i.pair1

/-- A healthy pair holds PLAYOUT (R461). -/
def State.canPlay (s : State) : Bool :=
  s.dyn.island.operational && (s.dyn.island.pair s.dyn.island.rolePlayout).state == .healthy && !s.dyn.island.takeover

/-- A plan entry's frame leaves its channel (R461). -/
def sendEntry (e : PlanEntry) (s : State) : State :=
  s.modIsland fun i => { i with sent := { channel := e.channel, stream := e.stream,
                                          frame := e.frame.take e.length.toNat, time := s.island16 } :: i.sent }

/-- The time of a plan entry. -/
def Plan.at (p : Plan) (e : PlanEntry) : Nat := p.validity + e.tOffset.toNat * us16

/-- Entry `i` is the latest of its stream at or before time `t`. -/
def Plan.latest (p : Plan) (t i : Nat) : Bool :=
  match p.entries[i]? with
  | none => false
  | some e => p.at e ≤ t && !((p.entries.drop (i + 1)).any fun x =>
      x.channel == e.channel && x.stream == e.stream && p.at x ≤ t)

/-- Send entry `i` of the plan and remember it; a FINAL entry starts its stream's repeats. -/
def playEntry (p : Plan) (i : Nat) (s : State) : State :=
  match p.entries[i]? with
  | none => s
  | some e =>
    let s := sendEntry e s
    s.modSafety fun f =>
      { f with playSent := f.playSent ++ [i],
               finals := if e.final then tabPut none f.finals (e.channel.toNat * 32 + e.stream.toNat) (some s.island16)
                         else f.finals }

/-- PLAYOUT_START (R461): the latch is set and playout has not begun; a plan that is absent or past its
horizon sends nothing. -/
def execPlayoutStart (s : State) : Host.Outcome State Fault Refusal :=
  let f := s.dyn.safety
  if !f.latch || f.playing || f.noPlan || !s.canPlay then .next s
  else
    match f.activePlan with
    | none => .next (s.modSafety fun f => { f with noPlan := true })
    | some p =>
      if p.validity + p.horizon.toNat * us16 ≤ f.setAt then .next (s.modSafety fun f => { f with noPlan := true })
      else
        let past := (upFrom 0 p.entries.length).filter fun i =>
          match p.entries[i]? with
          | some e => p.at e ≤ f.setAt
          | none => false
        let s := s.modSafety fun f =>
          { f with playing := true, playPlan := some p, playFrom := f.setAt, finals := [],
                   playSent := past.filter fun i => !p.latest f.setAt i }
        .next ((past.filter fun i => p.latest f.setAt i).foldl (fun s i => playEntry p i s) s)

/-- PLAN_ENTRY_SEND (R461): a later entry is sent at VALIDITY + T_OFFSET. Not due or already sent: no
effect. -/
def execPlanEntrySend (index : Nat) (s : State) : Host.Outcome State Fault Refusal :=
  match s.dyn.safety.playPlan with
  | none => .next s
  | some p =>
    match p.entries[index]? with
    | none => .next s
    | some e =>
      if !s.dyn.safety.playing || !s.canPlay || s.island16 < p.at e || s.dyn.safety.playSent.contains index then .next s
      else .next (playEntry p index s)

/-- FINAL_REPEAT (R461): a stream's FINAL entry again, REPEAT_MS after its last sending. Not due: no
effect. -/
def execFinalRepeat (channel : BitVec 2) (stream : BitVec 5) (s : State) : Host.Outcome State Fault Refusal :=
  let k := channel.toNat * 32 + stream.toNat
  match s.dyn.safety.playPlan, tabGet none s.dyn.safety.finals k with
  | some p, some last =>
    match p.entries.find? (fun e => e.final && e.channel == channel && e.stream == stream) with
    | none => .next s
    | some e =>
      if !s.dyn.safety.playing || !s.canPlay || s.island16 < last + e.repeatMs.toNat * 1000 * us16 then .next s
      else .next ((sendEntry e s).modSafety fun f => { f with finals := tabPut none f.finals k (some s.island16) })
  | _, _ => .next s

/-! The heartbeat and the release (R445, R462) -/

/-- SUPERVISOR_HEARTBEAT. -/
def opHeartbeat : OpInfo := { opcode := 0x7040, runTime := true, wellFormed := onlyFields [(0, 64)] }

/-- SUPERVISOR_HEARTBEAT at the moment the island receives its token (R462). -/
def actHeartbeat (t : Ticket) (s : State) : State :=
  let counter := fld t.cmd.params 0 32
  let timeout := fldN t.cmd.params 32 32
  let f := s.dyn.safety
  let inTurn := match f.hbCounter with
    | none => true
    | some k => counter == k + 1
  if !t.fromSupervisor then writeRecord t 0x00F0 noResult s
  else if timeout < 1000 || s.dyn.cfg.sounding.fttiMs.toNat * 1000 - 2000 < timeout || !inTurn then
    writeRecord t 0x00FA noResult s
  else
    let now := s.island16
    let kept : Bool := match f.hbDeadline with
      | some d => decide (now ≤ d)
      | none => false
    let s := settle (s.modSafety fun f =>
      { f with hbArmed := true, hbCounter := some counter, hbDeadline := some (now + timeout * us16),
               hbInTurn := if kept then f.hbInTurn + 1 else 1 })
    writeRecord t 0 (shortResult [(0, 32, counter.toNat), (32, 1, b2n s.dyn.safety.latch),
      (48, 10, s.dyn.safety.sources.toNat)]) s

/-- SUPERVISOR_HEARTBEAT. -/
def execSupervisorHeartbeat (c : Cmd) (s : State) : Host.Outcome State Fault Refusal := carry opHeartbeat c actHeartbeat s

/-- HEARTBEAT_DEADLINE (R462): the deadline passes and HEARTBEAT_LOSS is raised. Not due: no effect. -/
def execHeartbeatDeadline (s : State) : Host.Outcome State Fault Refusal :=
  match s.dyn.safety.hbDeadline with
  | none => .next s
  | some d =>
    if s.island16 ≤ d then .next s
    else .next (raiseDoubt 8 (s.modSafety fun f => { f with hbDeadline := none, hbInTurn := 0 }))

/-- DOUBT_RELEASE. -/
def opDoubtRelease : OpInfo := { opcode := 0x7041, runTime := true }

/-- UNMET of R445: the sources that are not clear, a heartbeat that is not armed, a missing staged plan. -/
def unmet (f : Safety) : Nat :=
  packFields [(0, 10, f.sources.toNat), (14, 1, b2n !f.hbArmed), (15, 1, b2n !f.stagedSince)]

/-- The island releases the latch (R445): the staged plan becomes active and playout stops. -/
def Safety.release (f : Safety) : Safety :=
  { f with latch := false, activePlan := f.stagedPlan, stagedPlan := none, playing := false, playPlan := none,
           noPlan := false, releases := satInc f.releases }

/-- DOUBT_RELEASE at the moment the island receives its token (R445). -/
def actDoubtRelease (t : Ticket) (s : State) : State :=
  if !t.fromSupervisor then writeRecord t 0x00F0 noResult s
  else
    let s := settle s
    if unmet s.dyn.safety ≠ 0 then writeRecord t 0x00FB (shortResult [(0, 16, unmet s.dyn.safety)]) s
    else
      let s := s.modSafety Safety.release
      writeRecord t 0 noResult (if s.ibiDoubt then requestIbi 0x02 s else s)

/-- DOUBT_RELEASE releases the doubt latch. -/
def execDoubtRelease (c : Cmd) (s : State) : Host.Outcome State Fault Refusal := carry opDoubtRelease c actDoubtRelease s

end Sys2Proof.Machine
end

