-- ==== Sys2Proof/Machine/Gateway.lean ====
section
/-! DEFINITION. The platform block, the gateway's channels and setpoint classes, the harts' KBERTH and
the PCIe root port (R528 to R543). -/

namespace Sys2Proof.Machine

/-! The platform block (R528, R529) -/

/-- Bytes of the block as a number of `w` bits. -/
def blockBits (w : Nat) (p : Tab Byte) (o : Nat) : BitVec w :=
  BitVec.ofNat w (ofBytes ((upFrom o (w / 8)).map (tabGet 0 p)))

/-- VERSION and CHECK of the block are right. -/
def platformOk (p : Tab Byte) : Bool :=
  tabGet 0 p 0 == 1 &&
    blockBits 32 p 4 == crc32 ((upFrom 0 4).map (tabGet 0 p) ++ (upFrom 8 16376).map (tabGet 0 p))

/-- The interrupt target of R532's table. -/
def targetOf (v : BitVec 64) : IntTarget :=
  { valid := bitAt v 0, hart := fld v 1 5, file := fld v 6 4, base := fld v 10 11 }

/-- The channels' entries, gates and classes and the requester ranges of a valid block. -/
def gatewayOf (p : Tab Byte) : Gateway :=
  { valid := true
    channels := (upFrom 0 16).foldl (fun t i =>
      tabPut {} t i { entry := blockBits 256 p (0x300 + 32 * i) }) []
    classes := (upFrom 0 16).foldl (fun t i =>
      tabPut {} t i { entry := blockBits 512 p (0x500 + 64 * i) }) []
    gates := (upFrom 0 512).foldl (fun t i => tabPut 0 t i (blockBits 64 p (0x1000 + 8 * i))) []
    ranges := (upFrom 0 8).map fun i => blockBits 64 p (0x900 + 8 * i) }

/-- What a start takes from the platform block; without a valid block every hart may take every berth and
nothing else exists. -/
def readPlatform (p : Tab Byte) (s : State) : State :=
  if platformOk p then
    let s := s.modGateway fun _ => gatewayOf p
    s.modCores fun _ =>
      { allow := (upFrom 0 24).foldl (fun t i => tabPut 0 t i (blockBits 64 p (0x40 + 8 * i))) []
        targets := (upFrom 0 64).foldl (fun t i => tabPut {} t i (targetOf (blockBits 64 p (0x100 + 8 * i)))) [] }
  else
    let s := s.modGateway fun _ => {}
    s.modCores fun _ => { allow := (upFrom 0 24).map fun h => (h, BitVec.allOnes 64) }

/-! Harts (R530) -/

/-- KBERTH_WRITE: from VS-mode or VU-mode a virtual-instruction exception; a berth outside the hart's
allow mask an illegal-instruction exception; KBERTH is unchanged in both cases. -/
def execKberthWrite (h : Fin 24) (value : BitVec 64) (virtualMode : Bool) (s : State) :
    Host.Outcome State Fault Refusal :=
  let b := fld value 0 6
  if virtualMode then .next (s.modCores fun c => { c with traps := tabPut 0 c.traps h 1 })
  else if !bitAt (tabGet 0 s.dyn.cores.allow h) b.toNat then
    .next (s.modCores fun c => { c with traps := tabPut 0 c.traps h 2 })
  else .next (s.modCores fun c => { c with kberth := tabPut 0 c.kberth h b, traps := tabPut 0 c.traps h 0 })

/-! Channel entries and gates (R534, R535) -/

def Channel.valid (c : Channel) : Bool := bitAt c.entry 0
def Channel.owner (c : Channel) : BitVec 6 := fld c.entry 1 6
def Channel.txSlots (c : Channel) : Nat := 2 ^ fldN c.entry 40 4
def Channel.rxSlots (c : Channel) : Nat := 2 ^ fldN c.entry 44 4
def Channel.txVa (c : Channel) : Nat := fldN c.entry 64 40
def Channel.rxVa (c : Channel) : Nat := fldN c.entry 128 40
def Channel.statusVa (c : Channel) : Nat := fldN c.entry 192 40
def Channel.gclLen (c : Channel) : Nat := fldN c.entry 48 7

/-- A channel. -/
def State.channel (s : State) (ch : Nat) : Channel := tabGet {} s.dyn.gateway.channels ch

/-- Update a channel. -/
def State.modChannel (ch : Nat) (f : Channel → Channel) (s : State) : State :=
  s.modGateway fun g => { g with channels := tabMod {} g.channels ch f }

/-- The channel cannot send: one that is not enabled (R529, R534), a MAC whose link is down, a CAN channel
that is bus-off (R540). -/
def Channel.dead (c : Channel) (ch : Nat) : Bool := !c.valid || if ch < 8 then c.busOff else !c.linkUp

/-- The gate list entry whose interval holds position `pos` of the cycle, with the entries listed. -/
def gateAt : List (BitVec 64) → Nat → Option (BitVec 64)
  | [], _ => none
  | e :: t, pos => if pos < fldN e 8 32 then some e else gateAt t (pos - fldN e 8 32)

/-- The gate of traffic class `tc` of a MAC is open at a working-clock time in ns (R535). -/
def State.gateOpen (s : State) (ch tc ns : Nat) : Bool :=
  let n := (s.channel ch).gclLen
  if ch < 8 || n = 0 then true
  else
    let es := (upFrom ((ch - 8) * 64) n).map (tabGet 0 s.dyn.gateway.gates)
    let cycle := (es.map fun e => fldN e 8 32).foldl (· + ·) 0
    if cycle = 0 then true
    else match gateAt es (ns % cycle) with
      | some e => bitAt e tc
      | none => true

/-! Setpoint classes (R536 to R540) -/

def SetpointClass.valid (c : SetpointClass) : Bool := bitAt c.entry 0
def SetpointClass.channel (c : SetpointClass) : Nat := fldN c.entry 1 4
def SetpointClass.insert (c : SetpointClass) : Bool := bitAt c.entry 5
def SetpointClass.berth (c : SetpointClass) : BitVec 6 := fld c.entry 16 6
def SetpointClass.period (c : SetpointClass) : Nat := fldN c.entry 32 32
def SetpointClass.phase (c : SetpointClass) : Nat := fldN c.entry 64 32
def SetpointClass.ageMax (c : SetpointClass) : Nat := fldN c.entry 96 32
def SetpointClass.selVa (c : SetpointClass) : Nat := fldN c.entry 128 40
def SetpointClass.statusVa (c : SetpointClass) : Nat := fldN c.entry 384 40

/-- A setpoint class. -/
def State.spClass (s : State) (k : Nat) : SetpointClass := tabGet {} s.dyn.gateway.classes k

/-- Update a setpoint class. -/
def State.modClass (k : Nat) (f : SetpointClass → SetpointClass) (s : State) : State :=
  s.modGateway fun g => { g with classes := tabMod {} g.classes k f }

/-- The frame matches the MATCH of the class under MASK: bytes 0 to 7 (R539). -/
def SetpointClass.matches (c : SetpointClass) (frame : List Byte) : Bool :=
  let v : BitVec 64 := BitVec.ofNat 64 (ofBytes (takeBytes 8 frame))
  (v &&& fld c.entry 320 64) == (fld c.entry 256 64 &&& fld c.entry 320 64)

/-- A ring frame on a channel matches some valid class of the channel. -/
def State.isSetpoint (s : State) (ch : Nat) (frame : List Byte) : Bool :=
  (upFrom 0 16).any fun k =>
    let c := s.spClass k
    c.valid && c.channel == ch && c.matches frame

/-- Replace byte `i` of a frame. -/
def putByte (frame : List Byte) (i : Nat) (b : Byte) : List Byte := listSet frame i b

/-- The entry with the greatest VALIDITY + T_OFFSET not after slot `slot` (in us after time `v` in units of
2^-16 ns); of equals the later. -/
def pickEntry (v slot : Nat) : List PlanEntry → Option PlanEntry → Option PlanEntry
  | [], best => best
  | e :: t, best =>
    if slot < v + e.tOffset.toNat * us16 then pickEntry v slot t best
    else pickEntry v slot t (match best with
      | some b => if e.tOffset.toNat < b.tOffset.toNat then some b else some e
      | none => some e)

/-- The frame of an entry, with AGE and COUNT written in when the class inserts them. -/
def SetpointClass.frameOf (c : SetpointClass) (e : PlanEntry) (ageUs : Nat) : List Byte :=
  let f := e.frame.take e.length.toNat
  if c.insert then
    let age := min (ageUs / 100) 0xFFFF
    let o := fldN c.entry 192 8
    let f := putByte (putByte f o (BitVec.ofNat 8 age)) (o + 1) (BitVec.ofNat 8 (age / 256))
    putByte f (fldN c.entry 200 8) (c.count + 1)
  else f

/-- What the read point finds. -/
inductive PointVerdict where
  | fault
  | stale
  | noPoint
  | frame (e : PlanEntry) (ageUs : Nat)
  deriving DecidableEq, Repr

/-- Judge the selector, header and entries read at a read point, for slot `slot` in units of 2^-16 ns. -/
def judgePoint (c : SetpointClass) (slot : Nat) (head : List Byte) (es : List PlanEntry) : PointVerdict :=
  let h : BitVec 512 := BitVec.ofNat 512 (ofBytes head)
  let v := ofLayout80 (fldN h 64 80)
  if fld h 480 32 ≠ crc32 (head.take 60) || slot < v then .fault
  else if c.ageMax * us16 < slot - v then .stale
  else match pickEntry v slot es none with
    | none => .noPoint
    | some e => .frame e ((slot - v) / us16)

/-- Read the selector, the header and the entries for a class; none: a read faulted or CHECK is wrong. -/
def readTrajectory (c : SetpointClass) (s : State) : State × Option (List Byte × List PlanEntry) :=
  match readVirt (edgeSrc s .gateway c.berth) c.berth c.selVa 64 s with
  | (s, .ok sel) =>
    let v : BitVec 512 := BitVec.ofNat 512 (ofBytes sel)
    if fld v 480 32 ≠ crc32 (sel.take 60) then (s, none) else
    match readVirt (edgeSrc s .gateway c.berth) c.berth (fldN v 0 40) 64 s with
    | (s, .ok head) =>
      let n := fldN (BitVec.ofNat 512 (ofBytes head)) 16 13
      match readVirt (edgeSrc s .gateway c.berth) c.berth (fldN v 0 40 + 64) (128 * n) s with
      | (s, .ok body) => (s, some (head, planEntries n body))
      | (s, _) => (s, none)
    | (s, _) => (s, none)
  | (s, _) => (s, none)

/-- SETPOINT_READ_POINT (R537): 200 us before a slot. Not due, or read already: no effect. -/
def execSetpointReadPoint (cls : Fin 16) (s : State) : Host.Outcome State Fault Refusal :=
  let c := s.spClass cls
  let slot := s.nowUs + 200
  if !s.fabricUp || !c.valid || c.period = 0 || slot % c.period ≠ c.phase || c.readFor = some slot then .next s
  else
    let s := s.modClass cls fun c => { c with readFor := some slot, built := none }
    match readTrajectory c s with
    | (s, none) => .next (s.modClass cls fun c => { c with faults := satInc c.faults })
    | (s, some (head, es)) =>
      match judgePoint c (slot * us16) head es with
      | .fault => .next (s.modClass cls fun c => { c with faults := satInc c.faults })
      | .stale => .next (s.modClass cls fun c => { c with stale := satInc c.stale })
      | .noPoint => .next (s.modClass cls fun c => { c with noPoint := satInc c.noPoint })
      | .frame e age =>
        .next (s.modClass cls fun c =>
          { c with built := some (c.frameOf e age, age), count := if c.insert then c.count + 1 else c.count })

/-- The setpoint gate is closed: the latch is set, or the island has no power (R443, R549). -/
def State.gateClosed (s : State) : Bool := s.dyn.safety.latch || !s.dyn.island.powered

/-- SETPOINT_SLOT (R537, R540): the frame built for this slot leaves, or is discarded. Not due: no effect. -/
def execSetpointSlot (cls : Fin 16) (s : State) : Host.Outcome State Fault Refusal :=
  let c := s.spClass cls
  match c.built with
  | none => .next s
  | some (frame, age) =>
    if !s.fabricUp || !c.valid || c.readFor ≠ some s.nowUs then .next s
    else
      let s := s.modClass cls fun c => { c with built := none }
      if s.gateClosed then .next (s.modClass cls fun c => { c with gated := satInc c.gated })
      else if (s.channel c.channel).dead c.channel then
        .next (s.modClass cls fun c => { c with faults := satInc c.faults })
      else
        let s := s.modGateway fun g => { g with sent := (c.channel, frame, s.now16) :: g.sent }
        .next (s.modClass cls fun c =>
          { c with sent := satInc c.sent, lastAge := BitVec.ofNat 32 age, lastPin := s.now16 })

/-! Rings (R535, R539, R540) -/

/-- The descriptor written back: OWN clear, RESULT and STAMP set. -/
def doneDescriptor (d : BitVec 512) (result stamp : Nat) : BitVec 512 :=
  let keep := d &&& ~~~ (BitVec.ofNat 512 (packFields [(0, 4, 0xF), (128, 80, 2 ^ 80 - 1)]))
  keep ||| BitVec.ofNat 512 (packFields [(1, 3, result), (128, 80, stamp)])

/-- Write a descriptor back to a ring. -/
def putDescriptor (ch va : Nat) (d : BitVec 512) (s : State) : State :=
  let c := s.channel ch
  (writeVirt (edgeSrc s .gateway c.owner) c.owner va (bytesOf 64 d.toNat) s).1

/-- Finish a transmit descriptor without sending: RESULT is written, the ring moves on, the count of the
reason rises. -/
def refuseDescriptor (ch va : Nat) (d : BitVec 512) (result : Nat) (s : State) : State :=
  let s := putDescriptor ch va (doneDescriptor d result (layout80 s.now16)) s
  s.modChannel ch fun c =>
    { c with txCons := (c.txCons + 1) % 4096,
             refused := if result = 1 then satInc c.refused else c.refused,
             notSent := if result = 4 then satInc c.notSent else c.notSent }

/-- Take transmit descriptors in ring order until one starts on the bus, one is not owned, its gate is
shut, or the ring is empty; `fuel` bounds the descriptors of one poll. -/
def pollRing (ch prod : Nat) : Nat → State → State
  | 0, s => s
  | fuel + 1, s =>
    let c := s.channel ch
    if c.txCons = prod ∨ c.sending.isSome then s else
    let va := c.txVa + 64 * (c.txCons % c.txSlots)
    match readVirt (edgeSrc s .gateway c.owner) c.owner va 64 s with
    | (s, .ok bs) =>
      let d : BitVec 512 := BitVec.ofNat 512 (ofBytes bs)
      let len := fldN d 16 16
      if !bitAt d 0 then s
      else if len = 0 ∨ 2058 < len then pollRing ch prod fuel (refuseDescriptor ch va d 3 s)
      else
        match readVirt (edgeSrc s .gateway c.owner) c.owner (fldN d 64 40) len s with
        | (s, .ok frame) =>
          if s.isSetpoint ch frame then pollRing ch prod fuel (refuseDescriptor ch va d 1 s)
          else if c.dead ch then pollRing ch prod fuel (refuseDescriptor ch va d 4 s)
          else if !s.gateOpen ch (fldN d 4 3) (s.now16 / 2 ^ 16) then s
          else s.modChannel ch fun c => { c with sending := some (frame, s.now16) }
        | (s, _) => pollRing ch prod fuel (refuseDescriptor ch va d 2 s)
    | (s, _) => s

/-- TX_RING_POLL (R535): the gateway reads the producer index behind the ring and sends in ring order. -/
def execTxRingPoll (ch : Fin 16) (s : State) : Host.Outcome State Fault Refusal :=
  let c := s.channel ch
  if !s.fabricUp || !c.valid then .next s
  else
    match readVirt (edgeSrc s .gateway c.owner) c.owner (c.txVa + 64 * c.txSlots) 8 s with
    | (s, .ok w) => .next (pollRing ch (fldN (BitVec.ofNat 64 (ofBytes w)) 0 12) 4096 s)
    | (s, _) => .next s

/-- TX_FRAME_DONE (R535): the ring frame has left, or it could not be sent; its descriptor is done. -/
def execTxFrameDone (ch : Fin 16) (sent : Bool) (s : State) : Host.Outcome State Fault Refusal :=
  let c := s.channel ch
  match c.sending with
  | none => .next s
  | some (frame, pin) =>
    let va := c.txVa + 64 * (c.txCons % c.txSlots)
    match readVirt (edgeSrc s .gateway c.owner) c.owner va 64 s with
    | (s, .ok bs) =>
      let d : BitVec 512 := BitVec.ofNat 512 (ofBytes bs)
      let s := putDescriptor ch va (doneDescriptor d (if sent then 0 else 4) (layout80 pin)) s
      let s := s.modChannel ch fun c =>
        { c with sending := none, txCons := (c.txCons + 1) % 4096,
                 sentCount := if sent then satInc c.sentCount else c.sentCount,
                 notSent := if sent then c.notSent else satInc c.notSent }
      .next (if sent then s.modGateway fun g => { g with sent := (ch.val, frame, pin) :: g.sent } else s)
    | (s, _) => .next (s.modChannel ch fun c => { c with sending := none })

/-- A frame of network time, EtherType 0x88F7 (R304): it never reaches a ring. -/
def isGptp (ch : Nat) (frame : List Byte) : Bool :=
  8 ≤ ch && (frame.drop 12).take 2 == [(0x88 : Byte), 0xF7]

/-- The UDP destination port of an Ethernet frame over IPv4 or IPv6, with or without one 802.1Q tag (R325). -/
def udpPortOf (frame : List Byte) : Option Nat :=
  let at' := fun (i : Nat) => (frame.getD i 0).toNat
  let word := fun (i : Nat) => at' i * 256 + at' (i + 1)
  let o := if word 12 = 0x8100 then 16 else 12
  if word o = 0x0800 ∧ at' (o + 11) = 17 then some (word (o + 4 + at' (o + 2) % 16 * 4))
  else if word o = 0x86DD ∧ at' (o + 8) = 17 then some (word (o + 44))
  else none

/-- A frame of an enabled lidar stream on this MAC never reaches a ring (R325, R534). -/
def State.isLidar (s : State) (ch : Nat) (frame : List Byte) : Bool :=
  8 ≤ ch && match udpPortOf frame with
    | some p => tabAny (fun _ d => d.enable && d.lidar && d.port.toNat == ch - 8 && d.udpPort.toNat == p) s.dyn.cfg.streams
    | none => false

/-- RX_FRAME (R535): the next receive descriptor that the gateway owns is filled and its berth
interrupted; without one the frame is dropped and counted. -/
def execRxFrame (ch : Fin 16) (format : BitVec 2) (pcp : BitVec 3) (frame : List Byte) (s : State) :
    Host.Outcome State Fault Refusal :=
  let c := s.channel ch
  if !s.fabricUp || !c.valid || isGptp ch frame || s.isLidar ch frame then .next s
  else
    let drop := fun (s : State) => s.modChannel ch fun c => { c with rxDrops := satInc c.rxDrops }
    let va := c.rxVa + 64 * (c.rxNext % c.rxSlots)
    match readVirt (edgeSrc s .gateway c.owner) c.owner va 64 s with
    | (s, .ok bs) =>
      let d : BitVec 512 := BitVec.ofNat 512 (ofBytes bs)
      if !bitAt d 0 || frame.isEmpty || 2058 < frame.length then .next (drop s)
      else
        match writeVirt (edgeSrc s .gateway c.owner) c.owner (fldN d 64 40) frame s with
        | (s, .ok _) =>
          let keep := doneDescriptor d 0 (layout80 s.now16) &&& ~~~ (BitVec.ofNat 512 (packFields [(4, 5, 31), (16, 16, 0xFFFF)]))
          let filled := keep ||| BitVec.ofNat 512 (packFields [(4, 3, pcp.toNat), (7, 2, format.toNat), (16, 16, frame.length)])
          let s := putDescriptor ch va filled s
          .next (raiseBerth c.owner.toNat 2 (s.modChannel ch fun c => { c with rxNext := c.rxNext + 1 }))
        | (s, _) =>
          let s := putDescriptor ch va (doneDescriptor d 2 (layout80 s.now16)) s
          .next (drop (s.modChannel ch fun c => { c with rxNext := c.rxNext + 1 }))
    | (s, _) => .next (drop s)

/-- BUS_OFF (R540): a CAN channel enters or leaves bus-off. -/
def execBusOff (ch : Fin 8) (entered : Bool) (s : State) : Host.Outcome State Fault Refusal :=
  .next (s.modChannel ch fun c => { c with busOff := entered })

/-- PORT_LINK_DOWN (R540, R306): the MAC's link is down, and the port is no longer asCapable. -/
def execPortLinkDown (mac : Fin 8) (s : State) : Host.Outcome State Fault Refusal :=
  let s := s.modTime fun t => t.modPort mac fun y => { y with linkUp := false, asCapable := false }
  .next (s.modChannel (8 + mac) fun c => { c with linkUp := false })

/-! Status lines (R541) -/

/-- A class status line. -/
def classLine (c : SetpointClass) (cycle : Nat) : List Byte :=
  bytesOf 64 (packFields [(0, 32, c.sent.toNat), (32, 16, c.gated.toNat), (48, 16, c.stale.toNat),
    (64, 16, c.noPoint.toNat), (80, 16, c.faults.toNat), (96, 32, c.lastAge.toNat), (128, 80, layout80 c.lastPin),
    (208, 64, cycle)])

/-- A channel status line. -/
def channelLine (c : Channel) : List Byte :=
  bytesOf 64 (packFields [(0, 32, c.sentCount.toNat), (32, 16, c.refused.toNat), (48, 16, c.rxDrops.toNat),
    (80, 16, c.notSent.toNat)])

/-- STATUS_LINE_WRITE: after a commit edge the gateway writes every class and channel status line with the
latched values. -/
def writeStatusLines (s : State) : State :=
  let s := (upFrom 0 16).foldl (fun s k =>
    let c := s.spClass k
    if c.valid then (writeVirt (edgeSrc s .gateway c.berth) c.berth c.statusVa (classLine c s.lock.number.toNat) s).1 else s) s
  (upFrom 0 16).foldl (fun s ch =>
    let c := s.channel ch
    if c.valid then (writeVirt (edgeSrc s .gateway c.owner) c.owner c.statusVa (channelLine c) s).1 else s) s

/-! The PCIe root port (R542, R543) -/

/-- The berth of the first valid requester range that holds a bus. -/
def Gateway.berthOf (g : Gateway) (bus : Byte) : Option (BitVec 6) :=
  (g.ranges.find? fun r => bitAt r 22 && fldN r 0 8 ≤ bus.toNat && bus.toNat ≤ fldN r 8 8).map fun r => fld r 16 6

/-- An inbound request is answered. -/
def pcieAnswer (a : Option (List Byte)) (s : State) : State := s.modGateway fun g => { g with answers := a :: g.answers }

/-- PCIE_INBOUND (R543): translated for the berth of its range; a 4-byte write to 0xFFFFF00000 raises an
interrupt of the berth; any other request, and one that faults, is answered with Unsupported Request.
Without a valid platform block the port is disabled (R529): no effect. -/
def execPcieInbound (bus : Byte) (addr : BitVec 40) (write : Option (List Byte)) (len : Nat) (s : State) :
    Host.Outcome State Fault Refusal :=
  if !s.fabricUp || !s.dyn.gateway.valid then .next s
  else
    match s.dyn.gateway.berthOf bus with
    | none => .next (pcieAnswer none s)
    | some b =>
      match write with
      | some d =>
        if addr.toNat = 0xFFFFF00000 ∧ d.length = 4 then .next (raiseBerth b.toNat (ofBytes d % 64) s)
        else
          match writeVirt (edgeSrc s .gateway b) b addr.toNat d s with
          | (s, .ok _) => .next s
          | (s, _) => .next (pcieAnswer none s)
      | none =>
        match readVirt (edgeSrc s .gateway b) b addr.toNat len s with
        | (s, .ok d) => .next (pcieAnswer (some d) s)
        | (s, _) => .next (pcieAnswer none s)

end Sys2Proof.Machine
end

