-- ==== Sys2Proof/Machine/Island.lean ====
section
/-! DEFINITION. Lockkeeper: token lockstep, fences and roles, the input distributors, debug, the island's
start (R418 to R442), and GET_SAFETY_STATUS (R464). -/

namespace Sys2Proof.Machine

/-! Fences and roles (R424, R430) -/

/-- Update a pair. -/
def Island.modPair (i : Island) (p : Fin 2) (f : PairDyn → PairDyn) : Island :=
  if p = 0 then { i with pair0 := f i.pair0 } else { i with pair1 := f i.pair1 }

/-- Update a pair of the state. -/
def State.modPair (p : Fin 2) (f : PairDyn → PairDyn) (s : State) : State := s.modIsland fun i => i.modPair p f

/-- A pair of the state. -/
def State.pair (s : State) (p : Fin 2) : PairDyn := s.dyn.island.pair p

/-- The other pair. -/
def otherPair (p : Fin 2) : Fin 2 := if p = 0 then 1 else 0

/-- A pair holds a role. -/
def Island.holdsRole (i : Island) (p : Fin 2) : Bool := i.roleMonitor == p || i.rolePlayout == p

/-- The pair runs: the island is operational and the pair healthy. -/
def State.pairRuns (s : State) (p : Fin 2) : Bool := s.dyn.island.operational && (s.pair p).state == .healthy

/-- A copy of a pair runs: in split mode the watchdog fences core pa alone, and pb runs on (R436). -/
def State.copyRuns (s : State) (p copy : Fin 2) : Bool :=
  s.pairRuns p || (s.dyn.island.operational && s.dyn.island.split && copy == 1 && (s.pair p).state == .fenced && (s.pair p).cause == 5)

/-- Some copy of a pair runs. -/
def State.someCopyRuns (s : State) (p : Fin 2) : Bool := s.copyRuns p 0 || s.copyRuns p 1

/-- The order of R430 for a fault of a running pair: no further token is released, cause and channel are
recorded, outstanding reads are discarded, the doubt is raised, and a healthy other pair begins to take
the role. The beat pin keeps its level. -/
def fence (p : Fin 2) (cause : BitVec 4) (channel : BitVec 3) (s : State) : State :=
  let alone := s.dyn.island.split && cause == 5
  let s := s.modPair p fun y =>
    { y with state := .fenced, cause := cause, channel := channel, chans := [], reads := if alone then y.reads else [],
             events := if alone then y.events else [] }
  let s := raiseDoubt (if cause = 2 ∨ cause = 3 then 4 else 3) s
  s.modIsland fun i =>
    { i with takeover := (i.pair (otherPair p)).state == .healthy && (i.takeover || i.holdsRole p) }

/-- ROLE_TAKEOVER (R424): the healthy pair takes the roles of the fenced one. -/
def execRoleTakeover (s : State) : Host.Outcome State Fault Refusal :=
  if !s.dyn.island.takeover then .next s
  else
    let p : Fin 2 := if s.dyn.island.pair0.state = .healthy then 0 else 1
    if !s.pairRuns p then .next (s.modIsland fun i => { i with takeover := false })
    else .next (s.modIsland fun i => { i with takeover := false, roleMonitor := p, rolePlayout := p })

/-! Tokens (R427 to R431) -/

/-- The bytes that a write token stores: byte lane i of its 8-byte word, for each bit of BMASK. -/
def writeLanes (t : Token) : List (Nat × Byte) :=
  (upFrom 0 8).filterMap fun i =>
    if bitAt t.bmask i then some (t.addr.toNat / 8 * 8 + i, BitVec.ofNat 8 (fldN t.data (8 * i) 8)) else none

/-- Store bytes listed with their addresses. -/
def putLanes (m : Tab Byte) : List (Nat × Byte) → Tab Byte
  | [] => m
  | (a, b) :: t => putLanes (tabPut 0 m a b) t

/-- The 8-byte word of island SRAM that holds an address. -/
def Island.word (i : Island) (a : Nat) : List Byte := (upFrom (a / 8 * 8) 8).map (tabGet 0 i.sram)

/-- A response is handed to both copies (R434). -/
def deliver (p : Fin 2) (v : Option (List Byte)) (s : State) : State :=
  s.modPair p fun y => { y with inputs := v :: y.inputs }

/-- A released token acts on its target: SRAM (channels 0 and 1), peripherals (2), the read port (3). What
a peripheral answers, and what an atomic leaves, the manual does not give: free values. -/
def releaseToken (p : Fin 2) (t : Token) (badWord : Bool) (s : State) : State :=
  let s := s.modPair p fun y => { y with released := t :: y.released }
  if t.channel = 0 ∨ t.channel = 1 then
    if t.kind = 0 then
      if badWord then fence p 6 0 s else deliver p (some (s.dyn.island.word t.addr.toNat)) s
    else if t.kind = 1 then s.modIsland fun i => { i with sram := putLanes i.sram (writeLanes t) }
    else if t.kind = 2 then
      if badWord then fence p 6 0 s
      else
        let old := s.dyn.island.word t.addr.toNat
        let new := bytesOf 8 (Config.freeBits 64 s.free).toNat
        let s := s.bump.modIsland fun i => { i with sram := putBytes i.sram (t.addr.toNat / 8 * 8) new }
        deliver p (some old) s
    else s
  else if t.channel = 2 then
    if t.kind = 0 ∨ t.kind = 2 then deliver p (some (bytesOf 8 (Config.freeBits 64 s.free).toNat)) s.bump else s
  else if t.channel = 3 then s.modPair p fun y => { y with reads := y.reads ++ [t.addr] }
  else s

/-- The island's own time in whole nanoseconds since a moment. -/
def waitNs (now since : Nat) : Nat := (now - since) / 2 ^ 16

/-- The comparator takes a token of a copy (R428, R429): held while the other copy has not made it,
released when both made it alike, a fence when they differ or the lead passes 256. -/
def compareToken (p copy : Fin 2) (t : Token) (badWord : Bool) (s : State) : State :=
  let q := tabGet {} (s.pair p).chans t.channel.toNat
  let put := fun (q : TokenQueue) (s : State) =>
    s.modPair p fun y => { y with chans := tabPut {} y.chans t.channel.toNat q }
  match q.toks with
  | [] =>
    put { leadB := copy == 1, toks := [(t, s.island16)] }
      (s.modIsland fun i => { i with maxLead := bvMax i.maxLead 1 })
  | (h, since) :: rest =>
    if q.leadB = (copy == 1) then
      if 256 ≤ q.toks.length then fence p 2 t.channel s
      else
        put { q with toks := q.toks ++ [(t, s.island16)] }
          (s.modIsland fun i => { i with maxLead := bvMax i.maxLead (satOf 16 (q.toks.length + 1)) })
    else if h = t then
      releaseToken p t badWord
        (put { leadB := q.leadB && !rest.isEmpty, toks := rest }
          (s.modIsland fun i => { i with maxWait := bvMax i.maxWait (satOf 16 (waitNs s.island16 since)) }))
    else fence p 1 t.channel s

/-- TOKEN_PRODUCE (R428; R436 in split mode, where nothing is compared). Channels 5 to 7 are reserved. -/
def execTokenProduce (pair copy : Fin 2) (tok : Token) (badWord : Bool) (s : State) :
    Host.Outcome State Fault Refusal :=
  if !s.copyRuns pair copy || 4 < tok.channel.toNat then .next s
  else if s.dyn.island.split then .next (releaseToken pair tok badWord s)
  else .next (compareToken pair copy tok badWord s)

/-- The channel of a pair whose oldest unmatched token has waited longest, with that token's time. -/
def PairDyn.oldest (y : PairDyn) : Option (Nat × Nat) :=
  minBy (fun c => c.2) (y.chans.filterMap fun c =>
    match c.2.toks with
    | [] => none
    | h :: _ => some (c.1, h.2))

/-- SKEW_TIME (R429): the oldest unmatched token has waited more than 2 us, and no debug halt stops the
limit. Not due: no effect. -/
def execSkewTime (pair : Fin 2) (s : State) : Host.Outcome State Fault Refusal :=
  match (s.pair pair).oldest with
  | none => .next s
  | some (ch, since) =>
    if !s.pairRuns pair || s.dyn.island.split || (s.pair pair).halted.isSome || s.island16 ≤ since + 2 * us16 then .next s
    else
      let s := s.modIsland fun i => { i with maxWait := bvMax i.maxWait (satOf 16 (waitNs s.island16 since)) }
      .next (fence pair 3 (BitVec.ofNat 3 ch) s)

/-! Beats (R426) -/

/-- BEAT_WRITE: a compared write to the beat register toggles the pin. -/
def execBeatWrite (pair : Fin 2) (s : State) : Host.Outcome State Fault Refusal :=
  if !s.pairRuns pair then .next s
  else .next (s.modPair pair fun y => { y with beat := !y.beat, lastBeat := s.island16 })

/-- BEAT_WATCHDOG: 1,000 us of island time without a beat write. Not due: no effect. -/
def execBeatWatchdog (pair : Fin 2) (s : State) : Host.Outcome State Fault Refusal :=
  if !s.pairRuns pair || s.dyn.island.watchdogOff || s.island16 < (s.pair pair).lastBeat + 1000 * us16 then .next s
  else .next (fence pair 5 0 s)

/-! The input distributor (R432 to R434) -/

/-- INPUT_TOKEN: the two halves agree and the token goes to both copies, an asynchronous event at the
point T of R433; or they differ and the pair is fenced. -/
def execInputToken (pair : Fin 2) (kind : IslandInput) (halfA halfB : BitVec 64) (s : State) :
    Host.Outcome State Fault Refusal :=
  if !s.someCopyRuns pair then .next s
  else if halfA ≠ halfB then .next (fence pair 4 0 s)
  else if kind = .readPort then .next (deliver pair (some (bytesOf 8 halfA.toNat)) s)
  else
    .next (s.modPair pair fun y =>
      { y with events := y.events ++ [{ kind := kind, payload := halfA,
                                        takeAt := max y.retiredA y.retiredB + 4096 }] })

/-- ASYNC_EVENT_TAKE: both copies take the oldest stamped event before they retire instruction T. -/
def execAsyncEventTake (pair : Fin 2) (s : State) : Host.Outcome State Fault Refusal :=
  match (s.pair pair).events with
  | [] => .next s
  | e :: rest =>
    if !s.someCopyRuns pair then .next s
    else .next (s.modPair pair fun y =>
      { y with events := rest, inputs := some (bytesOf 8 e.payload.toNat) :: y.inputs,
               retiredA := max y.retiredA (e.takeAt - 1), retiredB := max y.retiredB (e.takeAt - 1) })

/-- READ_PORT_READ (R421): the oldest released read of a pair reads its line on the safety channel; the
line, or an error token, goes to both copies. -/
def execReadPortRead (pair : Fin 2) (pa : BitVec 48) (flips : BitVec 544) (s : State) :
    Host.Outcome State Fault Refusal :=
  match (s.pair pair).reads with
  | [] => .next s
  | a :: rest =>
    if !s.someCopyRuns pair || a ≠ pa then .next s
    else
      let s := s.modPair pair fun y => { y with reads := rest }
      let s := if inDram pa.toNat then flipLine (pa.toNat / 64) flips s else s
      match readPort pa.toNat false s with
      | (s, line) => .next (deliver pair line s)

/-! Debug (R437, R438) -/

/-- The island answers the debug port: in the service state, or at any time on PV3236-D. -/
def State.debugOpen (s : State) : Bool := s.inService || s.dyn.island.split

/-- Both copies report a halt: unequal retire counts fence a lockstep pair with cause 1 on channel 4. -/
def debugCounts (p : Fin 2) (a b : BitVec 48) (s : State) : State :=
  let s := s.modPair p fun y => { y with halted := some (y.halted.getD s.island16),
                                         retiredA := a.toNat, retiredB := b.toNat }
  if a ≠ b ∧ !s.dyn.island.split then fence p 1 4 s else s

/-- DEBUG_HALT: the copies of a running pair halt and report their retire counts. -/
def execDebugHalt (pair : Fin 2) (countA countB : BitVec 48) (s : State) : Host.Outcome State Fault Refusal :=
  if !s.debugOpen || !s.pairRuns pair || (s.pair pair).halted.isSome then .next s
  else .next (debugCounts pair countA countB s)

/-- DEBUG_STEP: a halted pair halts again one instruction later. -/
def execDebugStep (pair : Fin 2) (countA countB : BitVec 48) (s : State) : Host.Outcome State Fault Refusal :=
  if !s.debugOpen || !s.pairRuns pair || (s.pair pair).halted.isNone then .next s
  else .next (debugCounts pair countA countB s)

/-- DEBUG_ACCESS: a read is made by both copies and compared; a write goes to both through the
distributor, and may disable the beat watchdog: the manual does not say by which register (R438). -/
def execDebugAccess (pair : Fin 2) (write : Bool) (addr : BitVec 32) (a b : BitVec 64) (s : State) :
    Host.Outcome State Fault Refusal :=
  if !s.debugOpen || !s.pairRuns pair then .next s
  else if write then
    .next (deliver pair (some (bytesOf 8 a.toNat))
      (s.modIsland fun i => { i with watchdogOff := Config.debugWatchdog addr a i.watchdogOff }))
  else if a = b ∨ s.dyn.island.split then .next (s.modPair pair fun y => { y with debugRead := some (some a) })
  else .next (fence pair 1 4 (s.modPair pair fun y => { y with debugRead := some none }))

/-- DEBUG_RESUME: both copies run again; the time of the halt does not count as waiting (R438). -/
def execDebugResume (pair : Fin 2) (s : State) : Host.Outcome State Fault Refusal :=
  match (s.pair pair).halted with
  | none => .next s
  | some t0 =>
    if !s.debugOpen || !s.pairRuns pair then .next s
    else
      let shift := fun (_ : Nat) (q : TokenQueue) =>
        { q with toks := q.toks.map fun x => (x.1, if x.2 ≤ t0 then x.2 + (s.island16 - t0) else s.island16) }
      .next (s.modPair pair fun y => { y with halted := none, chans := tabMap {} shift y.chans })

/-! The island's weather station (R420) -/

/-- ISLAND_WEATHER_WINDOW: two windows in a row below 500 Mwaves/s raise PACE_BELOW_FLOOR. -/
def execIslandWeatherWindow (pace tj : BitVec 16) (s : State) : Host.Outcome State Fault Refusal :=
  if !s.dyn.island.powered then .next s
  else
    let low := decide (pace.toNat < 500)
    let s := s.modIsland fun i =>
      { i with pace := pace, tj := tj, lowRun := if low then i.lowRun + 1 else 0, okRun := if low then 0 else i.okRun + 1 }
    if 2 ≤ s.dyn.island.lowRun then .next (raiseDoubt 9 (s.modIsland fun i => { i with paceLow := true }))
    else .next (settle s)

/-! Start and loss of power (R435, R439 to R441, R549) -/

/-- What the safety monitors hold when the island starts: the latch set, everything of the island's own
cleared, what Veldon keeps of checkers, drizzle and soundings kept. -/
def Safety.restart (f : Safety) : Safety :=
  { checkers := f.checkers, requests := f.requests, tileWaiting := f.tileWaiting, slice := f.slice, serviceTests := f.serviceTests,
    lastSlot := f.lastSlot, sounding := f.sounding, soundingLast := f.soundingLast }

/-- The island's Gauges are free after it restarts, whatever the configuration set (R441, R446). -/
def clearGauges (s : State) : State := s.modAllCfg fun c => { c with gauges := [] }

/-- The PV3236-D grade. -/
def gradeD : Nat := 2

/-- The logical tiles that a grade enables (R5); the reserved grade enables none. -/
def gradeTiles (g : Nat) : Nat := if g = 1 then 24 else if g = 0 ∨ g = 2 then 32 else 0

/-- The fields of a token body (R505). -/
def Licence.grade (l : Licence) : BitVec 2 := fld l.body 8 2
def Licence.safetyMin (l : Licence) : Nat := fldN l.body 16 6
def Licence.serial (l : Licence) : Nat := fldN l.body 32 32
def Licence.uid (l : Licence) : BitVec 128 := fld l.body 64 128

/-- Check 6 of R506: every field of a token body is in range and every reserved bit zero. -/
def Licence.fieldsOk (l : Licence) : Bool :=
  fldN l.body 0 8 = 1 && l.grade.toNat ≤ 2 && fldN l.body 10 6 = 0 && 1 ≤ l.safetyMin &&
    l.safetyMin ≤ gradeTiles l.grade.toNat && fldN l.body 22 10 = 0 && l.serial ≠ 0 && fldN l.body 272 752 = 0

/-- A stored token passes every check of R505. -/
def Licence.valid (l : Licence) (uid : BitVec 128) : Bool := l.signed && l.uid == uid && l.fieldsOk

/-- The token that a start takes from two slots: the highest SERIAL of those that pass (R505). -/
def takeToken (uid : BitVec 128) (a b : Licence) : Option Licence :=
  match a.valid uid, b.valid uid with
  | true, true => if a.serial < b.serial then some b else some a
  | true, false => some a
  | false, true => some b
  | false, false => none

/-- The image slot that a start takes: the first of the two that passes (R440, R486). -/
def takeImage (a b : ImageSlot) (floor : Nat) : Option Bool :=
  if a.signed && decide (floor ≤ fldN a.header 32 6) then some false
  else if b.signed && decide (floor ≤ fldN b.header 32 6) then some true
  else none

/-- A pair after the start test of R435; in split mode steps 1 to 3 are not run (R436). -/
def testedPair (split : Bool) (fails : Option (Fin 7)) (now : Nat) : PairDyn :=
  match fails with
  | none => { beat := true, lastBeat := now }
  | some k =>
    if k.val = 0 ∨ (split ∧ k.val ≤ 3) then { beat := true, lastBeat := now }
    else { state := .failed, cause := 7 }

/-- ISLAND_START (R439): from ISL_PWRGD or the end of ISL_RESET_N the island sets the latch, takes its
image and its licence, tests its pairs and, with a healthy pair, becomes operational. While it is
operational no start begins. A token stored since is read only when the fabric is off, on the way to a cold start (R8). -/
def execIslandStart (facts : IslandFacts) (s : State) : Host.Outcome State Fault Refusal :=
  if s.dyn.island.operational then .next s
  else
    let b := s.dyn.bring
    let lic := if s.dyn.power.corePwrgd then b.islandLicence else takeToken b.fuses.uid b.islandToken0 b.islandToken1
    let split := match lic with
      | some l => l.grade.toNat == gradeD
      | none => false
    let s := s.modBring fun b => { b with islandLicence := lic }
    let s := clearGauges (s.modSafety Safety.restart)
    let time := if s.dyn.time.tcxoFault then s.dyn.island.time else s.dyn.time.wc
    match takeImage b.islandSlot0 b.islandSlot1 0 with
    | none => .next (s.modIsland fun _ =>
        { powered := true, split := split, time := time, disciplined := !s.dyn.time.tcxoFault })
    | some one =>
      let img := if one then b.islandSlot1 else b.islandSlot0
      let p0 := testedPair split facts.pair0Fails (t16 time)
      let p1 := testedPair split facts.pair1Fails (t16 time)
      let h0 := p0.state == .healthy
      let h1 := p1.state == .healthy
      .next (s.modIsland fun _ =>
        { powered := true, operational := h0 || h1, split := split, pair0 := p0, pair1 := p1,
          roleMonitor := if h0 then 0 else 1, rolePlayout := if h1 then 1 else 0, time := time,
          disciplined := !s.dyn.time.tcxoFault, imageSlot := one, fwVersion := fld img.header 0 32,
          digest := img.digest })

/-- The island stops: ISL_RESET_N low, or its power lost. The latch is set; beats stop at their level. -/
def stopIsland (powered : Bool) (s : State) : State :=
  let s := clearGauges (s.modSafety Safety.restart)
  s.modIsland fun i =>
    { powered := powered, time := i.time, disciplined := powered && i.disciplined,
      pair0 := { state := .healthy, beat := false }, pair1 := { state := .healthy, beat := false } }

/-- ISL_RESET (R441): the island restarts; ISLAND_START brings it up again. -/
def execIslReset (s : State) : Host.Outcome State Fault Refusal :=
  if !s.dyn.island.powered then .next s else .next (stopIsland true s)

/-! GET_SAFETY_STATUS (R442, R464) -/

/-- PAIR_STATE of R442. -/
def PairState.code : PairState → Nat
  | .healthy => 0
  | .fenced => 1
  | .failed => 2

/-- View 0x0: latch and playout. -/
def latchView (f : Safety) : Result :=
  longResult 64 [(0, 1, b2n f.latch), (1, 1, b2n f.noPlan), (2, 1, b2n f.playing), (3, 1, b2n f.hbArmed),
    (16, 10, f.sources.toNat), (32, 10, f.seen.toNat), (48, 4, f.first.toNat), (64, 80, layout80 f.setAt),
    (144, 12, f.gauge.toNat), (160, 80, layout80 ((f.activePlan.map (·.validity)).getD 0)),
    (240, 1, b2n f.stagedPlan.isSome), (256, 16, f.releases.toNat)]

/-- View 0x1: the island record. -/
def islandView (i : Island) : Result :=
  longResult 64 [(0, 1, b2n i.split), (2, 2, i.pair0.state.code), (4, 2, i.pair1.state.code),
    (6, 1, i.roleMonitor.val), (7, 1, i.rolePlayout.val), (8, 4, i.pair0.cause.toNat), (12, 4, i.pair1.cause.toNat),
    (16, 3, i.pair0.channel.toNat), (19, 3, i.pair1.channel.toNat), (22, 1, b2n i.disciplined),
    (23, 1, b2n i.paceLow), (24, 1, b2n (i.pair0.halted.isSome || i.pair1.halted.isSome)),
    (25, 1, b2n i.imageSlot), (32, 32, i.fwVersion.toNat), (64, 16, i.maxLead.toNat), (80, 16, i.maxWait.toNat),
    (96, 16, i.pace.toNat), (112, 16, i.tj.toNat), (128, 256, i.digest.toNat)]

/-- View 0x2: drizzle. -/
def drizzleView (d : Dyn) : Result :=
  let old := oldestChecker d
  longResult 64 [(0, 16, d.safety.deferrals.toNat), (16, 5, d.safety.requests.length),
    (32, 32, (satOf 32 ((t16 d.time.wc - d.safety.lastPass old) / us16)).toNat), (64, 7, old),
    (72, 7, d.safety.failedIndex.toNat)]

/-- View 0x3: soundings. -/
def soundingView (d : Dyn) : Result :=
  let f := d.safety
  longResult 64 [(0, 32, f.passed.toNat), (32, 16, f.mismatched.toNat), (48, 16, f.missed.toNat),
    (64, 10, f.lastModel.toNat), (74, 6, f.lastTile.toNat), (80, 32, f.lastElement.toNat),
    (112, 16, d.cfg.sounding.fttiMs.toNat)]

/-- A view of the latched status. -/
def safetyView (d : Dyn) (view : Nat) : Result :=
  match view with
  | 0 => latchView d.safety
  | 1 => islandView d.island
  | 2 => drizzleView d
  | _ => soundingView d

/-- GET_SAFETY_STATUS; VIEW 0x4 to 0xF are reserved. -/
def opGetSafety : OpInfo :=
  { opcode := 0x7042, runTime := true, wellFormed := fun p => onlyFields [(0, 4)] p && fldN p 0 4 ≤ 3 }

/-- GET_SAFETY_STATUS returns a view latched at the last lock cycle. -/
def execGetSafetyStatus (c : Cmd) (s : State) : Host.Outcome State Fault Refusal :=
  carry opGetSafety c (fun t s => answer 0 (safetyView s.snap (fldN t.cmd.params 0 4)) t s) s

end Sys2Proof.Machine
end

