-- ==== Sys2Proof/Machine/Bring.lean ====
section
/-! DEFINITION. Starts and resets (R484 to R498), the soft defect log (R499), power events (R548, R549). -/

namespace Sys2Proof.Machine

/-! The soft defect log -/

/-- Write an entry; when the log is full, OVERFLOW is set instead (R499). -/
def addDefect (kind source : BitVec 2) (unit : Nat) (s : State) : State :=
  if 16384 ≤ s.dyn.errors.defects.length then s.modBring fun b => { b with overflow := true }
  else
    let e : DefectEntry := { kind := kind, source := source, unit := BitVec.ofNat 48 unit,
                             time := BitVec.ofNat 80 (layout80 s.now16),
                             lockCycle := if s.dyn.bring.ready then s.lock.number else 0 }
    s.modErrors fun x => { x with defects := x.defects ++ [e] }

/-- UNIT of a row: column, die, row index. -/
def rowUnit (col : Nat) (die2 : Bool) (row : Nat) : Nat := packFields [(0, 6, col), (6, 1, b2n die2), (7, 17, row)]

/-- The frame that holds a row (R183, R471). -/
def frameOfRow (col : Nat) (die2 : Bool) (row : Nat) : Nat := (col * 0x80000000 + b2n die2 * 0x40000000 + row * 8192) / 0x10000

/-! Rows at a start (R489) -/

/-- Take a spare row of a die if one is free. -/
def takeSpare (cols : Tab Column) (col : Nat) (die2 : Bool) : Option (Tab Column) :=
  let x := tabGet {} cols col
  if (if die2 then x.spared2 else x.spared1) < 512 then
    some (tabPut {} cols col { x with spared1 := if die2 then x.spared1 else x.spared1 + 1,
                                      spared2 := if die2 then x.spared2 + 1 else x.spared2 })
  else none

/-- A row of the fuses' list or one that failed the column test (`log`) takes a spare row, or its frame is
retired. -/
def startRow (log : Bool) (r : Nat × Bool × Nat) (s : State) : State :=
  match takeSpare s.dyn.errors.columns r.1 r.2.1 with
  | some cols =>
    let s := s.modErrors fun e => { e with columns := cols }
    let s := s.modBring fun b => { b with rowsSpared := satInc b.rowsSpared }
    if log then addDefect 1 0 (rowUnit r.1 r.2.1 r.2.2) s else s
  | none =>
    let f := frameOfRow r.1 r.2.1 r.2.2
    if s.badFrame f then s
    else
      let s := s.modErrors fun e => { e with badFrames := tabPut false e.badFrames f true }
      let s := s.modAllCfg fun c => { c with frames := tabPut .free c.frames f .retired }
      let s := s.modBring fun b => { b with framesRetired := satInc b.framesRetired }
      if log then addDefect 3 0 f s else s

/-- Insert into a list that rises under a key. -/
def insertBy {α : Type} (key : α → Nat) (a : α) : List α → List α
  | [] => [a]
  | b :: t => if key a < key b then a :: b :: t else b :: insertBy key a t

/-- A list in rising order of a key; equal keys keep their order. -/
def sortBy {α : Type} (key : α → Nat) (l : List α) : List α := l.foldl (fun t a => insertBy key a t) []

/-- The rows of a cold start or the full path: the fuses' list first, then the failing rows by row index. -/
def startRows (facts : StartFacts) (s : State) : State :=
  let fuses := s.dyn.bring.fuses.rowList.map fun r => (r.1, r.2.1, r.2.2.toNat)
  let fails := sortBy (fun r => r.2.2) ((facts.rowFails.map fun r => (r.1.val, r.2.1, r.2.2.toNat)).filter
    fun r => !fuses.contains r)
  fails.foldl (fun s r => startRow true r s) (fuses.foldl (fun s r => startRow false r s) s)

/-! The logical map and capacity class (R488 to R492) -/

/-- The capacity class of a grade with `e` enabled logical tiles (R492). -/
def capacityOf (grade e : Nat) : BitVec 3 :=
  if grade = 1 then
    if e = 0 then 5 else if e < 8 then 4 else if e < 16 then 3 else if e < 20 then 2 else if e < 24 then 1 else 0
  else
    if e = 0 then 5 else if e < 16 then 4 else if e < 24 then 3 else if e < 28 then 2 else if e < 32 then 1 else 0

/-- The tile map of R491 from the physical tiles that are out of service, each with its source: the first
`l` others take the logical numbers in turn. -/
def mapTiles (out : Nat → Option (BitVec 2)) (l : Nat) : List Nat → Nat → Tab TileKind → Tab TileKind
  | [], _, t => t
  | p :: ps, n, t =>
    match out p with
    | some src => mapTiles out l ps n (tabPut .spare t p (.retired src))
    | none => if n < l then mapTiles out l ps (n + 1) (tabPut .spare t p (.logical n)) else mapTiles out l ps n t

/-- Tiles that fail squall check by one of their two checkers (R455). -/
def squallTile (facts : StartFacts) (p : Nat) : Bool := bitAt facts.squallBad (44 + p) || bitAt facts.squallBad (80 + p)

/-- Put a map into the configuration, with the grade's class and the unassigned spares Off. -/
def installMap (t : Tab TileKind) (s : State) : State :=
  let s := s.modAllCfg fun c => { c with tiles := t }
  let s := s.modTiles fun x => (upFrom 0 36).foldl (fun x p =>
    match tabGet TileKind.spare t p with
    | .logical _ => x
    | _ => tabMod {} x p fun d => { d with power := .off }) x
  s.modBring fun b =>
    { b with capacityClass := capacityOf b.grade.toNat s.dyn.cfg.enabledTiles.length,
             goodTiles := BitVec.ofNat 6 ((upFrom 0 36).filter fun p =>
               match tabGet TileKind.spare t p with
               | .retired _ => false
               | _ => true).length }

/-- The union of fuses and tests (R488), squall check (R490) and the map (R491) of a cold start or the full
path, with the soft defect entries. -/
def startUnion (facts : StartFacts) (s : State) : State :=
  let fuse := s.dyn.bring.fuses.tileBad
  let out1 := fun p => if bitAt fuse p then some (0 : BitVec 2) else if bitAt facts.tileTestBad p then some 1 else none
  let squall := (upFrom 0 36).filter fun p => (out1 p).isNone && squallTile facts p
  let out := fun p => if squall.contains p then some 1 else out1 p
  let s := ((upFrom 0 36).filter fun p => !bitAt fuse p && bitAt facts.tileTestBad p).foldl
    (fun s p => addDefect 0 0 p s) s
  let s := squall.foldl (fun s p => addDefect 0 1 p s) s
  let s := s.modBring fun b =>
    { b with testBad := facts.tileTestBad ||| BitVec.ofNat 36 (packFields (squall.map fun p => (p, 1, 1))) }
  installMap (mapTiles out (gradeTiles s.dyn.bring.grade.toNat) (upFrom 0 36) 0 []) s

/-- Squall check on the fast path: a tile that fails it is retired and the map made again without it. -/
def fastSquall (facts : StartFacts) (s : State) : State :=
  let retired := fun p =>
    match tabGet TileKind.spare s.dyn.cfg.tiles p with
    | .retired src => some src
    | _ => none
  let squall := (upFrom 0 36).filter fun p => (retired p).isNone && squallTile facts p
  let s := s.modBring fun b => { b with testBad := BitVec.ofNat 36 (packFields (squall.map fun p => (p, 1, 1))) }
  if squall.isEmpty then installMap s.dyn.cfg.tiles s
  else
    let s := squall.foldl (fun s p => addDefect 0 1 p s) s
    let out := fun p => if squall.contains p then some (1 : BitVec 2) else retired p
    installMap (mapTiles out (gradeTiles s.dyn.bring.grade.toNat) (upFrom 0 36) 0 []) s

/-- What squall check leaves in the checkers (R455, R456): a pass now, or a failure with its error record. -/
def squallCheck (facts : StartFacts) (s : State) : State :=
  let now := s.now16
  let bad := fun i => bitAt facts.squallBad i
  let s := s.modSafety fun f =>
    { f with checkers := (upFrom 0 116).foldl (fun t i =>
        tabPut {} t i { lastPass := now, failed := bad i, unfit := bad i && 5 ≤ i }) [] }
  let s := ((upFrom 8 108).filter bad).foldl (fun s i =>
    addError { kind := 0xC, source := 7, unit := BitVec.ofNat 6 (if i < 44 then i - 8 else (i - 44) % 36) } s) s
  s.modBring fun b =>
    { b with checkersFailed := BitVec.ofNat 4 (packFields
        [(0, 1, b2n (bad 5)), (1, 1, b2n (bad 6)), (2, 1, b2n (bad 7)), (3, 1, b2n ((upFrom 8 36).any bad))]) }

/-! The warm-valid record (R495) -/

/-- The record of the state: map, failure counts, spare rows, retired frames. -/
def warmRecord (s : State) : WarmRecord :=
  { lockCycle := s.lock.number, coldId := s.dyn.bring.coldId, tiles := s.dyn.cfg.tiles,
    failures := s.dyn.tiles.foldl (fun t x => tabPut 0 t x.1 x.2.failures) [],
    spared := s.dyn.errors.columns.foldl (fun t x => tabPut (0, 0) t x.1 (x.2.spared1, x.2.spared2)) [],
    frames := tabKeys (fun _ x => x == .retired) s.dyn.cfg.frames }

/-- Both copies are rewritten. -/
def writeWarm (s : State) : State :=
  let r := warmRecord s
  s.modBring fun b => { b with warm0 := some r, warm1 := some r }

/-- The record is rewritten after a lock cycle that changes what it holds. -/
def refreshWarm (s : State) : State :=
  let r := warmRecord s
  match s.dyn.bring.warm0 with
  | some old => if { old with lockCycle := r.lockCycle } = r then s else writeWarm s
  | none => writeWarm s

/-- The good copy with the higher lock cycle number (R496). -/
def bestRecord (facts : StartFacts) (b : Bring) : Option WarmRecord :=
  let good := fun (i : Nat) (r : Option WarmRecord) =>
    match r with
    | some x => if !bitAt facts.recordBad i && x.coldId == b.coldId then some x else none
    | none => none
  match good 0 b.warm0, good 1 b.warm1 with
  | some x, some y => some (if x.lockCycle.toNat < y.lockCycle.toNat then y else x)
  | some x, none => some x
  | none, y => y

/-- The record is restored (R497): map, failure counts and SUSPECT marks, spare rows, retired frames. -/
def restoreRecord (r : WarmRecord) (s : State) : State :=
  let s := s.modAllCfg fun c =>
    { c with tiles := r.tiles, frames := r.frames.foldl (fun t f => tabPut .free t f .retired) [] }
  let s := s.modTiles fun t => r.failures.foldl (fun t x =>
    tabMod {} t x.1 fun d => { d with failures := x.2, suspect := true }) t
  s.modErrors fun e =>
    { e with columns := (upFrom 0 36).foldl (fun t c => tabMod {} t c fun x =>
        { x with spared1 := (tabGet (0, 0) r.spared c).1, spared2 := (tabGet (0, 0) r.spared c).2 }) e.columns,
             badFrames := r.frames.foldl (fun t f => tabPut false t f true) [] }

/-! The fabric stops (R485) -/

/-- The fabric stops: nothing is admitted, no record is written, all that was in flight is gone; mailboxes
are EMPTY with nothing negotiated (R388, R398). The configuration stays until the next start. -/
def stopFabric (s : State) : State :=
  { s with
    mailboxes := []
    i3c := { s.i3c with ibis := [], index := none }
    lock := { number := s.lock.number, opn := s.dyn.cfg, staged := s.dyn.cfg, lastEdge := s.lock.lastEdge }
    dyn := { s.dyn with
      queues := [], work := {}, raster := {}, displays := [], ingest := {}, fusion := {}, isgal := {},
      gateway := {}, cores := {},
      time := { s.dyn.time with ports := tabMap {} (fun _ y => { y with measures := [], measurePending := false })
                                  s.dyn.time.ports }
      tiles := tabMap {} (fun _ d => { d with tests := [], testDrain := false, handover := none, wakeEnds := none,
                                              power := .off, pace := 0 }) s.dyn.tiles
      safety := { s.dyn.safety with requests := [], tileWaiting := [], slice := none, serviceTests := [], sounding := none,
                                    uncorrectable := s.dyn.safety.uncorrectable.map fun u => (u.1, false) }
      bring := { s.dyn.bring with ready := false, step := 1, flash := [], lastChunk := none } } }

/-- The fabric stops and is held in reset from now. -/
def holdFabric (s : State) : State :=
  (stopFabric s).modPower fun p => { p with warmReset := true, heldSince := s.dyn.time.wc }

/-! Starts (R486, R487, R496, R497) -/

/-- The configuration at a start. A warm reset keeps the time configuration, raises every generation and
leaves the island's Gauges. -/
def freshShadow (warm : Bool) (old : Shadow) : Shadow :=
  if warm then
    { domainA := old.domainA, domainB := old.domainB, timePorts := old.timePorts, selected := old.selected,
      auto := old.auto, gauges := old.gauges,
      berths := (upFrom 0 64).foldl (fun t b => tabPut {} t b { gen := (tabGet {} old.berths b).gen + 1 }) [] }
  else { gauges := old.gauges }

/-- The tiles at a start keep what their stations measured and count from cold start; failure counts and SUSPECT marks
come from the record (R497). -/
def freshTiles (warm : Bool) (t : Tab TileDyn) : Tab TileDyn :=
  if warm then tabMap {} (fun _ d => { floorLow := d.floorLow, tj := d.tj, vlocal := d.vlocal }) t else []

/-- What every start sets before its steps: PATH, the platform block, the token (at a cold start only), an
empty memory. -/
def beginStart (path : BitVec 2) (facts : StartFacts) (s : State) : State :=
  let warm := path ≠ 0
  let cfg := freshShadow warm s.dyn.cfg
  let b := s.dyn.bring
  let lic := if warm then b.licence else takeToken b.fuses.uid b.token0 b.token1
  let s : State := { s with
    mem := {}
    lock := { number := if warm then s.lock.number else 0, opn := cfg, staged := cfg, lastEdge := s.now16 }
    dyn := { s.dyn with
      cfg := cfg
      tiles := freshTiles warm s.dyn.tiles
      power := { corePwrgd := true }
      errors := if path = 1 then { s.dyn.errors with veldonHalted := false, lostBands := [] } else {}
      safety := { s.dyn.safety with checkers := [], mismatches := [], uncorrectable := [], soundingLast := none,
                                    lastSlot := s.now16 }
      bring := { b with
        path := path, step := 2, ready := false, haltCause := 0, failedColumn := 0, testBad := 0,
        checkersFailed := 0, isgalRefused := 0, refuseCause := 0, rowsSpared := 0, framesRetired := 0, readyMs := 0,
        overflow := path == 1 && b.overflow, cycled := false, goodTiles := 0, flash := [], lastChunk := none,
        licence := lic, grade := if warm then b.grade else (match lic with
          | some l => l.grade
          | none => 0),
        devId := if warm then b.devId else facts.devId, boardN := if warm then b.boardN else facts.boardN,
        i3cAddr := if warm then b.i3cAddr else facts.i3cAddr, coldId := if warm then b.coldId else facts.coldId,
        warm0 := if warm then b.warm0 else none, warm1 := if warm then b.warm1 else none } } }
  let poll : BitVec 10 := match facts.pollUs with
    | some p => if 2 ≤ p.toNat ∧ p.toNat ≤ 1000 then p else 10
    | none => 10
  let training : Tab PortDyn := if s.dyn.bring.boardN = 0 then []
    else (upFrom 0 6).foldl (fun t p => tabPut {} t p { state := .training }) []
  readPlatform facts.platform (s.modIsgal fun g => { g with pollUs := poll, ports := training })

/-- Bring-up halts at a step (R487). -/
def haltStart (cause : BitVec 4) (column : Nat) (s : State) : State :=
  s.modBring fun b => { b with step := 0xF, haltCause := cause, failedColumn := BitVec.ofNat 6 column }

/-- The last steps of every start: squall check, the record, READY in the service state. -/
def finishStart (facts : StartFacts) (s : State) : State :=
  let s := squallCheck facts s
  let s := s.modBring fun b => { b with step := 11, ready := true, refreshKept := true, readyMs := satOf 16 facts.readyMs }
  let s := writeWarm s
  { s with snap := s.dyn }

/-- The Veldon image that a start takes: the preferred slot first (R504). -/
def startImage (b : Bring) : Option (Bool × ImageSlot) :=
  let pick := fun one => if one then b.slot1 else b.slot0
  match takeImage (pick b.preferred) (pick !b.preferred) b.fuses.rollbackFloor.toNat with
  | none => none
  | some other => some (b.preferred != other, pick (b.preferred != other))

/-- The steps of a start: the three halts of R487 in their order, then the union and the map or the record,
and READY. -/
def runStart (path : BitVec 2) (record : Option WarmRecord) (facts : StartFacts) (s : State) : State :=
  let s := beginStart path facts s
  if !s.dyn.bring.fuses.crcOk then haltStart 1 0 s
  else
    match (if path = 1 then none else facts.columnFail) with
    | some c => haltStart 3 c s
    | none =>
      match startImage s.dyn.bring with
      | none => haltStart 2 0 s
      | some (one, img) =>
        let s := s.modBring fun b => { b with fwSlot := one, image := img }
        match record with
        | some r => finishStart facts (fastSquall facts (restoreRecord r s))
        | none => finishStart facts (startUnion facts (startRows facts s))

/-- COLD_START (R484, R486): CORE_PWRGD rises. The timekeeping block restarts from zero (R302) and its clock is valid: the
island's timer is steered towards it and does not step (R419). The island's token is read anew for the grade that R8 asks
for, and SPLIT stays until the island restarts. Without an operational island, or with CORE_PWRGD high already: no effect. -/
def execColdStart (facts : StartFacts) (s : State) : Host.Outcome State Fault Refusal :=
  if s.dyn.power.corePwrgd || !s.dyn.island.operational then .next s
  else
    let s := (stopFabric s).modTime fun _ => {}
    let s := s.modIsland fun i => { i with disciplined := true }
    let s := s.modBring fun b => { b with islandLicence := takeToken b.fuses.uid b.islandToken0 b.islandToken1 }
    .next (runStart 0 none facts s)

/-- WARM_RESET_ASSERT (R484, R485): no effect while CORE_PWRGD is low (R549) or the fabric is held. -/
def execWarmResetAssert (s : State) : Host.Outcome State Fault Refusal :=
  if !s.dyn.power.corePwrgd || s.dyn.power.warmReset then .next s else .next (holdFabric s)

/-- WARM_RESET_RELEASE (R484, R496): the warm path begins at the rising edge after at least 100 us, once the
island is operational (R549); after a thermal trip only a cold start runs the fabric (R551). Not due: no
effect. -/
def execWarmResetRelease (facts : StartFacts) (s : State) : Host.Outcome State Fault Refusal :=
  let p := s.dyn.power
  if !p.warmReset || !p.corePwrgd || p.thermTrip || !s.dyn.island.operational
      || s.dyn.time.wc < p.heldSince + 100 * us48 then .next s
  else
    let record := if s.dyn.bring.refreshKept then bestRecord facts s.dyn.bring else none
    .next (runStart (if record.isSome then 1 else 2) record facts s)

/-- CORE_PWRGD_FALL (R549): the fabric stops; the next rise is a cold start. -/
def execCorePwrgdFall (s : State) : Host.Outcome State Fault Refusal :=
  if !s.dyn.power.corePwrgd then .next s
  else .next ((stopFabric s).modPower fun p => { p with corePwrgd := false, warmReset := false })

/-- VMEM_OUT_OF_RANGE (R549): REFRESH_KEPT clears. -/
def execVmemOutOfRange (s : State) : Host.Outcome State Fault Refusal :=
  .next (s.modBring fun b => { b with refreshKept := false })

/-- ISL_PWRGD_FALL (R549): the island stops with its latch set, and a running fabric is held. -/
def execIslPwrgdFall (s : State) : Host.Outcome State Fault Refusal :=
  if !s.dyn.island.powered then .next s
  else
    let s := stopIsland false s
    .next (if s.dyn.power.corePwrgd && !s.dyn.power.warmReset then holdFabric s else s)

end Sys2Proof.Machine
end

