-- ==== Sys2Proof/Machine/Power.lean ====
section
/-! DEFINITION. Pace and power: weather stations, the governor, the rail (R25 to R40, R546 to R551). -/

namespace Sys2Proof.Machine

/-! Steps and the rail -/

/-- The cold minimum of a safety-basin tile (R32). -/
def coldMin (tj : BitVec 16) : BitVec 5 := if tj.toInt < 0 then 2 else 0

/-- The step that a physical tile should have: a safety-basin tile the higher of the safety step and its cold
minimum (R32), every other enabled tile the pool's step (R37). -/
def Dyn.wantedStep (d : Dyn) (p : Nat) : BitVec 5 :=
  match d.cfg.logicalOf p with
  | none => 0
  | some l =>
    if d.cfg.safetyTile l then bvMax d.cfg.policy.safeStep (coldMin (tabGet {} d.tiles p).tj) else d.power.step

/-- The physical tiles that carry a logical tile. -/
def Dyn.liveTiles (d : Dyn) : List Nat := (upFrom 0 36).filter fun p => (d.cfg.logicalOf p).isSome

/-- The rail setpoint that the wanted steps ask for: 20 mV above the highest (R27, R546). -/
def Dyn.wantedRail (d : Dyn) : Nat :=
  640 + 10 * (d.liveTiles.map fun p => (d.wantedStep p).toNat).foldl max 0

/-- The highest step that a rail setpoint serves. -/
def stepUnder (mv : Nat) : BitVec 5 := BitVec.ofNat 5 ((mv - 640) / 10)

/-- Bring the steps in force and the rail towards what is wanted: a raise of the rail comes before any raise of
a step, a fall of a step before the fall of the rail; nothing moves while the bus is silent (R547). -/
def applySteps (s : State) : State :=
  if s.dyn.power.held then s
  else
    let top := stepUnder s.dyn.power.railMv
    let s := s.dyn.liveTiles.foldl (fun s p =>
      s.modTile p fun d =>
        let w := s.dyn.wantedStep p
        { d with step := if w.toNat ≤ top.toNat then w else top }) s
    let want := s.dyn.wantedRail
    if want = s.dyn.power.railMv then s.modPower fun p => { p with wanted := none, retries := 0 }
    else if s.dyn.power.wanted = some want then s
    else s.modPower fun p => { p with wanted := some want, sentAt := s.now16, retries := 0 }

/-- The regulator answers on its bus: the command in flight is done, and steps move again. -/
def busAnswers (s : State) : State :=
  applySteps (s.modPower fun p =>
    { p with railMv := p.wanted.getD p.railMv, wanted := none, retries := 0, held := false })

/-- REGULATOR_RETRY (R547): 50 us without an answer send the command again, three times at most; after that
every step is held. Not due: no effect. -/
def execRegulatorRetry (s : State) : Host.Outcome State Fault Refusal :=
  let p := s.dyn.power
  if p.wanted.isNone || p.held || s.now16 < p.sentAt + 50 * us16 then .next s
  else if p.retries < 3 then .next (s.modPower fun p => { p with retries := p.retries + 1, sentAt := s.now16 })
  else .next (s.modPower fun p => { p with held := true })

/-! The governor -/

/-- Lower the pool by `n` steps, or halve its issue cap at step 0 (R38). -/
def Power.lower (n : Nat) (p : Power) : Power :=
  if p.step = 0 then { p with cap := p.cap / 2 }
  else if p.held then p
  else { p with step := BitVec.ofNat 5 (p.step.toNat - n) }

/-- Raise the pool by one notch (R38). -/
def Power.lift (ceil : BitVec 5) (p : Power) : Power :=
  if p.cap < 8 then { p with cap := if p.cap = 0 then 1 else 2 * p.cap }
  else if p.step.toNat < ceil.toNat ∧ !p.held then { p with step := p.step + 1 }
  else p

/-- An excursion above 480 W may run now (R36). -/
def Power.mayExceed (excEn : Bool) (p : Power) : Bool := excEn && (p.inExc || 90000 ≤ p.sinceExc)

/-- The first action of R38 that applies to a sample of `w` hundredths of a microwatt. -/
def Power.act (policy : PowerPolicy) (w : Nat) (p : Power) : Power :=
  let watt := 100000000
  if 560 * watt < w then { Power.lower 2 p with cap := 0 }
  else if 480 * watt < w && (!p.mayExceed policy.excEn || 8500 ≤ p.excTime) then Power.lower 2 p
  else if 480 * watt < w then { p with excTime := p.excTime + 100, inExc := true }
  else if p.below460.length == 10 && p.below460.all id && 1000 ≤ p.sinceChange then Power.lift policy.perfCeil p
  else p

/-- One governor sample: the checks of R38 in order, then the bookkeeping of excursions and changes. -/
def Power.sample (policy : PowerPolicy) (w : Nat) (p : Power) : Power :=
  let watt := 100000000
  let p := { p with below460 := (decide (w < 460 * watt) :: p.below460).take 10, sinceChange := p.sinceChange + 100 }
  let p' := Power.act policy w p
  let p' := if p'.step = p.step ∧ p'.cap = p.cap then p' else { p' with sinceChange := 0 }
  if w ≤ 480 * watt then { p' with excTime := 0, inExc := false, sinceExc := min 90000 (p.sinceExc + 100) }
  else { p' with sinceExc := 0 }

/-- GOVERNOR_SAMPLE (R38, R547): rail current in mA, estimates in microwatts. Without an answer from the bus
the on-die estimate of VCORE, raised by 10 %, stands for the rail. -/
def execGovernorSample (railMilliamps : Option Nat) (estVcore estVmem estVio estVisl : Nat) (s : State) :
    Host.Outcome State Fault Refusal :=
  if !s.fabricUp then .next s
  else
    let s := if railMilliamps.isSome then busAnswers s else s
    let vcore := match railMilliamps with
      | some i => i * s.dyn.power.railMv
      | none => estVcore * 110 / 100
    .next (applySteps (s.modPower (Power.sample s.dyn.cfg.policy ((vcore + estVmem + estVio + estVisl) * 103))))

/-! Weather stations -/

/-- 135 °C in units of 1/16 °C. -/
def tripTj : Int := 135 * 16

/-- What a window does to the station's record (R29, R30, R34, R551). -/
def TileDyn.window (pace tj vlocal : BitVec 16) (d : TileDyn) : TileDyn :=
  let low := decide (pace.toNat < 820)
  { d with
    pace := pace, tj := tj, vlocal := vlocal
    floorLow := if low then satInc d.floorLow else d.floorLow
    windowMin := some (match d.windowMin with
      | some m => if pace.toNat < m.toNat then pace else m
      | none => pace)
    lowRun := if low then d.lowRun + 1 else 0
    okRun := if low then 0 else d.okRun + 1
    hotRun := if tripTj < tj.toInt then d.hotRun + 1 else 0 }

/-- The replica of a tile runs: it is Active or Idle and not waking. -/
def TileDyn.measures (d : TileDyn) : Bool := d.power == .idle || d.power == .active

/-- WEATHER_WINDOW of a physical tile (R29, R34, R551): two low windows in a row of a safety-basin tile raise
PACE_BELOW_FLOOR, two above 135 °C trip the fabric. A tile whose replica does not run has no window. -/
def execWeatherWindow (t : Fin 36) (pace tj vlocal : BitVec 16) (s : State) : Host.Outcome State Fault Refusal :=
  let p := t.val
  let safety := match s.dyn.cfg.logicalOf p with
    | some l => s.dyn.cfg.safetyTile l
    | none => false
  if !s.fabricUp || (s.dyn.cfg.logicalOf p).isNone || !(s.tile p).measures then .next s
  else
    let s := applySteps (s.modTile p (TileDyn.window pace tj vlocal))
    let s := if safety && 2 ≤ (s.tile p).lowRun then raiseDoubt 9 s else settle s
    if 2 ≤ (s.tile p).hotRun then .next (holdFabric (s.modPower fun w => { w with thermTrip := true }))
    else .next s

end Sys2Proof.Machine
end

