-- ==== Sys2Proof/Machine/Memory.lean ====
section
/-! DEFINITION. Memory accesses of tiles, application cores and edge units, as their home serves them
(R183 to R214, R518 to R523, R530 to R532, R542). -/

namespace Sys2Proof.Machine

/-! Who makes an access -/

/-- The berth, the identity for error records and the job of a requester. -/
structure Actor where
  berth : BitVec 6
  src : Src
  job : Option Nat := none
  /-- physical tile, for tile contexts -/
  tile : Option Nat := none
  deriving DecidableEq, Repr

/-- The actor behind a requester at lock cycle `n`; a context has to be a job that uses the logical tile. -/
def State.actorAt (s : State) (n : Nat) : Requester → Option Actor
  | .context t j =>
    match s.job j with
    | none => none
    | some b =>
      match (s.cfgAt n).physOf t with
      | some p => if b.placedOn t then some { berth := b.berth, src := s.jobSrc j t, job := some j, tile := some p } else none
      | none => none
  | .hart h =>
    let b := tabGet 0 s.dyn.cores.kberth h
    some { berth := b, src := { source := 2, berth := b, gen := (s.dyn.cfg.berth b).gen } }
  | .edge u b => some { berth := b, src := edgeSrc s u b }

/-- The actor behind a requester now. -/
def State.actor (s : State) (r : Requester) : Option Actor := s.actorAt s.lock.number.toNat r

/-- What a requester gets when its access faults: an answer, and its job is torn down (R179), or the hart's
access-fault exception (R532). -/
def faultAccess (r : Requester) (va : Nat) (a : Answer) (s : State) : State :=
  let s := respond r va a s
  match r with
  | .context t j => failOn j (if a = .addressFault then .addressFault else .uncorrectable) t s
  | .hart h => s.modCores fun c => { c with traps := tabPut 0 c.traps h 3 }
  | .edge _ _ => s

/-! Credits (R54) -/

/-- The credits of one access: a slot at the receiver, and for a non-posted one room for the completion. -/
def takeCredits (src unit : Nat) (k : PoundKind) (safety : Bool) (s : State) : Option State :=
  let t := s.dyn.work.slots
  let t' := if k = .posted then takeSlot unit .posted safety t
            else (takeSlot unit .request safety t).bind (takeSlot src .completion safety)
  t'.map fun t => s.modWork fun w => { w with slots := t }

/-! Translation and memory types -/

/-- What an access asks of its entry. -/
inductive Want where
  | read | write | atomic
  deriving DecidableEq, Repr

/-- The entry permits the access (R196, R197, R202): on an ordered-device page only 1, 2, 4 or 8 aligned bytes
and no atomic. -/
def XlatEntry.permits (e : XlatEntry) (w : Want) (va len : Nat) : Bool :=
  (match w with
   | .read => e.read
   | .write => e.write
   | .atomic => e.read && e.write && !e.device1)
  && (!e.device1 || deviceSize va len)

/-- The first part of an access that meets an ordered-device page, where the whole access is none that R202 allows there. -/
def State.deviceMisuse (s : State) (n : Nat) (b : BitVec 6) (addr len : Nat) : Option Nat :=
  if deviceSize addr len then none
  else ((lineParts (len / 64 + 2) addr len).find? fun x => (s.lookupAt n b x.1).any (·.device1)).map (·.1)

/-- The line that an access names, whichever device holds it. -/
def XlatEntry.lineKey (e : XlatEntry) (va : Nat) : Nat :=
  (e.target.toNat * 4 + e.device.toNat) * 2 ^ 42 + e.addr va / 64

/-- The unit that serves an access or sends it on: a column, Veldon's registers, an Isgal port, the root port. -/
def State.unitOf (s : State) (e : XlatEntry) (va : Nat) : Nat :=
  if e.target = 0 then columnOf (e.addr va)
  else if e.target = 1 then isgalPort ((s.portTo e.device (e.addr va)).getD 0)
  else if registerFrame (e.addr va / 0x10000) then veldonPort
  else edgePort .gateway

/-! Waking (R41, R44) -/

/-- Time a wake takes (R41), in hidden units: Deep also reloads the resident weights at 745 bytes per ns. -/
def wakeTime (s : State) (p : Nat) : Nat :=
  match (s.tile p).power with
  | .nap => 2 * us48
  | .doze => 40 * us48
  | .deep =>
    2000 * us48 + ((s.tileWork p).residents.map fun r => r.weights.length).foldl (· + ·) 0 * 2 ^ 48 / 745
  | _ => 0

/-- Work arrives at a sleeping tile's NI: its wake starts (R41, R557). -/
def startWake (p : Nat) (s : State) : State :=
  let d := s.tile p
  if (d.power == .nap || d.power == .doze || d.power == .deep) && d.wakeEnds.isNone then
    let t := s.dyn.time.wc + wakeTime s p
    s.modTile p fun d => { d with wakeEnds := some t }
  else s

/-! Accesses that wait (R44, R51, R54, R72, R202, R522) -/

/-- A column cannot serve an access: a peer's lock on the port, or a tile in Deep below the column. -/
def State.columnHolds (s : State) (u : Nat) (k : PoundKind) : Bool :=
  (k != .posted && (tabGet none s.dyn.isgal.colLocks u).isSome) || (s.tile u).power == .deep

/-- An access follows one that waits at the unit: of its source and channel, in its class or a posted write (R51, R207);
or one of its line, where it is no posted write that passes a request, and on the safety channel not one of the general
channel (R64, R206). -/
def State.behind (s : State) (src u line : Nat) (k : PoundKind) (safety : Bool) : Bool :=
  s.dyn.isgal.held.any fun h => h.unit == u && (h.cls == k || h.cls == .posted)
    && ((h.src == src && h.safety == safety) || (h.line == line && (h.safety || !safety)))

/-- A transaction admitted before the current lock cycle is still under way (R71). -/
def State.oldTraffic (s : State) : Bool :=
  let n := s.lock.number.toNat
  s.dyn.isgal.held.any (fun h => h.stamp < n) || s.dyn.isgal.outs.any (fun (o : OutReq) => o.stamp < n)
  || s.dyn.isgal.outLocks.any (fun (k : OutLock) => !k.granted && k.stamp < n)
  || s.dyn.isgal.waiting.any (fun w => w.stamp < n) || s.dyn.gateway.requests.any (fun (r : PcieReq) => r.stamp < n)

/-- An access of an earlier lock cycle to a page of a berth remains somewhere in the device (R72). -/
def State.oldAccess (s : State) (b : BitVec 6) (va : Nat) : Bool :=
  let n := s.lock.number.toNat
  let page := va / 0x10000
  s.dyn.isgal.held.any (fun h => h.stamp < n && h.page == some (b, page))
  || s.dyn.isgal.outs.any (fun (o : OutReq) => o.stamp < n && o.tx.berth == b && o.va / 0x10000 == page)
  || s.dyn.isgal.outLocks.any (fun (k : OutLock) => !k.granted && k.stamp < n && k.tx.berth == b && k.va / 0x10000 == page)
  || s.dyn.gateway.requests.any (fun (r : PcieReq) => r.stamp < n && r.berth == b && r.va / 0x10000 == page)

/-- A new access to a page whose entry the last lock cycle changed is held while an old one remains (R72). -/
def State.pageWaits (s : State) (n : Nat) (b : BitVec 6) (va : Nat) : Bool :=
  n == s.lock.number.toNat && s.lock.prev.isSome && s.lookupAt (n - 1) b va != s.lookupAt n b va && s.oldAccess b va

/-- An ordered-device access of the requester is under way (R202). -/
def State.orderedBusy (s : State) (r : Requester) : Bool :=
  s.dyn.isgal.outs.any (fun (o : OutReq) => o.ordered && o.reader == some r)
  || s.dyn.gateway.requests.any (fun (o : PcieReq) => o.ordered && o.reader == some r)

/-- One access, within one line, as its NI or edge port issues it. -/
structure Acc where
  r : Requester
  a : Actor
  /-- the lock cycle of its admission -/
  stamp : Nat
  e : XlatEntry
  va : Nat
  /-- the row that makes it again -/
  instr : Instr

/-- Something that the access follows is not over. -/
def State.mustHold (s : State) (x : Acc) (k : PoundKind) : Bool :=
  let u := s.unitOf x.e x.va
  s.columnHolds u k || s.behind (s.requesterUnit x.r) u (x.e.lineKey x.va) k x.a.src.onSafety || s.pageWaits x.stamp x.a.berth x.va
  || (x.e.device1 && s.orderedBusy x.r)

/-- Hold a request at a unit: it is served when the reason ends. -/
def holdReq (h : HeldReq) (s : State) : State :=
  startWake h.unit (s.modIsgal fun g => { g with held := g.held ++ [h] })

/-- The access waits at its unit. -/
def Acc.hold (x : Acc) (k : PoundKind) (s : State) : State :=
  holdReq { unit := s.unitOf x.e x.va, stamp := x.stamp, cls := k, safety := x.a.src.onSafety,
            src := s.requesterUnit x.r, line := x.e.lineKey x.va, page := some (x.a.berth, x.va / 0x10000), instr := x.instr } s

/-- The access is issued with its credits, or waits. -/
def Acc.issue (x : Acc) (k : PoundKind) (go : State → State) (s : State) : State :=
  if s.mustHold x k then x.hold k s
  else
    match takeCredits (s.requesterUnit x.r) (s.unitOf x.e x.va) k x.a.src.onSafety s with
    | none => x.hold k s
    | some s => go s

/-- The access is translated: its entry permits it and the unit has the entry (R195 to R198); else it faults. -/
def translated (n : Nat) (r : Requester) (a : Actor) (w : Want) (va len : Nat) (instr : Instr) (go : Acc → State → State)
    (s : State) : State :=
  match s.lookupAt n a.berth va with
  | none => faultAccess r va .addressFault s
  | some e =>
    if !e.permits w va len then faultAccess r va .addressFault s
    else
      match walk (some (s.requesterUnit r)) ((s.cfgAt n).entryNo a.berth va) s with
      | (s, false) => faultAccess r va .uncorrectable s
      | (s, true) => go { r := r, a := a, stamp := n, e := e, va := va, instr := instr } s

/-- The requester of a memory row. -/
def requesterOf : Instr → Option Requester
  | .memoryRead r _ _ _ _ => some r
  | .memoryWrite r _ _ _ => some r
  | .memoryAtomic r _ _ _ _ _ => some r
  | _ => none

/-- A non-posted request of some requester is not completed (R62). -/
def State.requestOpen (s : State) (p : Requester → Bool) : Bool :=
  s.dyn.isgal.held.any (fun h => (requesterOf h.instr).any p)
  || s.dyn.isgal.outs.any (fun (o : OutReq) => o.reader.any p)
  || s.dyn.gateway.requests.any (fun (o : PcieReq) => o.reader.any p)

/-- A non-posted request of a job is not completed. -/
def State.jobWaits (s : State) (j : Nat) : Bool := s.requestOpen fun r => match r with
  | .context _ k => k == j
  | _ => false

/-- A non-posted request of a context on a logical tile is not completed. -/
def State.tileWaits (s : State) (l : Nat) : Bool := s.requestOpen fun r => match r with
  | .context t _ => t.val == l
  | _ => false

/-! Peers and the root port -/

/-- The number of a context's last posted write to the column behind an entry (R142). -/
def State.writeNumber (s : State) (a : Actor) (e : XlatEntry) (va : Nat) : Nat :=
  match a.job, a.tile with
  | some j, some p => tabGet 0 (s.tileWork p).writeNo (writeKey j (e.column va))
  | _, _ => 0

/-- A transaction of an actor to an address of a peer. -/
def peerTx (a : Actor) (e : XlatEntry) (va : Nat) (s : State) : IsgalTx :=
  { remoteTx a.src a.berth e va s with wnum := BitVec.ofNat 16 (s.writeNumber a e va) }

/-- Send a non-posted transaction to a peer and keep its request until the completion. -/
def requestPeer (x : Acc) (len : Nat) (tx : IsgalTx) (conditional : Bool) (s : State) : State :=
  let req : OutReq := { tag := tx.tag, peer := x.e.device, reader := some x.r, va := x.va, tx := tx, conditional := conditional,
                        len := len, stamp := x.stamp, ordered := x.e.device1 }
  sendPeer x.e.device tx (some x.r) (s.modIsgal fun g => { g with outs := g.outs ++ [req], nextTag := g.nextTag + 1 })

/-- A load-reserved to a peer page of TYPE 0 leaves as LOCK_READ (R522). -/
def lockPeer (h : Fin 24) (x : Acc) (len : Nat) (tx : IsgalTx) (s : State) : State :=
  let k : OutLock := { tag := tx.tag, peer := x.e.device, hart := h, va := x.va, tx := { tx with kind := 5 }, len := len,
                       stamp := x.stamp }
  sendPeer x.e.device { tx with kind := 5 } (some (.hart h))
    (s.modIsgal fun g => { g with outLocks := g.outLocks ++ [k], nextTag := g.nextTag + 1 })

/-! Prefetch (R203 to R205, R521) -/

/-- Put a line at the front of a prefetch buffer of `n` lines. -/
def bufferLine (n : Nat) (x : PrefLine) (b : List PrefLine) : List PrefLine :=
  (x :: b.filter fun e => !(e.job == x.job && e.line == x.line)).take n

/-- A line of another device that arrived may still be used: a peer's within 2 µs (R521). -/
def State.freshLine (s : State) (x : PrefLine) : Bool := !x.arrived || x.line / 2 ^ 44 != 1 || s.now16 ≤ x.time + 2 * us16

/-- Note a prefetched line in the NI's buffer. -/
def fillNi (p : Nat) (x : PrefLine) (s : State) : State :=
  s.modTileWork p fun w => { w with prefetch := bufferLine 64 x w.prefetch }

/-- Ask a peer for a line that goes to a buffer. -/
def fillFromPeer (a : Actor) (e : XlatEntry) (va : Nat) (at_ : FillAt) (s : State) : State :=
  let tx := { peerTx a e va s with size := 6 }
  let o : OutReq := { tag := tx.tag, peer := e.device, va := va, tx := tx, len := 64, stamp := at_.stamp, fill := some at_ }
  sendPeer e.device tx none (s.modIsgal fun g => { g with outs := g.outs ++ [o], nextTag := g.nextTag + 1 })

/-- The line in the bridge's buffer of a peer that a context and stamp may use. -/
def State.bridged (s : State) (dev job line stamp : Nat) : Option PrefLine :=
  (tabGet [] s.dyn.isgal.bridge dev).find? fun x => x.job == job && x.line == line && x.stamp == stamp && s.freshLine x

/-- The NI prefetches one line: a local one is read at its home unless that cannot serve it now, others by a read whose
data fill the buffer. -/
def prefetchLine (a : Actor) (j p n : Nat) (e : XlatEntry) (va : Nat) (s : State) : State :=
  let key := e.lineKey va
  let x : PrefLine := { job := j, line := key, stamp := n }
  if ((s.tileWork p).prefetch.any fun y => y.job == j && y.line == key) then s
  else if e.target = 0 then
    let col := columnOf (e.addr va)
    if s.columnHolds col .request || s.behind p col key .request a.src.onSafety then startWake col s
    else
      match readDramLine { source := 5 } (e.addr va / 64) s with
      | (s, some _) => fillNi p x s
      | (s, none) => s
  else if e.target = 1 then
    match s.bridged e.device.toNat j key n with
    | some y => fillNi p y s
    | none => fillFromPeer a e va { tile := some p, job := j, line := key, stamp := n } (fillNi p { x with arrived := false } s)
  else putPcie { tag := 0, va := va, len := 64, since := 0, berth := a.berth, fill := some { tile := some p, job := j, line := key, stamp := n } }
    (fillNi p { x with arrived := false } s)

/-- The bridge prefetches one line of a peer for a context (R521). -/
def bridgeLine (a : Actor) (j n : Nat) (e : XlatEntry) (va : Nat) (s : State) : State :=
  let d := e.device.toNat
  let key := e.lineKey va
  if ((tabGet [] s.dyn.isgal.bridge d).any fun y => y.job == j && y.line == key) then s
  else
    fillFromPeer a e va { job := j, line := key, stamp := n } (s.modIsgal fun g =>
      { g with bridge := tabMod [] g.bridge d (bufferLine 512 { job := j, line := key, stamp := n, arrived := false }) })

/-- The prefetches that a demand read of a line causes (R204, R521). -/
def prefetchAfter (a : Actor) (n : Nat) (e : XlatEntry) (va : Nat) (s : State) : State :=
  match a.job, a.tile with
  | some j, some p =>
    let line := va / 64
    let last := tabGet 0 (s.tileWork p).lastLine j
    let s := s.modTileWork p fun w => { w with lastLine := tabPut 0 w.lastLine j (line + 1) }
    if last = line ∧ line % 1024 ≠ 0 ∧ e.prefetch ∧ !e.device1 then
      let ahead := fun k => (upFrom (line + k) 8).filter fun l => l / 1024 = line / 1024
      let s := (ahead 1).foldl (fun s l => prefetchLine a j p n e (l * 64) s) s
      if e.target = 1 then (ahead 9).foldl (fun s l => bridgeLine a j n e (l * 64) s) s else s
    else s
  | _, _ => s

/-- A demand read meets the prefetch buffer: a line of this context and stamp is used, one of another stamp, or too old,
is discarded (R204, R205, R521). -/
def useBuffer (a : Actor) (n key : Nat) (s : State) : State × Option PrefLine :=
  match a.job, a.tile with
  | some j, some p =>
    match (s.tileWork p).prefetch.find? fun x => x.job == j && x.line == key with
    | none => (s, none)
    | some x =>
      if x.stamp = n ∧ s.freshLine x then (fillNi p x s, some x)
      else (s.modTileWork p fun w => { w with prefetch := w.prefetch.filter fun y => !(y.job == j && y.line == key) }, none)
  | _, _ => (s, none)

/-- The bytes of an access that a buffered line serves. -/
def bufferedBytes (e : XlatEntry) (x : PrefLine) (va len : Nat) (s : State) : List Byte :=
  (((if e.target = 0 then s.mem.lineBytes (e.addr va / 64) else x.data).drop (va % 64)).take len)

/-- The data of a prefetch arrive. -/
def fillArrived (f : FillAt) (data : List Byte) (s : State) : State :=
  let put := fun (b : List PrefLine) => b.map fun (y : PrefLine) =>
    if y.job = f.job ∧ y.line = f.line ∧ y.stamp = f.stamp then { y with arrived := true, data := data, time := s.now16 } else y
  match f.tile with
  | some p => s.modTileWork p fun w => { w with prefetch := put w.prefetch }
  | none => s.modIsgal fun g => { g with bridge := tabMap [] (fun _ b => put b) g.bridge }

/-- A prefetch whose read failed: nothing is buffered (R469). -/
def fillFailed (f : FillAt) (s : State) : State :=
  let cut := fun (b : List PrefLine) => b.filter fun (y : PrefLine) => !(y.job == f.job && y.line == f.line && !y.arrived)
  match f.tile with
  | some p => s.modTileWork p fun w => { w with prefetch := cut w.prefetch }
  | none => s.modIsgal fun g => { g with bridge := tabMap [] (fun _ b => cut b) g.bridge }

/-! Reads -/

/-- The bytes of the register range from an offset. -/
def registerBytes (s : State) (off len : Nat) : List Byte := (upFrom off len).map (registerByte s)

/-- Where the register range begins. -/
def registerBase : Nat := 0x800000000000

/-- A read at its home in a local column. The flag `reserve` is a hart's load-reserved. -/
def readHome (x : Acc) (flips : BitVec 544) (reserve : Bool) (len : Nat) (s : State) : State :=
  let pa := x.e.addr x.va
  match readDram x.a.src pa len (flipLine (pa / 64) flips s) with
  | (s, none) => faultAccess x.r x.va .uncorrectable s
  | (s, some d) =>
    let s := match x.r with
      | .hart h => if reserve then
          s.modCores fun c => { c with reservations := tabPut 0 c.reservations h (pa / 64 + 1) } else s
      | _ => s
    prefetchAfter x.a x.stamp x.e x.va (respond x.r x.va (.data d) s)

/-- A read that leaves for a peer; a bridge has at most 8 LOCK_READs outstanding to each peer (R522). -/
def readPeer (x : Acc) (reserve : Bool) (len : Nat) (s : State) : State :=
  let tx := { peerTx x.a x.e x.va s with size := sizeCode len }
  match x.r with
  | .hart h => if reserve then lockPeer h x len tx s else requestPeer x len tx false s
  | _ => prefetchAfter x.a x.stamp x.e x.va (requestPeer x len tx false s)

/-- A read that leaves for the root port, or that the register block answers. -/
def readHost (x : Acc) (len : Nat) (s : State) : State :=
  let pa := x.e.addr x.va
  if registerFrame (pa / 0x10000) then respond x.r x.va (.data (registerBytes s (pa - registerBase) len)) s
  else prefetchAfter x.a x.stamp x.e x.va
    (putPcie { tag := 0, reader := some x.r, va := x.va, len := len, since := 0, berth := x.a.berth, ordered := x.e.device1 } s)

/-- No further LOCK_READ to the peer may leave (R522). -/
def State.locksFull (s : State) (dev : BitVec 2) : Bool :=
  8 ≤ (s.dyn.isgal.outLocks.filter fun (k : OutLock) => k.peer == dev).length

/-- A read within one line: from the prefetch buffer, or issued to its target. -/
def readPart (n : Nat) (r : Requester) (a : Actor) (flips : BitVec 544) (reserve : Bool) (va len : Nat) (s : State) : State :=
  let again := Instr.memoryRead r (BitVec.ofNat 40 va) len flips reserve
  translated n r a .read va len again (fun x s =>
    if reserve && x.e.device1 then faultAccess r va .addressFault s
    else
      let (s, hit) := useBuffer a n (x.e.lineKey va) s
      match hit with
      | some y =>
        if y.arrived then prefetchAfter a n x.e va (respond r va (.data (bufferedBytes x.e y va len s)) s)
        else x.hold .request s
      | none =>
        if x.e.target = 0 then x.issue .request (readHome x flips reserve len) s
        else if x.e.target = 1 then
          if !s.peerUp x.e.device then faultAccess r va .addressFault s
          else if reserve && s.locksFull x.e.device then x.hold .request s
          else x.issue .request (readPeer x reserve len) s
        else x.issue .request (readHost x len) s) s

/-- MEMORY_READ (R206): each line of the read in turn; on an ordered-device page the whole access is one of R202. A read of a context that does not exist, or while the
fabric does not run, has no effect. `n`: the lock cycle of its admission. -/
def memRead (n : Nat) (r : Requester) (addr len : Nat) (flips : BitVec 544) (reserve : Bool) (s : State) : State :=
  match s.actorAt n r with
  | none => s
  | some a =>
    match s.deviceMisuse n a.berth addr len with
    | some va => faultAccess r va .addressFault s
    | none => (lineParts (len / 64 + 2) addr len).foldl (fun s x => readPart n r a flips reserve x.1 x.2 s) s

/-! Writes -/

/-- A job's posted write to a column takes the next number (R142). -/
def countWrite (a : Actor) (col : Nat) (s : State) : State :=
  match a.job, a.tile with
  | some j, some p => s.modTileWork p fun w => { w with writeNo := tabMod 0 w.writeNo (writeKey j col) (· + 1) }
  | _, _ => s

/-- A write that its home dropped (R193, R532): a context is torn down, a hart's store raises BASE + 3. -/
def writeLost (r : Requester) (a : Actor) (va : Nat) (s : State) : State :=
  match r with
  | .hart _ => raiseBerth a.berth.toNat 3 s
  | _ => faultAccess r va .uncorrectable s

/-- The end of a hart's store-conditional: 0 when it wrote, 1 when it failed. -/
def scDone (r : Requester) (va : Nat) (ok : Bool) (s : State) : State :=
  respond r va (.data (bytesOf 4 (if ok then 0 else 1))) s

/-- The hart holds a local reservation of the line. -/
def State.reserves (s : State) (r : Requester) (line : Nat) : Bool :=
  match r with
  | .hart h => tabGet 0 s.dyn.cores.reservations h == line + 1
  | _ => false

/-- The granted lock that a store-conditional to a peer's line uses. -/
def State.lockFor (s : State) (r : Requester) (va : Nat) : Option OutLock :=
  s.dyn.isgal.outLocks.find? fun k => Requester.hart k.hart == r && k.va / 64 == va / 64 && k.granted

/-- A hart's reservation ends with its store-conditional. -/
def clearReservation (r : Requester) (s : State) : State :=
  match r with
  | .hart h => s.modCores fun c => { c with reservations := tabPut 0 c.reservations h 0 }
  | _ => s

/-- A write at its home in a local column: the write is posted, or answered. -/
def writeHome (x : Acc) (k : PoundKind) (conditional : Bool) (d : List Byte) (s : State) : State :=
  let pa := x.e.addr x.va
  let s := if k = .posted then countWrite x.a (columnOf pa) s else s
  match writeDram x.a.src pa d s with
  | (s, false) => writeLost x.r x.a x.va s
  | (s, true) =>
    if conditional then scDone x.r x.va true s else if k = .posted then s else respond x.r x.va .done s

/-- A posted write leaves for a peer with its number. -/
def postPeer (x : Acc) (d : List Byte) (s : State) : State :=
  let s := countWrite x.a (x.e.column x.va) s
  sendPeer x.e.device { peerTx x.a x.e x.va s with data := d, size := sizeCode d.length, kind := 1, cls := 1, tag := 0 } (some x.r) s

/-- A store-conditional to a peer's line leaves as LOCK_WRITE under its granted lock, or fails (R522). -/
def conditionalPeer (x : Acc) (d : List Byte) (s : State) : State :=
  match s.lockFor x.r x.va with
  | none => scDone x.r x.va false s
  | some k =>
    x.issue .request (fun s =>
      requestPeer x d.length { peerTx x.a x.e x.va s with data := d, size := sizeCode d.length, kind := 6 } true
        (s.modIsgal fun g => { g with outLocks := g.outLocks.filter fun (y : OutLock) => y.tag != k.tag })) s

/-- A write that leaves for the root port, or that the register block takes (R482: non-posted). -/
def writeHost (x : Acc) (d : List Byte) (s : State) : State :=
  let pa := x.e.addr x.va
  if registerFrame (pa / 0x10000) then respond x.r x.va .done (registerWrite (pa - registerBase) d s)
  else putPcie { tag := 0, reader := some x.r, va := x.va, len := d.length, data := d, since := 0, berth := x.a.berth,
                 ordered := x.e.device1 } s

/-- A write within one line reaches its target. Writes to TYPE 1 pages, to peers' TYPE 1 pages and to host
windows are non-posted (R202, R482); the others are posted. -/
def writePart (n : Nat) (r : Requester) (a : Actor) (conditional : Bool) (va : Nat) (d : List Byte) (s : State) : State :=
  let again := Instr.memoryWrite r (BitVec.ofNat 40 va) d conditional
  translated n r a .write va d.length again (fun x s =>
    let k : PoundKind := if x.e.device1 || conditional then .request else .posted
    if conditional && x.e.device1 then faultAccess r va .addressFault s
    else if x.e.target = 0 then
      if conditional && !s.mustHold x k && !s.reserves r (x.e.addr va / 64) then scDone r va false (clearReservation r s)
      else x.issue k (writeHome x k conditional d) s
    else if x.e.target = 1 then
      if !s.peerUp x.e.device then faultAccess r va .addressFault s
      else if conditional then conditionalPeer x d s
      else if x.e.device1 then
        x.issue .request (fun s => requestPeer x d.length { peerTx a x.e va s with data := d, size := sizeCode d.length, kind := 2 } false s) s
      else x.issue .posted (postPeer x d) s
    else x.issue .request (writeHost x d) s) s

/-- MEMORY_WRITE (R206): each line of the write in turn. -/
def memWrite (n : Nat) (r : Requester) (addr : Nat) (d : List Byte) (conditional : Bool) (s : State) : State :=
  match s.actorAt n r with
  | none => s
  | some a =>
    match s.deviceMisuse n a.berth addr d.length with
    | some va => faultAccess r va .addressFault s
    | none => (cutLines (d.length / 64 + 2) addr d).foldl (fun s x => writePart n r a conditional x.1 x.2 s) s

/-! Atomics (R209) -/

/-- The operation on `w` bits: the value stored. -/
def atomicApply (op : AtomicOp) {w : Nat} (old v cmp : BitVec w) : BitVec w :=
  match op with
  | .add => old + v
  | .minS => if v.slt old then v else old
  | .minU => if v.ult old then v else old
  | .maxS => if old.slt v then v else old
  | .maxU => if old.ult v then v else old
  | .and => old &&& v
  | .or => old ||| v
  | .xor => old ^^^ v
  | .swap => v
  | .cas => if old = cmp then v else old

/-- The new bytes of an atomic on 4 or 8 bytes. -/
def atomicBytes (op : AtomicOp) (size8 : Bool) (old : List Byte) (v cmp : BitVec 64) : List Byte :=
  let n := ofBytes old
  if size8 then bytesOf 8 (atomicApply op (BitVec.ofNat 64 n) v cmp).toNat
  else bytesOf 4 (atomicApply op (BitVec.ofNat 32 n) (v.setWidth 32) (cmp.setWidth 32)).toNat

/-- AOP of an atomic: the manual gives the field and not its codes; the order of R209 numbers them. -/
def atomicCode : AtomicOp → BitVec 4
  | .add => 0
  | .minS => 1
  | .minU => 2
  | .maxS => 3
  | .maxU => 4
  | .and => 5
  | .or => 6
  | .xor => 7
  | .swap => 8
  | .cas => 9

/-- An atomic at its home: the old value is returned, and the new one stored. -/
def atomicHome (a : Src) (pa : Nat) (op : AtomicOp) (size8 : Bool) (operand compare : BitVec 64) (s : State) :
    State × Option (List Byte) :=
  match readDram a pa (if size8 then 8 else 4) s with
  | (s, none) => (s, none)
  | (s, some old) => ((writeDram a pa (atomicBytes op size8 old operand compare) s).1, some old)

/-- The data of an atomic's transaction: operand and compare value. -/
def atomicData (operand compare : BitVec 64) : List Byte := bytesOf 8 operand.toNat ++ bytesOf 8 compare.toNat

/-- MEMORY_ATOMIC (R209): at its home here or on a peer; pages of TYPE 1 and host windows have none (R202). -/
def memAtomic (n : Nat) (r : Requester) (addr : Nat) (op : AtomicOp) (size8 : Bool) (operand compare : BitVec 64) (s : State) :
    State :=
  let len := if size8 then 8 else 4
  match s.actorAt n r with
  | none => s
  | some a =>
    if addr % len ≠ 0 then faultAccess r addr .addressFault s
    else
      translated n r a .atomic addr len (.memoryAtomic r (BitVec.ofNat 40 addr) op size8 operand compare) (fun x s =>
        if x.e.target = 0 then
          x.issue .request (fun s =>
            match atomicHome a.src (x.e.addr addr) op size8 operand compare s with
            | (s, none) => faultAccess r addr .uncorrectable s
            | (s, some old) => respond r addr (.data old) s) s
        else if x.e.target = 1 then
          if !s.peerUp x.e.device then faultAccess r addr .addressFault s
          else x.issue .request (fun s => requestPeer x len
            { peerTx a x.e addr s with kind := 3, size := sizeCode len, aop := atomicCode op, data := atomicData operand compare }
            false s) s
        else faultAccess r addr .addressFault s) s

/-! Accesses of engines, which a step makes whole (R212, R213): the bytes that other devices send are free values -/

/-- A step of an engine met a unit that cannot take its access now: the step is made when it can. -/
def blockAt (u : Nat) (s : State) : State := { s with blocked := u :: s.blocked }

/-- A step of an engine happens unless a unit could not take one of its accesses: then only the wakes start, and the
step waits (R44, R51, R54, R72). -/
def unlessHeld (f : State → State) (s : State) : State :=
  let u := f s
  if u.blocked = [] then u else u.blocked.foldl (fun s c => startWake c s) s

/-- The engine's access may be made: nothing that it follows is under way, and its credits, which come back within the
step, are free. -/
def State.mayIssue (s : State) (x : Acc) (k : PoundKind) : Bool :=
  !s.mustHold x k && (takeCredits (s.requesterUnit x.r) (s.unitOf x.e x.va) k x.a.src.onSafety s).isSome

/-- One access of an engine within one line, translated and issued, or blocked. -/
def engineAccess {α : Type} (a : Actor) (w : Want) (va len : Nat) (kind : XlatEntry → PoundKind)
    (go : Acc → State → State × Access α) (s : State) : State × Access α :=
  let n := s.lock.number.toNat
  match s.lookup a.berth va with
  | none => (s, .addressFault)
  | some e =>
    if !e.permits w va len || (e.target == 1 && !s.peerUp e.device) then (s, .addressFault)
    else
      match walk a.tile (s.dyn.cfg.entryNo a.berth va) s with
      | (s, false) => (s, .uncorrectable)
      | (s, true) =>
        let r : Requester := match a.job, a.tile.bind s.dyn.cfg.logicalOf with
          | some j, some l => if h : l < 36 then .context ⟨l, h⟩ j else .edge .gateway a.berth
          | _, _ => .edge .gateway a.berth
        let x : Acc := { r := r, a := a, stamp := n, e := e, va := va, instr := .memoryRead r 0 0 0 false }
        if s.mayIssue x (kind e) then go x s else (blockAt (s.unitOf e va) s, .uncorrectable)

/-- What an engine reads of one line. -/
def enginePart (a : Actor) (va len : Nat) (s : State) : State × Access (List Byte) :=
  engineAccess a .read va len (fun _ => .request) (fun x s =>
    let pa := x.e.addr va
    let (s, hit) := useBuffer a x.stamp (x.e.lineKey va) s
    match hit with
    | some y =>
      if y.arrived then (prefetchAfter a x.stamp x.e va s, .ok (bufferedBytes x.e y va len s))
      else (blockAt (s.unitOf x.e va) s, .uncorrectable)
    | none =>
      if x.e.target = 0 then
        match readDram a.src pa len s with
        | (s, some d) => (prefetchAfter a x.stamp x.e va s, .ok d)
        | (s, none) => (s, .uncorrectable)
      else if registerFrame (pa / 0x10000) && x.e.target == 2 then (s, .ok (registerBytes s (pa - registerBase) len))
      else
        let s := if x.e.target = 1 then
            sendUnheard x.e.device va len x.e.device1 { peerTx a x.e va s with size := sizeCode len } s
          else putPcie { tag := 0, va := va, len := len, since := 0, berth := a.berth, ordered := x.e.device1 } s
        (prefetchAfter a x.stamp x.e va s.bump, .ok (remoteBytes s (x.e.device.toNat * 2 ^ 48 + pa) len))) s

/-- Go on with what an access gave, or stop at its fault. -/
def thenA {α β : Type} (x : State × Access α) (f : α → State → State × Access β) : State × Access β :=
  match x with
  | (s, .ok v) => f v s
  | (s, .addressFault) => (s, .addressFault)
  | (s, .uncorrectable) => (s, .uncorrectable)

/-- Do an access for each element of a list in turn; the first fault ends it. -/
def eachA {α β : Type} (f : α → State → State × Access β) : List α → State → State × Access (List β)
  | [], s => (s, .ok [])
  | a :: t, s => thenA (f a s) fun v s => thenA (eachA f t s) fun vs s => (s, .ok (v :: vs))

/-- A tile context reads `len` bytes, line by line. -/
def contextRead (a : Actor) (va len : Nat) (s : State) : State × Access (List Byte) :=
  match s.deviceMisuse s.lock.number.toNat a.berth va len with
  | some _ => (s, .addressFault)
  | none =>
    thenA (eachA (fun x s => enginePart a x.1 x.2 s) (lineParts (len / 64 + 2) va len) s) fun ds s => (s, .ok ds.flatten)

/-- The class of a write through an entry. -/
def XlatEntry.writeKind (e : XlatEntry) : PoundKind := if e.device1 || e.target == 2 then .request else .posted

/-- What an engine writes of one line. -/
def engineStore (a : Actor) (va : Nat) (d : List Byte) (s : State) : State × Access Unit :=
  engineAccess a .write va d.length XlatEntry.writeKind (fun x s =>
    let pa := x.e.addr va
    if x.e.target = 0 then
      let s := if x.e.device1 then s else countWrite a (columnOf pa) s
      match writeDram a.src pa d s with
      | (s, true) => (s, .ok ())
      | (s, false) => (s, .uncorrectable)
    else if x.e.target = 1 then
      if x.e.device1 then
        (sendUnheard x.e.device va d.length true { peerTx a x.e va s with kind := 2, data := d, size := sizeCode d.length } s, .ok ())
      else (postPeer x d s, .ok ())
    else if registerFrame (pa / 0x10000) then (registerWrite (pa - registerBase) d s, .ok ())
    else (putPcie { tag := 0, va := va, len := d.length, data := d, since := 0, berth := a.berth, ordered := x.e.device1 } s, .ok ())) s

/-- A tile context writes bytes, line by line. -/
def contextWrite (a : Actor) (va : Nat) (d : List Byte) (s : State) : State × Access Unit :=
  match s.deviceMisuse s.lock.number.toNat a.berth va d.length with
  | some _ => (s, .addressFault)
  | none => thenA (eachA (fun x s => engineStore a x.1 x.2 s) (cutLines (d.length / 64 + 2) va d) s) fun _ s => (s, .ok ())

/-- An atomic of a tile context on 4 or 8 bytes: carried out at the page's home (R143, R209). -/
def contextAtomic (a : Actor) (va : Nat) (op : AtomicOp) (size8 : Bool) (operand compare : BitVec 64) (s : State) :
    State × Access (List Byte) :=
  let len := if size8 then 8 else 4
  if va % len ≠ 0 then (s, .addressFault)
  else
    engineAccess a .atomic va len (fun _ => .request) (fun x s =>
      let pa := x.e.addr va
      if x.e.target = 0 then
        match atomicHome a.src pa op size8 operand compare s with
        | (s, some old) => (s, .ok old)
        | (s, none) => (s, .uncorrectable)
      else if x.e.target = 1 then
        let s := sendUnheard x.e.device va len false
          { peerTx a x.e va s with kind := 3, size := sizeCode len, aop := atomicCode op, data := atomicData operand compare } s
        (s.bump, .ok (remoteBytes s (x.e.device.toNat * 2 ^ 48 + pa) len))
      else (s, .addressFault)) s

end Sys2Proof.Machine
end

