-- ==== Sys2Proof/Machine/Bridge.lean ====
section
/-! DEFINITION. The inbound bridge from peers, locked sequences, requests held at columns, and the memory
commands themselves (R44, R183 to R214, R518 to R523, R542). -/

namespace Sys2Proof.Machine

/-! Inbound transactions (R515, R520) -/

/-- A frame may be accessed by a berth of a peer: berth memory it holds here, or a doorbell page of its queues. -/
def Shadow.inboundFrame (c : Shadow) (b : BitVec 6) (f : Nat) : Bool :=
  if berthFrame f then tabGet .free c.frames f == .held b
  else registerFrame f && f < 0x80004000 && c.registerAllowed b f

/-- Bytes that SIZE names. -/
def txLen (tx : IsgalTx) : Nat := 2 ^ tx.size.toNat
/-- The device physical address of a transaction. -/
def txPa (tx : IsgalTx) : Nat := tx.addr.toNat % 2 ^ 48

/-- The access passes R520 at lock cycle `n`: its device, its frame, and on a doorbell page R202. -/
def State.inboundOk (s : State) (n : Nat) (tx : IsgalTx) : Bool :=
  let f := txPa tx / 0x10000
  tx.size.toNat ≤ 6 && tx.addr.toNat / 2 ^ 48 == s.dyn.bring.devId.toNat && (s.cfgAt n).inboundFrame tx.berth f
  && (berthFrame f || ((tx.kind == 0 || tx.kind == 2) && txLen tx ≤ 8 && txPa tx % txLen tx == 0))

/-- Answer a request of a peer: 0 done, 1 address fault, 2 uncorrectable, 3 a store-conditional that failed. -/
def answerPeer (dev : BitVec 2) (tx : IsgalTx) (status : BitVec 2) (data : List Byte) (s : State) : State :=
  sendPeer dev { tx with kind := 4, cls := 0, status := status, data := data } none s

/-- Who a peer's access is recorded as (R561). -/
def txSrc (tx : IsgalTx) : Src := { source := 6, berth := tx.berth, gen := tx.gen, safety := tx.safety }

/-- The atomic operation of a code. -/
def atomicOf (c : BitVec 4) : Option AtomicOp :=
  [AtomicOp.add, .minS, .minU, .maxS, .maxU, .and, .or, .xor, .swap, .cas].find? fun o => atomicCode o == c

/-- A read or write of a peer on a doorbell page, or on berth memory. -/
def serveAccess (dev : BitVec 2) (tx : IsgalTx) (s : State) : State :=
  let pa := txPa tx
  let d := takeBytes (txLen tx) tx.data
  if !berthFrame (pa / 0x10000) then
    if tx.kind = 0 then answerPeer dev tx 0 (registerBytes s (pa - 0x800000000000) (txLen tx)) s
    else answerPeer dev tx 0 [] (registerWrite (pa - 0x800000000000) d s)
  else if tx.kind = 0 then
    match readDram (txSrc tx) pa (txLen tx) s with
    | (s, some v) => answerPeer dev tx 0 v s
    | (s, none) => answerPeer dev tx 2 [] s
  else if tx.kind = 3 then
    match atomicOf tx.aop with
    | none => answerPeer dev tx 1 [] s
    | some op =>
      let arg := fun (k : Nat) => BitVec.ofNat 64 (ofBytes ((tx.data.drop (8 * k)).take 8))
      if !((txLen tx == 4 || txLen tx == 8) && pa % txLen tx == 0) then answerPeer dev tx 1 [] s
      else
        match atomicHome (txSrc tx) pa op (txLen tx == 8) (arg 0) (arg 1) s with
        | (s, some old) => answerPeer dev tx 0 old s
        | (s, none) => answerPeer dev tx 2 [] s
  else
    match writeDram (txSrc tx) pa d s with
    | (s, ok) => if tx.kind = 1 then s else answerPeer dev tx (if ok then 0 else 2) [] s

/-- The side-band record that this device offers (R524). -/
def State.sideBand (s : State) (dev : BitVec 2) : List Byte :=
  let live := packFields ((upFrom 0 64).map fun b => (b, 1, b2n ((tabGet {} s.dyn.cfg.berths b).state == .live)))
  bytesOf 64 (packFields [(0, 64, s.lock.number.toNat), (64, 2, b2n s.dyn.cfg.running), (66, 1, b2n s.dyn.safety.latch),
    (128, 64, live), (192, 64, (tabGet (0 : BitVec 64) s.dyn.isgal.offer dev.toNat).toNat)])

/-- A poll reads the NOTIFY word kept for the polling device and clears it. -/
def servePoll (dev : BitVec 2) (tx : IsgalTx) (s : State) : State :=
  answerPeer dev tx 0 (s.sideBand dev) (s.modIsgal fun g => { g with offer := tabPut 0 g.offer dev.toNat 0 })

/-- `a` is `b` or an earlier sequence number, modulo 2^16. -/
def seqUpTo (a b : BitVec 16) : Bool := (b - a).toNat < 0x8000

/-- The key of the posted writes that a peer's berth made to a column here (R207). -/
def committedKey (dev : BitVec 2) (tx : IsgalTx) : Nat := (dev.toNat * 64 + tx.berth.toNat) * 36 + columnOf (txPa tx)

/-- Every posted write up to the number that a transaction waits for has been committed (R142, R207, R518). -/
def State.writesDone (s : State) (dev : BitVec 2) (tx : IsgalTx) : Bool :=
  tx.kind == 1 || tx.wnum == 0 || seqUpTo tx.wnum (tabGet 0 s.dyn.isgal.committed (committedKey dev tx))

/-- A posted write of a peer is committed under its number. -/
def noteCommitted (dev : BitVec 2) (tx : IsgalTx) (s : State) : State :=
  if tx.kind = 1 then s.modIsgal fun g => { g with committed := tabPut 0 g.committed (committedKey dev tx) tx.wnum } else s

/-- The class of a transaction at its home. -/
def txPound (tx : IsgalTx) : PoundKind := if tx.kind = 1 then .posted else .request

/-- A transaction of a peer waits at a column. -/
def holdTx (n : Nat) (port : Fin 6) (tx : IsgalTx) (i : Instr) (s : State) : State :=
  holdReq { unit := columnOf (txPa tx), stamp := n, cls := txPound tx, safety := tx.safety, src := isgalPort port.val,
            line := txPa tx / 64, instr := i } s

/-- Something that a transaction of a peer follows is not over. -/
def State.txWaits (s : State) (port : Fin 6) (tx : IsgalTx) : Bool :=
  let dev := (s.port port.val).peer
  s.columnHolds (columnOf (txPa tx)) (txPound tx) || !s.writesDone dev tx
  || s.behind (isgalPort port.val) (columnOf (txPa tx)) (txPa tx / 64) (txPound tx) tx.safety

/-- Serve a transaction that arrived at a port in lock cycle `n`: checked, held at its column, or carried out. -/
def serveInbound (n : Nat) (port : Fin 6) (tx : IsgalTx) (s : State) : State :=
  let dev := (s.port port.val).peer
  let hold := holdTx n port tx (.inboundTransaction port tx)
  if tx.kind = 9 then servePoll dev tx s
  else if tx.kind = 8 then (if s.writesDone dev tx then answerPeer dev tx 0 [] s else hold s)
  else if !s.inboundOk n tx then (if tx.kind = 1 then noteCommitted dev tx s else answerPeer dev tx 1 [] s)
  else if !berthFrame (txPa tx / 0x10000) then serveAccess dev tx s
  else if s.txWaits port tx then hold s
  else
    match takeCredits (isgalPort port.val) (columnOf (txPa tx)) (txPound tx) tx.safety s with
    | none => hold s
    | some s => serveAccess dev tx (noteCommitted dev tx s)

/-! Locked sequences (R522, R523) -/

/-- 4 µs in units of 2^-16 ns. -/
def lockLimit : Nat := 4 * us16

/-- A LOCK_READ of this device to a peer is sent and neither granted nor retried. -/
def State.lockOutstanding (s : State) (dev : BitVec 2) : Bool :=
  s.dyn.isgal.outLocks.any fun (k : OutLock) => k.peer == dev && !k.granted && k.resendAt.isNone

/-- Answer RETRY. -/
def retryPeer (dev : BitVec 2) (tx : IsgalTx) (s : State) : State :=
  sendPeer dev { tx with kind := 7, cls := 0, data := [] } none s

/-- A LOCK_READ at its column port: refused, retried by R522 or R523, held below a tile in Deep or behind its context's
writes, or granted. -/
def serveLockRead (n : Nat) (port : Fin 6) (tx : IsgalTx) (s : State) : State :=
  let dev := (s.port port.val).peer
  let col := columnOf (txPa tx)
  if !s.inboundOk n tx || !berthFrame (txPa tx / 0x10000) then answerPeer dev tx 1 [] s
  else if s.lockOutstanding dev && s.dyn.bring.devId.toNat < dev.toNat then retryPeer dev tx s
  else if (tabGet none s.dyn.isgal.colLocks col).isSome || s.dyn.isgal.held.any (fun h => h.unit == col && h.cls == .request) then retryPeer dev tx s
  else if s.txWaits port tx then holdTx n port tx (.lockRead port tx) s
  else
    match readDram (txSrc tx) (txPa tx) (txLen tx) s with
    | (s, none) => answerPeer dev tx 2 [] s
    | (s, some d) =>
      let k : ColLock := { holder := dev, line := txPa tx / 64, expiry := s.now16 + lockLimit, port := port.val, tag := tx.tag }
      answerPeer dev tx 0 d (s.modIsgal fun g => { g with colLocks := tabPut none g.colLocks col (some k) })

/-- A LOCK_WRITE: performed under the lock of its device on the line, which it releases; else it fails. -/
def serveLockWrite (port : Fin 6) (tx : IsgalTx) (s : State) : State :=
  let dev := (s.port port.val).peer
  let col := columnOf (txPa tx)
  if !s.inboundOk s.lock.number.toNat tx || !berthFrame (txPa tx / 0x10000) then answerPeer dev tx 1 [] s
  else
    match tabGet none s.dyn.isgal.colLocks col with
    | none => answerPeer dev tx 3 [] s
    | some k =>
      if k.holder ≠ dev ∨ k.line ≠ txPa tx / 64 then answerPeer dev tx 3 [] s
      else
        let s := s.modIsgal fun g => { g with colLocks := tabPut none g.colLocks col none }
        match writeDram (txSrc tx) (txPa tx) (takeBytes (txLen tx) tx.data) s with
        | (s, ok) => answerPeer dev tx (if ok then 0 else 2) [] s

/-! Requests held at columns -/

/-- Serve one held request again, as one of the lock cycle of its admission. -/
def serve (h : HeldReq) (s : State) : State :=
  match h.instr with
  | .memoryRead r a n f v => memRead h.stamp r a.toNat n f v s
  | .memoryWrite r a d c => memWrite h.stamp r a.toNat d c s
  | .memoryAtomic r a o z v c => memAtomic h.stamp r a.toNat o z v c s
  | .inboundTransaction p tx => serveInbound h.stamp p tx s
  | .lockRead p tx => serveLockRead h.stamp p tx s
  | _ => s

/-- The requests that wait are tried again: by class and channel in the order of R481 and R483, each in its order of
arrival (R64). -/
def serveHeld (s : State) : State :=
  (bySendRank (fun h => sendRank h.cls h.safety) s.dyn.isgal.held).foldl (fun s h => serve h s)
    (s.modIsgal fun g => { g with held := [] })

/-- An access of a running fabric: what a lock that has ended held goes first (R522). -/
def access (f : Nat → State → State) (s : State) : Host.Outcome State Fault Refusal :=
  if s.dyn.bring.ready then .next (f s.lock.number.toNat (serveHeld s)) else .next s

/-- MEMORY_READ. -/
def execMemoryRead (r : Requester) (addr : BitVec 40) (len : Nat) (flips : BitVec 544) (reserve : Bool) (s : State) :
    Host.Outcome State Fault Refusal :=
  access (fun n => memRead n r addr.toNat len flips reserve) s

/-- MEMORY_WRITE. -/
def execMemoryWrite (r : Requester) (addr : BitVec 40) (data : List Byte) (conditional : Bool) (s : State) :
    Host.Outcome State Fault Refusal :=
  access (fun n => memWrite n r addr.toNat data conditional) s

/-- MEMORY_ATOMIC. -/
def execMemoryAtomic (r : Requester) (addr : BitVec 40) (op : AtomicOp) (size8 : Bool) (operand compare : BitVec 64)
    (s : State) : Host.Outcome State Fault Refusal :=
  access (fun n => memAtomic n r addr.toNat op size8 operand compare) s

/-- CREDIT_RETURN (R54, R55): a freed slot returns its credit, and what waits for one goes on in its order of arrival. -/
def execCreditReturn (unit : Nat) (k : PoundKind) (safety : Bool) (s : State) : Host.Outcome State Fault Refusal :=
  let s := s.modWork fun w => { w with slots := returnSlots unit k safety 1 w.slots }
  .next (if s.dyn.bring.ready then serveHeld s else s)

/-- RELEASE_FENCE (R142): the homes of this device commit each write as it arrives; peers' columns are flushed. -/
def execReleaseFence (t : Fin 36) (job : Nat) (s : State) : Host.Outcome State Fault Refusal :=
  match s.actor (.context t job), s.dyn.cfg.physOf t with
  | some a, some p => access (fun _ => fenceWrites { a.src with berth := a.berth, gen := (s.dyn.cfg.berth a.berth).gen } p t job) s
  | _, _ => .next s

/-! Patrol, zeroing, void ranges -/

/-- PATROL_READ (R194): a line of a column is read and treated as any read; a column that holds requests keeps it
waiting (R44). -/
def execPatrolRead (pa : BitVec 48) (flips : BitVec 544) (s : State) : Host.Outcome State Fault Refusal :=
  let l := pa.toNat / 64
  let col := columnOf pa.toNat
  if !inDram pa.toNat then .fault (.outsideDram pa.toNat)
  else if !s.dyn.bring.ready then .next s
  else if s.columnHolds col .request then .next (startWake col s)
  else
    let s := flipLine l flips s
    match (if berthFrame (l / 1024) then none else otherCopy l) with
    | some (u, o) => .next (readDoubled { source := 5 } u l o s).1
    | none => .next (readDramLine { source := 5 } l s).1

/-- The lines of a frame. -/
def frameLines (f : Nat) : List Nat := upFrom (f * 1024) 1024

/-- Zero a frame by whole-line writes. -/
def zeroFrame (f : Nat) (s : State) : State :=
  (frameLines f).foldl (fun s l => endLockOn l (s.modMem fun m => m.setLine l [])) s

/-- A frame of berth `b` returns to the pool and to the berth's quota (R220). -/
def Shadow.poolFrame (f : Nat) (b : BitVec 6) (c : Shadow) : Shadow :=
  { c with frames := tabPut .free c.frames f .free
           berths := tabMod {} c.berths b.toNat fun d => { d with memUsed := d.memUsed - (if d.memUsed = 0 then 0 else 1) } }

/-- FRAME_ZERO (R220): a frame freed at a lock cycle is zeroed once the configuration before that cycle is freed; a
column below a tile in Deep wakes first (R44). Not due, or not freed: no effect. -/
def execFrameZero (frame : Nat) (s : State) : Host.Outcome State Fault Refusal :=
  let col := columnOf (frame * 0x10000)
  if !berthFrame frame then .fault (.outsideDram (frame * 0x10000))
  else
    match tabGet .free s.dyn.cfg.frames frame with
    | .freed b cycle =>
      if cycle < s.lock.number.toNat ∨ (cycle = s.lock.number.toNat ∧ s.lock.prev.isNone) then
        if s.columnHolds col .posted then .next (startWake col s)
        else .next ((zeroFrame frame s).modAllCfg (Shadow.poolFrame frame b))
      else .next s
    | _ => .next s

/-- VOID_RANGE_CLEAR (R200): the stored entries of a void range are written to zero; the mark clears at the next
lock cycle. -/
def execVoidRangeClear (b : BitVec 6) (s : State) : Host.Outcome State Fault Refusal :=
  match tabGet none s.lock.voids b.toNat with
  | some false =>
    let s := s.modAllCfg fun c => { c with xlat := c.xlat.filter fun x => x.2.owner != b }
    .next (s.modLock fun k => { k with voids := tabPut none k.voids b.toNat (some true) })
  | _ => .next s

/-! The PCIe root port (R542) -/

/-- Take an outstanding request off the root port. -/
def dropRequest (tag : Nat) (s : State) : State :=
  s.modGateway fun g => { g with requests := g.requests.filter fun r => r.tag != tag }

/-- The outstanding request with a tag. -/
def State.pcieRequest (s : State) (tag : Nat) : Option PcieReq := s.dyn.gateway.requests.find? fun r => r.tag == tag

/-- A request of the root port ends: its reader sees an address fault or what it asked for; a prefetch fills its buffer. -/
def endPcie (r : PcieReq) (got : Option (List Byte)) (s : State) : State :=
  let s := dropRequest r.tag s
  let s := match r.fill, got with
    | some f, some d => fillArrived f (takeBytes r.len d) s
    | some f, none => fillFailed f s
    | none, _ => s
  let s := match r.reader, got with
    | some q, some d => respond q r.va (if r.data.isEmpty then .data (takeBytes r.len d) else .done) s
    | some q, none => faultAccess q r.va .addressFault s
    | none, _ => s
  serveHeld s

/-- PCIE_TIMEOUT (R542): 50 ms without a completion; the reader sees an address fault. Not due: no effect. -/
def execPcieTimeout (tag : Nat) (s : State) : Host.Outcome State Fault Refusal :=
  match s.pcieRequest tag with
  | none => .next s
  | some r => if s.now16 < r.since + 50000 * us16 then .next s else .next (endPcie r none s)

/-- PCIE_COMPLETION (R542): a completion is delivered to the requester; one that reports an error reads as
an address fault. None comes through a disabled port (R529). -/
def execPcieCompletion (tag : Nat) (data : List Byte) (ok : Bool) (s : State) : Host.Outcome State Fault Refusal :=
  match (if s.dyn.gateway.valid then s.pcieRequest tag else none) with
  | none => .next s
  | some r => .next (endPcie r (if ok then some data else none) s)

end Sys2Proof.Machine
end

