-- ==== Sys2Proof/Machine/Signatures.lean ====
section
/-! DEFINITION. The signatures of R503: HSS with two levels over LMS_SHA256_M32_H10 and
LMOTS_SHA256_N32_W8. PRESUMED: the byte layouts and hash prefixes are those of the published standard
(RFC 8554) that R503 names; the sizes 60 and 2,964 of R503 agree with them. -/

namespace Sys2Proof.Machine

/-- A number as `n` bytes, highest first: the order of the standard's own integers. -/
def beBytes (n v : Nat) : List Byte := (bytesOf n v).reverse

/-- The number that bytes spell, highest first. -/
def ofBeBytes (bs : List Byte) : Nat := ofBytes bs.reverse

/-- `n` bytes from offset `o`. -/
def sub (bs : List Byte) (o n : Nat) : List Byte := (bs.drop o).take n

/-- Iterate a chain of LM-OTS from step `j`, `n` times. -/
def otsChain (i q : List Byte) (k : Nat) : Nat → Nat → List Byte → List Byte
  | 0, _, t => t
  | n + 1, j, t => otsChain i q k n (j + 1) (sha256 (i ++ q ++ beBytes 2 k ++ beBytes 1 j ++ t))

/-- The public key that an LM-OTS signature (4 + 32 + 34 × 32 bytes) of a message stands for. -/
def otsKey (i q msg sig : List Byte) : List Byte :=
  let h := sha256 (i ++ q ++ [0x81, 0x81] ++ sub sig 4 32 ++ msg)
  let cksm := (h.map fun b => 255 - b.toNat).foldl (· + ·) 0
  let d := h ++ beBytes 2 cksm
  let z := (upFrom 0 34).flatMap fun k =>
    let a := ((d.drop k).headD 0).toNat
    otsChain i q k (255 - a) a (sub sig (36 + 32 * k) 32)
  sha256 (i ++ q ++ [0x80, 0x80] ++ z)

/-- Climb a tree of height 10 from a node by its path. -/
def lmsClimb (i : List Byte) : Nat → Nat → List Byte → List Byte → List Byte
  | 0, _, _, t => t
  | n + 1, node, path, t =>
    let up := i ++ beBytes 4 (node / 2) ++ [0x83, 0x83]
    let p := path.take 32
    lmsClimb i n (node / 2) (path.drop 32) (sha256 (if node % 2 = 1 then up ++ p ++ t else up ++ t ++ p))

/-- A one-tree signature of 1,452 bytes of a message under a 56-byte key. -/
def lmsVerify (key msg sig : List Byte) : Bool :=
  let i := sub key 8 16
  let q := sub sig 0 4
  let node := 1024 + ofBeBytes q
  let leaf := sha256 (i ++ beBytes 4 node ++ [0x82, 0x82] ++ otsKey i q msg (sub sig 4 1124))
  key.length = 56 && sig.length = 1452 && ofBeBytes (sub key 0 4) = 6 && ofBeBytes (sub key 4 4) = 4 &&
    ofBeBytes q < 1024 && ofBeBytes (sub sig 4 4) = 4 && ofBeBytes (sub sig 1128 4) = 6 &&
    lmsClimb i 10 node (sub sig 1132 320) leaf = sub key 24 32

/-- A two-level signature of 2,964 bytes of a message under a 60-byte public key. -/
def hssVerify (key msg sig : List Byte) : Bool :=
  let pub := sub sig 1456 56
  key.length = 60 && sig.length = 2964 && ofBeBytes (sub key 0 4) = 2 && ofBeBytes (sub sig 0 4) = 1 &&
    lmsVerify (sub key 4 56) pub (sub sig 4 1452) && lmsVerify pub msg (sub sig 1512 1452)

/-- The key carried is the one whose SHA-256 the fuses hold, byte 0 of the digest in bits [7:0] (R503). -/
def keyOk (key : List Byte) (digest : BitVec 256) : Bool := BitVec.ofNat 256 (ofBytes (sha256 key)) == digest

end Sys2Proof.Machine
end

