-- ==== Sys2Proof/Machine/Service.lean ====
section
/-! DEFINITION. The service state, maintenance and identity commands, logs, licences and images (R478 to
R480, R499 to R510). -/

namespace Sys2Proof.Machine

/-- A maintenance command from other than the supervisor path is refused (R480). -/
def maintenance (act : Ticket → State → State) (t : Ticket) (s : State) : State :=
  if t.fromSupervisor then act t s else writeRecord t 0x0100 noResult s

/-! The service state (R500, R501) -/

/-- SERVICE_ENTER. -/
def ruleServiceEnter : ConfigRule := fun s t c =>
  if !t.fromSupervisor then .refuse 0x0100 noResult
  else if !c.running then .refuse 0x0109 noResult
  else if !s.dyn.safety.latch then .refuse 0x0102 noResult
  else .pass { c with running := false } noResult

/-- A token is in force and the island holds the same body (R501 check 2). -/
def licenceHeld (b : Bring) : Option Licence :=
  match b.licence, b.islandLicence with
  | some l, some i => if l.body = i.body then some l else none
  | _, _ => none

/-- Every checker outside the tiles passed its last squall check or SELF_TEST (R501 check 3). -/
def Safety.checkersFit (f : Safety) : Bool := (upFrom 0 44).all fun i => !(tabGet {} f.checkers i).unfit

/-- SERVICE_LEAVE (R493, R501). -/
def ruleServiceLeave : ConfigRule := fun s t c =>
  if !t.fromSupervisor then .refuse 0x0100 noResult
  else if !s.dyn.bring.ready then .refuse 0x0103 noResult
  else
    match licenceHeld s.dyn.bring with
    | none => .refuse 0x0107 noResult
    | some l =>
      if !s.dyn.safety.checkersFit then .refuse 0x0105 noResult
      else if s.dyn.island.pair0.state ≠ .healthy ∧ s.dyn.island.pair1.state ≠ .healthy then .refuse 0x0106 noResult
      else if (c.tilesUnder 0).length < l.safetyMin then .refuse 0x0104 noResult
      else .pass { c with running := true } noResult

/-- SERVICE_ENTER. -/
def opServiceEnter : OpInfo := { opcode := 0x8001, runTime := true }
/-- SERVICE_LEAVE. -/
def opServiceLeave : OpInfo := { opcode := 0x8002 }

/-- SERVICE_ENTER enters the service state at a lock cycle. -/
def execServiceEnter (c : Cmd) (s : State) : Host.Outcome State Fault Refusal :=
  carry opServiceEnter c (acceptConfig ruleServiceEnter) s

/-- SERVICE_LEAVE lets the device run from a lock cycle. -/
def execServiceLeave (c : Cmd) (s : State) : Host.Outcome State Fault Refusal :=
  carry opServiceLeave c (acceptConfig ruleServiceLeave) s

/-! Status (R508 to R510) -/

/-- The state that the bring-up views show: latched, or live while no lock cycle has run (R508). -/
def State.bringView (s : State) : Dyn := if s.dyn.bring.cycled then s.snap else s.dyn

/-- The unassigned spares of a map; none before the map is made. -/
def Dyn.spares (d : Dyn) : Nat := if d.bring.goodTiles = 0 then 0 else 36 - d.cfg.tiles.length

/-- The block of R508. -/
def bringupRecord (d : Dyn) : Result :=
  let b := d.bring
  longResult 64 [(0, 4, b.step.toNat), (4, 2, b.path.toNat), (6, 1, b2n b.ready), (7, 1, b2n b.overflow),
    (8, 1, b2n b.fwSlot), (9, 3, b.capacityClass.toNat), (12, 4, b.haltCause.toNat), (16, 6, b.goodTiles.toNat),
    (22, 6, d.spares), (32, 6, b.failedColumn.toNat), (64, 36, b.fuses.tileBad.toNat), (100, 36, b.testBad.toNat),
    (136, 4, b.checkersFailed.toNat), (140, 6, b.isgalRefused.toNat), (146, 2, b.refuseCause.toNat),
    (160, 16, b.rowsSpared.toNat), (176, 16, b.framesRetired.toNat), (192, 16, b.readyMs.toNat)]

/-- GET_BRINGUP_STATUS. -/
def opGetBringup : OpInfo := { opcode := 0x8003, runTime := true }

/-- GET_BRINGUP_STATUS returns the bring-up status. -/
def execGetBringupStatus (c : Cmd) (s : State) : Host.Outcome State Fault Refusal :=
  carry opGetBringup c (maintenance fun t s => answer 0 (bringupRecord s.bringView) t s) s

/-- Byte p of the tile map and the retirement source of tile p (R509). -/
def tileMapByte (k : TileKind) : Nat × Nat :=
  match k with
  | .logical n => (n, 0)
  | .spare => (0x3F + 0x40, 0)
  | .retired src => (0x3F + 0x80, src.toNat)

/-- The block of R509. -/
def tileMapRecord (d : Dyn) : Result :=
  longResult 64 ((upFrom 0 36).flatMap fun p =>
    let k := tileMapByte (tabGet .spare d.cfg.tiles p)
    let y := tabGet {} d.tiles p
    [(8 * p, 8, k.1), (288 + p, 1, b2n y.suspect), (324 + 2 * p, 2, k.2), (396 + p, 1, b2n y.handover.isSome)])

/-- GET_TILE_MAP. -/
def opGetTileMap : OpInfo := { opcode := 0x8012, runTime := true }

/-- GET_TILE_MAP returns the tile map latched at the last lock cycle. -/
def execGetTileMap (c : Cmd) (s : State) : Host.Outcome State Fault Refusal :=
  carry opGetTileMap c (maintenance fun t s => answer 0 (tileMapRecord s.snap) t s) s

/-- The result of GET_DEVICE_IDENTITY (R510). -/
def identityRecord (b : Bring) : Result :=
  longResult 64 [(0, 128, b.fuses.uid.toNat), (128, 8, b.fuses.stepping.toNat), (136, 6, b.fuses.rollbackFloor.toNat),
    (144, 3, b.capacityClass.toNat), (160, 36, b.fuses.tileBad.toNat), (200, 48, b.fuses.laneBad.toNat),
    (256, 16, b.fuses.rowList.length)]

/-- GET_DEVICE_IDENTITY. -/
def opGetIdentity : OpInfo := { opcode := 0xA002, runTime := true }

/-- GET_DEVICE_IDENTITY returns the fused identity. -/
def execGetDeviceIdentity (c : Cmd) (s : State) : Host.Outcome State Fault Refusal :=
  carry opGetIdentity c (fun t s => answer 0 (identityRecord s.bringView.bring) t s) s

/-- The result of GET_LICENCE (R510). -/
def licenceRecord (b : Bring) : Result :=
  let cur := b.licence.getD {}
  let stored := takeToken b.fuses.uid b.token0 b.token1
  let pending : Option Nat := match stored with
    | some l => if cur.serial < l.serial then some l.serial else none
    | none => none
  shortResult [(0, 1, b2n b.licence.isSome), (1, 1, b2n pending.isSome), (2, 2, cur.grade.toNat),
    (4, 6, cur.safetyMin), (32, 32, cur.serial), (64, 32, pending.getD 0)]

/-- GET_LICENCE. -/
def opGetLicence : OpInfo := { opcode := 0xA011, runTime := true }

/-- GET_LICENCE returns the licence in force. -/
def execGetLicence (c : Cmd) (s : State) : Host.Outcome State Fault Refusal :=
  carry opGetLicence c (fun t s => answer 0 (licenceRecord s.bringView.bring) t s) s

/-! Logs (R477, R478, R499) -/

/-- An error record as its 64-byte block (R477). -/
def errorRecord (n : Nat) (r : ErrRec) : Result :=
  longResult 64 [(0, 32, n), (32, 4, r.kind.toNat), (36, 3, r.source.toNat), (39, 1, b2n r.ctxValid),
    (40, 6, r.unit.toNat), (46, 7, r.symbol.toNat), (56, 6, r.berth.toNat), (64, 16, r.gen.toNat),
    (80, 18, r.queue.toNat), (128, 32, r.seq.toNat), (160, 48, r.addr.toNat), (208, 16, r.count.toNat),
    (256, 80, r.time.toNat), (336, 64, r.lockCycle.toNat)]

/-- GET_ERROR_LOG (R478): the lowest record at or above FROM among those of the snapshot. -/
def actGetErrorLog (t : Ticket) (s : State) : State :=
  match s.snap.errors.ring.find? (fun e => fldN t.cmd.params 0 32 ≤ e.1) with
  | some (n, some r) => writeRecord t 0 (errorRecord n r) s
  | _ => writeRecord t 0x0101 noResult s

/-- GET_ERROR_LOG. -/
def opGetErrorLog : OpInfo := { opcode := 0x8020, runTime := true, wellFormed := onlyFields [(0, 32)] }

/-- GET_ERROR_LOG returns an error record. -/
def execGetErrorLog (c : Cmd) (s : State) : Host.Outcome State Fault Refusal :=
  carry opGetErrorLog c (maintenance actGetErrorLog) s

/-- A soft defect log entry as its 32-byte block (R499). -/
def defectRecord (n : Nat) (e : DefectEntry) : Result :=
  longResult 32 [(0, 16, n), (16, 2, e.kind.toNat), (18, 2, e.source.toNat), (32, 48, e.unit.toNat),
    (80, 80, e.time.toNat), (160, 64, e.lockCycle.toNat)]

/-- GET_DEFECT_LOG (R499). -/
def actGetDefectLog (t : Ticket) (s : State) : State :=
  let n := fldN t.cmd.params 0 16
  match s.snap.errors.defects[n]? with
  | some e => writeRecord t 0 (defectRecord n e) s
  | none => writeRecord t 0x0101 noResult s

/-- GET_DEFECT_LOG. -/
def opGetDefectLog : OpInfo := { opcode := 0x8021, runTime := true, wellFormed := onlyFields [(0, 16)] }

/-- GET_DEFECT_LOG returns a soft defect log entry. -/
def execGetDefectLog (c : Cmd) (s : State) : Host.Outcome State Fault Refusal :=
  carry opGetDefectLog c (maintenance actGetDefectLog) s

/-- ERROR_RECORD_SECOND (R477): the counts of seconds that have ended are written as records. -/
def execErrorRecordSecond (s : State) : Host.Outcome State Fault Refusal :=
  let sec := s.now16 / (10 ^ 9 * 2 ^ 16)
  let old := fun (c : SecCount) => decide (c.second < sec)
  let e := s.dyn.errors
  let s := (e.lineSecs.filter fun c => old c.2).foldl (fun s c => enterError (secondRecord 0 (c.1 * 64) c.2) s) s
  let s := (e.laneSecs.filter fun c => old c.2).foldl (fun s c => enterError (secondRecord 6 0 c.2) s) s
  .next (s.modErrors fun e =>
    { e with lineSecs := tabMap {} (fun _ c => if old c then {} else c) e.lineSecs,
             laneSecs := tabMap {} (fun _ c => if old c then {} else c) e.laneSecs })

/-! Images and licences (R503 to R507) -/

/-- A token's bytes as the flash would store them: key and signature judged, and the body. -/
def tokenOf (bs : List Byte) (licKey : BitVec 256) : Licence :=
  let key := sub bs 128 60
  { signed := keyOk key licKey && hssVerify key (bs.take 188) (bs.drop 188), body := BitVec.ofNat 1024 (ofBytes (bs.take 128)) }

/-- An image's bytes as the flash would store them (R504). -/
def imageOf (bs : List Byte) (fwKey : BitVec 256) : ImageSlot :=
  let h : BitVec 512 := BitVec.ofNat 512 (ofBytes (bs.take 64))
  let key := sub bs 64 60
  let n := 124 + fldN h 64 32 + fldN h 96 32
  { signed := keyOk key fwKey && bs.length == n + 2964 && hssVerify key (bs.take n) (bs.drop n)
    header := h, image := bs, digest := BitVec.ofNat 256 (ofBytes (sha256 bs)) }

/-- The slot of two that a new token replaces: the one with the lower SERIAL. -/
def putToken (a b t : Licence) : Licence × Licence := if b.serial < a.serial then (a, t) else (t, b)

/-- Checks 4 to 7 of R506 on a token. -/
def tokenStatus (b : Bring) (l : Licence) : Nat :=
  if !l.signed then 0x0121
  else if l.uid ≠ b.fuses.uid then 0x0122
  else if !l.fieldsOk then 0x0123
  else if l.serial ≤ b.token0.serial ∨ l.serial ≤ b.token1.serial then 0x0125
  else 0

/-- Checks 4 and 6 of R506 on an image. -/
def imageStatus (b : Bring) (x : ImageSlot) : Nat :=
  if !x.signed then 0x0121 else if fldN x.header 32 6 < b.fuses.rollbackFloor.toNat then 0x0124 else 0

/-- Checks 1 to 3 of R506 and the copy that the later checks look at. -/
def withSource (size : Nat → Bool) (t : Ticket) (act : List Byte → State → State) (s : State) : State :=
  let src := fldN t.cmd.params 0 40
  let len := fldN t.cmd.params 64 32
  if !t.fromSupervisor then writeRecord t 0x0120 noResult s
  else if t.cmd.device then writeRecord t 0x0004 noResult s
  else if !s.readable t.cmd.berth src len then writeRecord t 0x0127 noResult s
  else if !size len then writeRecord t 0x0126 noResult s
  else
    match readVirt t.src t.cmd.berth src len s with
    | (s, .ok bs) => act bs s
    | (s, .uncorrectable) => writeRecord t 0x000B noResult s
    | (s, .addressFault) => writeRecord t 0x0127 noResult s

/-- A flash write joins those in progress. -/
def queueFlash (j : FlashJob) (s : State) : State := s.modBring fun b => { b with flash := b.flash ++ [j] }

/-- LICENCE_INSTALL (R506). -/
def actLicenceInstall (t : Ticket) : State → State :=
  withSource (· == 3152) t fun bs s =>
    let l := tokenOf bs s.dyn.bring.fuses.licKey
    let st := tokenStatus s.dyn.bring l
    if st ≠ 0 then writeRecord t st noResult s else queueFlash (.licence t l) s

/-- LICENCE_INSTALL. -/
def opLicenceInstall : OpInfo := { opcode := 0xA010, wellFormed := onlyFields [(0, 40), (64, 32)] }

/-- LICENCE_INSTALL stores a licence token. -/
def execLicenceInstall (c : Cmd) (s : State) : Host.Outcome State Fault Refusal :=
  carry opLicenceInstall c actLicenceInstall s

/-- 8 MB. -/
def imageMax : Nat := 8388608

/-- Update the image slot that is not preferred. -/
def Bring.putSpareSlot (b : Bring) (x : ImageSlot) : Bring :=
  if b.preferred then { b with slot0 := x } else { b with slot1 := x }

/-- The image slot that is not preferred. -/
def Bring.spareSlot (b : Bring) : ImageSlot := if b.preferred then b.slot0 else b.slot1

/-- The preference flag moves to the slot just written; with RAISE the floor then rises to its ROLLBACK. -/
def Bring.prefer (b : Bring) (rollback : Nat) (raise : Bool) : Bring :=
  let b := { b with preferred := !b.preferred }
  if raise then
    { b with fuses := { b.fuses with rollbackFloor := BitVec.ofNat 6 (max b.fuses.rollbackFloor.toNat rollback) } }
  else b

/-- FW_UPDATE outside the recovery form (R506). -/
def actUpdate (t : Ticket) : State → State :=
  withSource (· ≤ imageMax) t fun bs s =>
    let x := imageOf bs s.dyn.bring.fuses.fwKey
    let st := imageStatus s.dyn.bring x
    if st ≠ 0 then writeRecord t st noResult s else queueFlash (.firmware t x (bitAt t.cmd.params 96)) s

/-- FW_UPDATE in its recovery form (R507): checks 1 to 3; the first chunk erases the slot. -/
def actRecovery (t : Ticket) (s : State) : State :=
  let p := t.cmd.params
  let off := fldN p 0 23
  let len := fldN p 32 32
  let inTurn := off == 0 || s.dyn.bring.lastChunk == some (off - 32) && 32 ≤ off
  if s.dyn.bring.haltCause = 1 then writeRecord t 0x0003 noResult s
  else if !inTurn then writeRecord t 0x0129 noResult s
  else if imageMax < off + 32 || (bitAt p 23 && (len ≤ off || off + 32 < len)) then writeRecord t 0x0126 noResult s
  else
    let s := if off = 0 then s.modBring fun b => b.putSpareSlot {} else s
    queueFlash (.chunk t) s

/-- FW_UPDATE: while bring-up is halted it takes its recovery form. -/
def opFwUpdate (halted : Bool) : OpInfo :=
  { opcode := 0xA020,
    wellFormed := onlyFields (if halted then [(0, 25), (32, 32), (128, 256)] else [(0, 40), (64, 32), (96, 1)]) }

/-- FW_UPDATE by the form that bring-up's state gives it. -/
def carryUpdate (c : Cmd) (s : State) : Host.Outcome State Fault Refusal :=
  carry (opFwUpdate s.halted) c (if s.halted then actRecovery else actUpdate) s

/-- FW_UPDATE writes a Veldon image. -/
def execFwUpdate (c : Cmd) (s : State) : Host.Outcome State Fault Refusal := carryUpdate c s

/-- FW_UPDATE_RECOVERY: a chunk of an image while bring-up is halted. -/
def execFwUpdateRecovery (c : Cmd) (s : State) : Host.Outcome State Fault Refusal := carryUpdate c s

/-- A chunk has been read back equal: it is accepted, and the last one is judged (R507 checks 5 and 6). -/
def chunkWritten (t : Ticket) (s : State) : State :=
  let p := t.cmd.params
  let off := fldN p 0 23
  let old := s.dyn.bring.spareSlot
  let bytes := takeBytes off old.image ++ bytesOf 32 (fldN p 128 256)
  let s := s.modBring fun b => { b.putSpareSlot { image := bytes } with lastChunk := some off }
  if !bitAt p 23 then writeRecord t 0 noResult s
  else
    let x := imageOf (bytes.take (fldN p 32 32)) s.dyn.bring.fuses.fwKey
    let st := imageStatus s.dyn.bring x
    let s := s.modBring fun b => b.putSpareSlot x
    if st ≠ 0 then writeRecord t st noResult s
    else writeRecord t 0 noResult (s.modBring fun b => b.prefer (fldN x.header 32 6) (bitAt p 24))

/-- FLASH_WRITE_END (R506, R507): the write in progress has been read back. With none in progress: no
effect. -/
def execFlashWriteEnd (readBackOk : Bool) (s : State) : Host.Outcome State Fault Refusal :=
  match s.dyn.bring.flash with
  | [] => .next s
  | j :: rest =>
    let s := s.modBring fun b => { b with flash := rest }
    match j with
    | .licence t l =>
      let l' := { l with signed := l.signed && readBackOk }
      let s := s.modBring fun b =>
        let (x, y) := putToken b.token0 b.token1 l'
        let (ix, iy) := if readBackOk then putToken b.islandToken0 b.islandToken1 l
                        else (b.islandToken0, b.islandToken1)
        { b with token0 := x, token1 := y, islandToken0 := ix, islandToken1 := iy }
      .next (writeRecord t (if readBackOk then 0 else 0x0128) noResult s)
    | .firmware t x raise =>
      let s := s.modBring fun b => b.putSpareSlot { x with signed := x.signed && readBackOk }
      if readBackOk then
        .next (writeRecord t 0 noResult (s.modBring fun b => b.prefer (fldN x.header 32 6) raise))
      else .next (writeRecord t 0x0128 noResult s)
    | .chunk t => .next (if readBackOk then chunkWritten t s else writeRecord t 0x0128 noResult s)

end Sys2Proof.Machine
end

