-- ==== Sys2Proof/Machine/Tiles.lean ====
section
/-! DEFINITION. The tile store's granules, the power states of tiles, handover and tile tests (R41 to R47, R62,
R160, R502, R557). -/

namespace Sys2Proof.Machine

/-! Words of a tile's SRAM (R214) -/

/-- An uncorrectable word of a tile's SRAM met by a context (R444, R474, R477, R561). -/
def tileWordBad (p : Nat) (src : Src) (s : State) : State :=
  let s := addError { src.toRec 5 with unit := BitVec.ofNat 6 p } s
  let s := tileFailure p src s
  if src.safety then raiseDoubt 6 s else s

/-- What a step's reads of a tile's SRAM meet (R214, R474, R477): a single-bit error is corrected and recorded; a bad line of the
cache is recorded, counts as a tile failure and is read again from its home; a bad word of the store or the registers
cannot be used (the flag). -/
def sramWord (w : SramWord) (p : Nat) (src : Src) (s : State) : State × Bool :=
  match w with
  | .good => (s, true)
  | .corrected => (addError { src.toRec 4 with unit := BitVec.ofNat 6 p, count := 1 } s, true)
  | .cacheLine => (tileFailure p src (addError { src.toRec 5 with unit := BitVec.ofNat 6 p } s), true)
  | .bad => (tileWordBad p src s, false)

/-! Weight copies (R154) -/

/-- The frames that hold the weight copy of a shard. -/
def Model.framesOf (m : Model) (i : Nat) : List Nat :=
  (m.frames.drop (((m.shards.take i).map Shard.weightGranules).foldl (· + ·) 0)).take (m.shards.getD i {}).weightGranules

/-- Read `n` bytes of a weight copy from its frames. -/
def readCopy (a : Src) (fs : List Nat) (n : Nat) (s : State) : State × Option (List Byte) :=
  fs.zipIdx.foldl (fun x f => match x with
    | (s, none) => (s, none)
    | (s, some d) =>
      match readDram a (f.1 * 0x10000) (min 0x10000 (n - f.2 * 0x10000)) s with
      | (s, some e) => (s, some (d ++ e))
      | (s, none) => (s, none)) (s, some [])

/-! Resident safety shards (R160) -/

/-- The safety shards assigned to a logical tile: the key of the model, the number of the shard. -/
def Shadow.safetyShards (c : Shadow) (l : Nat) : List (Nat × Nat) :=
  c.models.flatMap fun kv =>
    if !kv.2.safety then [] else (kv.2.shards.zipIdx.filter fun x => x.1.home == l).map fun x => (kv.1, x.2)

/-- The resident of a model's shard is on a tile. -/
def TileWork.hasSafety (w : TileWork) (x : Nat × Nat) : Bool :=
  w.residents.any fun r => r.safety && r.berth.toNat * 1024 + r.handle.toNat == x.1 && r.shard == x.2

/-- Load one safety shard from its copy. DESIGN CHOICE: a copy with an uncorrectable line makes a resident that faults the jobs
that start on it; the manual does not say what such a load does. -/
def loadShard (p : Nat) (x : Nat × Nat) (s : State) : State :=
  let m := tabGet {} s.dyn.cfg.models x.1
  let sh := m.shards.getD x.2 {}
  let (s, d) := readCopy { source := 1, safety := true } (m.framesOf x.2) sh.weightBytes.toNat s
  s.modTileWork p fun w => { w with residents := w.residents ++
    [{ berth := BitVec.ofNat 6 (x.1 / 1024), handle := BitVec.ofNat 10 x.1, shard := x.2, safety := true, granules := sh.weightGranules,
       weights := d.getD [], bad := d.isNone }] }

/-- Load the safety shards of the logical tile that a physical tile carries, those that it does not hold yet. -/
def loadSafety (p : Nat) (s : State) : State :=
  match s.dyn.cfg.logicalOf p with
  | none => s
  | some l =>
    let want := s.dyn.cfg.safetyShards l
    let keep := fun (r : Resident) => !r.safety || want.contains (r.berth.toNat * 1024 + r.handle.toNat, r.shard)
    let s := s.modTileWork p fun w => { w with residents := w.residents.filter keep }
    regrant p ((want.filter fun x => !(s.tileWork p).hasSafety x).foldl (fun s x => loadShard p x s) s)

/-- Every shard of a SAFETY model is loaded on its tile (R154). -/
def State.safetyLoaded (s : State) (key : Nat) : Bool :=
  let m := tabGet {} s.dyn.cfg.models key
  m.shards.zipIdx.all fun x => match s.dyn.cfg.physOf x.1.home with
    | some p => (s.tileWork p).hasSafety (key, x.2)
    | none => true

/-- The records of registrations whose safety shards are all loaded by now (R154). -/
def recordLoads (s : State) : State :=
  let ready := fun (x : Ticket × Result × Nat) => s.safetyLoaded x.2.2
  let go := s.lock.loading.filter ready
  go.foldl (fun s x => writeRecord x.1 0 x.2.1 s) (s.modLock fun k => { k with loading := k.loading.filter fun x => !ready x })

/-- Zero a tile's granules, registers, caches and counters (R46, R62, R63). -/
def zeroTile (p : Nat) (s : State) : State := s.modTileWork p fun w => { sr := w.sr }

/-! Sleep and wake (R41 to R44) -/

/-- The smallest tolerance among the berths whose work the tile serves (R42): the owner of its leaf basin and the
owners of resident shards; for Deep also every berth with a frame in its column. -/
def Dyn.tolerance (d : Dyn) (p : Nat) (deep : Bool) : Nat :=
  let owner := match d.cfg.logicalOf p with
    | none => []
    | some l => match d.cfg.leafOf l with
      | some n => [(d.cfg.basin n).berth]
      | none => []
  let residents := (tabGet {} d.work.tiles p).residents.map fun r => r.berth
  let pages := if !deep then [] else d.cfg.frames.filterMap fun kv => match kv.2 with
    | .held b => if columnOf (kv.1 * 0x10000) = p then some b else none
    | _ => none
  ((owner ++ residents ++ pages).map fun b => (d.cfg.berth b).wakeTol.toNat).foldl min 0xFFFFFF

/-- The wake time that a state is compared by, in units of 0.1 us: Deep counts 2,022.5 us (R41). -/
def wakeTenths : TilePower → Nat
  | .nap => 20
  | .doze => 400
  | .deep => 20225
  | _ => 0

/-- Idle time after which a state is entered, in us. -/
def idleUs : TilePower → Nat
  | .nap => 8
  | .doze => 400
  | .deep => 20000
  | _ => 0

/-- How deep a state is. -/
def TilePower.depth : TilePower → Nat
  | .active => 0
  | .idle => 0
  | .nap => 1
  | .doze => 2
  | .deep => 3
  | .off => 4

/-- A tile may sit in a state as far as tolerances go; a safety-basin tile in none but Idle (R33). -/
def Dyn.allows (d : Dyn) (p : Nat) (x : TilePower) : Bool :=
  (match d.cfg.logicalOf p with
   | some l => !d.cfg.safetyTile l
   | none => false)
  && wakeTenths x ≤ 10 * d.tolerance p (x == .deep)

/-- What a state's entry requires (R41): Doze no resident thread; Deep also a store that holds only weights. -/
def Dyn.mayEnter (d : Dyn) (p : Nat) : TilePower → Bool
  | .doze => (tabGet {} d.work.tiles p).workgroups.isEmpty
  | .deep => (tabGet {} d.work.tiles p).workgroups.isEmpty && (d.demand p).all fun x => match x.1.use with
    | .weights _ _ _ => true
    | _ => x.2 == 0
  | _ => true

/-- The deepest state that an idle tile may enter now. -/
def State.nextSleep (s : State) (p : Nat) : Option TilePower :=
  let d := s.tile p
  [TilePower.deep, .doze, .nap].find? fun x =>
    d.power.depth < x.depth && d.idleSince + idleUs x * us48 ≤ s.dyn.time.wc && s.dyn.allows p x && s.dyn.mayEnter p x

/-- TILE_STATE_ENTER of a physical tile (R41, R42): an idle tile enters the deepest state that is due and
permitted. A tile that is not idle has its idle time start again; no state due: no effect. -/
def execTileStateEnter (t : Fin 36) (s : State) : Host.Outcome State Fault Refusal :=
  let p := t.val
  let d := s.tile p
  if !s.dyn.bring.ready || (s.dyn.cfg.logicalOf p).isNone || d.wakeEnds.isSome || d.handover.isSome || d.testDrain then .next s
  else if !s.dyn.tileIdle p then .next (touchTile p s)
  else
    match s.nextSleep p with
    | none => .next s
    | some x => .next (s.modTile p fun d => { d with power := x, pace := 0 })

/-- TILE_WAKE of a physical tile (R41): work arrives at its NI. An awake tile: no effect. -/
def execTileWake (t : Fin 36) (s : State) : Host.Outcome State Fault Refusal :=
  if !s.dyn.bring.ready then .next s else .next (startWake t.val s)

/-- TILE_WAKE_DONE (R41, R44): the wake ends, the tile is Idle and its NI serves what it held. Not due: no
effect. -/
def execTileWakeDone (t : Fin 36) (s : State) : Host.Outcome State Fault Refusal :=
  match (s.tile t).wakeEnds with
  | none => .next s
  | some e =>
    if s.dyn.time.wc < e then .next s
    else
      .next (serveHeld (s.modTile t fun d => { d with power := .idle, wakeEnds := none, idleSince := s.dyn.time.wc }))

/-- The issue cap lets the tile start new work (R37): it binds the tiles of the performance pool only. Of the shares
between 0 % and 100 % the model, which counts no waves, keeps nothing. -/
def State.issues (s : State) (p : Nat) : Bool :=
  s.dyn.power.cap != 0 || match s.dyn.cfg.logicalOf p with
    | some l => s.dyn.cfg.safetyTile l
    | none => false

/-- The tile can run work now: powered and awake (R41). -/
def State.tileAwake (s : State) (p : Nat) : Bool := (s.tile p).power == .idle || (s.tile p).power == .active

/-- A tile takes new work: in no handover, and not draining for a test (R62, R502). -/
def TileDyn.open (d : TileDyn) : Bool := d.handover.isNone && !d.testDrain

/-! Handover -/

/-- The old tasks of a physical tile have ended, with every non-posted request of theirs (R62). -/
def State.tasksOver (s : State) (p : Nat) : Bool :=
  !s.dyn.tileBusy p && match s.dyn.cfg.logicalOf p with
    | some l => !s.tileWaits l
    | none => true

/-- HANDOVER_COMPLETE of a physical tile (R62, R63, R160, R557): the last old task has ended; the tile is zeroed if its
new owner is another berth, its safety shards are loaded, and it takes work from its new basin. A sleeping tile wakes
first. -/
def execHandoverComplete (t : Fin 36) (s : State) : Host.Outcome State Fault Refusal :=
  let p := t.val
  match (s.tile p).handover with
  | none => .next s
  | some h =>
    if !s.tasksOver p then .next s
    else if !(s.tileAwake p || (s.tile p).power == .off) then .next (startWake p s)
    else
      let s := if h.zero then zeroTile p s else s
      let s := if h.reload then loadSafety p s else s
      .next (recordLoads (s.modTile p fun d => { d with handover := none, power := if d.power == .off then .idle else d.power,
                                                        idleSince := s.dyn.time.wc }))

/-! Tile tests (R502) -/

/-- X and Y of a maintenance packet: 6 and 7 are reserved. -/
def opTileTest : OpInfo :=
  { opcode := 0x8010, wellFormed := fun p => onlyFields [(0, 3), (3, 3)] p && fldN p 0 3 < 6 && fldN p 3 3 < 6 }

/-- The physical tile that X and Y name. -/
def tileOfXY (p : Params) : Nat := 6 * fldN p 3 3 + fldN p 0 3

/-- A tile is retired. -/
def TileKind.isRetired : TileKind → Bool
  | .retired _ => true
  | _ => false

/-- TILE_TEST is work: its record follows the test. A spare is tested at once, a logical tile from the next lock
cycle. -/
def actTileTest (t : Ticket) (s : State) : State :=
  let p := tileOfXY t.cmd.params
  let k := tabGet TileKind.spare s.dyn.cfg.tiles p
  if k.isRetired then writeRecord t 0x0056 noResult s
  else s.modTile p fun d => { d with tests := d.tests ++ [t], testDrain := d.testDrain || k == .spare }

/-- TILE_TEST. -/
def execTileTest (c : Cmd) (s : State) : Host.Outcome State Fault Refusal := carry opTileTest c (maintenance actTileTest) s

/-- TILE_SELF_TEST_END (R502): the oldest test of a drained tile ends; the tile is zeroed and returns to its
basin. A failure names its block and counts as a tile failure. No test running: no effect. -/
def execTileSelfTestEnd (t : Fin 36) (failingBlock : Option Byte) (s : State) : Host.Outcome State Fault Refusal :=
  let p := t.val
  match (s.tile p).tests with
  | [] => .next s
  | k :: rest =>
    if !(s.tile p).testDrain || !s.tasksOver p then .next s
    else
      let s := loadSafety p (zeroTile p s)
      let s := s.modTile p fun d => { d with tests := rest, testDrain := !rest.isEmpty, idleSince := s.dyn.time.wc }
      match failingBlock with
      | none => .next (recordLoads (writeRecord k 0 noResult s))
      | some b => .next (recordLoads (tileFailure p { source := 7 } (writeRecord k 0x0108 (shortResult [(0, 8, b.toNat)]) s)))

end Sys2Proof.Machine
end

