-- ==== Sys2Proof/Machine/Sched.lean ====
section
/-! DEFINITION. Choosing the basin and the tiles of a job (R60, R61, R168 to R174). -/

namespace Sys2Proof.Machine

/-- Shards placed on a logical tile. -/
def Dyn.load (d : Dyn) (l : Nat) : Nat :=
  (d.work.jobs.map fun kv => match kv.2 with
    | none => 0
    | some j =>
      if !j.placed then 0
      else if j.shards.isEmpty then b2n (j.tiles.contains l)
      else (j.shards.filter fun x => x.tile == l).length).foldl (· + ·) 0

/-- The physical tile of a logical number takes new work. -/
def Dyn.tileOpen (d : Dyn) (l : Nat) : Bool :=
  match d.cfg.physOf l with
  | some p => (tabGet {} d.tiles p).open
  | none => false

/-- The logical tiles under a basin that take new work, ascending. -/
def Dyn.openTiles (d : Dyn) (n : Nat) : List Nat := (d.cfg.tilesUnder n).filter d.tileOpen

/-- A shard of a model is resident on a logical tile (R159, R160). -/
def Dyn.residentAt (d : Dyn) (b : BitVec 6) (h : BitVec 10) (shard l : Nat) : Bool :=
  match d.cfg.physOf l with
  | none => false
  | some p => (tabGet {} d.work.tiles p).residents.any fun r =>
      r.berth == b && r.handle == h && r.shard == shard && (r.safety || d.cfg.hotSet b)

/-- Resident shards of a model under a basin (R170). -/
def Dyn.residentsUnder (d : Dyn) (n : Nat) (model : Option (BitVec 6 × BitVec 10)) : Nat :=
  match model with
  | none => 0
  | some (b, h) =>
    let k := (tabGet {} d.cfg.models (b.toNat * 1024 + h.toNat)).shards.length
    (((d.cfg.tilesUnder n).map fun l => ((upFrom 0 k).filter fun i => d.residentAt b h i l).length)).foldl (· + ·) 0

/-- The first of a list above the one last chosen, wrapping (round robin). -/
def nextAfter (last : Nat) (xs : List Nat) : Option Nat :=
  match xs.find? fun x => last ≤ x with
  | some x => some x
  | none => xs.head?

/-- The child that a composite basin's DISPATCH picks (R61, R170): affinity the child with most resident shards,
round robin the next, least loaded the one with fewest placed shards; the lowest on a tie. -/
def Dyn.pickChild (d : Dyn) (n : Nat) (model : Option (BitVec 6 × BitVec 10)) : Option Nat :=
  let cs := d.cfg.children n
  match (d.cfg.basin n).dispatch.toNat with
  | 0 => minBy (fun c => 4096 - d.residentsUnder c model) cs
  | 1 => nextAfter (tabGet 0 d.work.lastTile n) cs
  | _ => minBy (fun c => ((d.cfg.tilesUnder c).map d.load).foldl (· + ·) 0) cs

/-- Note the tile or child chosen last by round robin. -/
def noteChosen (n chosen : Nat) (s : State) : State :=
  s.modWork fun w => { w with lastTile := tabPut 0 w.lastTile n (chosen + 1) }

/-- Resolve a basin to a leaf (R61): the walk ends at a leaf, or at a composite without children, where work
waits. -/
def resolveLeaf (model : Option (BitVec 6 × BitVec 10)) : Nat → Nat → State → State × Nat
  | 0, n, s => (s, n)
  | fuel + 1, n, s =>
    if (s.dyn.cfg.basin n).kind = 2 then
      match s.dyn.pickChild n model with
      | none => (s, n)
      | some c => resolveLeaf model fuel c (noteChosen n c s)
    else (s, n)

/-- The leaf of a basin, the walk bounded by the number of descriptors. -/
def leafUnder (model : Option (BitVec 6 × BitVec 10)) (n : Nat) (s : State) : State × Nat := resolveLeaf model 1024 n s

/-- The leaf of a command that names a basin: a composite is resolved once, when the command is the oldest of its queue
(R168). -/
def leafFor (t : Ticket) (model : Option (BitVec 6 × BitVec 10)) (n : Nat) (s : State) : State × Nat :=
  if (s.dyn.cfg.basin n).kind = 2 then
    match s.headLeafOf t with
    | some l => (s, l)
    | none => leafUnder model n s
  else (s, n)

/-- The tile for shard `i` of a model among the tiles `ts` not yet chosen (R170). -/
def Dyn.pickTile (d : Dyn) (n : Nat) (j : Job) (i : Nat) (ts : List Nat) : Option Nat :=
  match (d.cfg.basin n).dispatch.toNat with
  | 0 =>
    let resident := ts.filter fun l => d.residentAt j.berth j.handle i l
    match minBy d.load resident with
    | some l => some l
    | none =>
      match ts.find? fun l => d.cfg.physOf l == some (j.model.shards.getD i {}).anchor with
      | some l => some l
      | none => minBy (fun l => 256 - ((d.cfg.physOf l).map d.freeGranules).getD 0) ts
  | 1 => nextAfter (tabGet 0 d.work.lastTile n) ts
  | _ => minBy d.load ts

/-- Place the shards from `i` on, each on a tile of its own. -/
def placeFrom (n : Nat) (j : Job) : Nat → Nat → List Nat → List ShardRun → State → Option (State × List ShardRun)
  | 0, _, _, acc, s => some (s, acc.reverse)
  | k + 1, i, ts, acc, s =>
    match s.dyn.pickTile n j i ts with
    | none => none
    | some l => placeFrom n j k (i + 1) (ts.filter (· != l)) ({ shard := i, tile := l } :: acc) (noteChosen n l s)

/-- The shards of a SAFETY model run on the tiles they are assigned to (R174). -/
def safetyPlaces (m : Model) : List ShardRun := m.shards.zipIdx.map fun x => { shard := x.2, tile := x.1.home }

/-- Place a model job in its leaf basin: as placed, or waiting for tiles (R60, R176). -/
def placeModel (n : Nat) (j : Job) (s : State) : State × Job :=
  let wait := (s, { j with basin := BitVec.ofNat 10 n, placed := false, shards := [], tiles := [] })
  let done := fun (s : State) (xs : List ShardRun) =>
    (s, { j with basin := BitVec.ofNat 10 n, placed := true, shards := xs, tiles := xs.map fun x => x.tile })
  if j.model.safety then
    let xs := safetyPlaces j.model
    if xs.all fun x => s.dyn.tileOpen x.tile then done s xs else wait
  else
    match placeFrom n j j.model.shards.length 0 (s.dyn.openTiles n) [] s with
    | none => wait
    | some (s, xs) => done s xs

/-- The tiles that share a tensor command (R171): those of the basin with no placed work, at least one. -/
def tensorTiles (n : Nat) (s : State) : List Nat :=
  let ts := s.dyn.openTiles n
  let free := ts.filter fun l => s.dyn.load l == 0
  if free.isEmpty then (minBy s.dyn.load ts).toList else free

/-- How far K is split (R171): only with fewer parts than tiles and at least four K-steps. -/
def splitOf (parts tiles ksteps : Nat) : Nat :=
  if parts < tiles ∧ 4 ≤ ksteps ∧ 0 < parts then max 1 (min (tiles / parts) ksteps) else 1

/-- The tile for the next workgroup of a dispatch (R61, R135), among the open tiles of its leaf basin: by affinity
and least loaded the tile with fewest workgroups. -/
def Dyn.pickGroupTile (d : Dyn) (n : Nat) (ts : List Nat) : Option Nat :=
  if (d.cfg.basin n).dispatch = 1 then nextAfter (tabGet 0 d.work.lastTile n) ts
  else minBy (fun l => match d.cfg.physOf l with
    | some p => (tabGet {} d.work.tiles p).workgroups.length
    | none => 0) ts

end Sys2Proof.Machine
end

