-- ==== Sys2Proof/Machine/Headers.lean ====
section
/-! DEFINITION. Tensor headers, operand layouts and element access (R91 to R99, R113, R151, R152). -/

namespace Sys2Proof.Machine

/-! Headers (R98) -/

/-- The fields of the header that 64 bytes at an address spell. -/
def headerFields (va : Nat) (h : BitVec 512) : TensorHeader :=
  { format := fld h 4 4, layout := fld h 8 2, rank := fld h 10 2, dim0 := fld h 32 24, dim1 := fld h 56 24,
    dim2 := fld h 80 24, dim3 := fld h 104 24, dataAddr := fld h 128 40, scaleAddr := fld h 192 40,
    rowPitch := fld h 256 32, extLen := fld h 288 32, addr := BitVec.ofNat 40 va }

/-- The element width. -/
def TensorHeader.bits (h : TensorHeader) : Nat := formatBits h.format.toNat
/-- Rows of one batch entry: DIM1, or 1 for a vector. -/
def TensorHeader.rows (h : TensorHeader) : Nat := max 1 h.dim1.toNat
/-- Batch entries. -/
def TensorHeader.batch (h : TensorHeader) : Nat := max 1 h.dim2.toNat * max 1 h.dim3.toNat

/-- A quotient rounded up. -/
def ceilDiv (a b : Nat) : Nat := (a + b - 1) / b

/-- Bytes of codebooks (R84). -/
def TensorHeader.bookBytes (h : TensorHeader) : Nat := 16 * h.rows * ceilDiv h.dim0.toNat 64 * h.batch

/-- Check 4 of R113: VERSION, RANK, dimensions, reserved fields, EXT_LEN. -/
def headerValid (h : BitVec 512) (va : Nat) : Bool :=
  let t := headerFields va h
  let dims := [t.dim0, t.dim1, t.dim2, t.dim3]
  fldN h 0 4 == 1 && fldN h 12 20 == 0 && fldN h 168 24 == 0 && fldN h 232 24 == 0 && fldN h 320 192 == 0
  && (dims.zipIdx.all fun x => if x.2 ≤ t.rank.toNat then x.1 != 0 else x.1 == 0)
  && (t.layout == 0 || 1 ≤ t.rank.toNat)
  && t.extLen.toNat == (if t.format = 0xE then t.bookBytes else 0)

/-- The header that 64 bytes at an address spell. -/
def headerOf (va : Nat) (h : BitVec 512) : TensorHeader := { headerFields va h with ok := headerValid h va }

/-! Layouts (R92 to R95) -/

/-- The depth of a brick (R92). -/
def brickDepth (bits : Nat) : Nat := if bits = 16 then 128 else if bits = 4 then 512 else 256
/-- Rows of an A brick, channels of a B brick. -/
def TensorHeader.brickRows (h : TensorHeader) : Nat := if h.layout = 1 then 32 else 256
/-- Bytes of one row of a brick. -/
def TensorHeader.brickRow (h : TensorHeader) : Nat := brickDepth h.bits * h.bits / 8
/-- Bytes from one brick to the next: each starts 4 KB aligned (R94). -/
def TensorHeader.brickStride (h : TensorHeader) : Nat := ceilDiv (h.brickRows * h.brickRow) 4096 * 4096
/-- Bricks along DIM0. -/
def TensorHeader.bricksAcross (h : TensorHeader) : Nat := ceilDiv h.dim0.toNat (brickDepth h.bits)
/-- Bricks of one batch entry. -/
def TensorHeader.bricks (h : TensorHeader) : Nat := ceilDiv h.rows h.brickRows * h.bricksAcross
/-- Bytes of a packed linear row. -/
def TensorHeader.packedRow (h : TensorHeader) : Nat := ceilDiv (h.dim0.toNat * h.bits) 8

/-- The index of the brick of row r, element k, in its batch entry. -/
def TensorHeader.brickOf (h : TensorHeader) (r k : Nat) : Nat := r / h.brickRows * h.bricksAcross + k / brickDepth h.bits

/-- The bit address of element k of row r of batch entry b (R93, R94). -/
def TensorHeader.bitAddr (h : TensorHeader) (b r k : Nat) : Nat :=
  if h.layout = 0 then (h.dataAddr.toNat + (b * h.rows + r) * h.rowPitch.toNat) * 8 + k * h.bits
  else
    (h.dataAddr.toNat + (b * h.bricks + h.brickOf r k) * h.brickStride + r % h.brickRows * h.brickRow) * 8
      + k % brickDepth h.bits * h.bits

/-- Bytes of scales from one linear row to the next (R95). -/
def TensorHeader.scalePitch (h : TensorHeader) : Nat := ceilDiv (ceilDiv h.dim0.toNat 32) 64 * 64

/-- The address of the scale of element k of row r of batch entry b (R95). -/
def TensorHeader.scaleAt (h : TensorHeader) (b r k : Nat) : Nat :=
  if h.layout = 0 then h.scaleAddr.toNat + (b * h.rows + r) * h.scalePitch + k / 32
  else
    let d := brickDepth h.bits / 32
    h.scaleAddr.toNat + (b * h.bricks + h.brickOf r k) * (h.brickRows * d) + r % h.brickRows * d + k / 32 % d

/-- The address of the codebook of element k of channel r of batch entry b (R84). -/
def TensorHeader.bookAt (h : TensorHeader) (b r k : Nat) : Nat :=
  h.addr.toNat + 64 + ((b * h.rows + r) * ceilDiv h.dim0.toNat 64 + k / 64) * 16

/-- The range of the data. -/
def TensorHeader.dataSpan (h : TensorHeader) : Nat × Nat :=
  (h.dataAddr.toNat,
   if h.layout = 0 then (h.batch * h.rows - 1) * h.rowPitch.toNat + h.packedRow else h.batch * h.bricks * h.brickStride)

/-- The range of the scales; empty without scales. -/
def TensorHeader.scaleSpan (h : TensorHeader) : Nat × Nat :=
  (h.scaleAddr.toNat,
   if !formatIsMx h.format.toNat then 0
   else if h.layout = 0 then (h.batch * h.rows - 1) * h.scalePitch + ceilDiv h.dim0.toNat 32
   else h.batch * h.bricks * (h.brickRows * (brickDepth h.bits / 32)))

/-- The range of the header with its codebooks. -/
def TensorHeader.headSpan (h : TensorHeader) : Nat × Nat := (h.addr.toNat, 64 + h.extLen.toNat)

/-- Check 7 of R113: addresses and pitch are aligned, and zero where the layout or format has none. -/
def TensorHeader.aligned (h : TensorHeader) : Bool :=
  (if h.layout = 0 then
     h.dataAddr.toNat % 64 == 0 && h.rowPitch.toNat % 64 == 0 && h.packedRow ≤ h.rowPitch.toNat
   else h.dataAddr.toNat % 4096 == 0 && h.rowPitch == 0)
  && (if formatIsMx h.format.toNat then h.scaleAddr.toNat % 64 == 0 else h.scaleAddr == 0)

/-! Access by an engine of a tile (R151, R152) -/

/-- Who moves data: a job on a logical tile, and the shard of a model step. -/
structure Engine where
  job : Nat
  tile : Nat
  shard : Option Nat := none
  /-- the model step -/
  step : Nat := 0
  deriving DecidableEq, Repr

/-- Berth virtual addresses from here name working granules (R152). -/
def workBase : Nat := 0xFF00000000

/-- The shard run of an engine. -/
def State.shardRun (s : State) (g : Engine) : Option (Job × ShardRun) :=
  match s.job g.job, g.shard with
  | some j, some i => (j.shards.find? fun x => x.shard == i).map fun x => (j, x)
  | _, _ => none

/-- Update the run of a shard. -/
def modShard (j i : Nat) (f : ShardRun → ShardRun) (s : State) : State :=
  s.modJob j fun b => { b with shards := b.shards.map fun x => if x.shard = i then f x else x }

/-- Where an engine's address leads. -/
inductive Place where
  /-- the copied input of a sounding (R450, R453) -/
  | given (offset : Nat)
  | work (offset : Nat)
  /-- an output that a sounding binds (R453) -/
  | bound (offset : Nat)
  | weights (offset : Nat)
  | memory
  | nowhere
  deriving DecidableEq, Repr

/-- The offset of `len` bytes at an address in the concatenation of some ranges. -/
def spanOffset (va len : Nat) : List (Nat × Nat) → Nat → Option Nat
  | [], _ => none
  | (a, n) :: t, o => if a ≤ va ∧ va + len ≤ a + n then some (o + (va - a)) else spanOffset va len t (o + n)

/-- The ranges of the declared inputs and outputs of a model (R450). -/
def Model.inputSpans (m : Model) : List (Nat × Nat) := (m.io.take m.inputs).flatMap fun h => [h.dataSpan, h.scaleSpan]
/-- The ranges of the declared outputs. -/
def Model.outputSpans (m : Model) : List (Nat × Nat) := (m.io.drop m.inputs).flatMap fun h => [h.dataSpan, h.scaleSpan]

/-- What a sounding binds: its inputs to the copied input, its outputs to reserved granules (R453). -/
def soundingPlace (j : Job) (va len : Nat) : Option Place :=
  if j.kind ≠ .sounding then none
  else
    match spanOffset va len j.model.inputSpans 0, spanOffset va len j.model.outputSpans 0 with
    | some o, _ => some (.given o)
    | none, some o => some (.bound o)
    | none, none => none

/-- The place of `len` bytes at an address for an engine. -/
def placeOf (s : State) (g : Engine) (va len : Nat) : Place :=
  match s.shardRun g with
  | none => .memory
  | some (j, x) =>
    let sh := j.model.shards.getD x.shard {}
    let w := j.model.weightAddr.toNat + sh.weightOffset.toNat
    match soundingPlace j va len with
    | some p => p
    | none =>
      if workBase ≤ va then (if va - workBase + len ≤ sh.work.toNat * 0x10000 then .work (va - workBase) else .nowhere)
      else if w ≤ va ∧ va + len ≤ w + sh.weightBytes.toNat then .weights (va - w)
      else .memory

/-- The weights that a shard finds on its tile: the resident copy, or for a sounding those in the reserved granules (R152,
R453). -/
def State.weightsOf (s : State) (j : Job) (x : ShardRun) : List Byte :=
  if j.kind = .sounding then x.weights
  else
    match (s.dyn.cfg.physOf x.tile).bind fun p =>
        (s.tileWork p).residents.find? fun r => r.berth == j.berth && r.handle == j.handle && r.shard == x.shard with
    | some r => r.weights
    | none => []

/-- Who an engine's access to memory is. -/
def State.engineActor (s : State) (g : Engine) (j : Job) : Actor :=
  { berth := j.berth, src := s.jobSrc g.job g.tile, job := some g.job, tile := s.dyn.cfg.physOf g.tile }

/-- An engine reads bytes. -/
def engineRead (g : Engine) (va len : Nat) (s : State) : State × Access (List Byte) :=
  match placeOf s g va len, s.shardRun g with
  | .given o, some (j, _) => (s, .ok (match j.model.calibration with
      | some c => takeBytes len (c.input.drop o)
      | none => takeBytes len []))
  | .bound o, some (_, x) => (s, .ok ((upFrom o len).map (tabGet 0 x.work)))
  | .work o, some (j, x) =>
    let w := s.tileWork ((s.dyn.cfg.physOf x.tile).getD 36)
    (s, match w.storeKeys (.work g.job x.shard) j.berth j.gen o len with
        | some ks => .ok (ks.map w.storeByte)
        | none => .uncorrectable)
  | .weights o, some (j, x) => (s, .ok (takeBytes len ((s.weightsOf j x).drop o)))
  | .nowhere, _ => (s, .addressFault)
  | _, _ =>
    match s.job g.job with
    | none => (s, .addressFault)
    | some j => contextRead (s.engineActor g j) va len s

/-- An engine writes bytes. -/
def engineWrite (g : Engine) (va : Nat) (d : List Byte) (s : State) : State × Access Unit :=
  match placeOf s g va d.length, s.shardRun g with
  | .bound o, some (_, x) => (modShard g.job x.shard (fun y => { y with work := putBytes y.work o d }) s, .ok ())
  | .work o, some (j, x) =>
    let p := (s.dyn.cfg.physOf x.tile).getD 36
    match (s.tileWork p).storeKeys (.work g.job x.shard) j.berth j.gen o d.length with
    | some ks => (s.modTileWork p fun w => w.putStore ks d, .ok ())
    | none => (s, .uncorrectable)
  | .nowhere, _ => (s, .addressFault)
  | .given _, _ => (s, .addressFault)
  | _, _ =>
    match s.job g.job with
    | none => (s, .addressFault)
    | some j => contextWrite (s.engineActor g j) va d s

/-- An engine's atomic on an aligned word: in memory at the page's home, in the tile store there (R143). -/
def engineAtomic (g : Engine) (va : Nat) (op : AtomicOp) (v cmp : BitVec 32) (s : State) : State × Access (BitVec 32) :=
  let word := fun (d : List Byte) => BitVec.ofNat 32 (ofBytes d)
  match placeOf s g va 4, s.job g.job with
  | .memory, some j =>
    thenA (contextAtomic (s.engineActor g j) va op false (v.setWidth 64) (cmp.setWidth 64) s) fun d s => (s, .ok (word d))
  | _, _ =>
    if va % 4 ≠ 0 then (s, .addressFault)
    else
      thenA (engineRead g va 4 s) fun d s =>
        thenA (engineWrite g va (bytesOf 4 (atomicApply op (word d) v cmp).toNat) s) fun _ s => (s, .ok (word d))

/-- Read `n` bits at a bit address. -/
def readBits (g : Engine) (bit n : Nat) (s : State) : State × Access Nat :=
  thenA (engineRead g (bit / 8) ((bit % 8 + n + 7) / 8) s) fun d s => (s, .ok (ofBytes d / 2 ^ (bit % 8) % 2 ^ n))

/-- The value of element k of row r of batch entry b: scaled, or looked up in its codebook (R80 to R83). -/
def readElem (g : Engine) (h : TensorHeader) (b r k : Nat) (s : State) : State × Access Val :=
  let f := h.format.toNat
  thenA (readBits g (h.bitAddr b r k) h.bits s) fun x s =>
    if formatIsMx f then
      thenA (engineRead g (h.scaleAt b r k) 1 s) fun c s => (s, .ok (scaled (ofBytes c) (elementVal f x)))
    else if f = 0xE then
      thenA (engineRead g (h.bookAt b r k + x) 1 s) fun c s => (s, .ok (fmtE4M3.decode (ofBytes c)))
    else (s, .ok (elementVal f x))

/-- Elements k0 to k0 + n - 1 of a row. -/
def readRow (g : Engine) (h : TensorHeader) (b r k0 n : Nat) (s : State) : State × Access (List Val) :=
  eachA (fun k s => readElem g h b r k s) (upFrom k0 n) s

/-- Put `n` bits `v` at a bit offset of a number. -/
def mergeBits (old off n v : Nat) : Nat :=
  old % 2 ^ off + 2 ^ off * (v % 2 ^ n) + old / 2 ^ (off + n) * 2 ^ (off + n)

/-- Write `n` bits at a bit address; bits beside them in the first and last byte keep their value. -/
def writeBits (g : Engine) (bit n v : Nat) (s : State) : State × Access Unit :=
  let len := (bit % 8 + n + 7) / 8
  if bit % 8 = 0 ∧ n % 8 = 0 then engineWrite g (bit / 8) (bytesOf len v) s
  else
    thenA (engineRead g (bit / 8) len s) fun d s =>
      engineWrite g (bit / 8) (bytesOf len (mergeBits (ofBytes d) (bit % 8) n v)) s

/-- Convert and write up to 32 elements of row r from k0, a multiple of 32 (R85 to R87): the saturations and NaNs
counted. -/
def writeGroup (g : Engine) (h : TensorHeader) (b r k0 : Nat) (vs : List Val) (draws : List (Option Nat)) (s : State) :
    State × Access (Nat × Nat) :=
  let f := h.format.toNat
  let put := fun (bits : List Nat) (s : State) => writeBits g (h.bitAddr b r k0) (bits.length * h.bits) (packElems h.bits bits) s
  if formatIsMx f then
    let x := mxBlock f vs draws
    thenA (engineWrite g (h.scaleAt b r k0) (bytesOf 1 x.scale) s) fun _ s =>
      thenA (put x.bits s) fun _ s => (s, .ok (x.sat, x.nan))
  else if f = 0xE then
    thenA (engineRead g (h.bookAt b r k0) 16 s) fun book s =>
      let cs := vs.map (cb4Convert book)
      thenA (put (cs.map (·.bits)) s) fun _ s => (s, .ok (0, (cs.filter (·.nan)).length))
  else
    let cs := List.zipWith (fun v d => convertOne f d v) vs draws
    thenA (put (cs.map (·.bits)) s) fun _ s => (s, .ok ((cs.filter (·.sat)).length, (cs.filter (·.nan)).length))

end Sys2Proof.Machine
end

