-- ==== Sys2Proof/Machine/Images.lean ====
section
/-! DEFINITION. Images: descriptors, formats, swizzle, tags, texels and sampling (R266 to R274, R281, R282). -/

namespace Sys2Proof.Machine

/-- How an agent reads: address and length. -/
abbrev Reader := Nat → Nat → State → State × Access (List Byte)
/-- How an agent writes: address and bytes. -/
abbrev Writer := Nat → List Byte → State → State × Access Unit

/-- The reads of a berth, recorded as `a`. -/
def berthReader (a : Src) (b : BitVec 6) : Reader := fun va n s => readVirt a b va n s
/-- The writes of a berth. -/
def berthWriter (a : Src) (b : BitVec 6) : Writer := fun va d s => writeVirt a b va d s

/-! Formats (R267) -/

/-- What R267 says of an image format. -/
structure ImgFmt where
  bytes : Nat
  block : Bool := false
  linear : Bool := true
  colour : Bool := true
  blend : Bool := true
  depth : Bool := false
  stencil : Bool := false
  scan : Bool := false
  deriving DecidableEq, Repr

/-- The table of R267; none for reserved codes. -/
def imgFmt (f : Nat) : Option ImgFmt :=
  match f with
  | 0x01 => some { bytes := 1 }
  | 0x02 => some { bytes := 2 }
  | 0x03 => some { bytes := 4, scan := true }
  | 0x04 => some { bytes := 4, scan := true }
  | 0x05 => some { bytes := 4, scan := true }
  | 0x06 => some { bytes := 4, scan := true }
  | 0x07 => some { bytes := 4, scan := true }
  | 0x08 => some { bytes := 8 }
  | 0x09 => some { bytes := 2 }
  | 0x0A => some { bytes := 4, linear := false, blend := false }
  | 0x0B => some { bytes := 16, linear := false, blend := false }
  | 0x0C => some { bytes := 1, linear := false, blend := false }
  | 0x0D => some { bytes := 4, linear := false, blend := false }
  | 0x10 => some { bytes := 2, colour := false, blend := false, depth := true }
  | 0x11 => some { bytes := 4, linear := false, colour := false, blend := false, depth := true }
  | 0x12 => some { bytes := 4, colour := false, blend := false, depth := true, stencil := true }
  | 0x13 => some { bytes := 1, linear := false, colour := false, blend := false, stencil := true }
  | 0x18 => some { bytes := 16, block := true, colour := false, blend := false }
  | 0x19 => some { bytes := 16, block := true, colour := false, blend := false }
  | _ => none

/-- An image descriptor (R266). -/
structure Image where
  format : Nat
  fmt : ImgFmt
  four : Bool
  levels : Nat
  width : Nat
  height : Nat
  layers : Nat
  data : Nat
  tag : Nat
  clear : Nat
  deriving DecidableEq, Repr

/-- The descriptor that 64 bytes spell; an unknown format code counts as one byte. -/
def pictureOf (h : BitVec 512) : Image :=
  { format := fldN h 0 6, fmt := (imgFmt (fldN h 0 6)).getD { bytes := 1 }, four := bitAt h 6, levels := fldN h 8 4,
    width := fldN h 16 15, height := fldN h 32 15, layers := fldN h 48 11, data := fldN h 64 40, tag := fldN h 128 40,
    clear := fldN h 192 128 }

/-- Every field of a descriptor is in range and reserved fields are zero (R266). -/
def pictureValid (h : BitVec 512) : Bool :=
  let i := pictureOf h
  (imgFmt i.format).isSome && !bitAt h 7 && fldN h 12 4 == 0 && !bitAt h 31 && !bitAt h 47 && fldN h 59 5 == 0
  && fldN h 104 24 == 0 && fldN h 168 24 == 0 && fldN h 320 192 == 0
  && 1 ≤ i.levels && (!i.four || (i.levels == 1 && !i.fmt.block))
  && 1 ≤ i.width && i.width ≤ 16384 && 1 ≤ i.height && i.height ≤ 16384 && 1 ≤ i.layers
  && i.data % 0x10000 == 0 && i.tag % 64 == 0 && (i.tag == 0 || (i.levels == 1 && i.layers == 1))
  && i.clear < 2 ^ (8 * i.fmt.bytes)

/-! Swizzle (R268, R269) -/

/-- Width and height of a level in pixels. -/
def Image.levelSize (i : Image) (l : Nat) : Nat × Nat := (max 1 (i.width / 2 ^ l), max 1 (i.height / 2 ^ l))

/-- The element grid of a level. -/
def Image.grid (i : Image) (l : Nat) : Nat × Nat :=
  let (w, h) := i.levelSize l
  if i.fmt.block then (ceilDiv w 4, ceilDiv h 4) else if i.four then (2 * w, 2 * h) else (w, h)

/-- log2 of the blocks of a page: n of R268. -/
def ImgFmt.pageLog (f : ImgFmt) : Nat := 10 - Nat.log2 f.bytes
/-- Width and height of a page in elements. -/
def ImgFmt.pageSize (f : ImgFmt) : Nat × Nat := (8 * 2 ^ ((f.pageLog + 1) / 2), 8 * 2 ^ (f.pageLog / 2))

/-- Interleave the low `n` bits of x and y, x at even places. -/
def interleave : Nat → Nat → Nat → Nat
  | 0, _, _ => 0
  | n + 1, x, y => x % 2 + 2 * (y % 2) + 4 * interleave n (x / 2) (y / 2)

/-- Pages of a level. -/
def Image.levelPages (i : Image) (l : Nat) : Nat :=
  let (w, h) := i.grid l
  ceilDiv w i.fmt.pageSize.1 * ceilDiv h i.fmt.pageSize.2

/-- Pages of the levels below `l`. -/
def Image.pagesBelow (i : Image) (l : Nat) : Nat := ((upFrom 0 l).map i.levelPages).foldl (· + ·) 0

/-- The address of element (x, y) of a level of a layer. -/
def Image.elementAt (i : Image) (layer level x y : Nat) : Nat :=
  let (pw, ph) := i.fmt.pageSize
  let page := y / ph * ceilDiv (i.grid level).1 pw + x / pw
  let block := interleave 7 (x % pw / 8) (y % ph / 8)
  i.data + 0x10000 * (layer * i.pagesBelow i.levels + i.pagesBelow level + page)
    + block * 64 * i.fmt.bytes + i.fmt.bytes * interleave 3 (x % 8) (y % 8)

/-- The element of sample s of pixel (x, y). -/
def Image.element (i : Image) (x y smp : Nat) : Nat × Nat :=
  if i.fmt.block then (x / 4, y / 4) else if i.four then (2 * x + smp % 2, 2 * y + smp / 2) else (x, y)

/-- The range of an image's data. -/
def Image.dataSpan (i : Image) : Nat × Nat := (i.data, 0x10000 * i.layers * i.pagesBelow i.levels)
/-- The 8 × 8 pixel blocks of level 0 across and down. -/
def Image.tagGrid (i : Image) : Nat × Nat := (ceilDiv i.width 8, ceilDiv i.height 8)
/-- The range of the tag plane; empty without one. -/
def Image.tagSpan (i : Image) : Nat × Nat := (i.tag, if i.tag = 0 then 0 else ceilDiv (i.tagGrid.1 * i.tagGrid.2) 4)
/-- The ranges that writing an image changes. -/
def Image.spans (i : Image) : List (Nat × Nat) := [i.dataSpan, i.tagSpan]

/-! Tags (R270) -/

/-- The tag of the 8 × 8 block of a pixel; raw without a tag plane. -/
def readTag (rd : Reader) (i : Image) (x y : Nat) (s : State) : State × Access Nat :=
  if i.tag = 0 then (s, .ok 0)
  else
    let k := y / 8 * i.tagGrid.1 + x / 8
    thenA (rd (i.tag + k / 4) 1 s) fun d s => (s, .ok (ofBytes d / 4 ^ (k % 4) % 4))

/-- Set the tag of the block of a pixel. -/
def writeTag (rd : Reader) (wr : Writer) (i : Image) (x y v : Nat) (s : State) : State × Access Unit :=
  let k := y / 8 * i.tagGrid.1 + x / 8
  thenA (rd (i.tag + k / 4) 1 s) fun d s => wr (i.tag + k / 4) (bytesOf 1 (mergeBits (ofBytes d) (2 * (k % 4)) 2 v)) s

/-- The stored texel of a sample of a pixel, tags decoded (R270, R271); for a block-compressed format the block. -/
def readTexel (rd : Reader) (i : Image) (layer level x y smp : Nat) (s : State) : State × Access Nat :=
  thenA (readTag rd i x y s) fun tag s =>
    if tag = 1 then (s, .ok i.clear)
    else
      let e := if tag = 2 then i.element (x / 8 * 8) (y / 8 * 8) 0 else i.element x y smp
      thenA (rd (i.elementAt layer level e.1 e.2) i.fmt.bytes s) fun d s => (s, .ok (ofBytes d))

/-! Texel values -/

/-- A normalised integer as FP32, rounded once. -/
def unormFp32 (n w : Nat) : BitVec 32 := fp32OfRat ((n : Rat) / (2 ^ w - 1 : Nat))

/-- A value clamped to [0, 1] as a normalised integer, ties to even (R281, R282). -/
def fp32Unorm (a : BitVec 32) (w : Nat) : Nat :=
  match fp32Rat (fp32Clamp01 a) with
  | some q => (roundRat (q * (2 ^ w - 1 : Nat))).toNat
  | none => 0

/-- FP16 bits as FP32. -/
def fp16ToFp32 (x : Nat) : BitVec 32 := fp32Round (fmtFp16.decode x)

/-- FP32 as FP16: to nearest even, overflow to infinity (R282). -/
def fp32ToFp16 (a : BitVec 32) : Nat :=
  let v := fp32Val a
  let c := fmtFp16.convert none v
  if c.sat then fmtFp16.pack v.isNeg 31 0 else c.bits

/-- Four components as one word, red lowest. -/
def pack4 (r g b a : BitVec 32) : BitVec 128 := a ++ b ++ g ++ r
/-- Component `c` of four. -/
def comp (v : BitVec 128) (c : Nat) : BitVec 32 := fld v (32 * c) 32

/-- The colour that a texel of a plain format stands for (R274, R282): missing components read 0, alpha 1. Depth
and stencil come in the first component. -/
def texelValue (f x : Nat) : BitVec 128 :=
  let c8 := fun k => unormFp32 (x / 256 ^ k % 256) 8
  let s8 := fun k => Config.srgbToLinear (BitVec.ofNat 8 (x / 256 ^ k))
  let h16 := fun k => fp16ToFp32 (x / 65536 ^ k % 65536)
  let w32 := fun k => BitVec.ofNat 32 (x / 2 ^ (32 * k))
  match f with
  | 0x01 => pack4 (c8 0) 0 0 fp32One
  | 0x02 => pack4 (c8 0) (c8 1) 0 fp32One
  | 0x03 => pack4 (c8 0) (c8 1) (c8 2) (c8 3)
  | 0x04 => pack4 (s8 0) (s8 1) (s8 2) (c8 3)
  | 0x05 => pack4 (c8 2) (c8 1) (c8 0) (c8 3)
  | 0x06 => pack4 (s8 2) (s8 1) (s8 0) (c8 3)
  | 0x07 => pack4 (unormFp32 (x % 1024) 10) (unormFp32 (x / 1024 % 1024) 10) (unormFp32 (x / 2 ^ 20 % 1024) 10)
              (unormFp32 (x / 2 ^ 30 % 4) 2)
  | 0x08 => pack4 (h16 0) (h16 1) (h16 2) (h16 3)
  | 0x09 => pack4 (h16 0) 0 0 fp32One
  | 0x0A => pack4 (w32 0) 0 0 fp32One
  | 0x0B => pack4 (w32 0) (w32 1) (w32 2) (w32 3)
  | 0x0C => pack4 (BitVec.ofNat 32 (x % 256)) 0 0 1
  | 0x0D => pack4 (w32 0) 0 0 1
  | 0x10 => pack4 (unormFp32 (x % 65536) 16) 0 0 fp32One
  | 0x11 => pack4 (w32 0) 0 0 fp32One
  | 0x12 => pack4 (unormFp32 (x % 2 ^ 24) 24) 0 0 fp32One
  | 0x13 => pack4 (BitVec.ofNat 32 (x % 256)) 0 0 1
  | _ => 0

/-- The texel that a colour is stored as (R282). -/
def texelBits (f : Nat) (v : BitVec 128) : Nat :=
  let c8 := fun k => fp32Unorm (comp v k) 8
  let s8 := fun k => (Config.linearToSrgb (fp32Clamp01 (comp v k))).toNat
  let four := fun r g b a => r + 256 * g + 65536 * b + 2 ^ 24 * a
  match f with
  | 0x01 => c8 0
  | 0x02 => c8 0 + 256 * c8 1
  | 0x03 => four (c8 0) (c8 1) (c8 2) (c8 3)
  | 0x04 => four (s8 0) (s8 1) (s8 2) (c8 3)
  | 0x05 => four (c8 2) (c8 1) (c8 0) (c8 3)
  | 0x06 => four (s8 2) (s8 1) (s8 0) (c8 3)
  | 0x07 => fp32Unorm (comp v 0) 10 + 2 ^ 10 * fp32Unorm (comp v 1) 10 + 2 ^ 20 * fp32Unorm (comp v 2) 10
              + 2 ^ 30 * fp32Unorm (comp v 3) 2
  | 0x08 => fp32ToFp16 (comp v 0) + 2 ^ 16 * fp32ToFp16 (comp v 1) + 2 ^ 32 * fp32ToFp16 (comp v 2)
              + 2 ^ 48 * fp32ToFp16 (comp v 3)
  | 0x09 => fp32ToFp16 (comp v 0)
  | 0x0A => (comp v 0).toNat
  | 0x0B => v.toNat
  | 0x0C => (comp v 0).toNat % 256
  | _ => (comp v 0).toNat

/-- Components are stored as sRGB. -/
def isSrgb (f : Nat) : Bool := f == 0x04 || f == 0x06
/-- Integer formats. -/
def isUint (f : Nat) : Bool := f == 0x0C || f == 0x0D || f == 0x13

/-- The colour of a texel of a level of a layer. -/
def fetchTexel (rd : Reader) (i : Image) (layer level x y : Nat) (s : State) : State × Access (BitVec 128) :=
  thenA (readTexel rd i layer level x y 0 s) fun t s =>
    (s, .ok (if i.fmt.block then Config.blockTexel i.format t (y % 4 * 4 + x % 4) else texelValue i.format t))

/-! Sampling (R273, R274) -/

/-- A sampler descriptor (R273): its bits. -/
abbrev Sampler := BitVec 128

/-- Every encoding of a sampler is valid for an image, and reserved fields are zero. -/
def samplerValid (k : Sampler) (i : Image) : Bool :=
  fldN k 2 2 != 3 && fldN k 8 2 != 3 && fldN k 14 2 == 0 && fldN k 64 64 == 0 && (!bitAt k 10 || i.fmt.depth)

/-- The texel index that an addressing mode gives: none for the border. -/
def wrapIndex (mode : Nat) (n : Nat) (i : Int) : Option Nat :=
  match mode with
  | 0 => some (i % n).toNat
  | 1 =>
    let m := (i % (2 * n : Nat)).toNat
    some (if m < n then m else 2 * n - 1 - m)
  | 2 => some (max 0 (min i (n - 1 : Nat))).toNat
  | _ => if 0 ≤ i ∧ i < n then some i.toNat else none

/-- The border colour. -/
def borderColour (k : Sampler) : BitVec 128 :=
  match fldN k 8 2 with
  | 0 => 0
  | 1 => pack4 0 0 0 fp32One
  | _ => pack4 fp32One fp32One fp32One fp32One

/-- One texel for a filter: its colour, or the result of the comparison with `ref`. -/
def filterTexel (rd : Reader) (i : Image) (k : Sampler) (layer level : Nat) (ref : BitVec 32) (x y : Int) (s : State) :
    State × Access (BitVec 128) :=
  let (w, h) := i.levelSize level
  let post := fun v : BitVec 128 =>
    if bitAt k 10 then (if compareOp fp32Lt (fun a b => (fp32Val a).eq (fp32Val b)) (fldN k 11 3) ref (comp v 0) then pack4 fp32One 0 0 fp32One
                        else pack4 0 0 0 fp32One) else v
  match wrapIndex (fldN k 4 2) w x, wrapIndex (fldN k 6 2) h y with
  | some px, some py => thenA (fetchTexel rd i layer level px py s) fun v s => (s, .ok (post v))
  | _, _ => (s, .ok (post (borderColour k)))

/-- The floor of an FP32 coordinate and its fraction in units of 1/256; zero for what is not finite. -/
def floorFrac (x : BitVec 32) : Int × Nat :=
  match fp32Rat x with
  | some q =>
    let f := (q - q.floor) * 256
    (q.floor, if f.den = 1 then f.num.toNat else Config.filterWeight (q - q.floor) % 257)
  | none => (0, 0)

/-- Weight colours component by component, the weights adding up to `d` (R274). -/
def weigh (d : Nat) (xs : List (Nat × BitVec 128)) : BitVec 128 :=
  let m := fun c => fp32Weigh d (xs.map fun x => (x.1, comp x.2 c))
  pack4 (m 0) (m 1) (m 2) (m 3)

/-- Sample one level. -/
def sampleLevel (rd : Reader) (i : Image) (k : Sampler) (linear : Bool) (layer level : Nat) (u v ref : BitVec 32) (s : State) :
    State × Access (BitVec 128) :=
  let (w, h) := i.levelSize level
  let x := fp32Mul u (fp32OfInt w)
  let y := fp32Mul v (fp32OfInt h)
  let at_ := filterTexel rd i k layer level ref
  if !linear then at_ (floorFrac x).1 (floorFrac y).1 s
  else
    let (x0, fx) := floorFrac (fp32Sub x 0x3F000000)
    let (y0, fy) := floorFrac (fp32Sub y 0x3F000000)
    thenA (at_ x0 y0 s) fun a s => thenA (at_ (x0 + 1) y0 s) fun b s =>
      thenA (at_ x0 (y0 + 1) s) fun c s => thenA (at_ (x0 + 1) (y0 + 1) s) fun d s =>
        (s, .ok (weigh 65536 [((256 - fx) * (256 - fy), a), (fx * (256 - fy), b), ((256 - fx) * fy, c), (fx * fy, d)]))

/-- The base-2 logarithm of rho in units of 1/256, from the FP32 square of rho: exact where it is a multiple of 1/2, else a free
value between the two such multiples around it; of an infinity beyond every level, of zero below them. -/
def lodOf (rho2 : BitVec 32) : Int :=
  match fp32Rat rho2 with
  | none => if fp32Val rho2 = .inf false then 0x1000000 else Config.textureLod rho2
  | some q =>
    if q ≤ 0 then -0x1000000
    else
      let e : Int := (Nat.log2 q.num.natAbs : Int) - Nat.log2 q.den
      let p : Rat := if 0 ≤ e then ((2 ^ e.toNat : Nat) : Rat) else 1 / ((2 ^ (-e).toNat : Nat) : Rat)
      if q = p then 128 * e else max (128 * e) (min (Config.textureLod rho2) (128 * (e + 1)))

/-- lambda of R274 in units of 1/256, from the square of rho. -/
def sampleLod (k : Sampler) (rho2 : BitVec 32) : Int :=
  max (fldN k 32 16 : Int) (min (lodOf rho2 + (fld k 16 16).toInt) (fldN k 48 16))

/-- A sample of an image at (u, v) (R274): the colour, or none where it raises an illegal-instruction fault. -/
def sampleImage (rd : Reader) (h : BitVec 512) (k : Sampler) (layer : Nat) (u v ref rho2 : BitVec 32) (s : State) :
    State × Access (Option (BitVec 128)) :=
  let i := pictureOf h
  let lod := sampleLod k rho2
  let linear := if lod ≤ 0 then bitAt k 0 else bitAt k 1
  let mip := fldN k 2 2
  let n := (max 0 lod).toNat
  let level := if mip = 0 then 0 else if mip = 1 then (n + 128) / 256 else n / 256
  let bad := !pictureValid h || !samplerValid k i || i.four || i.layers ≤ layer || i.levels ≤ level
    || ((linear || mip == 2) && !i.fmt.linear)
  if bad then (s, .ok none)
  else
    thenA (sampleLevel rd i k linear layer level u v ref s) fun a s =>
      if mip = 2 ∧ n % 256 ≠ 0 ∧ level + 1 < i.levels then
        thenA (sampleLevel rd i k linear layer (level + 1) u v ref s) fun b s => (s, .ok (some (weigh 256 [(256 - n % 256, a), (n % 256, b)])))
      else (s, .ok (some a))

/-! Writing -/

/-- Write the texel of a sample of a pixel. -/
def writeTexel (wr : Writer) (i : Image) (layer level x y smp v : Nat) (s : State) : State × Access Unit :=
  let e := i.element x y smp
  wr (i.elementAt layer level e.1 e.2) (bytesOf i.fmt.bytes v) s

/-- The pixels of the 8 × 8 block (bx, by) inside the image, with their samples. -/
def Image.blockSamples (i : Image) (bx by_ : Nat) : List (Nat × Nat × Nat) :=
  (upFrom (8 * by_) 8).flatMap fun y => (upFrom (8 * bx) 8).flatMap fun x =>
    if x < i.width ∧ y < i.height then (upFrom 0 (if i.four then 4 else 1)).map fun k => (x, y, k) else []

end Sys2Proof.Machine
end

