-- ==== Sys2Proof/Machine/Geometry.lean ====
section
/-! DEFINITION. Raster geometry: state blocks, assembly, clipping, setup, coverage and listing (R227, R235 to R251,
R280). Nothing here changes the state. -/

namespace Sys2Proof.Machine

/-! State blocks (R227, R280) -/

/-- A raster state block: its 1,024 bits. -/
abbrev RState := BitVec 1024

/-- TOPOLOGY, CLIP_DIST, NVAR. -/
def rsTopology (b : RState) : Nat := fldN b 4 4
/-- CLIP_DIST. -/
def rsClips (b : RState) : Nat := fldN b 16 4
/-- NVAR. -/
def rsVaryings (b : RState) : Nat := fldN b 20 5
/-- RESTART. -/
def rsRestart (b : RState) : Bool := bitAt b 11
/-- DEPTH_CLAMP. -/
def rsDepthClamp (b : RState) : Bool := bitAt b 12
/-- FRAG_EN. -/
def rsFragEn (b : RState) : Bool := bitAt b 15
/-- LATE_TEST. -/
def rsLate (b : RState) : Bool := bitAt b 46
/-- Bits of the depth, stencil and blend half. -/
def rsPix (b : RState) (lo n : Nat) : Nat := fldN b (512 + lo) n
/-- The blend fields of colour entry t. -/
def rsBlend (b : RState) (t : Nat) : BitVec 44 := fld b (512 + 96 + 44 * t) 44

/-- An FP32 word is finite. -/
def isFinite (x : BitVec 32) : Bool := fldN x 23 8 != 255

/-- The blend fields hold no reserved encoding. -/
def blendFieldsOk (x : BitVec 44) : Bool :=
  fldN x 1 5 ≤ 14 && fldN x 6 5 ≤ 14 && fldN x 11 3 ≤ 4 && fldN x 14 5 ≤ 14 && fldN x 19 5 ≤ 14 && fldN x 24 3 ≤ 4
  && fldN x 31 13 == 0

/-- Every field of a state block is in range (R227, R280). -/
def stateFieldsOk (b : RState) : Bool :=
  let w := fun i => fld b i 32
  fldN b 0 4 == 1 && rsTopology b ≤ 5 && rsClips b ≤ 8 && rsVaryings b ≤ 16 && fldN b 25 7 == 0 && fldN b 38 2 == 0
  && fldN b 47 17 == 0 && fldN b 320 192 == 0 && (rsFragEn b || fldN b 40 6 == 0)
  && ([64, 96, 128, 160, 192, 224].all fun i => isFinite (w i))
  && fldN b 128 31 != 0 && fldN b 160 31 != 0
  && ([192, 224].all fun i => fp32Le 0 (w i) && fp32Le (w i) fp32One)
  && fldN b 256 16 ≤ fldN b 288 16 && fldN b 272 16 ≤ fldN b 304 16
  && !(rsRestart b && !(rsTopology b == 2 || rsTopology b == 4 || rsTopology b == 5))
  && rsPix b 6 2 == 0 && rsPix b 80 16 == 0 && (upFrom 0 8).all fun t => blendFieldsOk (rsBlend b t)

/-! Draw records (R231) -/

/-- A draw record: its bits. -/
abbrev Draw := BitVec 512

/-- Every field of a draw record is in range. -/
def drawFieldsOk (d : Draw) : Bool :=
  let ix := fldN d 16 2
  fldN d 10 6 == 0 && ix ≤ 2 && fldN d 18 14 == 0 && fldN d 32 32 != 0 && fldN d 64 32 != 0
  && fldN d 232 24 == 0 && fldN d 296 216 == 0 && fldN d 256 40 % 64 == 0
  && (if ix = 0 then fldN d 192 40 == 0 else fldN d 192 40 % (2 * ix) == 0)

/-- Restart is in force for a draw (R236). -/
def restarts (d : Draw) (b : RState) : Bool := rsRestart b && fldN d 16 2 != 0

/-! Assembly (R235 to R237) -/

/-- Primitives of n positions. -/
def primCount (top n : Nat) : Nat :=
  match top with
  | 0 => n
  | 1 => n / 2
  | 2 => n - 1
  | 3 => n / 3
  | _ => n - 2

/-- The positions of primitive k. -/
def primAt (top k : Nat) : List Nat :=
  match top with
  | 0 => [k]
  | 1 => [2 * k, 2 * k + 1]
  | 2 => [k, k + 1]
  | 3 => [3 * k, 3 * k + 1, 3 * k + 2]
  | 4 => if k % 2 = 0 then [k, k + 1, k + 2] else [k + 1, k, k + 2]
  | _ => [k + 1, k + 2, 0]

/-- Batches of one instance of a draw. -/
def drawBatches (d : Draw) (b : RState) : Nat :=
  if restarts d b then 1 else ceilDiv (primCount (rsTopology b) (fldN d 32 32)) 1024

/-- The positions of the primitives of batch j of an instance, without restart. -/
def batchPositions (d : Draw) (b : RState) (j : Nat) : List (List Nat) :=
  let n := primCount (rsTopology b) (fldN d 32 32)
  (upFrom (1024 * j) (min 1024 (n - 1024 * j))).map (primAt (rsTopology b))

/-- Runs of positions between restart indices: first position and length. -/
def restartRuns (cut : Nat) : List Nat → Nat → Nat → List (Nat × Nat)
  | [], o, n => [(o, n)]
  | i :: t, o, n => if i = cut then (o, n) :: restartRuns cut t (o + n + 1) 0 else restartRuns cut t o (n + 1)

/-- The positions of the primitives of a whole restarted instance, from its raw indices. -/
def restartPositions (b : RState) (cut : Nat) (raw : List Nat) : List (List Nat) :=
  (restartRuns cut raw 0 0).flatMap fun r =>
    (upFrom 0 (primCount (rsTopology b) r.2)).map fun k => (primAt (rsTopology b) k).map (r.1 + ·)

/-! Clipping (R240, R241) -/

/-- The number that an FP32 word counts as; free for infinities and NaN. -/
def ratOf (x : BitVec 32) : Rat := (fp32Rat x).getD (Config.nonFinite x)

/-- A vertex being clipped: clip-space position, clip distances, varyings; `orig`: it is an input vertex. -/
structure ClipVert where
  x : Rat
  y : Rat
  z : Rat
  w : Rat
  clip : List Rat
  vary : List Rat
  orig : Option VertexOut := none

/-- An input vertex. -/
def clipVert (v : VertexOut) : ClipVert :=
  { x := ratOf v.x, y := ratOf v.y, z := ratOf v.z, w := ratOf v.w, clip := v.clip.map ratOf,
    vary := v.varyings.flatMap fun u => (upFrom 0 4).map fun i => ratOf (comp u i), orig := some v }

/-- The point a + t (b - a). -/
def ClipVert.lerp (t : Rat) (a b : ClipVert) : ClipVert :=
  let f := fun (p q : Rat) => p + t * (q - p)
  { x := f a.x b.x, y := f a.y b.y, z := f a.z b.z, w := f a.w b.w, clip := List.zipWith f a.clip b.clip,
    vary := List.zipWith f a.vary b.vary }

/-- The planes near, far and those of the clip distances, as functions that are not negative inside. -/
def depthPlanes (b : RState) : List (ClipVert → Rat) :=
  (if rsDepthClamp b then [fun v => v.w - 1 / 1048576] else [fun v => v.z, fun v => v.w - v.z])

/-- The guard band planes. -/
def guardPlanes (b : RState) : List (ClipVert → Rat) :=
  let cx := ratOf (fld b 64 32) + ratOf (fld b 128 32) / 2
  let hx := ratOf (fld b 128 32) / 2
  let cy := ratOf (fld b 96 32) + ratOf (fld b 160 32) / 2
  let hy := ratOf (fld b 160 32) / 2
  [fun v => (cx + 32768) * v.w + hx * v.x, fun v => (32767 - cx) * v.w - hx * v.x,
   fun v => (cy + 32768) * v.w + hy * v.y, fun v => (32767 - cy) * v.w - hy * v.y]

/-- The planes of the user clip distances. -/
def userPlanes (b : RState) : List (ClipVert → Rat) := (upFrom 0 (rsClips b)).map fun n => fun v => v.clip.getD n 0

/-- Where the edge from a to b meets a plane. -/
def ClipVert.meet (f : ClipVert → Rat) (a b : ClipVert) : ClipVert := a.lerp (f a / (f a - f b)) b

/-- One pass of Sutherland-Hodgman over the edges that leave each vertex, so that a first vertex that stays is the first of
the output (R250): `first` is the vertex behind the last. -/
def clipEdges (f : ClipVert → Rat) (first : ClipVert) : List ClipVert → List ClipVert
  | [] => []
  | v :: t =>
    let n := t.headD first
    (if 0 ≤ f v then (if 0 ≤ f n then [v] else [v, v.meet f n])
     else if 0 ≤ f n then [v.meet f n] else []) ++ clipEdges f first t

/-- Clip a polygon against a plane. -/
def clipPolygon (p : List ClipVert) (f : ClipVert → Rat) : List ClipVert :=
  match p with
  | [] => []
  | v :: _ => clipEdges f v p

/-- Cut a line to one side of a plane. -/
def clipLine (p : List ClipVert) (f : ClipVert → Rat) : List ClipVert :=
  match p with
  | [a, b] =>
    if 0 ≤ f a then (if 0 ≤ f b then [a, b] else [a, a.meet f b])
    else if 0 ≤ f b then [a.meet f b, b] else []
  | _ => []

/-- What a primitive keeps: a point, a segment or a polygon; nothing when it is dropped. -/
def clipPrim (b : RState) (p : List ClipVert) : List ClipVert :=
  match p with
  | [v] => if (depthPlanes b ++ userPlanes b).all fun f => decide (0 ≤ f v) then [v] else []
  | [_, _] => (depthPlanes b ++ guardPlanes b ++ userPlanes b).foldl clipLine p
  | _ => (depthPlanes b ++ guardPlanes b ++ userPlanes b).foldl clipPolygon p

/-! Setup (R242, R243) -/

/-- A screen coordinate as 24.8 fixed point, to nearest, ties to even; free where it does not fit. -/
def snap (x : BitVec 32) : Int :=
  match fp32Rat x with
  | some q =>
    let i := roundRat (q * 256)
    if -(2 ^ 31) ≤ i ∧ i < 2 ^ 31 then i else (Config.snapWide x).toInt
  | none => (Config.snapWide x).toInt

/-- Four words from sixteen-byte pieces of a list of numbers. -/
def packVaryings : List Rat → List (BitVec 128)
  | a :: b :: c :: d :: t => pack4 (fp32Free a) (fp32Free b) (fp32Free c) (fp32Free d) :: packVaryings t
  | _ => []

/-- A quotient of a clipped vertex in FP32: of its words, or of the exact position that a new vertex takes (R240); free over a
zero w. -/
def ClipVert.over (v : ClipVert) (word : VertexOut → BitVec 32) (c : Rat) : BitVec 32 :=
  match v.orig with
  | some o => fp32Div (word o) o.w
  | none => if v.w = 0 then Config.overZero c else fp32OfRat (c / v.w)

/-- A clipped vertex mapped to the screen (R242), in FP32. -/
def toScreen (b : RState) (v : ClipVert) : ScreenVert :=
  let half : BitVec 32 := 0x3F000000
  let map := fun (c origin size : BitVec 32) => fp32Add origin (fp32Mul (fp32Mul (fp32Add c fp32One) size) half)
  let lo := fld b 192 32
  let hi := fld b 224 32
  let zs := fp32Add lo (fp32Mul (v.over (·.z) v.z) (fp32Sub hi lo))
  { x := snap (map (v.over (·.x) v.x) (fld b 64 32) (fld b 128 32)), y := snap (map (v.over (·.y) v.y) (fld b 96 32) (fld b 160 32)),
    z := if rsDepthClamp b then fp32Min (fp32Max lo hi) (fp32Max (fp32Min lo hi) zs) else zs,
    invW := v.over (fun _ => fp32One) 1
    vary := match v.orig with
      | some o => o.varyings
      | none => packVaryings v.vary }

/-- Twice the signed area of b, c seen from a. -/
def cross (a b c : Int × Int) : Int := (b.1 - a.1) * (c.2 - a.2) - (b.2 - a.2) * (c.1 - a.1)

/-- The snapped position. -/
def ScreenVert.pos (v : ScreenVert) : Int × Int := (v.x, v.y)

/-- Twice the signed area of a polygon; positive is clockwise on a screen whose y grows downwards. -/
def polygonArea (p : List ScreenVert) : Int :=
  match p with
  | [] => 0
  | a :: _ => (List.zipWith (fun u v => cross a.pos u.pos v.pos) p (p.drop 1)).foldl (· + ·) 0

/-- The sub-triangles of a polygon, numbered (R241). -/
def fan (p : List ScreenVert) : List (Nat × List ScreenVert) :=
  match p with
  | a :: t => (upFrom 0 (t.length - 1)).zip ((List.zipWith (fun u v => [a, u, v]) t (t.drop 1)))
  | [] => []

/-- A primitive's vertices in turn with the provoking vertex first (R235, R250). -/
def provokingFirst {α : Type} (b : RState) (p : List α) : List α :=
  if bitAt b 13 then (match p.getLast? with
    | some l => l :: p.dropLast
    | none => []) else p

/-- The point size, clamped to [1, 256]. -/
def pointSize (x : BitVec 32) : BitVec 32 := fp32Min 0x43800000 (fp32Max fp32One x)

/-- The records that an assembled primitive leaves after clipping, setup and culling. -/
def setupPrim (b : RState) (state : BitVec 10) (batch number : Nat) (vs : List VertexOut) : List Prim :=
  let vs := provokingFirst b vs
  let kept := (clipPrim b (vs.map clipVert)).map (toScreen b)
  let base : Prim := { batch := batch, number := number, state := state, nvar := rsVaryings b,
                       flat := ((vs.head?).map (·.varyings)).getD [] }
  match vs with
  | [v] => if kept.isEmpty then [] else [{ base with cls := 0, psize := pointSize v.psize, verts := kept }]
  | [_, _] => if kept.isEmpty then [] else [{ base with cls := 1, verts := kept }]
  | _ =>
    let area := polygonArea kept
    let front := decide (0 < area) == bitAt b 10
    if (if front then bitAt b 8 else bitAt b 9) then []
    else
      ((fan kept).filter fun x => match x.2 with
        | [p, q, r] => cross p.pos q.pos r.pos != 0
        | _ => false).map fun x => { base with sub := x.1, back := !front, verts := x.2 }

/-! Coverage (R244) -/

/-- The area that a record's primitive covers. -/
inductive Shape where
  | tri (a b c : Int × Int)
  | line (a b : Int × Int)
  /-- centre and half side, in 1/256 pixel -/
  | square (c : Int × Int) (half : Rat)
  | nothing

/-- The shape of a record. -/
def Prim.shape (p : Prim) : Shape :=
  match p.verts with
  | [a] => .square a.pos (ratOf p.psize * 128)
  | [a, b] => .line a.pos b.pos
  | [a, b, c] => .tri a.pos b.pos c.pos
  | _ => .nothing

/-- A boundary seen from a sample: its signed distance (any scale) and its inward normal. Inside, or on a top or left
edge. -/
def inEdge (side : Rat) (nx ny : Int) : Bool :=
  decide (0 < side) || (decide (side = 0) && (decide (0 < nx) || (decide (nx = 0) && decide (0 < ny))))

/-- The sign of c + 128 r, where r is the root of n. -/
def rootSign (c n : Int) : Rat :=
  if 0 ≤ c then (if c = 0 ∧ n = 0 then 0 else 1)
  else if c * c < 16384 * n then 1 else if c * c = 16384 * n then 0 else -1

/-- The shape covers the point q, under the edge rule. -/
def Shape.covers (x : Shape) (q : Int × Int) : Bool :=
  match x with
  | .nothing => false
  | .tri a b c =>
    let g : Int := if 0 < cross a b c then 1 else -1
    let edge := fun (u v : Int × Int) => inEdge (g * cross u v q : Int) (-(g * (v.2 - u.2))) (g * (v.1 - u.1))
    edge a b && edge b c && edge c a
  | .line a b =>
    let dx := b.1 - a.1
    let dy := b.2 - a.2
    let n := dx * dx + dy * dy
    let along := dx * (q.1 - a.1) + dy * (q.2 - a.2)
    let off := cross a b q
    inEdge (along : Int) dx dy && inEdge (n - along : Int) (-dx) (-dy)
    && inEdge (rootSign off n) (-dy) dx && inEdge (rootSign (-off) n) dy (-dx)
  | .square c h =>
    inEdge ((q.1 : Int) - (c.1 : Int) + h) 1 0 && inEdge ((c.1 : Int) + h - (q.1 : Int)) (-1) 0
    && inEdge ((q.2 : Int) - (c.2 : Int) + h) 0 1 && inEdge ((c.2 : Int) + h - (q.2 : Int)) 0 (-1)

/-- A rectangle lo to hi in 1/256 pixel. -/
structure Box where
  x0 : Int
  y0 : Int
  x1 : Int
  y1 : Int

/-- u times the root of n is at most v, for v not negative. -/
def leRoot (u n v : Int) : Bool := decide (u ≤ 0) || decide (u * u * n ≤ v * v)

/-- The shape meets the rectangle, edges included (R251). A segment whose ends snap to one point has no direction: DESIGN CHOICE, it
meets what holds the point. -/
def Shape.meets (x : Shape) (r : Box) : Bool :=
  let corners := [(r.x0, r.y0), (r.x1, r.y0), (r.x0, r.y1), (r.x1, r.y1)]
  match x with
  | .nothing => false
  | .tri a b c =>
    let g : Int := if 0 < cross a b c then 1 else -1
    let away := fun (u v : Int × Int) => corners.all fun q => decide (g * cross u v q < 0)
    !(max a.1 (max b.1 c.1) < r.x0 || r.x1 < min a.1 (min b.1 c.1) || max a.2 (max b.2 c.2) < r.y0
      || r.y1 < min a.2 (min b.2 c.2) || away a b || away b c || away c a)
  | .line a b =>
    let dx := b.1 - a.1
    let dy := b.2 - a.2
    let n := dx * dx + dy * dy
    let along := corners.map fun q => dx * (q.1 - a.1) + dy * (q.2 - a.2)
    let off := corners.map (cross a b)
    if n = 0 then decide (r.x0 ≤ a.1 ∧ a.1 ≤ r.x1 ∧ r.y0 ≤ a.2 ∧ a.2 ≤ r.y1) else
    leRoot (min a.1 b.1 - r.x1) n (128 * dy) && leRoot (r.x0 - max a.1 b.1) n (128 * dy)
    && leRoot (min a.2 b.2 - r.y1) n (128 * dx) && leRoot (r.y0 - max a.2 b.2) n (128 * dx)
    && (along.any fun v => decide (0 ≤ v)) && (along.any fun v => decide (v ≤ n))
    && (off.any fun v => decide (0 ≤ rootSign v n)) && (off.any fun v => decide (0 ≤ rootSign (-v) n))
  | .square c h =>
    decide ((c.1 : Rat) - h ≤ r.x1) && decide ((r.x0 : Rat) ≤ c.1 + h) && decide ((c.2 : Rat) - h ≤ r.y1)
    && decide ((r.y0 : Rat) ≤ c.2 + h)

/-- The offset of a sample in its pixel: the centre, or the standard location of four (R244). -/
def samplePos (four : Bool) (k : Nat) : Int × Int :=
  if !four then (128, 128)
  else match k with
    | 0 => (96, 32)
    | 1 => (224, 96)
    | 2 => (32, 160)
    | _ => (160, 224)

/-- Sample k of a pixel, in 1/256 pixel. -/
def sampleAt (four : Bool) (px py k : Nat) : Int × Int :=
  (256 * px + (samplePos four k).1, 256 * py + (samplePos four k).2)

/-- What a render pass draws into: area, samples, and screen tiles across (R248). -/
structure Area where
  w : Nat
  h : Nat
  four : Bool
  deriving DecidableEq, Repr

/-- Screen tiles across and down. -/
def Area.grid (a : Area) : Nat × Nat := (ceilDiv a.w 32, ceilDiv a.h 32)
/-- Screen tiles. -/
def Area.tiles (a : Area) : Nat := a.grid.1 * a.grid.2
/-- The sample numbers of a pixel. -/
def Area.samples (a : Area) : List Nat := upFrom 0 (if a.four then 4 else 1)
/-- The first pixel of a screen tile. -/
def Area.origin (a : Area) (t : Nat) : Nat × Nat := (32 * (t % a.grid.1), 32 * (t / a.grid.1))

/-- The pixel is inside the render area and the scissor. -/
def inScissor (a : Area) (b : RState) (x y : Nat) : Bool :=
  x < a.w && y < a.h && fldN b 256 16 ≤ x && x < fldN b 288 16 && fldN b 272 16 ≤ y && y < fldN b 304 16

/-- The rectangle of a screen tile, cut to the render area and the scissor; none when nothing is left. -/
def tileBox (a : Area) (b : RState) (t : Nat) : Option Box :=
  let o := a.origin t
  let x0 := max o.1 (fldN b 256 16)
  let y0 := max o.2 (fldN b 272 16)
  let x1 := min (o.1 + 32) (min a.w (fldN b 288 16))
  let y1 := min (o.2 + 32) (min a.h (fldN b 304 16))
  if x0 < x1 ∧ y0 < y1 then some { x0 := 256 * x0, y0 := 256 * y0, x1 := 256 * x1, y1 := 256 * y1 } else none

/-- The pixels of a screen tile, row by row. -/
def Area.pixels (a : Area) (t : Nat) : List (Nat × Nat) :=
  let o := a.origin t
  (upFrom o.2 32).flatMap fun y => (upFrom o.1 32).map fun x => (x, y)

/-- COVER: the shape covers every sample of the screen tile inside the render area and the scissor (R249). -/
def coversTile (a : Area) (b : RState) (x : Shape) (t : Nat) : Bool :=
  (a.pixels t).all fun q => !inScissor a b q.1 q.2 || a.samples.all fun k => x.covers (sampleAt a.four q.1 q.2 k)

/-- The screen tiles that list a record, ascending, with COVER (R251). -/
def listing (a : Area) (b : RState) (p : Prim) : List (Nat × Bool) :=
  let x := p.shape
  (upFrom 0 a.tiles).filterMap fun t =>
    match tileBox a b t with
    | some r => if x.meets r then some (t, coversTile a b x t) else none
    | none => none

/-! Interpolation (R245) -/

/-- The weights of a record's vertices at a point, linear on the screen: barycentric in a triangle, along a segment, one vertex. -/
def Prim.weights (p : Prim) (q : Int × Int) : List Rat :=
  match p.verts with
  | [a, b] =>
    let dx := b.x - a.x
    let dy := b.y - a.y
    let t : Rat := ((dx * (q.1 - a.x) + dy * (q.2 - a.y) : Int) : Rat) / ((dx * dx + dy * dy : Int) : Rat)
    [1 - t, t]
  | [a, b, c] =>
    let n : Rat := (cross a.pos b.pos c.pos : Int)
    [(cross q b.pos c.pos : Int) / n, (cross q c.pos a.pos : Int) / n, (cross q a.pos b.pos : Int) / n]
  | _ => [1]

/-- The weighted sum of a value of the vertices. -/
def Prim.mix (p : Prim) (ws : List Rat) (f : ScreenVert → BitVec 32) : Rat :=
  (List.zipWith (fun w v => w * ratOf (f v)) ws p.verts).foldl (· + ·) 0

/-- A value of the vertices at a point, linear on the screen; the value itself where every vertex has it. -/
def Prim.linearAt (p : Prim) (f : ScreenVert → BitVec 32) (q : Int × Int) : BitVec 32 :=
  match p.verts with
  | [] => 0
  | v :: t => if t.all fun u => f u == f v then f v else fp32Free (p.mix (p.weights q) f)

/-- The depth of a record at a point: linear on the screen. -/
def Prim.depthAt (p : Prim) (q : Int × Int) : BitVec 32 := p.linearAt (·.z) q

/-- Component c of varying v at a point (R245): perspective-correct with each vertex's 1/w, linear on the screen, or flat from the
provoking vertex. -/
def Prim.varyAt (p : Prim) (v c : Nat) (mode : Interpolation) (q : Int × Int) : BitVec 32 :=
  let f := fun (u : ScreenVert) => comp (u.vary.getD v 0) c
  match mode with
  | .flat => comp (p.flat.getD v 0) c
  | .linear => p.linearAt f q
  | .perspective =>
    let ws := List.zipWith (fun w (u : ScreenVert) => w * ratOf u.invW) (p.weights q) p.verts
    let d := ws.foldl (· + ·) 0
    if d = 0 then Config.overZero (p.mix ws f) else fp32Free (p.mix ws f / d)

/-! Records (R250) -/

/-- The bytes of a primitive record. -/
def Prim.bytes (p : Prim) : List Byte :=
  bytesOf 16 (packFields [(0, 32, p.batch), (32, 32, p.number), (64, 10, p.state.toNat), (80, 2, p.cls.toNat),
      (82, 1, b2n p.back), (84, 4, p.sub), (88, 5, p.nvar), (96, 32, p.psize.toNat)])
  ++ p.verts.flatMap fun v =>
    bytesOf 16 (packFields [(0, 32, (v.x % 2 ^ 32).toNat), (32, 32, (v.y % 2 ^ 32).toNat), (64, 32, v.z.toNat),
      (96, 32, v.invW.toNat)])
    ++ (upFrom 0 p.nvar).flatMap fun i => bytesOf 16 (v.vary.getD i 0).toNat

end Sys2Proof.Machine
end

