-- ==== Sys2Proof/Machine/Passes.lean ====
section
/-! DEFINITION. How a render pass ends and what its end frees (R47, R179, R253, R255, R258, R264). -/

namespace Sys2Proof.Machine

/-- A context's pass and moving fields. -/
def State.pass (s : State) (n : Nat) : PassRun := tabGet {} s.dyn.raster.passes n
/-- Update a context's pass. -/
def State.modPass (n : Nat) (f : PassRun → PassRun) (s : State) : State :=
  s.modRaster fun r => { r with passes := tabMod {} r.passes n f }
/-- A context's descriptor. -/
def Shadow.context (c : Shadow) (n : Nat) : RasterCtx := tabGet {} c.rasterCtx n
/-- The berth of a context. -/
def State.ctxBerth (s : State) (n : Nat) : BitVec 6 := (s.dyn.cfg.context n).berth

/-- The result record of a pass (R264). -/
def passResult (p : PassRun) (cause : Nat) : Result :=
  shortResult [(0, 32, (satOf 32 p.prims).toNat), (32, 32, (satOf 32 p.listed).toNat), (64, 24, p.peak),
    (96, 8, (satOf 8 p.passWeirs).toNat), (104, 4, cause)]

/-- A pass leaves the device: its bundles, counters, granules and bin memory are free, an unused slot is released, the context is
idle (R47, R253, R255). -/
def dropPass (n : Nat) (s : State) : State :=
  let p := s.pass n
  let q := (s.dyn.cfg.context n).eventQueue.toNat
  let s := releaseJob p.jobNo s
  let s := if p.slotHeld then releaseSlot q s else s
  let s := p.tilesHeld.foldl (fun s l => match s.dyn.cfg.physOf l with
    | some t => touchTile t s
    | none => s) s
  let s := s.modWork fun w => { w with tiles := tabMap {} (fun _ t => { t with raster := tabPut 0 t.raster n 0 }) w.tiles }
  s.modPass n fun p => { weirs := p.weirs, seq := p.seq }

/-- A pass ends with a record. -/
def endPass (n status cause : Nat) (s : State) : State :=
  let p := s.pass n
  match p.job with
  | none => s
  | some t => writeRecord t status (passResult p cause) (dropPass n s)

/-- A pass is torn down (R179, R258): its queue is FAULTED. -/
def failPass (n cause : Nat) (s : State) : State :=
  match (s.pass n).job with
  | none => s
  | some t => endPass n 0x00B8 cause (faultQueue (pathQueue? t.cmd.path) t.cmd.seq s)

/-- The accesses of a pass on a logical tile. -/
def State.passSrc (s : State) (n tile : Nat) : Src :=
  match (s.pass n).job with
  | none => { source := 0 }
  | some t => { source := 0, ctxValid := true, berth := t.cmd.berth, gen := t.gen,
                queue := (pathQueue? t.cmd.path).getD 0, seq := t.cmd.seq, safety := s.dyn.cfg.safetyTile tile }

end Sys2Proof.Machine
end

