-- ==== Sys2Proof/Machine/Peek.lean ====
section
/-! DEFINITION. Looking at the untaken commands of submission queues (R156, R168, R226): nothing is taken or changed. -/

namespace Sys2Proof.Machine

/-- What a read of DRAM bytes within one line would deliver. -/
def peekDram (s : State) (pa len : Nat) : Option (List Byte) :=
  if s.badFrame (pa / 0x10000) then none
  else (s.mem.readLine (pa / 64)).map fun d => (d.1.drop (pa % 64)).take len

/-- The entry at an index of a submission ring; none where it cannot be read. -/
def State.peekEntry (s : State) (q : Nat) (i : BitVec 21) : Option (BitVec 512) :=
  let d := s.dyn.cfg.queueDesc q
  let va := d.ringAddr.toNat + i.toNat % d.slots * d.entryBytes
  match s.lookup d.berth va with
  | none => none
  | some e => if e.read ∧ e.target = 0 then (peekDram s (e.addr va) 64).map fun b => BitVec.ofNat 512 (ofBytes b) else none

/-- The untaken commands of a submission queue, oldest first. -/
def State.untaken (s : State) (q : Nat) : List (BitVec 512) :=
  (upFrom 0 (s.queue q).present).filterMap fun i => s.peekEntry q ((s.queue q).cons + BitVec.ofNat 21 i)

/-- The submission queues of a berth, ascending. -/
def Shadow.submissionQueues (c : Shadow) (b : BitVec 6) : List Nat :=
  tabKeys (fun _ d => d.valid && d.kind == 0 && d.berth == b) c.queues

/-- Some untaken command of a berth's queues satisfies `p`. -/
def State.anyUntaken (s : State) (b : BitVec 6) (p : BitVec 512 → Bool) : Bool :=
  (s.dyn.cfg.submissionQueues b).any fun q => (s.untaken q).any p

end Sys2Proof.Machine
end

