-- ==== Sys2Proof/Machine/Tensor.lean ====
section
/-! DEFINITION. Tensor commands and the array (R75 to R77, R89, R90, R100 to R117). -/

namespace Sys2Proof.Machine

/-! Checks (R113) -/

/-- Formats that may be an A operand (R78). -/
def roleA (f : BitVec 4) : Bool := (1 ≤ f.toNat && f.toNat ≤ 8) || (0xA ≤ f.toNat && f.toNat ≤ 0xD)
/-- Formats that may be a B operand. -/
def roleB (f : BitVec 4) : Bool := roleA f || f == 0xE
/-- Formats that an output may have. -/
def roleC (f : BitVec 4) : Bool := f.toNat ≤ 0xD

/-- The first condition that holds gives the status. -/
def firstOf (cs : List (Bool × Nat)) : Option Nat := (cs.find? fun c => c.1).map fun c => c.2

/-- Checks 4 to 8 of R113 for a product. -/
def matmulFields (ha hb hc : TensorHeader) (bias : Nat) (accumulate : Bool) : Option Nat :=
  let fl := fun h : TensorHeader => formatIsFloat h.format.toNat
  firstOf
    [(!(ha.ok && hb.ok && hc.ok), 0x0064),
     (!(roleA ha.format && roleB hb.format && roleC hc.format), 0x0060),
     (fl ha != fl hb || fl hc != fl ha || (accumulate && !(hc.format == 0 || hc.format == 9)), 0x0061),
     (ha.layout != 1 || hb.layout != 2 || !(hc.layout == 0 || hc.layout == 1)
        || !([ha, hb, hc].all fun h => h.aligned) || bias % 64 != 0, 0x0063),
     (ha.dim0 != hb.dim0 || ha.rows != hc.rows || hb.rows != hc.dim0.toNat || ha.batch != hc.batch
        || !(hb.batch == 1 || hb.batch == ha.batch), 0x0062)]

/-- Checks 4 to 8 of R113 for a conversion; a CB4 source is never in layout A, a CB4 target only in layout B. DESIGN CHOICE: a CB4
target in another layout breaks R78's role and R91's layout; it fails check 7, the layout. -/
def convertFields (ha hc : TensorHeader) (stochastic : Bool) : Option Nat :=
  firstOf
    [(!(ha.ok && hc.ok), 0x0064),
     (ha.format == 0xF || hc.format == 0xF || (stochastic && hc.format == 0xE), 0x0060),
     (ha.layout == 3 || hc.layout == 3 || (ha.format == 0xE && ha.layout == 1) || (hc.format == 0xE && hc.layout != 2)
        || !ha.aligned || !hc.aligned, 0x0063),
     (ha.dim0 != hc.dim0 || ha.dim1 != hc.dim1 || ha.dim2 != hc.dim2 || ha.dim3 != hc.dim3, 0x0062)]

/-- The ranges that a tensor's elements lie in: data, scales, codebooks. -/
def TensorHeader.spans (h : TensorHeader) : List (Nat × Nat) :=
  [h.dataSpan, h.scaleSpan, (h.addr.toNat + 64, h.extLen.toNat)]

/-- The ranges that writing a tensor changes: data and scales. -/
def TensorHeader.outSpans (h : TensorHeader) : List (Nat × Nat) := [h.dataSpan, h.scaleSpan]

/-- Every range is on mapped normal pages with the access. -/
def State.spansOk (s : State) (b : BitVec 6) (xs : List (Nat × Nat)) (write : Bool) : Bool :=
  xs.all fun x => x.2 == 0 || s.rangeOk b x.1 x.2 write

/-- Checks 9 and 10 of R113: `ins` are read, `c` is written; it overlaps no input and no header. -/
def spanChecks (s : State) (b : BitVec 6) (ins : List (Nat × Nat)) (c : TensorHeader) (heads : List (Nat × Nat))
    (readC : Bool) : Option Nat :=
  firstOf
    [(!s.spansOk b ins false || !s.spansOk b c.outSpans true || (readC && !s.spansOk b c.outSpans false)
        || !s.spansOk b [(c.addr.toNat + 64, c.extLen.toNat)] false, 0x0066),
     (anyMeet c.outSpans ins || anyMeet c.outSpans heads, 0x0067)]

/-- Check 3 of R113 and the one read of each header (R99): the address, and whether it has to be writable. -/
def loadHeaders (t : Ticket) (xs : List (Nat × Bool)) (s : State) : State × Except Nat (List (Nat × BitVec 512)) :=
  let b := t.cmd.berth
  if !(xs.all fun x => x.1 % 64 == 0 && s.readable b x.1 64 && (!x.2 || s.writable b x.1 64)) then (s, .error 0x0066)
  else
    match eachA (fun x s => thenA (readVirt t.src b x.1 64 s) fun d s => (s, .ok (x.1, BitVec.ofNat 512 (ofBytes d)))) xs s with
    | (s, .ok hs) => (s, .ok hs)
    | (s, .addressFault) => (s, .error 0x0066)
    | (s, .uncorrectable) => (s, .error 0x000B)

/-! Parts of the output (R106, R171) -/

/-- K-step and N-step of an operand pair (R76). -/
def pairSteps (a b : Nat) : Nat × Nat :=
  let wide := fun f => f == 1 || f == 2 || f == 0xA
  if wide a || wide b then (128, 128)
  else if (a == 8 && (b == 8 || b == 0xE)) || (a == 0xD && b == 0xD) then (512, 256)
  else (256, 256)

/-- K-step and column step of a run; a conversion takes whole rows. -/
def ArrayRun.steps (r : ArrayRun) : Nat × Nat :=
  if r.convert then (r.a.dim0.toNat, r.c.dim0.toNat) else pairSteps r.a.format.toNat r.b.format.toNat

/-- Row chunks of a batch entry. -/
def ArrayRun.chunks (r : ArrayRun) : Nat := ceilDiv r.c.rows 1024
/-- Column blocks. -/
def ArrayRun.blocks (r : ArrayRun) : Nat := ceilDiv r.c.dim0.toNat r.steps.2
/-- The stretches of one row of a conversion, of at most 1,024 waves of 512 elements (R111). -/
def ArrayRun.stretches (r : ArrayRun) : Nat := ceilDiv r.a.dim0.toNat 524288
/-- Parts of the output. -/
def ArrayRun.parts (r : ArrayRun) : Nat := r.c.batch * r.chunks * r.blocks
/-- K-steps. -/
def ArrayRun.ksteps (r : ArrayRun) : Nat := if r.convert then 1 else ceilDiv r.a.dim0.toNat r.steps.1

/-- A part: batch entry, first row, rows, first column, columns. -/
structure Part where
  batch : Nat
  row0 : Nat
  rows : Nat
  col0 : Nat
  cols : Nat
  block : Nat
  deriving DecidableEq, Repr

/-- Part number `p`: chunks ascending, then columns (R171). -/
def ArrayRun.part (r : ArrayRun) (p : Nat) : Part :=
  let c := p / r.blocks
  let row0 := c % r.chunks * 1024
  let col0 := p % r.blocks * r.steps.2
  { batch := c / r.chunks, row0 := row0, rows := min 1024 (r.c.rows - row0), col0 := col0,
    cols := min r.steps.2 (r.c.dim0.toNat - col0), block := p % r.blocks }

/-- The logical tile of range `j` of part `p`, dealt round robin. -/
def ArrayRun.tileOf (r : ArrayRun) (p j : Nat) : Nat := r.tiles.getD ((p * r.split + j) % r.tiles.length) 0

/-- The elements of a part that come before (batch, row, column). -/
def Part.before (x : Part) (b row col : Nat) : Nat :=
  if x.batch < b then x.rows * x.cols
  else if x.batch = b then
    min (row - x.row0) x.rows * x.cols
      + (if x.row0 ≤ row ∧ row < x.row0 + x.rows then min (col - x.col0) x.cols else 0)
  else 0

/-- The parts that a tile converts. -/
def ArrayRun.partsOf (r : ArrayRun) (l : Nat) : List Part :=
  ((upFrom 0 r.parts).filter fun p => r.tileOf p 0 == l).map r.part

/-- The draws that a tile makes before that of an element: it draws in ascending (batch, row, column) (R89). -/
def ArrayRun.rank (r : ArrayRun) (l b row col : Nat) : Nat :=
  ((r.partsOf l).map fun x => x.before b row col).foldl (· + ·) 0

/-- The draws that a tile makes in all. -/
def ArrayRun.drawsOf (r : ArrayRun) (l : Nat) : Nat := ((r.partsOf l).map fun x => x.rows * x.cols).foldl (· + ·) 0

/-! Stochastic-rounding states (R89, R90) -/

/-- A berth's seed; 1 where none was set (R90). -/
def Work.seed (w : Work) (b : BitVec 6) : BitVec 64 :=
  let v := tabGet 0 w.seeds b.toNat
  if v = 0 then 1 else v

/-- A berth's generator on the tile that carries logical number `l`: an unlisted state is the seed advanced by
l + 1 steps (R90). -/
def State.srState (s : State) (l : Nat) (b : BitVec 6) : BitVec 64 :=
  match s.dyn.cfg.physOf l with
  | none => srSeeded (l + 1) (s.dyn.work.seed b)
  | some p =>
    let v := tabGet 0 (s.tileWork p).sr b.toNat
    if v = 0 then srSeeded (l + 1) (s.dyn.work.seed b) else v

/-- Set a generator. -/
def setSr (l : Nat) (b : BitVec 6) (v : BitVec 64) (s : State) : State :=
  match s.dyn.cfg.physOf l with
  | none => s
  | some p => s.modTileWork p fun w => { w with sr := tabPut 0 w.sr b.toNat v }

/-- A run begins: its tiles' generators are noted, and moved on by the draws it will make. -/
def beginRun (b : BitVec 6) (r : ArrayRun) (s : State) : State × ArrayRun :=
  if !r.stochastic then (s, r)
  else
    let r' := { r with sr := r.tiles.foldl (fun t l => tabPut 0 t l (s.srState l b)) [] }
    (r.tiles.foldl (fun s l => setSr l b (srSeeded (r.drawsOf l) (s.srState l b)) s) s, r')

/-- The draws for `n` elements from (batch, row, column) on a tile. -/
def ArrayRun.draws (r : ArrayRun) (l b row col n : Nat) : List (Option Nat) :=
  if !r.stochastic then List.replicate n none
  else (srDraws n (srSeeded (r.rank l b row col) (tabGet 0 r.sr l))).1.map some

/-! One load (R75, R100 to R103) -/

/-- Float pairs accumulate in FP32, integer pairs in INT32 (R76). -/
def ArrayRun.isFloat (r : ArrayRun) : Bool := formatIsFloat r.a.format.toNat

/-- The exact sum of the products of a row and a column over a K-step. -/
def dotExact (xs ys : List Val) : Val := (List.zipWith Val.mul xs ys).foldl Val.add .zero

/-- The integer of an exact value. -/
def Val.toInt : Val → Int
  | .fin neg m e => shl (signed neg m) e
  | _ => 0

/-- Add a K-step's sum to an accumulator (R100 to R102); the flag: it saturated. -/
def accumulate (float : Bool) (acc : BitVec 32) (sum : Val) : BitVec 32 × Bool :=
  if float then
    match sum with
    | .fin _ 0 _ => (acc, false)
    | v => (fp32Round ((fp32Val acc).add v), false)
  else
    let (v, sat) := satAdd32 acc.toInt sum.toInt
    (BitVec.ofInt 32 v, sat)

/-- Add the sums of one load to the accumulators of a part. -/
def addLoad (float : Bool) (rows cols : List (List Val)) (acc : Tab (BitVec 32)) : Tab (BitVec 32) × Nat :=
  rows.zipIdx.foldl (fun x row =>
    cols.zipIdx.foldl (fun x col =>
      let k := row.2 * 256 + col.2
      let (v, sat) := accumulate float (tabGet 0 x.1 k) (dotExact row.1 col.1)
      (tabPut 0 x.1 k v, x.2 + b2n sat)) x) (acc, 0)

/-- The range of K-steps that step `i` of a part lies in: its number, first and end (R171). -/
def ArrayRun.rangeOf (r : ArrayRun) (i : Nat) : Nat × Nat × Nat :=
  let cut := fun j => j * r.ksteps / r.split
  let j := ((upFrom 0 r.split).find? fun j => i < cut (j + 1)).getD 0
  (j, cut j, cut (j + 1))

/-- The K-step taken as the i-th: ascending, but the one whose block stands in the cells first (R103). -/
def ArrayRun.stepAt (r : ArrayRun) (i : Nat) : Nat :=
  let (_, lo, hi) := r.rangeOf i
  match r.first with
  | some f =>
    if lo ≤ f ∧ f < hi then (if i = lo then f else if i - 1 < f then i - 1 else i) else i
  | none => i

/-- The row chunk of a part, among all batch entries. -/
def ArrayRun.chunkOf (r : ArrayRun) (p : Nat) : Nat := p / r.blocks

/-- The working store that holds an engine's address, if it names one (R152). -/
def Engine.storeOf (g : Engine) (va : Nat) : Option (Nat × Nat) :=
  if workBase ≤ va then g.shard.map fun i => (g.job, i) else none

/-- The block of B of a load as it stands in the cells. -/
def cellBlock (g : Engine) (b : BitVec 6) (r : ArrayRun) (x : Part) (k : Nat) : CellBlock :=
  { job := g.job, shard := g.shard, step := g.step, chunk := r.chunkOf (r.next / r.ksteps), berth := b,
    addr := r.b.dataAddr.toNat, owner := g.storeOf r.b.dataAddr.toNat, size := r.steps,
    batch := if r.b.batch = 1 then 0 else x.batch, block := x.block, k := k }

/-- Two blocks of B are the same. -/
def CellBlock.same (a b : CellBlock) : Bool :=
  a.berth == b.berth && a.addr == b.addr && a.owner == b.owner && a.size == b.size && a.batch == b.batch && a.block == b.block
    && a.k == b.k

/-- The array goes on with the same chunk of the same run: the load overlaps the rows before it (R106, R107). -/
def CellBlock.goesOn (a b : CellBlock) : Bool :=
  a.job == b.job && a.shard == b.shard && a.step == b.step && a.chunk == b.chunk

/-- What stands in the cells of a logical tile. -/
def State.cells (s : State) (l : Nat) : Option CellBlock := (s.dyn.cfg.physOf l).bind fun p => (s.tileWork p).array

/-- The K-step of this part whose block stands in the cells of a tile. -/
def cellStep (s : State) (g : Engine) (b : BitVec 6) (r : ArrayRun) (x : Part) (l : Nat) : Option Nat :=
  (s.cells l).bind fun c => if c.same (cellBlock g b r x c.k) then some c.k else none

/-! Waves (R105, R106) -/

/-- Waves of a load of `kn` × `cols` elements of B: its data, scales and codebooks at 512 bytes per wave (R105). -/
def TensorHeader.loadWaves (h : TensorHeader) (kn cols : Nat) : Nat :=
  let f := h.format.toNat
  ceilDiv (ceilDiv (kn * cols * h.bits) 8 + (if formatIsMx f then ceilDiv kn 32 * cols else 0)
    + (if f = 0xE then 16 * ceilDiv kn 64 * cols else 0)) 512

/-- Waves that a load adds on its tile: M rows stream against the block loaded; a load that goes on with a chunk overlaps
the rows before it; the chunk's last load on the tile drains in 24 (R106). -/
def stretchWaves (rows load : Nat) (goesOn last : Bool) : Nat :=
  (if goesOn then max rows load else load + rows) + if last then 24 else 0

/-- The accumulators that a part starts from: present C under ACCUMULATE, else zero (R100). -/
def startAcc (g : Engine) (r : ArrayRun) (x : Part) (first : Bool) (s : State) : State × Access (Tab (BitVec 32)) :=
  if !(r.accumulate && first) then (s, .ok [])
  else
    thenA (eachA (fun row s =>
      thenA (eachA (fun col s => readBits g (r.c.bitAddr x.batch (x.row0 + row) (x.col0 + col)) 32 s) (upFrom 0 x.cols) s)
        fun vs s => (s, .ok vs)) (upFrom 0 x.rows) s) fun rows s =>
      (s, .ok (rows.zipIdx.foldl (fun t row => row.1.zipIdx.foldl (fun t v =>
        tabPut 0 t (row.2 * 256 + v.2) (BitVec.ofNat 32 v.1)) t) []))

/-- Take a list apart in an order that free values choose: the order in which partial sums arrive (R103). -/
def arrivalOrder {α : Type} : Nat → Nat → List α → List α
  | 0, _, _ => []
  | n + 1, seed, xs =>
    let i := (Config.freeBits 16 seed).toNat % max 1 xs.length
    match xs[i]? with
    | none => []
    | some x => x :: arrivalOrder n (seed + 1) (xs.eraseIdx i)

/-- Combine two accumulators of partial sums (R102, R103). -/
def joinAcc (float : Bool) (a b : BitVec 32) : BitVec 32 × Bool :=
  if float then (fp32Add a b, false)
  else
    let (v, sat) := satAdd32 a.toInt b.toInt
    (BitVec.ofInt 32 v, sat)

/-- The accumulator of an element once the partial sums `ps` have arrived in that order. -/
def joined (float : Bool) (k : Nat) : List (Tab (BitVec 32)) → BitVec 32 × Nat
  | [] => (0, 0)
  | p :: ps => ps.foldl (fun x q =>
      let (v, sat) := joinAcc float x.1 (tabGet 0 q k)
      (v, x.2 + b2n sat)) (tabGet 0 p k, 0)

/-- Add the bias of a column and turn the accumulator into a value (R100). -/
def finish (float : Bool) (acc : BitVec 32) (bias : Option (BitVec 32)) : Val × Nat :=
  let (v, sat) := match bias with
    | some b => joinAcc float acc b
    | none => (acc, false)
  (if float then fp32Val v else ofSigned v.toInt 0, b2n sat)

/-- Convert and write one finished row of a part, in groups of 32. -/
def writeRow (g : Engine) (r : ArrayRun) (x : Part) (l row : Nat) (vs : List Val) (s : State) : State × Access (Nat × Nat) :=
  thenA (eachA (fun i s =>
      let us := (vs.drop (32 * i)).take 32
      writeGroup g r.c x.batch row (x.col0 + 32 * i) us (r.draws l x.batch row (x.col0 + 32 * i) us.length) s)
    (upFrom 0 (ceilDiv vs.length 32)) s) fun cs s => (s, .ok (cs.foldl (fun a c => (a.1 + c.1, a.2 + c.2)) (0, 0)))

/-- The last step of a part: partial sums are joined, bias added, and the block of C written. -/
def closePart (g : Engine) (r : ArrayRun) (x : Part) (l : Nat) (s : State) : State × Access ArrayRun :=
  let ps := if r.split = 1 then [r.acc] else arrivalOrder r.partials.length s.free r.partials
  let s := if r.split = 1 then s else { s with free := s.free + r.partials.length }
  thenA (if r.bias = 0 then (s, .ok []) else
      eachA (fun n s => readBits g ((r.bias + 4 * n) * 8) 32 s) (upFrom x.col0 x.cols) s) fun bias s =>
    thenA (eachA (fun row s =>
        let ys := (upFrom 0 x.cols).map fun col =>
          let (acc, n) := joined r.isFloat (row * 256 + col) ps
          let (v, m) := finish r.isFloat acc ((bias[col]?).map (BitVec.ofNat 32))
          (v, n + m)
        thenA (writeRow g r x l (x.row0 + row) (ys.map (·.1)) s) fun c s =>
          (s, .ok (c.1 + (ys.map (·.2)).foldl (· + ·) 0, c.2))) (upFrom 0 x.rows) s) fun cs s =>
      (s, .ok { r with acc := [], partials := [], first := none,
                       sat := r.sat + (cs.map (·.1)).foldl (· + ·) 0, nan := r.nan + (cs.map (·.2)).foldl (· + ·) 0 })

/-- The logical tile that makes load number `n` of a run. -/
def ArrayRun.tileAt (r : ArrayRun) (n : Nat) : Nat :=
  if r.convert then
    let row := n / r.stretches
    r.tileOf (row / r.c.rows * r.chunks + row % r.c.rows / 1024) 0
  else r.tileOf (n / r.ksteps) (r.rangeOf (n % r.ksteps)).1

/-- The logical tile that makes a run's next load. -/
def ArrayRun.nextTile (r : ArrayRun) : Nat := r.tileAt r.next

/-- The next load is the last that its tile makes of its chunk. -/
def ArrayRun.lastOfChunk (r : ArrayRun) : Bool :=
  let stop := (r.chunkOf (r.next / r.ksteps) + 1) * r.blocks * r.ksteps
  (upFrom (r.next + 1) (stop - (r.next + 1))).all fun n => r.tileAt n != r.nextTile

/-- One load of a product: a K-step × N-step block of B stays in the cells while a chunk of rows streams. -/
def loadProduct (g : Engine) (b : BitVec 6) (r : ArrayRun) (s : State) : State × Access ArrayRun :=
  let x := r.part (r.next / r.ksteps)
  let i := r.next % r.ksteps
  let (j, lo, hi) := r.rangeOf i
  let l := r.nextTile
  let fresh := decide (i = lo)
  let r := if fresh then { r with first := cellStep s g b r x l } else r
  thenA (if fresh then startAcc g r x (j == 0) s else (s, .ok r.acc)) fun acc s =>
    let k := r.stepAt i
    let k0 := k * r.steps.1
    let kn := min r.steps.1 (r.a.dim0.toNat - k0)
    let bb := if r.b.batch = 1 then 0 else x.batch
    thenA (eachA (fun row s => readRow g r.a x.batch row k0 kn s) (upFrom x.row0 x.rows) s) fun rows s =>
      thenA (eachA (fun col s => readRow g r.b bb col k0 kn s) (upFrom x.col0 x.cols) s) fun cols s =>
        let (acc, sat) := addLoad r.isFloat rows cols acc
        let cell := cellBlock g b r x k
        let n := stretchWaves x.rows (r.b.loadWaves kn x.cols) ((s.cells l).any fun c => c.goesOn cell) r.lastOfChunk
        let r := { r with acc := acc, sat := r.sat + sat, next := r.next + 1, waves := tabMod 0 r.waves l (· + n) }
        let s := match s.dyn.cfg.physOf l with
          | some p => s.modTileWork p fun w => { w with array := some cell }
          | none => s
        let r := if i + 1 = hi ∧ r.split ≠ 1 then { r with partials := r.partials ++ [r.acc], acc := [] } else r
        if i + 1 = r.ksteps then closePart g r x (r.tileOf ((r.next - 1) / r.ksteps) 0) s else (s, .ok r)

/-- One stretch of a conversion: up to 524,288 elements of a row through the array's edge (R111). -/
def loadConvert (g : Engine) (r : ArrayRun) (s : State) : State × Access ArrayRun :=
  let at_ := r.next / r.stretches
  let k0 := r.next % r.stretches * 524288
  let b := at_ / r.c.rows
  let row := at_ % r.c.rows
  let n := min 524288 (r.a.dim0.toNat - k0)
  let x := { r.part (b * r.chunks + row / 1024) with batch := b, col0 := k0 }
  let l := r.nextTile
  thenA (readRow g r.a b row k0 n s) fun vs s =>
    thenA (writeRow g r x l row vs s) fun c s =>
      (s, .ok { r with next := r.next + 1, sat := r.sat + c.1, nan := r.nan + c.2, waves := tabMod 0 r.waves l (· + n) })

/-- Loads of a run in all. -/
def ArrayRun.total (r : ArrayRun) : Nat := if r.convert then r.c.batch * r.c.rows * r.stretches else r.parts * r.ksteps

/-- A run has made its last load. -/
def ArrayRun.finished (r : ArrayRun) : Bool := r.total ≤ r.next

/-- The next load of a run. -/
def runLoad (g : Engine) (b : BitVec 6) (r : ArrayRun) (s : State) : State × Access ArrayRun :=
  if r.convert then loadConvert g r s else loadProduct g b r s

/-! The commands (R108 to R112) -/

/-- ROUND 2 and 3 are reserved (R110). -/
def opTensorMatmul : OpInfo :=
  { opcode := 0x2001,
    wellFormed := fun p => onlyFields [(0, 40), (64, 40), (128, 40), (192, 40), (256, 2), (258, 1)] p && fldN p 256 2 < 2 }
/-- TENSOR_CONVERT (R111). -/
def opTensorConvert : OpInfo :=
  { opcode := 0x2002, wellFormed := fun p => onlyFields [(0, 40), (64, 40), (128, 2)] p && fldN p 128 2 < 2 }
/-- TENSOR_SEED_SR (R112). -/
def opTensorSeed : OpInfo := { opcode := 0x2003, needsBerth := true, wellFormed := onlyFields [(0, 10), (64, 64)] }

/-- The basin of the caller that a tensor command's queue is the endpoint of (R109). -/
def tensorBasin (t : Ticket) (s : State) : Option Nat :=
  match pathQueue? t.cmd.path with
  | none => none
  | some q => match s.dyn.cfg.basinOfQueue q.toNat with
    | some n => if t.ownsBasin s.dyn.cfg n then some n else none
    | none => none

/-- The priority of the queue a packet came by. -/
def pathPriority (t : Ticket) (s : State) : BitVec 3 :=
  match pathQueue? t.cmd.path with
  | some q => (s.dyn.cfg.queueDesc q.toNat).priority
  | none => 0

/-- Deal an array run over tiles of a leaf basin (R109, R171); it begins once there is one. -/
def dealRun (b : BitVec 6) (leaf : Nat) (r : ArrayRun) (s : State) : State × ArrayRun :=
  let ts := tensorTiles leaf s
  let r := { r with tiles := ts }
  let r := if r.convert then r else { r with split := splitOf r.parts ts.length r.ksteps }
  let used := if r.convert then ts.take (r.c.batch * r.chunks) else ts.take (r.parts * r.split)
  if ts.isEmpty then (s, r) else beginRun b { r with tiles := if used.isEmpty then ts else used } s

/-- Enter the job of a tensor command, on the tiles of its leaf basin. -/
def startTensor (t : Ticket) (n : Nat) (r : ArrayRun) (ins outs : List (Nat × Nat)) (s : State) : State :=
  let (s, leaf) := leafFor t none n s
  let (s, r) := dealRun t.cmd.berth leaf r s
  addJob { kind := if r.convert then .convert else .matmul, ticket := t, berth := t.cmd.berth, gen := t.gen,
           queue := pathQueue? t.cmd.path, priority := pathPriority t s, basin := BitVec.ofNat 10 leaf,
           placed := !r.tiles.isEmpty, array := some r, ins := ins, outs := outs, tiles := r.tiles, since := s.now16 } s

/-- TENSOR_MATMUL is checked (R113) and becomes a job. -/
def actMatmul (t : Ticket) (s : State) : State :=
  let p := t.cmd.params
  let b := t.cmd.berth
  let bias := fldN p 192 40
  let acc := bitAt p 258
  match tensorBasin t s with
  | none => writeRecord t 0x0050 noResult s
  | some n =>
    match loadHeaders t [(fldN p 0 40, false), (fldN p 64 40, false), (fldN p 128 40, true)] s with
    | (s, .error st) => writeRecord t st noResult s
    | (s, .ok [x, y, z]) =>
      let ha := headerOf x.1 x.2
      let hb := headerOf y.1 y.2
      let hc := headerOf z.1 z.2
      let biasSpan := (bias, if bias = 0 then 0 else 4 * hb.rows)
      let ins := ha.spans ++ hb.spans ++ [biasSpan]
      let present := if acc then hc.outSpans else []
      let heads := [ha.headSpan, hb.headSpan, hc.headSpan]
      match (matmulFields ha hb hc bias acc).orElse fun _ => spanChecks s b ins hc heads acc with
      | some st => writeRecord t st noResult s
      | none =>
        startTensor t n { a := ha, b := hb, c := hc, bias := bias, stochastic := bitAt p 256, accumulate := acc }
          (ins ++ present ++ heads) hc.outSpans s
    | (s, _) => s

/-- TENSOR_CONVERT is checked and becomes a job. -/
def actConvert (t : Ticket) (s : State) : State :=
  let p := t.cmd.params
  match tensorBasin t s with
  | none => writeRecord t 0x0050 noResult s
  | some n =>
    match loadHeaders t [(fldN p 0 40, false), (fldN p 64 40, true)] s with
    | (s, .error st) => writeRecord t st noResult s
    | (s, .ok [x, z]) =>
      let ha := headerOf x.1 x.2
      let hc := headerOf z.1 z.2
      let heads := [ha.headSpan, hc.headSpan]
      match (convertFields ha hc (bitAt p 128)).orElse fun _ => spanChecks s t.cmd.berth ha.spans hc heads false with
      | some st => writeRecord t st noResult s
      | none => startTensor t n { convert := true, a := ha, c := hc, stochastic := bitAt p 128 } (ha.spans ++ heads) hc.outSpans s
    | (s, _) => s

/-- The headers that a TENSOR_MATMUL or TENSOR_CONVERT names. -/
def tensorHeads (t : Ticket) (_ : State) : List (Nat × Nat) :=
  let p := t.cmd.params
  [(fldN p 0 40, 64), (fldN p 64 40, 64)] ++ if t.opcode = 0x2001 then [(fldN p 128 40, 64)] else []

/-- TENSOR_MATMUL. -/
def execTensorMatmul (c : Cmd) (s : State) : Host.Outcome State Fault Refusal := carryJob opTensorMatmul tensorHeads c actMatmul s

/-- TENSOR_CONVERT. -/
def execTensorConvert (c : Cmd) (s : State) : Host.Outcome State Fault Refusal := carryJob opTensorConvert tensorHeads c actConvert s

/-- Set a berth's seed and the states of the tiles under a basin; other tiles keep the states they have (R90). -/
def seedTiles (b : BitVec 6) (n : Nat) (seed : BitVec 64) (s : State) : State :=
  let s := s.dyn.cfg.enabledTiles.foldl (fun s l => setSr l b (s.srState l b) s) s
  let s := s.modWork fun w => { w with seeds := tabPut 0 w.seeds b.toNat seed }
  (s.dyn.cfg.tilesUnder n).foldl (fun s l => setSr l b (srSeeded (l + 1) seed) s) s

/-- TENSOR_SEED_SR is checked (R113) and takes effect. -/
def actSeed (t : Ticket) (s : State) : State :=
  let n := fldN t.cmd.params 0 10
  let seed := fld t.cmd.params 64 64
  if !t.ownsBasin s.dyn.cfg n then writeRecord t 0x0050 noResult s
  else if seed = 0 then writeRecord t 0x0065 noResult s
  else writeRecord t 0 noResult (seedTiles t.cmd.berth n seed s)

/-- TENSOR_SEED_SR starts only when every earlier command of its queue has completed (R112): else it is not taken
yet. -/
def execTensorSeedSr (c : Cmd) (s : State) : Host.Outcome State Fault Refusal :=
  match c.path with
  | .queue q => if s.queueWorks q then .next s else carry opTensorSeed c actSeed s
  | _ => carry opTensorSeed c actSeed s

end Sys2Proof.Machine
end

