-- ==== Sys2Proof/Machine/Units.lean ====
section
/-! DEFINITION. The function units of the lanes: reciprocal, roots, log2, exp2, sin and cos, within the bounds of R123.
A result is a free value inside its bound. -/

namespace Sys2Proof.Machine

/-! Fixed point with 100 fraction bits: the true functions to far more bits than a bound needs -/

/-- One. -/
def fixOne : Nat := 2 ^ 100
/-- Pi. -/
def fixPi : Int := 3982441812995697363688351113952
/-- The natural logarithm of 2. -/
def fixLn2 : Int := 878668439483319573618263538048

/-- A fraction in fixed point. -/
def toFix (q : Rat) : Int := (q * fixOne).floor
/-- The fraction that a fixed-point number is. -/
def ofFix (i : Int) : Rat := (i : Rat) / fixOne
/-- A product in fixed point. -/
def fixMul (a b : Int) : Int := a * b / fixOne

/-- The sum of `n` terms of a series from term `t` (the k-th), each got from the one before. -/
def fixSeries (next : Nat → Int → Int) : Nat → Nat → Int → Int
  | 0, _, _ => 0
  | n + 1, k, t => t + fixSeries next n (k + 1) (next k t)

/-- e^y of a fixed-point y in [0, 1). -/
def fixExp (y : Int) : Int := fixSeries (fun k t => fixMul t y / (k + 1)) 40 0 fixOne

/-- The natural logarithm of a fixed-point m in [1, 2): 2 (z + z³/3 + z⁵/5 …) with z = (m - 1) / (m + 1). -/
def fixLn (m : Int) : Int :=
  let z := (m - fixOne) * fixOne / (m + fixOne)
  let z2 := fixMul z z
  2 * ((upFrom 0 40).foldl (fun x k => (x.1 + x.2 / (2 * (k : Int) + 1), fixMul x.2 z2)) ((0 : Int), z)).1

/-- The sine of a fixed-point angle in [0, 2π). -/
def fixSin (x : Int) : Int :=
  let x2 := fixMul x x
  fixSeries (fun k t => -(fixMul t x2 / ((2 * k + 2) * (2 * k + 3)))) 40 0 x

/-- The cosine of a fixed-point angle in [0, 2π). -/
def fixCos (x : Int) : Int :=
  let x2 := fixMul x x
  fixSeries (fun k t => -(fixMul t x2 / ((2 * k + 1) * (2 * k + 2)))) 40 0 fixOne

/-! True values -/

/-- A power of two. -/
def pow2 (e : Int) : Rat := if 0 ≤ e then ((2 ^ e.toNat : Nat) : Rat) else 1 / ((2 ^ (-e).toNat : Nat) : Rat)

/-- The exponent of the binade of a fraction that is not 0. -/
def ratExp (q : Rat) : Int :=
  let e : Int := (Nat.log2 q.num.natAbs : Int) - Nat.log2 q.den
  if pow2 e ≤ |q| then e else e - 1

/-- The unit in the last place of FP32 at a fraction. -/
def fp32Ulp (q : Rat) : Rat := if q = 0 then pow2 (-149) else pow2 (max (ratExp q) (-126) - 23)

/-- The square root of a fraction. -/
def ratSqrt (q : Rat) : Rat := (Nat.sqrt (q * (2 ^ 400 : Nat)).floor.toNat : Rat) / (2 ^ 200 : Nat)

/-- The argument of sin and cos, reduced (R123): times 1/(2π) in FP32, and of that the fractional part, in turns. -/
def reduceTurn (a : BitVec 32) : Option Rat := (fp32Rat (fp32Mul a 0x3E22F983)).map fun t => t - t.floor

/-- The angle of a number of turns. -/
def turnAngle (t : Rat) : Int := fixMul (toFix t) (2 * fixPi)

/-- The true value of a function, 0 reciprocal, 1 reciprocal square root, 2 square root, 3 log2, 4 exp2, 5 sin, 6 cos; none
where it has no finite one that FP32 covers. -/
def unitTrue (f : Nat) (a : BitVec 32) : Option Rat :=
  match fp32Rat a with
  | none => none
  | some q =>
    let big := fun (y : Rat) => if |y| < pow2 128 then some y else none
    match f with
    | 0 => if q = 0 then none else big (1 / q)
    | 1 => if q ≤ 0 then none else some (1 / ratSqrt q)
    | 2 => if q < 0 then none else some (ratSqrt q)
    | 3 =>
      if q ≤ 0 then none
      else
        let e := ratExp q
        some (e + ofFix (fixLn (toFix (q / pow2 e)) * fixOne / fixLn2))
    | 4 =>
      if 128 ≤ q then none
      else if q < -200 then some 0
      else some (ofFix (fixExp (fixMul (toFix (q - q.floor)) fixLn2)) * pow2 q.floor)
    | 5 => (reduceTurn a).map fun t => ofFix (fixSin (turnAngle t))
    | _ => (reduceTurn a).map fun t => ofFix (fixCos (turnAngle t))

/-- The error bound of a function at its true value (R123): 1 ulp, 2 ulp, or 2^-21. -/
def unitBound (f : Nat) (y : Rat) : Rat :=
  if f ≤ 2 then fp32Ulp y else if f ≤ 4 then 2 * fp32Ulp y else pow2 (-21)

/-- A result keeps the bound; the true value is known to a millionth of the bound. -/
def unitOk (f : Nat) (a r : BitVec 32) : Bool :=
  match unitTrue f a with
  | none => true
  | some y =>
    match fp32Rat r with
    | none => false
    | some q => |q - y| ≤ unitBound f y * (1 + 1 / 1000000)

/-- What a function unit delivers: a free value that keeps the bound. Where the function has no true value in FP32, nothing
bounds it. -/
def laneUnit (f : Nat) (a : BitVec 32) : BitVec 32 :=
  let r := Config.laneUnit f a
  if unitOk f a r then r else fp32OfRat ((unitTrue f a).getD 0)

end Sys2Proof.Machine
end

