-- ==== Sys2Proof/Machine/Lanes.lean ====
section
/-! DEFINITION. Lane programs, workgroups and bundles (R118 to R146). -/

namespace Sys2Proof.Machine

/-! Programs (R129 to R132) -/

/-- Check 2 of R131: every header field within its range, reserved fields zero. -/
def programValid (h : BitVec 512) : Bool :=
  let kind := fldN h 4 4
  let x := fldN h 32 11
  let y := fldN h 43 11
  let z := fldN h 54 10
  let shared := fldN h 64 7
  let len := fldN h 96 32
  fldN h 0 4 == 1 && kind ≤ 2 && fldN h 8 8 == 1 && 1 ≤ fldN h 16 8 && fldN h 24 7 ≤ 64
  && 1 ≤ x && 1 ≤ y && 1 ≤ z && x * y * z ≤ 1024 && shared ≤ 64
  && (kind == 0 || (x == 1 && y == 1 && z == 1 && shared == 0))
  && fldN h 71 9 == 0 && 1 ≤ fldN h 80 16 && len % 16 == 0 && 16 ≤ len && len ≤ 262144
  && fldN h 128 40 % 4096 == 0 && fldN h 168 88 == 0

/-- The slot that a header and its code fill. -/
def programOf (h : BitVec 512) (code : List Byte) : Program :=
  { valid := true, kind := fld h 4 4, laneIsa := fld h 8 8, regs := fld h 16 8, uniforms := fld h 24 7,
    rerunOk := bitAt h 31, wgX := fld h 32 11, wgY := fld h 43 11, wgZ := fld h 54 10, shared := fld h 64 7,
    timeLimit := fld h 80 16, code := code, digest := fld h 256 256 }

/-- The program of a berth's slot. -/
def Shadow.program (c : Shadow) (b : BitVec 6) (slot : Nat) : Program := tabGet {} c.programs (b.toNat * 64 + slot)

/-- Checks 4 and 5 of R131 on the copy that the ticket carries; some free slot is taken. -/
def ruleProgramLoad : ConfigRule := fun s t c =>
  let h : BitVec 512 := BitVec.ofNat 512 (ofBytes (t.data.take 64))
  let code := t.data.drop 64
  let b := t.cmd.berth
  match pickFrom (Config.pick s.free 0) ((upFrom 0 64).filter fun i => !(c.program b i).valid) with
  | none => .refuse 0x0075 noResult
  | some i =>
    if BitVec.ofNat 256 (ofBytes (sha256 code)) ≠ fld h 256 256 then .refuse 0x0071 noResult
    else .pass { c with programs := tabPut {} c.programs (b.toNat * 64 + i) (programOf h code) } (shortResult [(0, 6, i)])

/-- PROGRAM_LOAD (R130). -/
def opProgramLoad : OpInfo := { opcode := 0x1040, needsBerth := true, wellFormed := onlyFields [(0, 40)] }

/-- Checks 1 to 3 of R131: the header and the code are read once. -/
def actProgramLoad (t : Ticket) (s : State) : State :=
  let va := fldN t.cmd.params 0 40
  let b := t.cmd.berth
  if va % 64 ≠ 0 || !s.readable b va 64 then writeRecord t 0x0077 noResult s
  else
    match readVirt t.src b va 64 s with
    | (s, .uncorrectable) => writeRecord t 0x000B noResult s
    | (s, .addressFault) => writeRecord t 0x0077 noResult s
    | (s, .ok hd) =>
      let h : BitVec 512 := BitVec.ofNat 512 (ofBytes hd)
      if !programValid h then writeRecord t 0x0070 noResult s
      else if !s.readable b (fldN h 128 40) (fldN h 96 32) then writeRecord t 0x0077 noResult s
      else
        match readVirt t.src b (fldN h 128 40) (fldN h 96 32) s with
        | (s, .uncorrectable) => writeRecord t 0x000B noResult s
        | (s, .addressFault) => writeRecord t 0x0077 noResult s
        | (s, .ok code) => acceptConfig ruleProgramLoad { t with data := hd ++ code } s

/-- PROGRAM_LOAD. -/
def execProgramLoad (c : Cmd) (s : State) : Host.Outcome State Fault Refusal := carry opProgramLoad c actProgramLoad s

/-- A dispatch of a slot has not completed, be it untaken in its queue, or a raster state refers to it (R132). -/
def programBusy (s : State) (c : Shadow) (b : BitVec 6) (i : Nat) : Bool :=
  tabAny (fun _ j => match j with
    | some j => j.kind == .dispatch && j.berth == b && j.slot.toNat == i
    | none => false) s.dyn.work.jobs
  || s.anyUntaken b (fun p => fldN p 0 16 == 0x1042 && fldN p 128 6 == i)
  || tabAny (fun k r => match r with
    | some r => k / 1024 == b.toNat && (fldN r 32 6 == i || (bitAt r 15 && fldN r 40 6 == i))
    | none => false) c.rasterState

/-- PROGRAM_UNLOAD (R132). -/
def ruleProgramUnload : ConfigRule := fun s t c =>
  let i := fldN t.cmd.params 0 6
  let b := t.cmd.berth
  if !(c.program b i).valid then .refuse 0x0072 noResult
  else if programBusy s c b i then .refuse 0x0073 noResult
  else .pass { c with programs := tabPut {} c.programs (b.toNat * 64 + i) {} } noResult

/-- PROGRAM_UNLOAD. -/
def opProgramUnload : OpInfo := { opcode := 0x1041, needsBerth := true, wellFormed := onlyFields [(0, 6)] }
/-- PROGRAM_UNLOAD frees a slot. -/
def execProgramUnload (c : Cmd) (s : State) : Host.Outcome State Fault Refusal :=
  carry opProgramUnload c (acceptConfig ruleProgramUnload) s

/-! Dispatches (R125, R126, R133, R134) -/

/-- Registers allocated per thread (R125). -/
def Program.alloc (p : Program) : Nat := ceilDiv p.regs.toNat 8 * 8
/-- Threads of a workgroup. -/
def Program.threads (p : Program) : Nat := p.wgX.toNat * p.wgY.toNat * p.wgZ.toNat
/-- Bundles of a workgroup (R126). -/
def Program.bundles (p : Program) : Nat := ceilDiv p.threads 32
/-- Contexts per lane (R125). -/
def Program.contexts (p : Program) : Nat := min 32 (512 / p.alloc)
/-- Check 5 of R134. -/
def Program.fits (p : Program) (async : Bool) : Bool :=
  p.bundles ≤ p.contexts && (!async || p.bundles * p.alloc ≤ 384)

/-- The parameters of a dispatch; those of a LANES step are the same (R133, R151). -/
structure DispatchParams where
  slot : Nat
  basin : Nat
  gx : Nat
  gy : Nat
  gz : Nat
  arg : Nat
  async : Bool
  deriving DecidableEq, Repr

/-- The fields of R133. -/
def dispatchParams (p : Params) : DispatchParams :=
  { slot := fldN p 0 6, basin := fldN p 16 10, gx := fldN p 32 16, gy := fldN p 48 16, gz := fldN p 64 16,
    arg := fldN p 128 40, async := bitAt p 192 }

/-- Checks 2 to 5 of R134. -/
def dispatchFailure (g : DispatchParams) (q : Program) : Option Nat :=
  firstOf [(!q.valid, 0x0072), (q.kind != 0, 0x0070), (g.gx == 0 || g.gy == 0 || g.gz == 0, 0x0078),
           (!q.fits g.async, 0x0074)]

/-- The 32-bit words of a byte string, lowest byte first. -/
def leWords : List Byte → List (BitVec 32)
  | a :: b :: c :: d :: t => BitVec.ofNat 32 (ofBytes [a, b, c, d]) :: leWords t
  | _ => []

/-- The grid that a checked dispatch becomes. -/
def laneRunOf (g : DispatchParams) (q : Program) (args : List (BitVec 32)) (step : Nat) : LaneRun :=
  { step := step, program := q, slot := BitVec.ofNat 6 g.slot, args := args, async := g.async, gx := g.gx, gy := g.gy, gz := g.gz }

/-- LANE_DISPATCH. -/
def opLaneDispatch : OpInfo :=
  { opcode := 0x1042, needsBerth := true,
    wellFormed := onlyFields [(0, 6), (16, 10), (32, 16), (48, 16), (64, 16), (128, 40), (192, 1)] }

/-- LANE_DISPATCH is checked, its argument block is read, and it becomes a job of its leaf basin; it waits while the basin has no
tile (R60). -/
def actLaneDispatch (t : Ticket) (s : State) : State :=
  let g := dispatchParams t.cmd.params
  let b := t.cmd.berth
  let q := s.dyn.cfg.program b g.slot
  let n := 4 * q.uniforms.toNat
  if !t.ownsBasin s.dyn.cfg g.basin then writeRecord t 0x0050 noResult s
  else
    match dispatchFailure g q with
    | some st => writeRecord t st noResult s
    | none =>
      if n ≠ 0 ∧ (g.arg % 64 ≠ 0 || !s.readable b g.arg n) then writeRecord t 0x0077 noResult s
      else
        match readVirt t.src b g.arg n s with
        | (s, .uncorrectable) => writeRecord t 0x000B noResult s
        | (s, .addressFault) => writeRecord t 0x0077 noResult s
        | (s, .ok args) =>
          let (s, leaf) := leafFor t none g.basin s
          addJob { kind := .dispatch, ticket := t, berth := b, gen := t.gen, queue := pathQueue? t.cmd.path,
                   priority := pathPriority t s, basin := BitVec.ofNat 10 leaf, placed := !(s.dyn.openTiles leaf).isEmpty,
                   lanes := some (laneRunOf g q (leWords args) 0), slot := BitVec.ofNat 6 g.slot,
                   ins := [(g.arg, n)], since := s.now16 } s

/-- LANE_DISPATCH. -/
def execLaneDispatch (c : Cmd) (s : State) : Host.Outcome State Fault Refusal :=
  carryJob opLaneDispatch (fun _ _ => []) c actLaneDispatch s

/-! Placing workgroups (R125 to R128, R135, R136) -/

/-- Workgroups in a grid. -/
def LaneRun.total (r : LaneRun) : Nat := r.gx * r.gy * r.gz
/-- The next workgroup to place: one to run again, else the next in the grid. -/
def LaneRun.pick (r : LaneRun) : Option Nat :=
  match r.again with
  | i :: _ => some i
  | [] => if r.next < r.total then some r.next else none
/-- The grid once that workgroup is placed. -/
def LaneRun.placed (r : LaneRun) : LaneRun :=
  match r.again with
  | _ :: t => { r with again := t }
  | [] => { r with next := r.next + 1 }
/-- Every workgroup has ended. -/
def LaneRun.finished (r : LaneRun) : Bool := r.total ≤ r.next && r.again.isEmpty && r.total ≤ r.done

/-- Registers per lane, bundles, and registers of ASYNC work that a lane group holds. -/
def TileWork.groupUse (w : TileWork) (g : Nat) : Nat × Nat × Nat :=
  (w.workgroups.filter fun x => x.group == g).foldl (fun a x =>
    let r := x.bundles.length * x.alloc
    (a.1 + r, a.2.1 + x.bundles.length, a.2.2 + if x.async then r else 0)) (0, 0, 0)

/-- A lane group has room for a workgroup of a program (R126, R128). -/
def TileWork.groupRoom (w : TileWork) (g : Nat) (q : Program) (async : Bool) : Bool :=
  let (r, n, a) := w.groupUse g
  let more := q.bundles * q.alloc
  r + more ≤ 512 && n + q.bundles ≤ 32 && (!async || a + more ≤ 384)

/-- The lane group of a tile that takes a workgroup: most free registers, the lowest on a tie (R135); it has to
have room. -/
def TileWork.pickGroup (w : TileWork) (q : Program) (async : Bool) : Option Nat :=
  match minBy (fun g => (w.groupUse g).1) (upFrom 0 64) with
  | some g => if w.groupRoom g q async then some g else none
  | none => none

/-- Shared memory for one more workgroup of job `j` fits the tile (R127). -/
def sharedRoom (s : State) (p j kb : Nat) : Bool :=
  let w := s.tileWork p
  kb = 0 || (w.workgroups.any fun g => g.job == j && g.sharedKb != 0 && g.granule == sharedFit w j kb)
    || 1 ≤ s.dyn.freeGranules p

/-- The bundles of a workgroup: bundle i has the threads 32 i and up (R126). -/
def startBundles (q : Program) (seed : Nat) (clean : Bool) : List Bundle :=
  (upFrom 0 q.bundles).map fun i =>
    let mask : BitVec 32 := BitVec.ofNat 32 (2 ^ min 32 (q.threads - 32 * i) - 1)
    { seed := seed + i * 8192, clean := clean, mask := mask, initMask := mask }

/-- Put a workgroup that runs a program on a lane group of a physical tile, with the bundles that `start` gives: registers that its
berth has not held since they were zeroed are zero, others hold free values until written (R46). -/
def launch (p : Nat) (q : Program) (w : Workgroup) (start : Nat → Bool → List Bundle) (s : State) : State :=
  let seed := s.free
  let b := ((s.job w.job).map (·.berth)).getD 0
  let clean := !(tabGet [] (s.tileWork p).regBerths w.group).contains b
  let bundles := start seed clean
  let w := { w with alloc := q.alloc, bundles := bundles, sharedKb := q.shared.toNat,
                    granule := sharedFit (s.tileWork p) w.job q.shared.toNat, started := s.now16, limit := q.timeLimit.toNat }
  let s := s.modTileWork p fun x => { x with
    regBerths := if clean then tabMod [] x.regBerths w.group (b :: ·) else x.regBerths
    workgroups := x.workgroups ++ [w] }
  regrant p { s with free := seed + 8192 * bundles.length }

/-- Put a workgroup of a grid on a lane group. -/
def putGroup (p j : Nat) (shard : Option Nat) (r : LaneRun) (index g : Nat) (priority : BitVec 3) (s : State) : State :=
  launch p r.program { job := j, shard := shard, index := index, group := g, async := r.async, priority := priority }
    (startBundles r.program) s

/-- A context has a counter block on a tile, or could get one: else its next workgroup is held (R140). -/
def counterRoom (s : State) (p j : Nat) : Bool :=
  (upFrom 0 16).any fun n => let o := tabGet 0 (s.tileWork p).counterOwner n
                             o == 0 || o == j + 1

/-- Place the next workgroup of a grid on a physical tile, if it is awake and has room. -/
def placeOn (p j : Nat) (shard : Option Nat) (r : LaneRun) (priority : BitVec 3) (s : State) : Option State :=
  if !s.tileAwake p then none
  else
    match r.pick, (s.tileWork p).pickGroup r.program r.async with
    | some i, some g =>
      if sharedRoom s p j r.program.shared.toNat && counterRoom s p j then some (putGroup p j shard r i g priority s) else none
    | _, _ => none

/-- Set the grid of a dispatch or of a shard's LANES step. -/
def setLanes (j : Nat) (shard : Option Nat) (r : LaneRun) (s : State) : State :=
  match shard with
  | none => s.modJob j fun b => { b with lanes := some r }
  | some i => modShard j i (fun x => { x with lanes := some r }) s

/-- Work of a logical tile's own basin has a workgroup to place there: borrowed work waits for it (R172). -/
def State.ownGroups (s : State) (l : Nat) : Bool :=
  tabAny (fun _ j => match j with
    | some (b : Job) => b.placed && (
        (b.lent != some l && s.dyn.cfg.leafOf l == some b.basin.toNat && b.lanes.any fun r => r.pick.isSome)
        || b.shards.any fun x => x.tile == l && !x.borrowed && x.lanes.any fun r => r.pick.isSome)
    | none => false) s.dyn.work.jobs

/-- The next workgroup of a dispatch (R135): the tile that its basin's DISPATCH picks, among the basin's and one lent to it. -/
def placeDispatch (j : Nat) (b : Job) (r : LaneRun) (s : State) : State :=
  let n := b.basin.toNat
  match s.dyn.pickGroupTile n (s.dyn.openTiles n ++ b.lent.toList.filter s.dyn.tileOpen) with
  | none => s
  | some l =>
    match s.dyn.cfg.physOf l with
    | none => s
    | some p =>
      if b.lent = some l ∧ s.ownGroups l then s else
      match placeOn p j none r b.priority s with
      | none => startWake p s
      | some s =>
        let s := setLanes j none r.placed (noteChosen n l s)
        s.modJob j fun b => { b with tiles := if b.tiles.contains l then b.tiles else b.tiles ++ [l] }

/-- The next workgroup of a LANES step of some shard, on the shard's own tile (R151). -/
def placeStep (j : Nat) (b : Job) (s : State) : State :=
  let try_ := fun (x : ShardRun) =>
    match x.lanes, s.dyn.cfg.physOf x.tile with
    | some r, some p =>
      if x.borrowed && s.ownGroups x.tile then none else
      (placeOn p j (some x.shard) r b.priority s).map fun s => setLanes j (some x.shard) r.placed s
    | _, _ => none
  match b.shards.findSome? try_ with
  | some s => s
  | none => s

/-- The next workgroup of a job's grids is placed, if there is one and it has room. -/
def placeGrid (job : Nat) (b : Job) (s : State) : State :=
  match b.lanes with
  | some r => if r.pick.isNone then s else placeDispatch job b r s
  | none => placeStep job b s

/-! Threads -/

/-- A bundle of a workgroup of a physical tile, by positions. -/
structure LaneAt where
  tile : Nat
  wg : Nat
  bundle : Nat
  deriving DecidableEq, Repr

/-- Update a workgroup. -/
def modGroup (p i : Nat) (f : Workgroup → Workgroup) (s : State) : State :=
  s.modTileWork p fun w => { w with workgroups := w.workgroups.modify i f }

/-- Update a bundle. -/
def modBundle (a : LaneAt) (f : Bundle → Bundle) (s : State) : State :=
  modGroup a.tile a.wg (fun g => { g with bundles := g.bundles.modify a.bundle f }) s

/-- A register of a thread. -/
def Bundle.reg (b : Bundle) (lane : Nat) (r : BitVec 8) : BitVec 32 :=
  let k := lane * 256 + r.toNat
  (tabGet none b.regs k).getD (if b.clean then 0 else Config.freeBits 32 (b.seed + k))

/-- Write a register of the lanes listed. -/
def Bundle.putRegs (b : Bundle) (d : BitVec 8) (vs : List (Nat × BitVec 32)) : Bundle :=
  { b with regs := vs.foldl (fun t v => tabPut none t (v.1 * 256 + d.toNat) (some v.2)) b.regs }

/-- The lanes whose thread is active (R118). -/
def Bundle.lanes (b : Bundle) : List Nat := setBits b.mask 32

/-- The results of the lane arithmetic (R121, R123) that write one register from a thread's own registers; none for
the other instructions. A comparison gives 1 or 0. -/
def laneValue (uni : Nat → BitVec 32) (g : BitVec 8 → BitVec 32) : LaneOp → Option (BitVec 8 × BitVec 32)
  | .fadd d a b => some (d, fp32Add (g a) (g b))
  | .fmul d a b => some (d, fp32Mul (g a) (g b))
  | .ffma d a b c => some (d, fp32Fma (g a) (g b) (g c))
  | .fmin d a b => some (d, fp32Min (g a) (g b))
  | .fmax d a b => some (d, fp32Max (g a) (g b))
  | .fcmpLt d a b => some (d, if fp32Lt (g a) (g b) then 1 else 0)
  | .fcmpLe d a b => some (d, if fp32Le (g a) (g b) then 1 else 0)
  | .fcmpEq d a b => some (d, if (fp32Val (g a)).eq (fp32Val (g b)) then 1 else 0)
  | .iadd d a b => some (d, g a + g b)
  | .isub d a b => some (d, g a - g b)
  | .imul d a b => some (d, g a * g b)
  | .iand d a b => some (d, g a &&& g b)
  | .ior d a b => some (d, g a ||| g b)
  | .ixor d a b => some (d, g a ^^^ g b)
  | .ishl d a b => some (d, if (g b).toNat < 32 then g a <<< (g b).toNat else Config.laneWideShift 0 (g a) (g b))
  | .ishrU d a b => some (d, if (g b).toNat < 32 then g a >>> (g b).toNat else Config.laneWideShift 1 (g a) (g b))
  | .ishrS d a b => some (d, if (g b).toNat < 32 then (g a).sshiftRight (g b).toNat else Config.laneWideShift 2 (g a) (g b))
  | .icmpLtS d a b => some (d, if (g a).slt (g b) then 1 else 0)
  | .icmpLtU d a b => some (d, if (g a).ult (g b) then 1 else 0)
  | .icmpEq d a b => some (d, if g a = g b then 1 else 0)
  | .move d a => some (d, g a)
  | .moveUniform d i => some (d, uni i.toNat)
  | .moveImm d v => some (d, v)
  | .select d c a b => some (d, if g c ≠ 0 then g a else g b)
  | .rcp d a => some (d, laneUnit 0 (g a))
  | .rsqrt d a => some (d, laneUnit 1 (g a))
  | .sqrt d a => some (d, laneUnit 2 (g a))
  | .log2 d a => some (d, laneUnit 3 (g a))
  | .exp2 d a => some (d, laneUnit 4 (g a))
  | .sin d a => some (d, laneUnit 5 (g a))
  | .cos d a => some (d, laneUnit 6 (g a))
  | _ => none

/-- The registers that an instruction names. -/
def laneRegs : LaneOp → List (BitVec 8)
  | .fadd d a b => [d, a, b]
  | .fmul d a b => [d, a, b]
  | .ffma d a b c => [d, a, b, c]
  | .fmin d a b => [d, a, b]
  | .fmax d a b => [d, a, b]
  | .fcmpLt d a b => [d, a, b]
  | .fcmpLe d a b => [d, a, b]
  | .fcmpEq d a b => [d, a, b]
  | .iadd d a b => [d, a, b]
  | .isub d a b => [d, a, b]
  | .imul d a b => [d, a, b]
  | .iand d a b => [d, a, b]
  | .ior d a b => [d, a, b]
  | .ixor d a b => [d, a, b]
  | .ishl d a b => [d, a, b]
  | .ishrU d a b => [d, a, b]
  | .ishrS d a b => [d, a, b]
  | .icmpLtS d a b => [d, a, b]
  | .icmpLtU d a b => [d, a, b]
  | .icmpEq d a b => [d, a, b]
  | .move d a => [d, a]
  | .moveUniform d _ => [d]
  | .moveImm d _ => [d]
  | .select d c a b => [d, c, a, b]
  | .convert d a _ _ => [d, a]
  | .rcp d a => [d, a]
  | .rsqrt d a => [d, a]
  | .sqrt d a => [d, a]
  | .log2 d a => [d, a]
  | .exp2 d a => [d, a]
  | .sin d a => [d, a]
  | .cos d a => [d, a]
  | .ldStore d a => [d, a]
  | .stStore a v => [a, v]
  | .atomStore _ d a v c => [d, a, v, c]
  | .ldTex d lo hi => [d, lo, hi]
  | .sample d u v r _ _ _ => [d, d + 1, d + 2, d + 3, u, v, r]
  | .ldMem d lo hi => [d, lo, hi]
  | .stMem lo hi v => [lo, hi, v]
  | .atomMem _ d lo hi v c => [d, lo, hi, v, c]
  | .branch c _ _ => [c]
  | .reconverge => []
  | .barrier => []
  | .signal _ _ => []
  | .wait _ _ => []
  | .fence => []
  | .varying d _ _ _ => [d]
  | .output _ v => [v]
  | .discard => []
  | .endThread => []
  | .illegal => []

/-- Every register that an instruction names is one of those allocated to the thread (R125). -/
def laneRegsOk (op : LaneOp) (alloc : Nat) : Bool := (laneRegs op).all fun r => r.toNat < alloc

/-- Formats that a lane conversion takes (R85, R86): 0x0 to 0xD. -/
def convertible (f : BitVec 4) : Bool := f.toNat ≤ 0xD

/-- A lane conversion (R121): an element lies in the low bits of a register; one of an MX format has its scale code
in bits [15:8], and the 32 lanes of the bundle are the block (R86). -/
def laneConvert (b : Bundle) (a : BitVec 8) (src dst : BitVec 4) : List (Nat × BitVec 32) :=
  let f := src.toNat
  let val := fun lane =>
    let x := (b.reg lane a).toNat
    let v := elementVal f (x % 2 ^ formatBits f)
    if formatIsMx f then scaled (x / 256 % 256) v else v
  if formatIsMx dst.toNat then
    let vs := (upFrom 0 32).map fun lane => if bitAt b.mask lane then val lane else Val.zero
    let blk := mxBlock dst.toNat vs (List.replicate 32 none)
    b.lanes.map fun lane => (lane, BitVec.ofNat 32 (blk.bits.getD lane 0 + 256 * blk.scale))
  else b.lanes.map fun lane => (lane, BitVec.ofNat 32 (convertOne dst.toNat none (val lane)).bits)

/-! Control flow (R119) -/

/-- Go on where the stack leads when the active threads of a side are done: the other side, or the restored mask at
the reconvergence point. `live` are the threads that have not ended. -/
def Bundle.resume (live : BitVec 32) : List (Nat × BitVec 32 × Option (Nat × BitVec 32)) → Bundle → Bundle
  | [], b => { b with stack := [], mask := 0, ended := true }
  | (point, mask, some (pc, other)) :: t, b =>
    if other &&& live ≠ 0 then { b with stack := (point, mask, none) :: t, mask := other &&& live, pc := pc }
    else if mask &&& live ≠ 0 then { b with stack := t, mask := mask &&& live, pc := point }
    else Bundle.resume live t b
  | (point, mask, none) :: t, b =>
    if mask &&& live ≠ 0 then { b with stack := t, mask := mask &&& live, pc := point } else Bundle.resume live t b

/-- The threads of a bundle that have not ended: those active, and those that the stack holds. -/
def Bundle.live (b : Bundle) : BitVec 32 :=
  b.stack.foldl (fun m x => m ||| x.2.1) b.mask

/-- A branch (R119): the taken side runs first. -/
def Bundle.branch (b : Bundle) (c : BitVec 8) (target reconv : Nat) : Bundle :=
  let taken : BitVec 32 := (b.lanes.filter fun l => b.reg l c != 0).foldl (fun m l => m ||| BitVec.ofNat 32 (2 ^ l)) 0
  let other := b.mask &&& ~~~ taken
  if taken = 0 then { b with pc := b.pc + 1 }
  else if other = 0 then { b with pc := target }
  else { b with stack := (reconv, b.mask, some (b.pc + 1, other)) :: b.stack, mask := taken, pc := target }

/-- What a stack does at the reconvergence marker at `at_`: the branches that reconverge there are taken off, each after its other
side; a marker of another branch, which every thread took alike, changes nothing. -/
def Bundle.reconvergeAt (at_ : Nat) : List (Nat × BitVec 32 × Option (Nat × BitVec 32)) → Bundle → Bundle
  | [], b => { b with stack := [], pc := at_ + 1 }
  | (point, mask, side) :: t, b =>
    if point ≠ at_ then { b with stack := (point, mask, side) :: t, pc := at_ + 1 }
    else
      match side with
      | some (pc, other) =>
        if other = 0 then Bundle.reconvergeAt at_ t { b with mask := mask }
        else { b with stack := (point, mask, none) :: t, mask := other, pc := pc }
      | none => Bundle.reconvergeAt at_ t { b with mask := mask }

/-- The reconvergence marker. -/
def Bundle.reconverge (b : Bundle) : Bundle := Bundle.reconvergeAt b.pc b.stack b

/-- The active threads end: they leave the masks of the stack as well. -/
def Bundle.endActive (b : Bundle) : Bundle :=
  let gone := b.mask
  let stack := b.stack.map fun x => (x.1, x.2.1 &&& ~~~ gone, x.2.2.map fun o => (o.1, o.2 &&& ~~~ gone))
  Bundle.resume (b.live &&& ~~~ gone) stack { b with mask := 0 }

/-! Counters (R140, R141) -/

/-- The counter block of a context on a physical tile: the one it holds, or the lowest free one. -/
def counterBlock (p j : Nat) (s : State) : Option (State × Nat) :=
  let w := s.tileWork p
  match (upFrom 0 16).find? fun n => tabGet 0 w.counterOwner n == j + 1 with
  | some n => some (s, n)
  | none =>
    match (upFrom 0 16).find? fun n => tabGet 0 w.counterOwner n == 0 with
    | none => none
    | some n =>
      some (s.modTileWork p fun w => { w with counterOwner := tabPut 0 w.counterOwner n (j + 1)
                                              counters := tabMap 0 (fun k v => if k / 16 = n then 0 else v) w.counters }, n)

/-- A counter of a context's block; 0 while it has none. -/
def counterOf (p j : Nat) (i : BitVec 4) (s : State) : BitVec 32 :=
  let w := s.tileWork p
  match (upFrom 0 16).find? fun n => tabGet 0 w.counterOwner n == j + 1 with
  | some n => tabGet 0 w.counters (n * 16 + i.toNat)
  | none => 0

/-- A wait holds (R141). -/
def waitHolds (counter target : BitVec 32) : Bool := 0 ≤ (counter - target).toInt

/-- A signal adds its value (R141); none while the tile has no free block. -/
def signalCounter (p j : Nat) (i : BitVec 4) (v : BitVec 32) (s : State) : Option State :=
  (counterBlock p j s).map fun x =>
    x.1.modTileWork p fun w => { w with counters := tabMod 0 w.counters (x.2 * 16 + i.toNat) (· + v) }

/-! Memory instructions (R122, R142, R143) -/

/-- The engine that a workgroup's accesses go by. -/
def groupEngine (s : State) (p : Nat) (g : Workgroup) : Engine :=
  { job := g.job, tile := (s.dyn.cfg.logicalOf p).getD 0, shard := g.shard }

/-- A 32-bit word by an engine. -/
def loadWord (g : Engine) (va : Nat) (s : State) : State × Access (BitVec 32) :=
  if va % 4 ≠ 0 then (s, .addressFault)
  else thenA (engineRead g va 4 s) fun d s => (s, .ok (BitVec.ofNat 32 (ofBytes d)))

/-- Store a 32-bit word by an engine. -/
def storeWord (g : Engine) (va : Nat) (v : BitVec 32) (s : State) : State × Access Unit :=
  if va % 4 ≠ 0 then (s, .addressFault) else engineWrite g va (bytesOf 4 v.toNat) s

/-- The address that a register pair holds. -/
def pairAddr (b : Bundle) (lane : Nat) (lo hi : BitVec 8) : Nat := (b.reg lane lo).toNat + 2 ^ 32 * (b.reg lane hi).toNat

/-- A load of the tile store: the workgroup's shared memory from 0 up, then the working granules of its shard. -/
def loadStore (g : Engine) (a : LaneAt) (va : Nat) (s : State) : State × Access (BitVec 32) :=
  match (s.tileWork a.tile).workgroups[a.wg]? with
  | none => (s, .addressFault)
  | some w =>
    let n := w.sharedKb * 1024
    if va % 4 ≠ 0 then (s, .addressFault)
    else if va < n then (s, .ok (BitVec.ofNat 32 (ofBytes ((upFrom va 4).map (tabGet 0 w.shared)))))
    else if g.shard.isSome then loadWord g (workBase + (va - n)) s
    else (s, .addressFault)

/-- A store to the tile store. -/
def putStore (g : Engine) (a : LaneAt) (va : Nat) (v : BitVec 32) (s : State) : State × Access Unit :=
  match (s.tileWork a.tile).workgroups[a.wg]? with
  | none => (s, .addressFault)
  | some w =>
    let n := w.sharedKb * 1024
    if va % 4 ≠ 0 then (s, .addressFault)
    else if va < n then
      (modGroup a.tile a.wg (fun x => { x with shared := putBytes x.shared va (bytesOf 4 v.toNat) }) s, .ok ())
    else if g.shard.isSome then storeWord g (workBase + (va - n)) v s
    else (s, .addressFault)

/-- An atomic of four bytes: the old value, and the new one stored. -/
def swapWord (op : AtomicOp) (rd : State → State × Access (BitVec 32)) (wr : BitVec 32 → State → State × Access Unit)
    (v cmp : BitVec 32) (s : State) : State × Access (BitVec 32) :=
  thenA (rd s) fun old s => thenA (wr (atomicApply op old v cmp) s) fun _ s => (s, .ok old)

/-- The square of rho of a lane's quad (R274): the larger of the two derivative lengths in texels of level 0. -/
def quadRho (b : Bundle) (lane : Nat) (u v : BitVec 8) (w h : Nat) : BitVec 32 :=
  let q := lane / 4 * 4
  let len := fun (i : Nat) =>
    let du := fp32Mul (fp32Sub (b.reg (q + i) u) (b.reg q u)) (fp32OfInt w)
    let dv := fp32Mul (fp32Sub (b.reg (q + i) v) (b.reg q v)) (fp32OfInt h)
    fp32Fma du du (fp32Mul dv dv)
  fp32Max (len 1) (len 2)

/-- A sample by every active lane (R274): the colours, or none where it raises an illegal-instruction fault. -/
def laneSample (g : Engine) (b : Bundle) (u v ref : BitVec 8) (image sampler : Nat) (layer : Nat) (s : State) :
    State × Access (List (Option (Nat × BitVec 128))) :=
  let rd : Reader := fun va n s => engineRead g va n s
  thenA (rd image 64 s) fun d s => thenA (rd sampler 16 s) fun k s =>
    let h : BitVec 512 := BitVec.ofNat 512 (ofBytes d)
    let k : BitVec 128 := BitVec.ofNat 128 (ofBytes k)
    let i := pictureOf h
    eachA (fun lane s =>
      thenA (sampleImage rd h k layer (b.reg lane u) (b.reg lane v) (b.reg lane ref) (quadRho b lane u v i.width i.height) s)
        fun r s => (s, .ok (r.map fun x => (lane, x)))) b.lanes s

/-- Apply the results of a load to a bundle and move on. -/
def finishLoad (a : LaneAt) (d : BitVec 8) (vs : List (Nat × BitVec 32)) (s : State) : State × Access Bool :=
  (modBundle a (fun b => { b.putRegs d vs with pc := b.pc + 1 }) s, .ok true)

/-- Move on. -/
def advance (a : LaneAt) (s : State) : State × Access Bool := (modBundle a (fun b => { b with pc := b.pc + 1 }) s, .ok true)

/-- What the instructions that reach memory, the tile store or a texture do for the active lanes. The flag: false
raises an illegal-instruction fault. Lanes act in an order that free values choose (R143). What a helper lane would write to
memory is discarded (R260). -/
def laneAccess (g : Engine) (a : LaneAt) (b : Bundle) (helpers : BitVec 32) (op : LaneOp) (s : State) : State × Access Bool :=
  let order := arrivalOrder 32 s.free b.lanes
  let s := { s with free := s.free + 32 }
  let each := fun (f : Nat → State → State × Access (BitVec 32)) (s : State) =>
    eachA (fun lane s => thenA (f lane s) fun v s => (s, .ok (lane, v))) order s
  match op with
  | .ldStore d r => thenA (each (fun l s => loadStore g a (b.reg l r).toNat s) s) fun vs s => finishLoad a d vs s
  | .stStore r v => thenA (eachA (fun l s => putStore g a (b.reg l r).toNat (b.reg l v) s) order s) fun _ s => advance a s
  | .atomStore o d r v c =>
    thenA (each (fun l s => let va := (b.reg l r).toNat
                            swapWord o (loadStore g a va) (putStore g a va) (b.reg l v) (b.reg l c) s) s)
      fun vs s => finishLoad a d vs s
  | .ldTex d lo hi => thenA (each (fun l s => loadWord g (pairAddr b l lo hi) s) s) fun vs s => finishLoad a d vs s
  | .ldMem d lo hi => thenA (each (fun l s => loadWord g (pairAddr b l lo hi) s) s) fun vs s => finishLoad a d vs s
  | .stMem lo hi v =>
    thenA (eachA (fun l s => if bitAt helpers l then (s, .ok ()) else storeWord g (pairAddr b l lo hi) (b.reg l v) s) order s)
      fun _ s => advance a s
  | .atomMem o d lo hi v c =>
    thenA (each (fun l s => if bitAt helpers l then loadWord g (pairAddr b l lo hi) s
        else engineAtomic g (pairAddr b l lo hi) o (b.reg l v) (b.reg l c) s) s)
      fun vs s => finishLoad a d vs s
  | .sample d u v r image sampler layer =>
    thenA (laneSample g b u v r image.toNat sampler.toNat layer.toNat s) fun vs s =>
      let got := vs.filterMap id
      let put := fun (x : Bundle) => (upFrom 0 4).foldl (fun x c =>
        x.putRegs (d + BitVec.ofNat 8 c) (got.map fun v => (v.1, comp v.2 c))) x
      (modBundle a (fun x => { put x with pc := x.pc + 1 }) s, .ok (got.length == vs.length))
  | _ => (s, .ok false)

/-! Issue -/

/-- A bundle that may issue (R120): not ended, not at a barrier, and what it waits for has come. -/
def bundleReady (s : State) (p j : Nat) (b : Bundle) : Bool :=
  !b.ended && !b.atBarrier && match b.waiting with
    | none => true
    | some (.counter i target) => waitHolds (counterOf p j i s) target
    | some .block => counterRoom s p j
    | some .fence => s.fenced p j

/-- The rank of a workgroup among those of its lane group, lowest first (R120, R453): a sounding, then higher priority, then work
not marked ASYNC. -/
def State.groupRank (s : State) (w : Workgroup) : Nat :=
  (b2n ((s.job w.job).any fun b => b.kind != .sounding) * 8 + (7 - w.priority.toNat)) * 2 + b2n w.async

/-- The bundle of a lane group that issues (R120): the lowest rank, then the older; launch order is the order of the
list. -/
def pickBundle (s : State) (p g : Nat) : Option LaneAt :=
  let all := (s.tileWork p).workgroups.zipIdx.flatMap fun w =>
    if w.1.group ≠ g then [] else
    w.1.bundles.zipIdx.filterMap fun b =>
      if bundleReady s p w.1.job b.1 then
        some (s.groupRank w.1, ({ tile := p, wg := w.2, bundle := b.2 } : LaneAt))
      else none
  (minBy (fun x => x.1) all).map fun x => x.2

/-- The grid that a workgroup belongs to; of a shading bundle its program and uniforms. -/
def State.runOf (s : State) (w : Workgroup) : Option LaneRun :=
  match w.shade with
  | some h => some h.run
  | none =>
    (s.job w.job).bind fun b => match w.shard with
      | none => b.lanes
      | some i => (b.shards.find? fun x => x.shard == i).bind fun x => x.lanes

/-- A bundle of a workgroup faults: its job is torn down, with the shard and step (R146, R178, R179), or its pass (R258). -/
def laneFault (w : Workgroup) (f : JobFault) (s : State) : State :=
  match w.shade with
  | some h => failPass h.ctx (faultCode f) s
  | none => failJob w.job f (w.shard.getD 0) (if w.shard.isSome then ((s.runOf w).map (·.step)).getD 0 else 0) s

/-- The uniform registers of a workgroup's program (R129). -/
def uniformsOf (s : State) (w : Workgroup) (n : Nat) : BitVec 32 := (((s.runOf w).map (·.args)).getD []).getD n 0

/-- What follows an access of lanes: the bundle has gone on, or its program faults. -/
def laneOutcome (w : Workgroup) : State × Access Bool → State
  | (s, .ok true) => s
  | (s, .ok false) => laneFault w .illegalInstruction s
  | (s, .addressFault) => laneFault w .addressFault s
  | (s, .uncorrectable) => laneFault w .uncorrectable s

/-- What the instructions of shading programs do (R238, R245, R261): interpolate at the centre of the lane's pixel, write an output,
discard the fragment. None for other instructions, and where the program is not of the kind. -/
def shadeOp (h : Shade) (b : Bundle) (op : LaneOp) : Option (Shade × Bundle) :=
  let frag := match h.part with
    | .quads _ _ => true
    | .vertices _ _ => false
  match op with
  | .varying d v c mode =>
    let at_ := fun lane => let q := h.pixels.getD lane (0, 0)
                           ((256 * q.1 + 128 : Int), (256 * q.2 + 128 : Int))
    if frag && v.toNat < h.prim.nvar then
      some (h, b.putRegs d (b.lanes.map fun lane => (lane, h.prim.varyAt v.toNat c.toNat mode (at_ lane))))
    else none
  | .output slot v =>
    some ({ h with outs := b.lanes.foldl (fun t lane => tabPut none t (lane * 128 + slot.toNat) (some (b.reg lane v))) h.outs }, b)
  | .discard => if frag then some ({ h with discards := h.discards ||| b.mask }, b) else none
  | _ => none

/-- The lanes of a workgroup that only help (R260). -/
def Workgroup.helpers (w : Workgroup) : BitVec 32 := match w.shade with
  | some h => h.helpers
  | none => 0

/-- One instruction of a bundle takes effect (R118, R119, R139 to R143). -/
def issueOp (a : LaneAt) (w : Workgroup) (b : Bundle) (op : LaneOp) (s : State) : State :=
  let j := w.job
  let p := a.tile
  let go := fun (f : Bundle → Bundle) (s : State) => modBundle a f s
  if !laneRegsOk op w.alloc then laneFault w .illegalInstruction s
  else
    match op with
    | .illegal => laneFault w .illegalInstruction s
    | .branch c target reconv => go (fun b => b.branch c target reconv) s
    | .reconverge => go (fun b => b.reconverge) s
    | .endThread => go (fun b => b.endActive) s
    | .barrier =>
      if b.mask ≠ b.initMask then laneFault w .illegalInstruction s
      else go (fun b => { b with atBarrier := true, pc := b.pc + 1 }) s
    | .signal i v =>
      match signalCounter p j i v s with
      | none => go (fun b => { b with waiting := some .block }) s
      | some s => go (fun b => { b with waiting := none, pc := b.pc + 1 }) s
    | .wait i target =>
      match counterBlock p j s with
      | none => go (fun b => { b with waiting := some .block }) s
      | some (s, _) =>
        if waitHolds (counterOf p j i s) target then go (fun b => { b with waiting := none, pc := b.pc + 1 }) s
        else go (fun b => { b with waiting := some (.counter i target) }) s
    | .fence =>
      let l := (s.dyn.cfg.logicalOf p).getD 0
      let s := fenceWrites (s.jobSrc j l) p l j s
      if s.fenced p j then go (fun b => { b with waiting := none, pc := b.pc + 1 }) s else go (fun b => { b with waiting := some .fence }) s
    | .convert d r src dst =>
      if convertible src && convertible dst then
        go (fun b => { b.putRegs d (laneConvert b r src dst) with pc := b.pc + 1 }) s
      else laneFault w .illegalInstruction s
    | _ =>
      match laneValue (uniformsOf s w) (b.reg 0) op with
      | some (d, _) =>
        let uni := uniformsOf s w
        let vs := b.lanes.filterMap fun l => (laneValue uni (b.reg l) op).map fun x => (l, x.2)
        go (fun b => { b.putRegs d vs with pc := b.pc + 1 }) s
      | none =>
        match w.shade.bind fun h => shadeOp h b op with
        | some (h, b) => modGroup p a.wg (fun g => { g with shade := some h }) (go (fun _ => { b with pc := b.pc + 1 }) s)
        | none => laneOutcome w (laneAccess (groupEngine s p w) a b w.helpers op s)

/-- The sequencer fetches a bundle's instruction from its slot in the program area (R132, R473): the flag is false where the line is
uncorrectable. The manual gives no encoding, but that CODE_LEN counts units of 16 bytes. DESIGN CHOICE: an instruction
is one unit, and every fetch looks at its line, as the instruction cache holds no state. -/
def fetchCode (p : Nat) (w : Workgroup) (b : Bundle) (s : State) : State × Bool :=
  match s.job w.job, s.runOf w with
  | some j, some r =>
    let n := programLine j.berth.toNat r.slot.toNat (16 * b.pc)
    let col := columnOf (n * 64)
    if r.program.code.length ≤ 16 * b.pc then (s, true)
    else if s.columnHolds col .request then (blockAt col s, true)
    else
      match readDramLine (s.jobSrc w.job ((s.dyn.cfg.logicalOf p).getD 0)) n s with
      | (s, d) => (s, d.isSome)
  | _, _ => (s, true)

/-- A bundle of a physical tile issues an instruction: what its reads of SRAM meet, the fetch, the effect. -/
def issueOn (a : LaneAt) (w : Workgroup) (b : Bundle) (op : LaneOp) (sram : SramWord) (s : State) : State :=
  match sramWord sram a.tile (s.jobSrc w.job ((s.dyn.cfg.logicalOf a.tile).getD 0)) s with
  | (s, false) => laneFault w .uncorrectable s
  | (s, true) =>
    match fetchCode a.tile w b s with
    | (s, false) => laneFault w .uncorrectable s
    | (s, true) => issueOp a w b op s

/-- BUNDLE_ISSUE (R120) on a lane group of a physical tile: the first ready bundle in rank issues the instruction. A sleeping tile
starts to wake; under an issue cap of 0 % a pool tile issues nothing (R37). No ready bundle: no effect. -/
def execBundleIssue (t : Fin 36) (group : Fin 64) (op : LaneOp) (sram : SramWord) (s : State) :
    Host.Outcome State Fault Refusal :=
  match pickBundle s t.val group.val with
  | none => .next s
  | some a =>
    if !s.tileAwake t.val then .next (startWake t.val s)
    else if !s.issues t.val then .next s
    else
      match (s.tileWork t.val).workgroups[a.wg]? with
      | none => .next s
      | some w =>
        match w.bundles[a.bundle]? with
        | none => .next s
        | some b => .next (unlessHeld (issueOn a w b op sram) s)

/-! Barriers and ends (R136, R137, R139) -/

/-- The position of the `wg`-th workgroup of a lane group, in launch order. -/
def groupAt (w : TileWork) (g wg : Nat) : Option (Nat × Workgroup) :=
  let xs := w.workgroups.zipIdx.filter fun x => x.1.group == g
  (xs[wg]?).map fun x => (x.2, x.1)

/-- BARRIER_RELEASE (R139): once every bundle that has not ended has arrived, all go on. -/
def execBarrierRelease (t : Fin 36) (group : Fin 64) (wg : Nat) (s : State) : Host.Outcome State Fault Refusal :=
  match groupAt (s.tileWork t.val) group.val wg with
  | none => .next s
  | some (i, w) =>
    if w.bundles.any (fun b => b.atBarrier) && w.bundles.all (fun b => b.atBarrier || b.ended) then
      .next (modGroup t.val i (fun w => { w with bundles := w.bundles.map fun b => { b with atBarrier := false } }) s)
    else .next s

/-- One more workgroup of a grid has ended. -/
def countEnd (j : Nat) (shard : Option Nat) (s : State) : State :=
  match shard with
  | none => s.modJob j fun b => { b with lanes := b.lanes.map fun r => { r with done := r.done + 1 } }
  | some i => modShard j i (fun x => { x with lanes := x.lanes.map fun r => { r with done := r.done + 1 } }) s

/-- A step of a shard has finished: it leaves its engine and signals (R141, R150, R151); SEND signals on the tile of
the shard it sent to. -/
def finishStep (j i n : Nat) (s : State) : State :=
  match s.job j with
  | none => s
  | some b =>
    let x := b.model.steps.getD n {}
    let s := modShard j i (fun y => { y with done := n :: y.done, running := y.running.filter (· != n)
                                             array := if (y.array.map (·.1)) = some n then none else y.array
                                             lanes := if (y.lanes.map (·.step)) = some n then none else y.lanes }) s
    let target := if x.kind = 6 then fldN x.params 160 5 else i
    let tile := (b.shards.find? fun (y : ShardRun) => y.shard == target).bind fun y => s.dyn.cfg.physOf y.tile
    match x.signalEn, tile with
    | true, some p => (signalCounter p j x.signalCtr x.signalValue s).getD s
    | _, _ => s

/-- The LANES step that a finished grid ends, if any. -/
def endLanes (j : Nat) (shard : Option Nat) (s : State) : State :=
  match shard, s.job j with
  | some i, some b =>
    match (b.shards.find? fun (x : ShardRun) => x.shard == i).bind fun x => x.lanes with
    | some r => if r.finished then finishStep j i r.step s else s
    | none => s
  | _, _ => s

/-- A workgroup of a job has run past its TIME_LIMIT. -/
def overLimit (s : State) (j : Nat) : Option Workgroup :=
  (s.dyn.work.tiles.flatMap fun kv => kv.2.workgroups).find? fun w =>
    w.job == j && w.started + w.limit * us16 < s.now16

/-- TIME_LIMIT_EXPIRY (R145, R146). No workgroup past its limit: no effect. -/
def execTimeLimitExpiry (job : Nat) (s : State) : Host.Outcome State Fault Refusal :=
  match overLimit s job with
  | none => .next s
  | some w => .next (laneFault w .timeLimit s)

/-- Every posted write of a job is committed at its page home, after the flushes that ask for it (R137, R142). -/
def settleWrites (j : Nat) (s : State) : State × Bool :=
  let ps := s.jobTiles j
  let s := ps.foldl (fun s p =>
    let l := (s.dyn.cfg.logicalOf p).getD 0
    fenceWrites (s.jobSrc j l) p l j s) s
  (s, ps.all fun p => s.fenced p j)

/-- DISPATCH_COMPLETE (R137): every workgroup has ended, and every posted write is committed at its home: a peer's columns are
asked. Not yet: no other effect. -/
def execDispatchComplete (job : Nat) (s : State) : Host.Outcome State Fault Refusal :=
  match s.job job with
  | none => .next s
  | some b =>
    if b.kind ≠ .dispatch ∨ !(b.lanes.any fun r => r.finished) ∨ s.jobWaits job then .next s
    else
      match settleWrites job s with
      | (s, true) => .next (completeJob job s)
      | (s, false) => .next s

end Sys2Proof.Machine
end

