-- ==== Sys2Proof/Machine/Raster.lean ====
section
/-! DEFINITION. Raster contexts, state handles and the start and end of render passes (R223 to R234, R256, R257,
R264, R275, R279, R287). -/

namespace Sys2Proof.Machine

/-- The context is in use and the caller's. -/
def Ticket.ownsCtx (t : Ticket) (c : Shadow) (n : Nat) : Bool := (c.context n).valid && t.owns (c.context n).berth
/-- A raster state block of a berth, none for a free handle. -/
def Shadow.stateBlock (c : Shadow) (b : BitVec 6) (h : Nat) : Option RState := tabGet none c.rasterState (b.toNat * 1024 + h)

/-! Contexts (R223, R226, R256) -/

/-- A range of pages is mapped, readable and writable normal memory of a berth in a shadow. -/
def Shadow.binOk (c : Shadow) (b : BitVec 6) (va pages : Nat) : Bool :=
  va % 0x10000 == 0 && va + pages * 0x10000 ≤ 2 ^ 40 && (upFrom 0 pages).all fun i =>
    match c.entryNo b (va + i * 0x10000) with
    | none => false
    | some n =>
      let e := tabGet {} c.xlat n
      e.valid && e.owner == b && !e.device1 && e.read && e.write

/-- RASTER_CTX_CREATE (R226); some free context is taken. -/
def ruleCtxCreate : ConfigRule := fun s t c =>
  let p := t.cmd.params
  let b := t.cmd.berth
  let q := c.queueDesc (fldN p 32 18)
  let pages := fldN p 128 24
  match pickFrom (Config.pick s.free 0) ((upFrom 0 512).filter fun n => !(c.context n).valid) with
  | none => .refuse 0x00B1 noResult
  | some n =>
    if !t.ownsBasin c (fldN p 16 10) then .refuse 0x0050 noResult
    else if !(q.valid && q.kind == 1 && q.berth == b) then .refuse 0x0091 noResult
    else if pages < 2 || 1048576 < pages || !c.binOk b (fldN p 64 40) pages then .refuse 0x00B5 noResult
    else
      let x : RasterCtx :=
        { valid := true, compositor := bitAt p 1, berth := b, basin := fld p 16 10, eventQueue := fld p 32 18,
          binVa := fld p 64 40, binPages := fld p 128 24, weirTimeout := fld p 192 16, made := s.lock.number.toNat + 1 }
      .pass { c with rasterCtx := tabPut {} c.rasterCtx n x } (shortResult [(0, 9, n)])

/-- A pass that satisfies `p` waits untaken in a queue of the berth. -/
def State.passWaits (s : State) (b : BitVec 6) (p : Nat → Bool) : Bool :=
  s.anyUntaken b fun e => fldN e 0 16 == 0x3010 && p (fldN e 128 9)

/-- RASTER_CTX_DESTROY (R226). -/
def ruleCtxDestroy : ConfigRule := fun s t c =>
  let n := fldN t.cmd.params 0 9
  if !t.ownsCtx c n then .refuse 0x00B0 noResult
  else if (s.pass n).phase != .idle || s.passWaits (c.context n).berth (· == n) then .refuse 0x00B6 noResult
  else .pass { c with rasterCtx := tabPut {} c.rasterCtx n {} } noResult

/-- BIN_GROW (R256). -/
def ruleBinGrow : ConfigRule := fun s t c =>
  let n := fldN t.cmd.params 0 9
  let x := c.context n
  let pages := fldN t.cmd.params 128 24
  if !t.ownsCtx c n then .refuse 0x00B0 noResult
  else if x.compositor || pages < x.binPages.toNat || 1048576 < pages
      || !c.binOk x.berth (x.binVa.toNat + x.binPages.toNat * 0x10000) (pages - x.binPages.toNat) then .refuse 0x00B5 noResult
  else
    let y := { x with binPages := BitVec.ofNat 24 pages, grown := s.lock.number.toNat + 1 }
    .pass { c with rasterCtx := tabPut {} c.rasterCtx n y } noResult

/-- RASTER_CTX_CREATE. -/
def opCtxCreate : OpInfo :=
  { opcode := 0x3001, needsBerth := true, wellFormed := onlyFields [(1, 1), (16, 10), (32, 18), (64, 40), (128, 24), (192, 16)] }
/-- RASTER_CTX_DESTROY. -/
def opCtxDestroy : OpInfo := { opcode := 0x3002, wellFormed := onlyFields [(0, 9)] }
/-- BIN_GROW. -/
def opBinGrow : OpInfo := { opcode := 0x3011, wellFormed := onlyFields [(0, 9), (128, 24)] }
/-- GET_RASTER_CTX. -/
def opGetCtx : OpInfo := { opcode := 0x3003, wellFormed := onlyFields [(0, 9)] }

/-- RASTER_CTX_CREATE fills a free context. -/
def execRasterCtxCreate (c : Cmd) (s : State) : Host.Outcome State Fault Refusal :=
  carry opCtxCreate c (acceptConfig ruleCtxCreate) s

/-- RASTER_CTX_DESTROY frees an idle context. -/
def execRasterCtxDestroy (c : Cmd) (s : State) : Host.Outcome State Fault Refusal :=
  carry opCtxDestroy c (acceptConfig ruleCtxDestroy) s

/-- BIN_GROW raises a context's bin memory. -/
def execBinGrow (c : Cmd) (s : State) : Host.Outcome State Fault Refusal :=
  carry opBinGrow c (acceptConfig ruleBinGrow) s

/-! Passes in flight -/

/-- The parameters of the running pass. -/
def PassRun.params (p : PassRun) : Params := match p.job with
  | some t => t.cmd.params
  | none => 0

/-- The descriptor behind a target entry. -/
def PassRun.image (p : PassRun) (i : Nat) : Image := pictureOf (p.images.getD i 0)
/-- The tensor header behind a target entry. -/
def PassRun.tensor (p : PassRun) (i : Nat) : TensorHeader :=
  headerOf (fldN (p.targets.getD i 0) 64 40) (p.images.getD i 0)
/-- A target entry. -/
def PassRun.target (p : PassRun) (i : Nat) : BitVec 256 := p.targets.getD i 0

/-- KIND of a target entry. -/
def tgKind (e : BitVec 256) : Nat := fldN e 0 2
/-- LOAD. -/
def tgLoad (e : BitVec 256) : Nat := fldN e 2 2
/-- STORE. -/
def tgStore (e : BitVec 256) : Nat := fldN e 4 2
/-- LEVEL. -/
def tgLevel (e : BitVec 256) : Nat := fldN e 8 4
/-- LAYER. -/
def tgLayer (e : BitVec 256) : Nat := fldN e 16 11

/-- The area of a pass: four samples when its image targets have four. -/
def PassRun.area (p : PassRun) : Area :=
  { w := fldN p.params 32 15, h := fldN p.params 48 15,
    four := (upFrom 0 9).any fun i => tgKind (p.target i) == 1 && (p.image i).four }

/-- Pages of the directory (R248). -/
def Area.dirPages (a : Area) : Nat := ceilDiv (16 * a.tiles) 0x10000

/-- Pages in use by the pass (R223). -/
def PassRun.used (p : PassRun) : Nat :=
  if p.phase = .idle then 0
  else p.area.dirPages + (p.batches.map fun b => b.chunks.length).foldl (· + ·) 0

/-- BIN_PEAK follows BIN_USED. -/
def PassRun.notePeak (p : PassRun) : PassRun := { p with peak := max p.peak p.used }

/-- The descriptor of R223. -/
def rasterRecord (x : RasterCtx) (p : PassRun) : Result :=
  let phase := match p.phase with
    | .idle => 0
    | .binning => 1
    | .weir => 2
    | .rendering => 3
  longResult 64 [(0, 1, b2n x.valid), (1, 1, b2n x.compositor), (8, 6, x.berth.toNat), (16, 10, x.basin.toNat),
    (32, 18, x.eventQueue.toNat), (64, 40, x.binVa.toNat), (128, 24, x.binPages.toNat), (160, 24, p.used),
    (192, 16, x.weirTimeout.toNat), (216, 3, phase), (224, 16, p.weirs.toNat), (256, 32, p.seq.toNat)]

/-- GET_RASTER_CTX returns the descriptor latched at the last lock cycle. -/
def actGetCtx (t : Ticket) (s : State) : State :=
  let n := fldN t.cmd.params 0 9
  if t.ownsCtx s.snap.cfg n then
    writeRecord t 0 (rasterRecord (s.snap.cfg.context n) (tabGet {} s.snap.raster.passes n)) s
  else writeRecord t 0x00B0 noResult s

/-- GET_RASTER_CTX. -/
def execGetRasterCtx (c : Cmd) (s : State) : Host.Outcome State Fault Refusal := carry opGetCtx c actGetCtx s

/-! State handles (R227, R228) -/

/-- A handle names a live program of a kind. -/
def Shadow.programKind (c : Shadow) (b : BitVec 6) (i : Nat) (kind : BitVec 4) : Bool :=
  (c.program b i).valid && (c.program b i).kind == kind

/-- Checks 2 and 3 of R228 on the block read; some free handle is taken. -/
def ruleStateLoad : ConfigRule := fun s t c =>
  let b := t.cmd.berth
  let x : RState := BitVec.ofNat 1024 (ofBytes t.data)
  if !stateFieldsOk x || !c.programKind b (fldN x 32 6) 1 || (rsFragEn x && !c.programKind b (fldN x 40 6) 2) then
    .refuse 0x00B2 noResult
  else
    match pickFrom (Config.pick s.free 0) ((upFrom 0 1024).filter fun h => (c.stateBlock b h).isNone) with
    | none => .refuse 0x00B1 noResult
    | some h => .pass { c with rasterState := tabPut none c.rasterState (b.toNat * 1024 + h) (some x) } (shortResult [(0, 10, h)])

/-- RASTER_STATE_LOAD reads the block once. -/
def actStateLoad (t : Ticket) (s : State) : State :=
  let va := fldN t.cmd.params 0 40
  if va % 64 ≠ 0 || !s.readable t.cmd.berth va 128 then writeRecord t 0x00B4 noResult s
  else
    match readVirt t.src t.cmd.berth va 128 s with
    | (s, .uncorrectable) => writeRecord t 0x000B noResult s
    | (s, .addressFault) => writeRecord t 0x00B4 noResult s
    | (s, .ok d) => acceptConfig ruleStateLoad { t with data := d } s

/-- A pass of the berth has not completed: it runs, or waits in a queue. -/
def State.berthPasses (s : State) (b : BitVec 6) : Bool :=
  tabAny (fun n p => p.job.isSome && (s.dyn.cfg.context n).berth == b) s.dyn.raster.passes || s.passWaits b fun _ => true

/-- RASTER_STATE_FREE (R228). -/
def ruleStateFree : ConfigRule := fun s t c =>
  let h := fldN t.cmd.params 0 10
  let b := t.cmd.berth
  if (c.stateBlock b h).isNone then .refuse 0x00B0 noResult
  else if s.berthPasses b then .refuse 0x00B6 noResult
  else .pass { c with rasterState := tabPut none c.rasterState (b.toNat * 1024 + h) none } noResult

/-- RASTER_STATE_LOAD. -/
def opStateLoad : OpInfo := { opcode := 0x3004, needsBerth := true, wellFormed := onlyFields [(0, 40)] }
/-- RASTER_STATE_FREE. -/
def opStateFree : OpInfo := { opcode := 0x3005, needsBerth := true, wellFormed := onlyFields [(0, 10)] }
/-- RASTER_STATE_LOAD copies a state block. -/
def execRasterStateLoad (c : Cmd) (s : State) : Host.Outcome State Fault Refusal := carry opStateLoad c actStateLoad s
/-- RASTER_STATE_FREE frees a state handle. -/
def execRasterStateFree (c : Cmd) (s : State) : Host.Outcome State Fault Refusal :=
  carry opStateFree c (acceptConfig ruleStateFree) s

/-! The end of a pass -/

/-- Go on with what an access of a pass gave, or tear the pass down. -/
def passAccess {α : Type} (n : Nat) (x : State × Access α) (f : α → State → State) : State :=
  match x with
  | (s, .ok v) => f v s
  | (s, .addressFault) => failPass n 2 s
  | (s, .uncorrectable) => failPass n 4 s

/-- Who an access of a pass is: the slice of a logical tile, by the NI of its tile. -/
def State.passActor (s : State) (n l : Nat) : Actor :=
  { berth := s.ctxBerth n, src := s.passSrc n l, job := some (s.pass n).jobNo, tile := s.dyn.cfg.physOf l }

/-- The slice of a logical tile reads memory. -/
def passRead (n l va len : Nat) (s : State) : State × Access (List Byte) := contextRead (s.passActor n l) va len s

/-- Write to bin memory at a byte offset, from the slice of a logical tile. -/
def writeBin (n l off : Nat) (d : List Byte) (s : State) : State × Access Unit :=
  contextWrite (s.passActor n l) ((s.dyn.cfg.context n).binVa.toNat + off) d s

/-- Write an empty directory (R248). -/
def writeDirectory (n : Nat) (s : State) : State × Access Unit :=
  writeVirt (s.passSrc n 36) (s.ctxBerth n) (s.dyn.cfg.context n).binVa.toNat
    (List.replicate ((s.pass n).area.dirPages * 0x10000) 0) s

/-! The checks of a pass (R232, R279) -/

/-- Check 5.1 of one entry. -/
def targetOk (i : Nat) (e : BitVec 256) : Bool :=
  tgKind e ≤ (if i = 8 then 1 else 2) && tgLoad e ≤ 2 && tgStore e ≤ 2 && fldN e 6 2 == 0 && fldN e 12 4 == 0
  && fldN e 27 5 == 0 && fldN e 51 13 == 0 && fldN e 104 24 == 0 && fldN e 168 88 == 0
  && (tgKind e != 2 || (1 ≤ fldN e 48 3 && fldN e 48 3 ≤ 4)) && (tgStore e == 2 || fldN e 128 40 == 0)

/-- The addresses of the descriptors and headers that an entry names. -/
def targetHeads (e : BitVec 256) : List Nat :=
  if tgKind e = 0 then [] else if tgStore e = 2 then [fldN e 64 40, fldN e 128 40] else [fldN e 64 40]

/-- Bytes per pixel of an entry (R277). -/
def PassRun.pixelBytes (p : PassRun) (i : Nat) : Nat :=
  match tgKind (p.target i) with
  | 0 => 0
  | 1 => (p.image i).fmt.bytes
  | _ => 4 * fldN (p.target i) 48 3

/-- The granules of a bound screen tile: G of R277. -/
def PassRun.granules (p : PassRun) : Nat :=
  ceilDiv (1024 * (if p.area.four then 4 else 1) * ((upFrom 0 9).map p.pixelBytes).foldl (· + ·) 0) 65536

/-- Check 5.3: descriptors and headers. -/
def PassRun.headsOk (p : PassRun) : Bool :=
  (upFrom 0 9).all fun i =>
    let e := p.target i
    (match tgKind e with
     | 0 => true
     | 1 => pictureValid (p.images.getD i 0)
     | _ => (p.tensor i).ok && (p.tensor i).aligned && (p.tensor i).layout == 1)
    && (tgKind e == 0 || tgStore e != 2 || pictureValid (p.resolves.getD i 0))

/-- An image entry fits its role, level and layer, and the samples of the pass (check 5.4). -/
def PassRun.imageFits (p : PassRun) (i : Nat) : Bool :=
  let e := p.target i
  let m := p.image i
  let r := pictureOf (p.resolves.getD i 0)
  let z := m.levelSize (tgLevel e)
  (if i = 8 then m.fmt.depth || m.fmt.stencil else m.fmt.colour)
  && tgLevel e < m.levels && tgLayer e < m.layers && p.area.w ≤ z.1 && p.area.h ≤ z.2 && m.four == p.area.four
  && (tgStore e != 2 || (m.four && !r.four && r.format == m.format && r.width == m.width && r.height == m.height))

/-- A tensor entry obeys R283. -/
def PassRun.tensorFits (p : PassRun) (i : Nat) : Bool :=
  let e := p.target i
  let h := p.tensor i
  let f := h.format.toNat
  ((1 ≤ f && f ≤ 4) || f == 0xB || f == 0xC) && p.area.w % 32 == 0
  && h.dim1.toNat == p.area.w * p.area.h && fldN e 32 16 + fldN e 48 3 ≤ h.dim0.toNat && !p.area.four && tgStore e != 2

/-- The channels that two entries write meet in one tensor (R283). -/
def PassRun.channelsMeet (p : PassRun) (i j : Nat) : Bool :=
  let a := p.target i
  let b := p.target j
  tgKind a == 2 && tgKind b == 2 && fldN a 64 40 == fldN b 64 40
  && fldN a 32 16 < fldN b 32 16 + fldN b 48 3 && fldN b 32 16 < fldN a 32 16 + fldN a 48 3

/-- Check 5.4. -/
def PassRun.rolesOk (p : PassRun) : Bool :=
  ((upFrom 0 9).all fun i => match tgKind (p.target i) with
    | 0 => true
    | 1 => p.imageFits i
    | _ => p.tensorFits i)
  && ((upFrom 0 8).all fun i => (upFrom 0 i).all fun j => !p.channelsMeet i j) && p.granules ≤ 128

/-- The ranges of the targets: data, tag planes, tensor data, resolve images. -/
def PassRun.spans (p : PassRun) : List (Nat × Nat) :=
  (upFrom 0 9).flatMap fun i =>
    let e := p.target i
    (match tgKind e with
     | 0 => []
     | 1 => (p.image i).spans
     | _ => [(p.tensor i).dataSpan])
    ++ (if tgKind e != 0 && tgStore e == 2 then (pictureOf (p.resolves.getD i 0)).spans else [])

/-- Checks 5.3 to 5.6 of R279 for a pass whose descriptors have been read. -/
def targetChecks (s : State) (x : RasterCtx) (p : PassRun) : Option Nat :=
  let both := fun w => s.spansOk x.berth p.spans w
  firstOf [(!p.headsOk, 0x00BC), (!p.rolesOk, 0x00BB), (!(both true && both false), 0x00B4),
    (x.compositor && x.binPages.toNat < p.area.dirPages + 1 + ceilDiv p.area.tiles 256, 0x00B5)]

/-- Read 64 bytes at each address; 0 stands for none. -/
def readHeads (t : Ticket) (va : List Nat) (s : State) : State × Access (List (BitVec 512)) :=
  eachA (fun a s => if a = 0 then (s, .ok 0)
    else thenA (readVirt t.src t.cmd.berth a 64 s) fun d s => (s, .ok (BitVec.ofNat 512 (ofBytes d)))) va s

/-- The status for an access that failed at a check. -/
def Access.checkStatus {α : Type} : Access α → Nat
  | .uncorrectable => 0x000B
  | _ => 0x00B4

/-- Check 5: the target table, then what it names. -/
def readTargets (t : Ticket) (x : RasterCtx) (s : State) : State × Except Nat PassRun :=
  match readVirt t.src t.cmd.berth (fldN t.cmd.params 160 40) 288 s with
  | (s, .ok d) =>
    let es := (upFrom 0 9).map fun i => BitVec.ofNat 256 (ofBytes ((d.drop (32 * i)).take 32))
    if !(es.zipIdx.all fun e => targetOk e.2 e.1) || es.all (fun e => tgKind e == 0) then (s, .error 0x00BB)
    else if !(es.all fun e => (targetHeads e).all fun a => a % 64 == 0 && s.readable t.cmd.berth a 64) then (s, .error 0x00B4)
    else
      match readHeads t (es.map fun e => if tgKind e = 0 then 0 else fldN e 64 40) s with
      | (s, .ok images) =>
        match readHeads t (es.map fun e => if tgKind e = 0 || tgStore e != 2 then 0 else fldN e 128 40) s with
        | (s, .ok resolves) =>
          let p : PassRun := { job := some t, targets := es, images := images, resolves := resolves, seq := t.cmd.seq }
          match targetChecks s x p with
          | some st => (s, .error st)
          | none => (s, .ok { p with outs := p.spans })
        | r => (r.1, .error r.2.checkStatus)
      | r => (r.1, .error r.2.checkStatus)
  | r => (r.1, .error r.2.checkStatus)

/-- Checks 1 to 4 of R232. -/
def passChecks (s : State) (t : Ticket) (x : RasterCtx) : Option Nat :=
  let p := t.cmd.params
  let w := fldN p 32 15
  let h := fldN p 48 15
  let a : Area := { w := w, h := h, four := false }
  firstOf [(!t.ownsCtx s.dyn.cfg (fldN p 0 9), 0x00B0),
    (w == 0 || 16384 < w || h == 0 || 16384 < h || fldN p 128 24 == 0, 0x00B3),
    (fldN p 64 40 % 64 != 0 || fldN p 160 40 % 64 != 0 || !s.readable x.berth (fldN p 64 40) (64 * fldN p 128 24)
      || !s.readable x.berth (fldN p 160 40) 288, 0x00B4),
    (!x.compositor && x.binPages.toNat < a.dirPages + 1, 0x00B5)]

/-- The pass may start now on a leaf basin (R47, R60, R224, R234, R255). No field gives it a counter to wait for (R141). -/
def passReady (s : State) (n leaf : Nat) (x : RasterCtx) (t : Ticket) (p : PassRun) : Bool :=
  let ts := s.dyn.openTiles leaf
  (s.pass n).phase == .idle && !ts.isEmpty
  && (ts.all fun l => match s.dyn.cfg.physOf l with
    | some q => 2 * p.granules ≤ s.dyn.freeGranules q
    | none => false)
  && (x.compositor || s.slotFree x.eventQueue.toNat)
  && (!bitAt t.cmd.params 16 || match pathQueue? t.cmd.path with
    | some q => !s.queueWorks q
    | none => true)

/-- Screen tiles of a pass take their granules on logical tiles. -/
def holdTiles (n g : Nat) (ts : List Nat) (s : State) : State :=
  ts.foldl (fun s l => match s.dyn.cfg.physOf l with
    | some q => regrant q (s.modTileWork q fun w => { w with raster := tabPut 0 w.raster n g })
    | none => s) s

/-- The pass starts: it takes its granules and its slot, and writes an empty directory. -/
def startPass (n : Nat) (x : RasterCtx) (p : PassRun) (s : State) : State :=
  let ts := s.dyn.openTiles p.leaf
  let s := holdTiles n (2 * p.granules) ts s
  let s := if x.compositor then s else reserveSlot x.eventQueue.toNat s
  let old := s.pass n
  let s := s.modPass n fun _ =>
    { p with phase := .binning, weirs := old.weirs, tilesHeld := ts, slotHeld := !x.compositor, peak := p.area.dirPages }
  passAccess n (writeDirectory n s) fun _ s => s

/-- A pass that waits at the head of its queue names its leaf basin (R168): an entry that no step takes. -/
def waitPass (t : Ticket) (j : Job) (s : State) : Option State :=
  (pathQueue? t.cmd.path).map fun _ => addJob { j with placed := false } s

/-- RASTER_PASS is checked and starts, on the leaf of its context's basin (R61); none while it has to wait. -/
def actPass (t : Ticket) (s : State) : Option State :=
  let n := fldN t.cmd.params 0 9
  let x := s.dyn.cfg.context n
  match passChecks s t x with
  | some st => some (writeRecord t st noResult s)
  | none =>
    let (s, leaf) := leafFor t none x.basin.toNat s
    match readTargets t x s with
    | (s, .error st) => some (writeRecord t st noResult s)
    | (s, .ok p) =>
      let j : Job := { kind := .pass, ticket := t, berth := t.cmd.berth, gen := t.gen, queue := pathQueue? t.cmd.path,
                       priority := if x.compositor then 7 else pathPriority t s, basin := BitVec.ofNat 10 leaf, since := s.now16 }
      if passReady s n leaf x t p then
        some (startPass n x { p with jobNo := s.dyn.work.nextJob, leaf := leaf } (addJob j s))
      else waitPass t j s

/-- RASTER_PASS. -/
def opPass : OpInfo :=
  { opcode := 0x3010, needsBerth := true,
    wellFormed := onlyFields [(0, 9), (16, 1), (32, 15), (48, 15), (64, 40), (128, 24), (160, 40)] }
/-- RASTER_PASS runs one render pass. -/
def execRasterPass (c : Cmd) (s : State) : Host.Outcome State Fault Refusal :=
  carryWait opPass c (fun t x => (actPass t x).map (startable c s)) s

/-! BIN_ABANDON (R257) -/

/-- BIN_ABANDON ends a pass that is binning or held at the weir. -/
def actAbandon (t : Ticket) (s : State) : State :=
  let n := fldN t.cmd.params 0 9
  let p := s.pass n
  if !t.ownsCtx s.dyn.cfg n then writeRecord t 0x00B0 noResult s
  else if (s.dyn.cfg.context n).compositor || !(p.phase == .binning || p.phase == .weir) then writeRecord t 0x00B7 noResult s
  else writeRecord t 0 noResult (endPass n 0x00B9 0 s)

/-- BIN_ABANDON. -/
def opAbandon : OpInfo := { opcode := 0x3012, wellFormed := onlyFields [(0, 9)] }
/-- BIN_ABANDON. -/
def execBinAbandon (c : Cmd) (s : State) : Host.Outcome State Fault Refusal := carry opAbandon c actAbandon s

end Sys2Proof.Machine
end

