-- ==== Sys2Proof/Machine/Binning.lean ====
section
/-! DEFINITION. Binning: dealing batches, bin memory, publishing, the weir and the compositor's flush (R233 to R258,
R286 to R288, R410). -/

namespace Sys2Proof.Machine

/-! The draw list (R231, R233, R237) -/

/-- The state of a draw suits the targets of the pass (R280). -/
def PassRun.stateFits (p : PassRun) (b : RState) : Bool :=
  let ds := p.image 8
  let has := tgKind (p.target 8) == 1
  ((upFrom 0 8).all fun i => !bitAt (rsBlend b i) 0 || tgKind (p.target i) != 1 || (p.image i).fmt.blend)
  && (rsPix b 0 2 == 0 || (has && ds.fmt.depth)) && (rsPix b 5 1 == 0 || (has && ds.fmt.stencil))

/-- Draw record i of a pass with its state block, read by the slice of a logical tile; none when it is invalid. -/
def drawAt (n l i : Nat) (s : State) : State × Access (Option (Draw × RState)) :=
  let p := s.pass n
  let b := s.ctxBerth n
  thenA (passRead n l (fldN p.params 64 40 + 64 * i) 64 s) fun d s =>
    let d : Draw := BitVec.ofNat 512 (ofBytes d)
    match s.dyn.cfg.stateBlock b (fldN d 0 10) with
    | some x => (s, .ok (if drawFieldsOk d && p.stateFits x then some (d, x) else none))
    | none => (s, .ok none)

/-- What comes next in the draw list. -/
inductive NextBatch where
  | finished
  | invalid
  | found (a : BatchAt) (d : Draw) (x : RState)

/-- Find the next batch from a place on; draws that give no batch are passed over. `fuel` bounds the draws. -/
def seekBatch (n l : Nat) : Nat → BatchAt → State → State × Access NextBatch
  | 0, _, s => (s, .ok .finished)
  | fuel + 1, a, s =>
    if fldN (s.pass n).params 128 24 ≤ a.draw then (s, .ok .finished)
    else
      thenA (drawAt n l a.draw s) fun r s =>
        match r with
        | none => (s, .ok .invalid)
        | some (d, x) =>
          if a.inst < fldN d 64 32 ∧ a.part < drawBatches d x then (s, .ok (.found a d x))
          else seekBatch n l fuel { number := a.number, draw := a.draw + 1 } s

/-- The place behind a batch. -/
def BatchAt.after (a : BatchAt) (d : Draw) (x : RState) : BatchAt :=
  if a.part + 1 < drawBatches d x then { number := a.number + 1, draw := a.draw, inst := a.inst, part := a.part + 1 }
  else if a.inst + 1 < fldN d 64 32 then { number := a.number + 1, draw := a.draw, inst := a.inst + 1 }
  else { number := a.number + 1, draw := a.draw + 1 }

/-- The raw index of position p of a draw. -/
def rawIndex (n l : Nat) (d : Draw) (p : Nat) (s : State) : State × Access Nat :=
  let size := 2 * fldN d 16 2
  if size = 0 then (s, .ok (fldN d 96 32 + p))
  else
    thenA (passRead n l (fldN d 192 40 + size * (fldN d 96 32 + p)) size s) fun b s =>
      (s, .ok (ofBytes b))

/-- The vertex index of a raw index (R235). -/
def vertexIndex (d : Draw) (raw : Nat) : Nat := if fldN d 16 2 = 0 then raw % 2 ^ 32 else (raw + fldN d 128 32) % 2 ^ 32

/-- The primitives of a batch as vertex indices, numbered by LOCAL (R235 to R237). -/
def assemble (n l : Nat) (a : BatchAt) (d : Draw) (x : RState) (s : State) : State × Access (List (Nat × List Nat)) :=
  let cut := if fldN d 16 2 = 1 then 0xFFFF else 0xFFFFFFFF
  let number := fun (ps : List (List Nat)) => (upFrom 0 ps.length).zip ps
  if restarts d x then
    thenA (eachA (rawIndex n l d) (upFrom 0 (fldN d 32 32)) s) fun raw s =>
      (s, .ok (number ((restartPositions x cut raw).map fun ps => ps.map fun p => vertexIndex d (raw.getD p 0))))
  else
    thenA (eachA (fun ps s => eachA (rawIndex n l d) ps s) (batchPositions d x a.part) s) fun raws s =>
      (s, .ok (number (raws.map fun rs => rs.map (vertexIndex d))))

/-- The argument block of a draw: the words that its programs take as uniforms (R231, R233). -/
def readArgs (n l : Nat) (d : Draw) (x : RState) (s : State) : State × Access (List (BitVec 32)) :=
  let u := fun (i : Nat) => (s.dyn.cfg.program (s.ctxBerth n) i).uniforms.toNat
  let k := max (u (fldN x 32 6)) (if rsFragEn x then u (fldN x 40 6) else 0)
  if k = 0 then (s, .ok []) else thenA (passRead n l (fldN d 256 40) (4 * k) s) fun b s => (s, .ok (leWords b))

/-! Bin memory (R248 to R252) -/

/-- Room for a record or block in the chunks held: its offset in bin memory. -/
def Batch.place (size : Nat) (b : Batch) : Option (Nat × Batch) :=
  match b.chunks[b.cur]? with
  | none => none
  | some c =>
    if b.used + size ≤ 0x10000 then some (c * 0x10000 + b.used, { b with used := b.used + size })
    else match b.chunks[b.cur + 1]? with
      | none => none
      | some c => some (c * 0x10000, { b with cur := b.cur + 1, used := size })

/-- A block header (R249). -/
def blockHeader (next count : Nat) : List Byte := bytesOf 16 (packFields [(0, 32, next), (32, 5, count)])

/-- Enter a record at offset `rec` in the batch's chain of a screen tile: the writes, and none without room. -/
def Batch.enter (rec t : Nat) (cover : Bool) (b : Batch) : Option (List (Nat × List Byte) × Batch) :=
  let (blocks, count) := tabGet ([], 0) b.chains t
  let entry := bytesOf 8 (packFields [(0, 32, rec / 16), (32, 2, b2n cover)])
  match blocks with
  | o :: _ =>
    if count < 30 then
      some ([(o + 16 + 8 * count, entry), (o, blockHeader 0 (count + 1))],
        { b with chains := tabPut ([], 0) b.chains t (blocks, count + 1) })
    else
      match b.place 256 with
      | none => none
      | some (f, b) => some ([(f + 16, entry), (f, blockHeader 0 1), (o, blockHeader (f / 16) count)],
          { b with chains := tabPut ([], 0) b.chains t (f :: blocks, 1) })
  | [] =>
    match b.place 256 with
    | none => none
    | some (f, b) => some ([(f + 16, entry), (f, blockHeader 0 1)], { b with chains := tabPut ([], 0) b.chains t ([f], 1) })

/-- Enter a record in the chains of the screen tiles listed. -/
def Batch.enterAll (rec : Nat) : List (Nat × Bool) → List (Nat × List Byte) → Batch → Option (List (Nat × List Byte) × Batch)
  | [], ws, b => some (ws, b)
  | (t, cover) :: rest, ws, b =>
    match b.enter rec t cover with
    | none => none
    | some (w, b) => Batch.enterAll rec rest (ws ++ w) b

/-- Bin the records of one primitive: what is written to bin memory; none without room for all of it. -/
def Batch.binGroup : List (Prim × List (Nat × Bool)) → List (Nat × List Byte) → Batch → Option (List (Nat × List Byte) × Batch)
  | [], ws, b => some (ws, b)
  | (p, ts) :: rest, ws, b =>
    match b.place p.bytes.length with
    | none => none
    | some (o, b) =>
      match b.enterAll o ts (ws ++ [(o, p.bytes)]) with
      | none => none
      | some (ws, b) => Batch.binGroup rest ws { b with binned := b.binned ++ [({ p with place := o }, ts)] }

/-- Bin primitives in order as far as the chunks held reach (`fuel` bounds the primitives). -/
def Batch.fill : Nat → List (Nat × List Byte) → Batch → List (Nat × List Byte) × Batch
  | 0, ws, b => (ws, b)
  | fuel + 1, ws, b =>
    match b.todo with
    | [] => (ws, { b with wants := false })
    | (p, _) :: _ =>
      let group := b.todo.takeWhile fun x => x.1.number == p.number
      match b.binGroup group [] with
      | none => (ws, { b with wants := true })
      | some (w, c) => Batch.fill fuel (ws ++ w) { c with todo := b.todo.drop group.length }

/-- Write pieces of bin memory in turn. -/
def writePieces (n l : Nat) (ws : List (Nat × List Byte)) (s : State) : State × Access Unit :=
  thenA (eachA (fun w s => writeBin n l w.1 w.2 s) ws s) fun _ s => (s, .ok ())

/-- Put a batch among those dealt, in the order of its number. -/
def putBatch (b : Batch) : List Batch → List Batch
  | [] => [b]
  | x :: t => if x.at_.number = b.at_.number then b :: t else if b.at_.number < x.at_.number then b :: x :: t else x :: putBatch b t

/-- Tile-list entries that a batch has written. -/
def Batch.entries (b : Batch) : Nat := (b.binned.map fun x => x.2.length).foldl (· + ·) 0

/-- A batch has binned every primitive. -/
def Batch.whole (b : Batch) : Bool := b.shaded && b.todo.isEmpty

/-- A batch whose vertices are shaded bins on: what it writes goes to memory; the batch dealt alone may be joined once it has
binned one primitive (R288). -/
def runBatch (n : Nat) (b : Batch) (s : State) : State :=
  let old := b.entries
  let (ws, b) := b.fill (b.todo.length + 1) []
  let s := s.modPass n fun p =>
    { p with batches := putBatch b p.batches, listed := p.listed + (b.entries - old)
             alone := if p.alone = some b.at_.number ∧ (!b.binned.isEmpty || b.todo.isEmpty) then none else p.alone }
  passAccess n (writePieces n b.tile ws s) fun _ s => s

/-! The phases -/

/-- The draw list has been dealt to its end and every batch has published. -/
def PassRun.binned (p : PassRun) : Bool :=
  p.undealt.isEmpty && fldN p.params 128 24 ≤ p.cursor.draw && p.batches.all fun b => b.published

/-- A screen tile has to be bound in this round (R259, R288). -/
def PassRun.needsBind (p : PassRun) (t : Nat) : Bool :=
  let before := tabGet false p.earlier t
  !tabGet false p.written t && (tabGet none p.bound t).isNone
  && (!(tabGet [] p.lists t).isEmpty
    || (!before && (upFrom 0 9).any fun i => tgKind (p.target i) != 0 && tgLoad (p.target i) == 1)
    || (before && !p.flushing && (upFrom 0 9).any fun i => tgKind (p.target i) != 0 && tgStore (p.target i) == 2))

/-- The lowest screen tile that has to be bound. -/
def PassRun.nextTile (p : PassRun) : Option Nat := (upFrom 0 p.area.tiles).find? p.needsBind

/-- Every screen tile of this round has been written out. -/
def PassRun.rendered (p : PassRun) : Bool := p.bound.isEmpty && p.nextTile.isNone

/-- A flush ends: the directory is rewritten, every chunk is free, and the lowest batch goes on alone (R288). -/
def endFlush (n : Nat) (s : State) : State :=
  let s := s.modPass n fun p =>
    { p with phase := .binning, flushing := false, batches := [], lists := [], blocks := [], alone := some p.publishedTo
             earlier := p.written.foldl (fun e k => tabPut false e k.1 true) p.earlier, written := [] }
  passAccess n (writeDirectory n s) fun _ s => s

/-- The phase moves on when its work is done. -/
def settlePass (n : Nat) (s : State) : State :=
  let p := s.pass n
  match p.phase with
  | .binning => if p.binned then s.modPass n fun p => { p with phase := .rendering } else s
  | .rendering => if p.flushing && p.rendered then endFlush n s else s
  | _ => s

/-! Publishing (R252) -/

/-- Link a batch's chain of screen tile t behind its list. -/
def linkChain (n l t : Nat) (chain : List Nat) (prims : List Prim) (s : State) : State × Access Unit :=
  let p := s.pass n
  let old := tabGet [] p.blocks t
  let blocks := old ++ chain.reverse
  let list := tabGet [] p.lists t ++ prims
  let head := blocks.headD 0
  let tail := blocks.getLastD 0
  let dir := bytesOf 16 (packFields [(0, 32, head / 16), (32, 32, tail / 16), (64, 32, list.length)])
  let link := match old.getLast? with
    | some o => [(o, bytesOf 4 (chain.getLastD 0 / 16))]
    | none => []
  let s := s.modPass n fun p =>
    { p with blocks := tabPut [] p.blocks t blocks, lists := tabPut [] p.lists t list }
  writePieces n l (link ++ [(16 * t, dir)]) s

/-- Publish what a batch has binned: every chain is linked. -/
def publish (n : Nat) (b : Batch) (s : State) : State × Access Unit :=
  thenA (eachA (fun c s => linkChain n b.tile c.1 c.2.1
      ((b.binned.filter fun x => x.2.any fun y => y.1 == c.1).map fun x => x.1) s) b.chains s) fun _ s => (s, .ok ())

/-- A batch of a pass. -/
def PassRun.batch (p : PassRun) (k : Nat) : Option Batch := p.batches.find? fun (b : Batch) => b.at_.number == k

/-- BATCH_PUBLISH: a batch that has binned everything publishes once every lower one has. Not so: no effect. -/
def execBatchPublish (ctx : BitVec 9) (batch : Nat) (s : State) : Host.Outcome State Fault Refusal :=
  let n := ctx.toNat
  let p := s.pass n
  match p.batch batch with
  | none => .next s
  | some b =>
    if p.phase != .binning || b.published || p.publishedTo != batch || !b.whole then .next s
    else .next (unlessHeld (fun s => passAccess n (publish n b s) fun _ s =>
      settlePass n (s.modPass n fun p =>
        { p with batches := putBatch { b with published := true, binned := [], chains := [] } p.batches
                 publishedTo := batch + 1 })) s)

/-! The weir and the flush (R254, R255, R288) -/

/-- Enter a batch among the undealt, ascending. -/
def putUndealt (a : BatchAt) : List BatchAt → List BatchAt
  | [] => [a]
  | x :: t => if a.number < x.number then a :: x :: t else x :: putUndealt a t

/-- Every batch that is not published and satisfies `which` is undealt; its chunks return. -/
def PassRun.undeal (which : Batch → Bool) (p : PassRun) : PassRun :=
  let stop := p.batches.filter fun b => !b.published && which b
  { p with batches := p.batches.filter fun b => b.published || !which b
           undealt := stop.foldl (fun u b => putUndealt b.at_ u) p.undealt }

/-- Shading bundles of a pass that satisfy `which` leave the tiles. -/
def dropShades (n : Nat) (which : ShadePart → Bool) (s : State) : State :=
  s.modWork fun w => { w with tiles := tabMap {} (fun _ (t : TileWork) =>
    { t with workgroups := t.workgroups.filter fun g => !(g.shade.any fun h => h.ctx == n && which h.part) }) w.tiles }

/-- The batches of a pass that satisfy `which` and are not published stop and are undealt (R254). -/
def stopBatches (n : Nat) (which : Batch → Bool) (s : State) : State :=
  let gone := ((s.pass n).batches.filter fun b => !b.published && which b).map fun b => b.at_.number
  (dropShades n (fun h => match h with
    | .vertices b _ => gone.contains b
    | .quads _ _ => false) s).modPass n fun p => p.undeal which

/-- The weir record (R255). -/
def weirResult (n stopped : Nat) (p : PassRun) : Result :=
  shortResult [(0, 9, n), (32, 32, p.publishedTo), (64, 24, p.used), (96, 8, (satOf 8 stopped).toNat)]

/-- The weir is raised (R254). -/
def raiseWeir (n : Nat) (s : State) : State :=
  let q := (s.dyn.cfg.context n).eventQueue.toNat
  let stopped := ((s.pass n).batches.filter fun b => !b.published).length
  let s := (stopBatches n (fun _ => true) s).modPass n fun p =>
    { p with
      phase := .weir, weirs := satInc p.weirs, passWeirs := p.passWeirs + 1, weirAt := s.now16, resumeDue := false }
  let p := s.pass n
  match p.job with
  | none => s
  | some t =>
    let s := s.modPass n fun p => { p with slotHeld := false }
    if p.slotHeld then moreRecord q t 0x00BA (weirResult n stopped p) 0 s else s

/-- Binning resumes after BIN_GROW, once a slot for the next weir record is reserved (R255, R256). -/
def tryResume (n : Nat) (s : State) : State :=
  let p := s.pass n
  let q := (s.dyn.cfg.context n).eventQueue.toNat
  if p.phase == .weir && p.resumeDue && s.slotFree q then
    (reserveSlot q s).modPass n fun p => { p with phase := .binning, slotHeld := true, resumeDue := false }
  else s

/-- A compositor pass flushes (R288): the lowest batch publishes what it has binned and will resume behind it, the
others are undealt, and what is published is rendered. -/
def flush (n : Nat) (s : State) : State :=
  let low := (s.pass n).publishedTo
  let turn := fun s : State => settlePass n ((stopBatches n (fun _ => true) s).modPass n fun p =>
    { p with phase := .rendering, flushing := true, passWeirs := p.passWeirs + 1 })
  let done := fun (b : Batch) (p : PassRun) => { p with batches := putBatch { b with published := true, binned := [], chains := [] } p.batches }
  match (s.pass n).batch low with
  | none => turn s
  | some b =>
    if !b.shaded then turn s
    else
      match b.todo with
      | [] => passAccess n (publish n b s) fun _ s => turn (s.modPass n fun p => { done b p with publishedTo := low + 1 })
      | (x, _) :: _ => passAccess n (publish n b s) fun _ s => turn (s.modPass n fun p =>
          { done b p with undealt := putUndealt { b.at_ with skip := x.number } p.undealt })

/-- The lowest free chunk of a pass. -/
def PassRun.freeChunk (p : PassRun) (pages : Nat) : Option Nat :=
  (upFrom p.area.dirPages (pages - p.area.dirPages)).find? fun c => !(p.batches.any fun b => b.chunks.contains c)

/-- CHUNK_REQUEST (R248, R254, R288): a batch that wants a chunk takes the lowest free one; without one the weir is
raised, or a compositor pass flushes. No request outstanding: no effect. -/
def execChunkRequest (ctx : BitVec 9) (batch : Nat) (s : State) : Host.Outcome State Fault Refusal :=
  let n := ctx.toNat
  let p := s.pass n
  let x := s.dyn.cfg.context n
  match p.batch batch with
  | none => .next s
  | some b =>
    if p.phase != .binning || !b.wants
        || (x.compositor && p.batches.any fun c => c.wants && c.at_.number < batch) then .next s
    else
      match p.freeChunk x.binPages.toNat with
      | some c =>
        let b := { b with chunks := b.chunks ++ [c] }
        .next (unlessHeld (fun s => runBatch n b (s.modPass n fun p => { p with batches := putBatch b p.batches }.notePeak)) s)
      | none => .next (if x.compositor then unlessHeld (flush n) s else raiseWeir n s)

/-- WEIR_TIMEOUT (R257): the pass has been held at the weir for WEIR_TIMEOUT ms. Not due: no effect. -/
def execWeirTimeout (ctx : BitVec 9) (s : State) : Host.Outcome State Fault Refusal :=
  let n := ctx.toNat
  let p := s.pass n
  let ms := (s.dyn.cfg.context n).weirTimeout.toNat
  if p.phase == .weir && !p.resumeDue && ms != 0 && p.weirAt + ms * 1000 * us16 ≤ s.now16 then .next (endPass n 0x00B8 6 s)
  else .next s

/-! Dealing (R247, R286, R410) -/

/-- A pass has a batch to deal, as far as the draw list has not ended. -/
def PassRun.deals (p : PassRun) : Bool :=
  p.phase == .binning && (!p.undealt.isEmpty || p.cursor.draw < fldN p.params 128 24)
  && match p.alone with
    | some k => match p.undealt with
      | a :: _ => a.number == k
      | [] => p.cursor.number == k
    | none => true

/-- Batches that a slice holds. -/
def State.sliceBatches (s : State) (l : Nat) : Nat :=
  (s.dyn.raster.passes.map fun k => (k.2.batches.filter fun b => !b.published && b.tile == l).length).foldl (· + ·) 0

/-- A logical tile takes new work of a pass: the pass holds granules there and the tile is open in its leaf basin. -/
def State.passOn (s : State) (n l : Nat) : Bool :=
  (s.pass n).tilesHeld.contains l && (s.dyn.openTiles (s.pass n).leaf).contains l

/-- The contexts of a kind that have a batch for the slice. -/
def State.dealersOn (s : State) (l : Nat) (compositor : Bool) : List Nat :=
  tabKeys (fun n p => p.deals && s.passOn n l && (s.dyn.cfg.context n).compositor == compositor) s.dyn.raster.passes

/-- The draw of the next batch of a pass. -/
def PassRun.nextDraw (p : PassRun) : Nat := match p.undealt with
  | a :: _ => a.draw
  | [] => p.cursor.draw

/-- The context in the midst of a draw of at most 1,024 primitives per instance on a slice: it yields at the draw's end
(R289). -/
def State.midDraw (s : State) (l : Nat) : Option Nat :=
  match tabGet none s.dyn.raster.frontDraw l with
  | none => none
  | some (j, d) => (s.dealersOn l false).find? fun n => (s.pass n).jobNo == j && (s.pass n).nextDraw == d

/-- RASTER_SHARE of a berth; 1 where only berths with share 0 wait. -/
def Shadow.share (c : Shadow) (some_ : Bool) (b : Nat) : Nat :=
  if some_ then (c.berth (BitVec.ofNat 6 b)).rasterShare.toNat else 1

/-- Whose batch a slice's front end takes next, among the berths that wait (R410), and the round's new place. -/
def State.frontTurn (s : State) (l : Nat) : Option (Nat × Nat) :=
  let waiting := ((s.dealersOn l false).map fun n => (s.ctxBerth n).toNat).eraseDups
  let above := waiting.any fun b => 0 < s.dyn.cfg.share true b
  let ws := waiting.filter fun b => 0 < s.dyn.cfg.share above b
  let (b0, k) := tabGet (0, 0) s.dyn.raster.front l
  if ws.contains b0 ∧ k < s.dyn.cfg.share above b0 then some (b0, k + 1)
  else
    match minBy id (ws.filter fun b => b0 < b) with
    | some b => some (b, 1)
    | none => (minBy id ws).map fun b => (b, 1)

/-- The slice on logical tile l may take a batch of context n (R247, R286, R289), and the place of its round behind it. -/
def State.mayDeal (s : State) (n l : Nat) : Option (Nat × Nat) :=
  let p := s.pass n
  let x := s.dyn.cfg.context n
  let same := tabGet (0, 0) s.dyn.raster.front l
  let turn := match s.frontTurn l with
    | some (b, k) => if b = x.berth.toNat then some (b, k) else none
    | none => none
  if !p.deals || !s.passOn n l || 2 ≤ s.sliceBatches l then none
  else if (s.dealersOn l true).isEmpty then turn
  else match s.midDraw l with
    | some m => if n = m then some same else none
    | none => if x.compositor then some same else none

/-! Vertices (R238) -/

/-- A batch works in its slice's front end (R247). -/
def Batch.inFront (b : Batch) : Bool := b.started && !b.published && !b.whole

/-- The batches of a slice that satisfy a condition, over all contexts. -/
def State.anyBatch (s : State) (l : Nat) (f : Nat → Batch → Bool) : Bool :=
  tabAny (fun n p => p.batches.any fun b => !b.published && b.tile == l && f n b) s.dyn.raster.passes

/-- A batch that was dealt may go into its slice's front end: that is free, and no compositor batch waits for it. -/
def State.mayFront (s : State) (n l : Nat) : Bool :=
  !s.anyBatch l (fun _ b => b.inFront)
  && ((s.dyn.cfg.context n).compositor || !s.anyBatch l fun m b => !b.started && (s.dyn.cfg.context m).compositor)

/-- What the vertex program wrote for a lane; an output that it did not write is a free value. -/
def vertexOf (x : RState) (outs : Tab (Option (BitVec 32))) (free lane : Nat) : VertexOut :=
  let word := fun (k : Nat) => (tabGet none outs (lane * 128 + k)).getD (Config.freeBits 32 (free + lane * 128 + k))
  { x := word 0, y := word 1, z := word 2, w := word 3, psize := word 4,
    clip := (upFrom 0 (rsClips x)).map fun i => word (8 + i),
    varyings := (upFrom 0 (rsVaryings x)).map fun v => pack4 (word (16 + 4 * v)) (word (17 + 4 * v)) (word (18 + 4 * v)) (word (19 + 4 * v)) }

/-- The state block of a batch. -/
def State.batchState (s : State) (n : Nat) (b : Batch) : RState := (s.dyn.cfg.stateBlock (s.ctxBerth n) b.state.toNat).getD 0

/-- The vertices of a batch are all shaded: it clips, sets up and bins as far as it can without a chunk. -/
def setupBatch (n : Nat) (b : Batch) (s : State) : State :=
  let x := s.batchState n b
  let vert := fun i => (tabGet none b.verts (b.indices.idxOf i)).getD { x := 0, y := 0, z := 0, w := 0 }
  let recs := b.prims.flatMap fun q => setupPrim x b.state b.at_.number q.1 (q.2.map vert)
  let todo := (recs.map fun r => (r, listing (s.pass n).area x r)).filter fun r => !r.2.isEmpty
  runBatch n { b with shaded := true, todo := todo, prims := [], indices := [], verts := [] } s

/-- Some tile works on a part of a pass. -/
def State.shades (s : State) (n : Nat) (part : ShadePart) : Bool :=
  tabAny (fun _ w => w.workgroups.any fun g => g.shade.any fun h => h.ctx == n && h.part == part) s.dyn.work.tiles

/-- Put a shading bundle on a physical tile, if it is awake, issues and has room: its lanes hold the values in `regs` at
the start, by register. -/
def placeShade (p : Nat) (h : Shade) (mask : BitVec 32) (priority : BitVec 3) (regs : List (BitVec 8 × (Nat → BitVec 32)))
    (s : State) : Option State :=
  let j := (s.pass h.ctx).jobNo
  let q := h.run.program
  if !s.tileAwake p || !s.issues p || !counterRoom s p j then none
  else
    (s.tileWork p).pickGroup q false |>.map fun g =>
      launch p q { job := j, index := 0, shade := some h, group := g, priority := priority } (fun seed clean =>
        let b : Bundle := { seed := seed, clean := clean, mask := mask, initMask := mask }
        [regs.foldl (fun b r => b.putRegs r.1 (b.lanes.map fun lane => (lane, r.2 lane))) b]) s

/-- The level at which the bundles of a pass issue (R286). -/
def State.passLevel (s : State) (n : Nat) : BitVec 3 := ((s.job (s.pass n).jobNo).map (·.priority)).getD 0

/-- A program of a pass's berth, with the argument block of a batch. -/
def State.shadeRun (s : State) (n slot batch : Nat) : LaneRun :=
  { program := s.dyn.cfg.program (s.ctxBerth n) slot, slot := BitVec.ofNat 6 slot, args := tabGet [] (s.pass n).args batch }

/-- The registers in which a vertex program finds the vertex index and the instance index. DESIGN CHOICE: the manual gives
no numbers. -/
def vertexRegs : BitVec 8 × BitVec 8 := (0, 1)

/-- Place vertex bundle k of a batch on the batch's own tile; a sleeping tile starts to wake. -/
def placeVertices (n k : Nat) (b : Batch) (s : State) : State :=
  match s.dyn.cfg.physOf b.tile with
  | none => s
  | some p =>
    let ix := (b.indices.drop (32 * k)).take 32
    let h : Shade := { ctx := n, part := .vertices b.at_.number k, run := s.shadeRun n (fldN (s.batchState n b) 32 6) b.at_.number }
    let mask : BitVec 32 := BitVec.ofNat 32 (2 ^ ix.length - 1)
    match placeShade p h mask (s.passLevel n)
        [(vertexRegs.1, fun lane => BitVec.ofNat 32 (ix.getD lane 0)), (vertexRegs.2, fun _ => b.inst)] s with
    | some s => s.modPass n fun p => { p with batches := putBatch { b with started := true } p.batches }
    | none => if s.tileAwake p then s else startWake p s

/-- The next vertex bundle of a pass that may be placed, with its batch. -/
def State.nextVertices (s : State) (n : Nat) : Option (Batch × Nat) :=
  let p := s.pass n
  if p.phase != .binning then none
  else
    p.batches.findSome? fun b =>
      if b.published || b.shaded || !(b.started || s.mayFront n b.tile) then none
      else
        ((upFrom 0 (ceilDiv b.indices.length 32)).find? fun k =>
          (tabGet none b.verts (32 * k)).isNone && !s.shades n (.vertices b.at_.number k)).map fun k => (b, k)

/-- The results of vertex bundle k of a batch have come. -/
def endVertices (n number k : Nat) (h : Shade) (s : State) : State :=
  match (s.pass n).batch number with
  | none => s
  | some b =>
    let x := s.batchState n b
    let m := min 32 (b.indices.length - 32 * k)
    let verts := (upFrom 0 m).foldl (fun t i => tabPut none t (32 * k + i) (some (vertexOf x h.outs s.free i))) b.verts
    let b := { b with verts := verts }
    let s := { s with free := s.free + 4096 }
    if (upFrom 0 b.indices.length).all fun i => (tabGet none b.verts i).isSome then setupBatch n b s
    else s.modPass n fun p => { p with batches := putBatch b p.batches }

/-! Dealing -/

/-- A draw has at most 1,024 primitives per instance (R289). -/
def smallDraw (d : Draw) (x : RState) (assembled : Nat) : Bool :=
  if restarts d x then assembled ≤ 1024 else drawBatches d x ≤ 1

/-- Deal the batch at `a` to a slice (R233, R235, R247): its indices and argument block are read and its primitives assembled. It goes
into the front end, or waits for it. -/
def dealBatch (n l : Nat) (a next : BatchAt) (fresh : Bool) (d : Draw) (x : RState) (s : State) : State × Access Batch :=
  thenA (assemble n l a d x s) fun prims s => thenA (readArgs n l d x s) fun args s =>
    let rest := prims.drop a.skip
    let indices := (rest.flatMap fun q => q.2).eraseDups
    let b : Batch := { at_ := a, tile := l, prims := rest, indices := indices, state := fld d 0 10, assembled := prims.length,
                       inst := fld d 160 32 + BitVec.ofNat 32 a.inst,
                       started := s.mayFront n l && !s.anyBatch l (fun _ b => !b.started) }
    let s := s.modPass n fun p =>
      { p with prims := p.prims + rest.length, args := tabPut [] p.args a.number args
               cursor := if fresh then next else p.cursor
               undealt := if fresh then p.undealt else p.undealt.filter fun u => u.number != a.number }
    let j := (s.pass n).jobNo
    (s.modRaster fun r => { r with
      frontDraw := tabPut none r.frontDraw l (if smallDraw d x prims.length then some (j, a.draw) else none) }, .ok b)

/-- The batch that comes next, dealt to a slice. -/
def dealNext (n l : Nat) (place : Nat × Nat) (s : State) : State :=
  let p := s.pass n
  let (start, fresh) := match p.undealt with
    | a :: _ => (a, false)
    | [] => (p.cursor, true)
  let fuel := fldN p.params 128 24 - start.draw + 1
  passAccess n (seekBatch n l fuel start s) fun r s =>
    match r with
    | .finished => settlePass n (s.modPass n fun p => { p with cursor := { p.cursor with draw := fldN p.params 128 24 } })
    | .invalid => failPass n 7 s
    | .found a d x =>
      passAccess n (dealBatch n l a (a.after d x) fresh d x s) fun b s =>
        let s := s.modRaster fun r => { r with front := tabPut (0, 0) r.front l place }
        if b.indices.isEmpty then setupBatch n { b with started := true } s
        else s.modPass n fun p => { p with batches := putBatch b p.batches }

/-- A pass that holds no tile takes those of its leaf basin that have its granules free (R258, R263). -/
def joinTiles (n : Nat) (s : State) : State :=
  let p := s.pass n
  if p.phase = .idle || !p.tilesHeld.isEmpty then s
  else
    let ts := (s.dyn.openTiles p.leaf).filter fun l => match s.dyn.cfg.physOf l with
      | some q => 2 * p.granules ≤ s.dyn.freeGranules q
      | none => false
    (holdTiles n (2 * p.granules) ts s).modPass n fun p => { p with tilesHeld := ts }

/-- A slice of a tile does raster work: its SRAM reads are good, or the pass ends (R214). -/
def sliceSram (n l p : Nat) (sram : SramWord) (f : State → State) (s : State) : State :=
  match sramWord sram p (s.passSrc n l) s with
  | (s, true) => f s
  | (s, false) => failPass n 4 s

/-- BATCH_DEAL (R247): the lowest batch not dealt goes to the slice of a physical tile. Not due, or no batch for that
slice: no effect; a sleeping tile starts to wake; under an issue cap of 0 % a pool tile takes none (R37); a bad word of
the slice's tile ends the pass (R214). -/
def execBatchDeal (ctx : BitVec 9) (t : Fin 36) (sram : SramWord) (s : State) : Host.Outcome State Fault Refusal :=
  let n := ctx.toNat
  let s1 := joinTiles n (tryResume n s)
  match s1.dyn.cfg.logicalOf t.val with
  | none => .next s
  | some l =>
    match s1.mayDeal n l with
    | none => .next s1
    | some place =>
      if !s1.tileAwake t.val then .next (startWake t.val s1)
      else if !s1.issues t.val then .next s1
      else .next (unlessHeld (sliceSram n l t.val sram (dealNext n l place)) s1)

end Sys2Proof.Machine
end

