-- ==== Sys2Proof/Machine/Device.lean ====
section
/-! DEFINITION. The device class 0x0 and the firmware identity (R30, R39, R74, R395 to R400). -/

namespace Sys2Proof.Machine

/-- ECHO (R399). -/
def opEcho : OpInfo := { opcode := 0x0001, runTime := true, wellFormed := onlyFields [(0, 128)] }

/-- ECHO returns parameter bytes 0 to 15 unchanged. -/
def execEcho (c : Cmd) (s : State) : Host.Outcome State Fault Refusal :=
  carry opEcho c (fun t s => answer 0 (shortResult [(0, 128, fldN c.params 0 128)]) t s) s

/-- NEGOTIATE (R395). -/
def opNegotiate : OpInfo := { opcode := 0x0002, runTime := true, wellFormed := onlyFields [(0, 64)] }

/-- The features the device supports on a mailbox: bit 3, IBI_DOUBT, on mailbox 64 only (R396). -/
def deviceFeatures (m : Nat) : BitVec 64 := if m = 64 then 0xF else 0x7

/-- The agreed set becomes the negotiated set when the reply is written (R395, R398). -/
def actNegotiate (t : Ticket) (s : State) : State :=
  match pathMailbox? t.cmd.path with
  | none => s
  | some m =>
    let agreed := fld t.cmd.params 0 64 &&& deviceFeatures m
    let s := writeRecord t 0 (shortResult [(0, 8, 1), (8, 8, 2), (64, 64, agreed.toNat)]) s
    s.modMailbox m fun x => { x with negotiated := true, features := agreed }

/-- NEGOTIATE agrees the feature set of the mailbox's berth or of the supervisor. -/
def execNegotiate (c : Cmd) (s : State) : Host.Outcome State Fault Refusal := carry opNegotiate c actNegotiate s

/-- GET_DEVICE_STATUS (R399). -/
def opGetDeviceStatus : OpInfo := { opcode := 0x0003, runTime := true }

/-- The result of GET_DEVICE_STATUS, from the snapshot of the last lock cycle. -/
def deviceStatus (s : State) : Result :=
  shortResult [(0, 2, b2n s.snap.cfg.running), (2, 2, s.dyn.bring.grade.toNat), (4, 2, s.dyn.bring.devId.toNat),
    (8, 6, s.snap.cfg.enabledTiles.length), (16, 8, 1), (24, 8, 2), (64, 64, s.lock.number.toNat)]

/-- GET_DEVICE_STATUS returns the device state, grade, ID, enabled tiles and lock cycle. -/
def execGetDeviceStatus (c : Cmd) (s : State) : Host.Outcome State Fault Refusal :=
  carry opGetDeviceStatus c (fun t s => answer 0 (deviceStatus s) t s) s

/-- LOCK_COMMIT (R74, R399). -/
def opLockCommit : OpInfo := { opcode := 0x0010, runTime := true }

/-- LOCK_COMMIT changes nothing; its result is the number of the cycle that commits it. -/
def ruleLockCommit : ConfigRule := fun s _ c =>
  .pass c (shortResult [(0, 64, s.lock.number.toNat + 1)])

/-- The shadow has to close within 100 us of the first request (R74). -/
def actLockCommit (t : Ticket) (s : State) : State :=
  (acceptConfig ruleLockCommit t s).modLock fun k =>
    { k with closeBy := some (k.closeBy.getD (s.now16 + 100 * us16)) }

/-- LOCK_COMMIT asks for a lock cycle. -/
def execLockCommit (c : Cmd) (s : State) : Host.Outcome State Fault Refusal := carry opLockCommit c actLockCommit s

/-- GET_WEATHER (R30). -/
def opGetWeather : OpInfo := { opcode := 0x0006, runTime := true, wellFormed := onlyFields [(0, 6)] }

/-- The code of a tile power state in the weather record. -/
def TilePower.code : TilePower → Nat
  | .active => 0
  | .idle => 1
  | .nap => 2
  | .doze => 3
  | .deep => 4
  | .off => 5

/-- The weather record of a tile (R30): a powered tile with work is Active. -/
def weatherRecord (d : TileDyn) (busy safety : Bool) : Result :=
  shortResult [(0, 16, d.pace.toNat), (16, 16, d.tj.toNat), (32, 16, d.vlocal.toNat), (48, 5, d.step.toNat),
    (56, 3, if d.power == .idle && busy then 0 else d.power.code), (59, 1, b2n safety), (64, 16, d.floorLow.toNat), (80, 16, d.paceMin.toNat)]

/-- GET_WEATHER reads the latched record, or TILE_RETIRED when no physical tile carries the number. -/
def actGetWeather (t : Ticket) (s : State) : State :=
  let n := fldN t.cmd.params 0 6
  match s.snap.cfg.physOf n with
  | none => writeRecord t 0x0056 noResult s
  | some p => writeRecord t 0 (weatherRecord (tabGet {} s.snap.tiles p) (!s.snap.tileIdle p) (s.snap.cfg.safetyTile n)) s

/-- GET_WEATHER returns the weather record of a logical tile. -/
def execGetWeather (c : Cmd) (s : State) : Host.Outcome State Fault Refusal := carry opGetWeather c actGetWeather s

/-- SET_POWER_POLICY (R39): step codes above 0x12 are reserved (R27). -/
def opSetPowerPolicy : OpInfo :=
  { opcode := 0x0018, runTime := true,
    wellFormed := fun p => onlyFields [(0, 5), (8, 5), (16, 1)] p && fldN p 0 5 ≤ 0x12 && fldN p 8 5 ≤ 0x12 }

/-- The checks and effect of SET_POWER_POLICY (R39, R40). -/
def ruleSetPowerPolicy : ConfigRule := fun _ t c =>
  let p := t.cmd.params
  let c' := { c with policy := { safeStep := fld p 0 5, perfCeil := fld p 8 5, excEn := bitAt p 16 } }
  if !t.fromSupervisor then .refuse 0x0003 noResult
  else if !c'.budgetOk then .refuse 0x0040 noResult
  else .pass c' noResult

/-- SET_POWER_POLICY sets the power policy at the next lock cycle. -/
def execSetPowerPolicy (c : Cmd) (s : State) : Host.Outcome State Fault Refusal :=
  carry opSetPowerPolicy c (acceptConfig ruleSetPowerPolicy) s

/-- GET_FW_IDENTITY (R400). -/
def opGetFwIdentity : OpInfo := { opcode := 0xA001, runTime := true }

/-- The identity of the running Veldon image. -/
def fwIdentity (s : State) : Result :=
  let b := s.dyn.bring
  longResult 64 [(0, 32, fldN b.image.header 0 32), (128, 256, b.image.digest.toNat)]

/-- GET_FW_IDENTITY returns the version and digest of the running image. -/
def execGetFwIdentity (c : Cmd) (s : State) : Host.Outcome State Fault Refusal :=
  carry opGetFwIdentity c (fun t s => answer 0 (fwIdentity s) t s) s

end Sys2Proof.Machine
end

