-- ==== Sys2Proof/Machine/Targets.lean ====
section
/-! DEFINITION. Screen tiles: binding, fragments, depth, stencil, blending, write-out; the image commands (R259 to
R264, R270 to R272, R275 to R285). -/

namespace Sys2Proof.Machine

/-! Samples of a bound screen tile (R276, R277) -/

/-- The key of sample k of pixel (x, y) of target i. -/
def sampleKey (i x y k : Nat) : Nat := i * 4096 + (y % 32 * 32 + x % 32) * 4 + k

/-- A sample of a bound screen tile. -/
def ScreenTile.at_ (b : ScreenTile) (key : Nat) : BitVec 128 := tabGet 0 b.samples key
/-- Set a sample. -/
def ScreenTile.set (b : ScreenTile) (key : Nat) (v : BitVec 128) : ScreenTile := { b with samples := tabPut 0 b.samples key v }

/-- Sample numbers of a target's pixels. -/
def PassRun.samplesOf (p : PassRun) (i : Nat) : List Nat :=
  if tgKind (p.target i) = 1 ∧ (p.image i).four then upFrom 0 4 else [0]

/-- The pixels of a screen tile that a target holds: those of the image level, or of a tensor the render area. -/
def PassRun.targetPixels (p : PassRun) (i t : Nat) : List (Nat × Nat) :=
  let z := if tgKind (p.target i) = 1 then (p.image i).levelSize (tgLevel (p.target i)) else (p.area.w, p.area.h)
  (p.area.pixels t).filter fun q => q.1 < z.1 && q.2 < z.2

/-- The pixel is in the render area. -/
def Area.inside (a : Area) (x y : Nat) : Bool := x < a.w && y < a.h
/-- Some pixel of the 8 × 8 block of a pixel is outside the render area. -/
def Area.blockCut (a : Area) (x y : Nat) : Bool := a.w < x / 8 * 8 + 8 || a.h < y / 8 * 8 + 8

/-- The address and bytes of channel c of a pixel of a tensor target (R283). -/
def PassRun.channelAt (p : PassRun) (i x y c : Nat) : Nat × Nat :=
  let h := p.tensor i
  (h.bitAddr 0 (y * p.area.w + x) (fldN (p.target i) 32 16 + c) / 8, h.bits / 8)

/-- The channels that a tensor entry writes. -/
def PassRun.channels (p : PassRun) (i : Nat) : List Nat := upFrom 0 (fldN (p.target i) 48 3)

/-- What memory holds for a sample of a target. -/
def readTarget (rd : Reader) (p : PassRun) (i x y k : Nat) (s : State) : State × Access (BitVec 128) :=
  let e := p.target i
  if tgKind e = 1 then
    thenA (readTexel rd (p.image i) (tgLayer e) (tgLevel e) x y k s) fun v s => (s, .ok (BitVec.ofNat 128 v))
  else
    thenA (eachA (fun c s => let (a, n) := p.channelAt i x y c
      thenA (rd a n s) fun d s => (s, .ok (fp32Round (elementVal (p.tensor i).format.toNat (ofBytes d))))) (p.channels i) s)
      fun vs s => (s, .ok (pack4 (vs.getD 0 0) (vs.getD 1 0) (vs.getD 2 0) (vs.getD 3 0)))

/-- The value that LOAD gives a sample (R276): memory, as for every block with a pixel outside the render area, the clear value, or a
free one. -/
def loadSample (rd : Reader) (p : PassRun) (t i x y k : Nat) (s : State) : State × Access (BitVec 128) :=
  let e := p.target i
  let load := if tabGet false p.earlier t then 0 else tgLoad e
  if load = 0 || p.area.blockCut x y then readTarget rd p i x y k s
  else if load = 1 then (s, .ok (if tgKind e = 1 then BitVec.ofNat 128 (p.image i).clear else 0))
  else
    (s, .ok (if tgKind e = 1 then (Config.freeBits (8 * (p.image i).fmt.bytes) (s.free + sampleKey i x y k)).setWidth 128
      else Config.freeBits 128 (s.free + sampleKey i x y k)))

/-- The samples of a screen tile as it is bound. -/
def loadTile (rd : Reader) (p : PassRun) (t : Nat) (s : State) : State × Access (Tab (BitVec 128)) :=
  let want := (upFrom 0 9).flatMap fun i =>
    if tgKind (p.target i) = 0 then [] else
    (p.targetPixels i t).flatMap fun q => (p.samplesOf i).map fun k => (i, q.1, q.2, k)
  thenA (eachA (fun w s => thenA (loadSample rd p t w.1 w.2.1 w.2.2.1 w.2.2.2 s) fun v s =>
      (s, .ok (sampleKey w.1 w.2.1 w.2.2.1 w.2.2.2, v))) want s) fun vs s =>
    ({ s with free := s.free + 36864 }, .ok (vs.foldl (fun m v => tabPut 0 m v.1 v.2) []))

/-! Fragments (R260, R261) -/

/-- The quads of a screen tile that a record covers, in ascending row and column: their first pixels. -/
def quadsOf (a : Area) (b : RState) (x : Shape) (t : Nat) : List (Nat × Nat) :=
  let o := a.origin t
  let hit := fun (q : Nat × Nat) => inScissor a b q.1 q.2 && a.samples.any fun k => x.covers (sampleAt a.four q.1 q.2 k)
  (upFrom 0 16).flatMap fun j => (upFrom 0 16).filterMap fun i =>
    let c := (o.1 + 2 * i, o.2 + 2 * j)
    if [(0, 0), (1, 0), (0, 1), (1, 1)].any (fun d => hit (c.1 + d.1, c.2 + d.2)) then some c else none

/-- The state block of a record. -/
def State.primState (s : State) (n : Nat) (r : Prim) : RState :=
  (s.dyn.cfg.stateBlock (s.ctxBerth n) r.state.toNat).getD 0

/-- Pass over records that have no quad left (`fuel` bounds them). -/
def skipDone (s : State) (n : Nat) (a : Area) (t : Nat) (list : List Prim) : Nat → ScreenTile → ScreenTile
  | 0, b => b
  | fuel + 1, b =>
    match list[b.prim]? with
    | none => b
    | some r =>
      if (quadsOf a (s.primState n r) r.shape t).length ≤ b.quads then
        skipDone s n a t list fuel { b with prim := b.prim + 1, quads := 0 }
      else b

/-- Every record of the list has been drawn, and every result applied. -/
def ScreenTile.drawn (b : ScreenTile) (list : List Prim) : Bool := list.length ≤ b.prim && b.pending.isEmpty

/-! Depth and stencil (R280, R281) -/

/-- The stencil and the depth of a stored texel. -/
def texStencil (f v : Nat) : Nat := if f = 0x12 then v / 2 ^ 24 % 256 else if f = 0x13 then v % 256 else 0
/-- The depth bits of a stored texel. -/
def texDepth (f v : Nat) : Nat := if f = 0x10 then v % 65536 else if f = 0x12 then v % 2 ^ 24 else v % 2 ^ 32
/-- The texel with depth and stencil replaced. -/
def texWith (f v depth stencil : Nat) : Nat :=
  match f with
  | 0x12 => depth % 2 ^ 24 + stencil % 256 * 2 ^ 24
  | 0x13 => stencil % 256
  | 0x10 => depth % 65536
  | 0x11 => depth
  | _ => v

/-- A fragment's depth converted to a format. -/
def depthBits (f : Nat) (z : BitVec 32) : Nat :=
  match f with
  | 0x10 => fp32Unorm z 16
  | 0x12 => fp32Unorm z 24
  | _ => (fp32Clamp01 z).toNat

/-- VkStencilOp. -/
def stencilOp (op ref v : Nat) : Nat :=
  match op with
  | 0 => v
  | 1 => 0
  | 2 => ref
  | 3 => min 255 (v + 1)
  | 4 => v - 1
  | 5 => 255 - v
  | 6 => (v + 1) % 256
  | _ => (v + 255) % 256

/-- Compare two converted depths. -/
def depthPasses (f op a b : Nat) : Bool :=
  if f = 0x11 then
    compareOp (fun x y => fp32Lt (BitVec.ofNat 32 x) (BitVec.ofNat 32 y))
      (fun x y => (fp32Val (BitVec.ofNat 32 x)).eq (fp32Val (BitVec.ofNat 32 y))) op a b
  else compareOp (fun x y => decide (x < y)) (· == ·) op a b

/-- Mask a stencil write. -/
def stencilWrite (old new mask : Nat) : Nat := ((BitVec.ofNat 8 old &&& ~~~ BitVec.ofNat 8 mask) ||| (BitVec.ofNat 8 new &&& BitVec.ofNat 8 mask)).toNat

/-- The stencil and depth test of one sample with stored texel `v`: the texel after it, and whether it passed. -/
def depthStencil (b : RState) (f : Nat) (hasDepth hasStencil back : Bool) (z : BitVec 32) (v : Nat) : Nat × Bool :=
  let g := fun (front bk n : Nat) => rsPix b (if back then bk else front) n
  let ref := g 32 40 8
  let rmask := g 48 64 8
  let wmask := g 56 72 8
  let old := texStencil f v
  let test := hasStencil && rsPix b 5 1 == 1
  let zb := depthBits f z
  let put := fun (op : Nat) => if test then stencilWrite old (stencilOp op ref old) wmask else old
  if test && !compareOp (fun x y => decide (x < y)) (· == ·) (g 17 29 3)
      (BitVec.ofNat 8 ref &&& BitVec.ofNat 8 rmask).toNat (BitVec.ofNat 8 old &&& BitVec.ofNat 8 rmask).toNat then
    (texWith f v (texDepth f v) (put (g 8 20 3)), false)
  else if hasDepth && rsPix b 0 1 == 1 && !depthPasses f (rsPix b 2 3) zb (texDepth f v) then
    (texWith f v (texDepth f v) (put (g 14 26 3)), false)
  else (texWith f v (if hasDepth && rsPix b 1 1 == 1 then zb else texDepth f v) (put (g 11 23 3)), true)

/-! Blending (R280, R282) -/

/-- A blend factor for component c: VkBlendFactor. -/
def blendFactor (op : Nat) (src dst k : BitVec 128) (c : Nat) : BitVec 32 :=
  let inv := fun x => fp32Sub fp32One x
  match op with
  | 0 => 0
  | 1 => fp32One
  | 2 => comp src c
  | 3 => inv (comp src c)
  | 4 => comp dst c
  | 5 => inv (comp dst c)
  | 6 => comp src 3
  | 7 => inv (comp src 3)
  | 8 => comp dst 3
  | 9 => inv (comp dst 3)
  | 10 => comp k c
  | 11 => inv (comp k c)
  | 12 => comp k 3
  | 13 => inv (comp k 3)
  | _ => if c = 3 then fp32One else fp32Min (comp src 3) (inv (comp dst 3))

/-- VkBlendOp. -/
def blendOp (op : Nat) (s sf d df : BitVec 32) : BitVec 32 :=
  match op with
  | 0 => fp32Add (fp32Mul s sf) (fp32Mul d df)
  | 1 => fp32Sub (fp32Mul s sf) (fp32Mul d df)
  | 2 => fp32Sub (fp32Mul d df) (fp32Mul s sf)
  | 3 => fp32Min s d
  | _ => fp32Max s d

/-- BLEND_CONST as FP32. -/
def blendConst (b : RState) : BitVec 128 :=
  let h := fun i => fp16ToFp32 (rsPix b (448 + 16 * i) 16)
  pack4 (h 0) (h 1) (h 2) (h 3)

/-- The colour that a fragment leaves over a stored one. -/
def blendColour (b : RState) (t : Nat) (src dst : BitVec 128) : BitVec 128 :=
  let x := rsBlend b t
  if !bitAt x 0 then src
  else
    let one := fun (c sf df op : Nat) =>
      blendOp op (comp src c) (blendFactor sf src dst (blendConst b) c) (comp dst c) (blendFactor df src dst (blendConst b) c)
    let rgb := fun c => one c (fldN x 1 5) (fldN x 6 5) (fldN x 11 3)
    pack4 (rgb 0) (rgb 1) (rgb 2) (one 3 (fldN x 14 5) (fldN x 19 5) (fldN x 24 3))

/-- The bits of the R, G, B and A components in a texel: lowest bit and width. -/
def compRanges (f : Nat) : List (Nat × Nat) :=
  match f with
  | 0x02 => [(0, 8), (8, 8)]
  | 0x03 => [(0, 8), (8, 8), (16, 8), (24, 8)]
  | 0x04 => [(0, 8), (8, 8), (16, 8), (24, 8)]
  | 0x05 => [(16, 8), (8, 8), (0, 8), (24, 8)]
  | 0x06 => [(16, 8), (8, 8), (0, 8), (24, 8)]
  | 0x07 => [(0, 10), (10, 10), (20, 10), (30, 2)]
  | 0x08 => [(0, 16), (16, 16), (32, 16), (48, 16)]
  | 0x09 => [(0, 16)]
  | 0x0A => [(0, 32)]
  | 0x0B => [(0, 32), (32, 32), (64, 32), (96, 32)]
  | 0x0D => [(0, 32)]
  | _ => [(0, 8)]

/-- The components that a write mask enables, replaced. -/
def maskedTexel (ranges : List (Nat × Nat)) (mask old new : Nat) : Nat :=
  (ranges.zipIdx.filter fun r => mask / 2 ^ r.2 % 2 == 1).foldl (fun v r => mergeBits v r.1.1 r.1.2 (new / 2 ^ r.1.1)) old

/-- Write colour entry t of one sample. -/
def writeColour (p : PassRun) (b : RState) (t x y k : Nat) (src : BitVec 128) (m : ScreenTile) : ScreenTile :=
  let e := p.target t
  let key := sampleKey t x y k
  let old := m.at_ key
  let mask := fldN (rsBlend b t) 27 4
  if tgKind e = 1 then
    let f := (p.image t).format
    let new := if isUint f then texelBits f src else texelBits f (blendColour b t src (texelValue f old.toNat))
    m.set key (BitVec.ofNat 128 (maskedTexel (compRanges f) mask old.toNat new))
  else
    m.set key (BitVec.ofNat 128 (maskedTexel (compRanges 0x0B) mask old.toNat (blendColour b t src old).toNat))

/-- Write every colour entry of one sample. -/
def writeColours (p : PassRun) (b : RState) (x y k : Nat) (colour : Nat → BitVec 128) (m : ScreenTile) : ScreenTile :=
  ((upFrom 0 8).filter fun t => tgKind (p.target t) != 0).foldl (fun m t => writeColour p b t x y k (colour t) m) m

/-- The pass has a depth and stencil target that the state tests or writes. -/
def PassRun.testsDs (p : PassRun) (b : RState) : Bool :=
  tgKind (p.target 8) == 1 && (rsPix b 0 1 == 1 || rsPix b 1 1 == 1 || rsPix b 5 1 == 1)

/-- The stencil and depth test and write of one sample (stages 1 and 3 of R261): whether it passes. -/
def testSample (p : PassRun) (b : RState) (r : Prim) (x y k : Nat) (z : BitVec 32) (m : ScreenTile) : ScreenTile × Bool :=
  let ds := p.image 8
  if tgKind (p.target 8) = 1 then
    let key := sampleKey 8 x y k
    let (v, ok) := depthStencil b ds.format ds.fmt.depth ds.fmt.stencil r.back z (m.at_ key).toNat
    (m.set key (BitVec.ofNat 128 v), ok)
  else (m, true)

/-- The lanes of a bundle of quads with their pixels: lane 4 q + (x + 2 y) of quad q. -/
def quadPixels (quads : List (Nat × Nat)) : List (Nat × (Nat × Nat)) :=
  quads.zipIdx.flatMap fun q => [(0, 0), (1, 0), (0, 1), (1, 1)].zipIdx.map fun d =>
    (4 * q.2 + d.2, (q.1.1 + d.1.1, q.1.2 + d.1.2))

/-- The samples of a pixel that a record covers. -/
def PassRun.covered (p : PassRun) (b : RState) (r : Prim) (q : Nat × Nat) : List Nat :=
  if inScissor p.area b q.1 q.2 then p.area.samples.filter fun k => r.shape.covers (sampleAt p.area.four q.1 q.2 k) else []

/-- Stages 1 or 3 for the samples of a pixel: those that pass. -/
def testPixel (p : PassRun) (b : RState) (r : Prim) (q : Nat × Nat) (depth : Option (BitVec 32)) (ks : List Nat) (m : ScreenTile) :
    ScreenTile × List Nat :=
  ks.foldl (fun x k =>
    let z := depth.getD (r.depthAt (sampleAt p.area.four q.1 q.2 k))
    let (m, ok) := testSample p b r q.1 q.2 k z x.1
    (m, if ok then x.2 ++ [k] else x.2)) (m, [])

/-- An output of a lane of a fragment bundle. -/
def laneOut (outs : Tab (Option (BitVec 32))) (lane k : Nat) : Option (BitVec 32) := tabGet none outs (lane * 128 + k)

/-- The stages behind the fragment program for one pixel (R261): with LATE_TEST stage 3, then blend and colour write. -/
def finishPixel (p : PassRun) (b : RState) (r : Prim) (outs : Tab (Option (BitVec 32))) (discards : BitVec 32)
    (m : ScreenTile) (x : Nat × (Nat × Nat) × List Nat) : ScreenTile :=
  let (lane, q, ks) := x
  if bitAt discards lane then m
  else
    let (m, ks) := if rsLate b then testPixel p b r q (laneOut outs lane 32) ks m else (m, ks)
    if !rsFragEn b then m
    else
      let colour := fun (t : Nat) =>
        let w := fun c => (laneOut outs lane (4 * t + c)).getD 0
        pack4 (w 0) (w 1) (w 2) (w 3)
      ks.foldl (fun m k => writeColours p b q.1 q.2 k colour m) m

/-- Apply the results that have come, in the order of the list, up to the first bundle that still runs (R261). -/
def drainBundles (p : PassRun) (state : Prim → RState) : List FragBundle → ScreenTile → ScreenTile
  | [], m => { m with pending := [] }
  | f :: t, m =>
    match f.outs with
    | none => { m with pending := f :: t }
    | some (outs, discards) =>
      drainBundles p state t (f.pixels.foldl (finishPixel p (state f.prim) f.prim outs discards) m)

/-- Registers per lane in use on a tile, over its lane groups. -/
def TileWork.regsUsed (w : TileWork) : Nat := ((upFrom 0 64).map fun g => (w.groupUse g).1).foldl (· + ·) 0

/-- Place a fragment bundle (R260): on a lane group of the slice's own tile, or with FRAG_SPILL, when none has room, on the tile of the
basin with the most free registers. None: nowhere. Lanes of its quads that shade no pixel help. -/
def placeQuads (n screenTile : Nat) (m : ScreenTile) (f : FragBundle) (s : State) : Option State :=
  let b := s.primState n f.prim
  let live := f.pixels.map fun x => x.1
  let inQuad := fun (lane : Nat) => f.pixels.find? fun x => x.1 / 4 == lane / 4
  let bits := fun (g : Nat → Bool) => ((upFrom 0 32).filter g).foldl (fun (v : BitVec 32) lane => v ||| BitVec.ofNat 32 (2 ^ lane)) 0
  let mask := bits fun lane => (inQuad lane).isSome
  let h : Shade :=
    { ctx := n, part := .quads screenTile f.number, run := s.shadeRun n (fldN b 40 6) f.prim.batch, prim := f.prim,
      pixels := (upFrom 0 32).map fun lane => match inQuad lane with
        | some x => (x.2.1.1 / 2 * 2 + lane % 2, x.2.1.2 / 2 * 2 + lane % 4 / 2)
        | none => (0, 0)
      helpers := bits fun lane => (inQuad lane).isSome && !live.contains lane }
  let place := fun (p : Nat) => placeShade p h mask (s.passLevel n) [] s
  match s.dyn.cfg.physOf m.tile with
  | none => none
  | some own =>
    if bitAt b 14 && ((s.tileWork own).pickGroup h.run.program false).isNone then
      (minBy (fun p => (s.tileWork p).regsUsed)
        (((s.dyn.openTiles (s.pass n).leaf).filterMap s.dyn.cfg.physOf).filter (· != own))).bind place
    else place own

/-- Put a screen tile back. -/
def putTile (n screenTile : Nat) (m : ScreenTile) (s : State) : State :=
  s.modPass n fun p => { p with bound := tabPut none p.bound screenTile (some m) }

/-- The next bundle of up to eight quads of the record at hand (R260, R261): stage 1, then it is shaded if any fragment is left. None: it has
to wait, for an earlier fragment on one of its samples where a test comes first, or for room. -/
def formBundle (n screenTile : Nat) (m : ScreenTile) (r : Prim) (s : State) : Option State :=
  let p := s.pass n
  let b := s.primState n r
  let list := tabGet [] p.lists screenTile
  let quads := ((quadsOf p.area b r.shape screenTile).drop m.quads).take 8
  let pixels := (quadPixels quads).map fun x => (x.1, x.2, p.covered b r x.2)
  let early := !rsLate b || !rsFragEn b
  let meets := m.pending.any fun f => f.pixels.any fun x => pixels.any fun y => y.2.1 == x.2.1 && !y.2.2.isEmpty
  if early && p.testsDs b && meets then none
  else
    let (m, live) := if !early then (m, pixels) else
      pixels.foldl (fun x y =>
        let (m, ks) := testPixel p b r y.2.1 none y.2.2 x.1
        (m, x.2 ++ [(y.1, y.2.1, ks)])) (m, [])
    let live := live.filter fun x => !x.2.2.isEmpty
    let m := skipDone s n p.area screenTile list (list.length + 1) { m with quads := m.quads + quads.length }
    if !rsFragEn b || live.isEmpty then some (putTile n screenTile m s)
    else
      let f : FragBundle := { number := m.made, prim := r, pixels := live }
      (placeQuads n screenTile m f s).map (putTile n screenTile { m with made := m.made + 1, pending := m.pending ++ [f] })

/-- The slice goes on with a bound screen tile: a bundle that a retired tile lost is placed again, else the record at hand is read from
bin memory and its next bundle formed. -/
def drawNext (n screenTile : Nat) (m : ScreenTile) (s : State) : State :=
  let p := s.pass n
  match m.pending.find? fun f => f.outs.isNone && !s.shades n (.quads screenTile f.number) with
  | some f => (placeQuads n screenTile m f s).getD s
  | none =>
    match (tabGet [] p.lists screenTile)[m.prim]? with
    | none => s
    | some r =>
      passAccess n (passRead n m.tile ((s.dyn.cfg.context n).binVa.toNat + r.place) r.bytes.length s) fun _ s' =>
        (formBundle n screenTile m r s').getD s

/-- FRAGMENT_BUNDLE (R260, R261): the bound slice forms the next bundle of the record at hand. A screen tile that is not bound, or
has nothing left to draw, or a bundle that has to wait: no effect; a sleeping tile starts to wake. -/
def execFragmentBundle (ctx : BitVec 9) (screenTile : Nat) (sram : SramWord) (s : State) : Host.Outcome State Fault Refusal :=
  let n := ctx.toNat
  match tabGet none (s.pass n).bound screenTile with
  | none => .next s
  | some m =>
    match s.dyn.cfg.physOf m.tile with
    | none => .next s
    | some p =>
      if !s.tileAwake p then .next (startWake p s)
      else .next (unlessHeld (sliceSram n m.tile p sram (drawNext n screenTile m)) s)

/-- The results of a fragment bundle have come; an output that the program did not write is a free value. -/
def endQuads (n screenTile number : Nat) (h : Shade) (s : State) : State :=
  match tabGet none (s.pass n).bound screenTile with
  | none => s
  | some m =>
    let outs := fun (f : FragBundle) => f.pixels.foldl (fun t x =>
      (upFrom 0 32).foldl (fun (t : Tab (Option (BitVec 32))) k =>
        if (laneOut t x.1 k).isSome then t
        else tabPut none t (x.1 * 128 + k) (some (Config.freeBits 32 (s.free + x.1 * 128 + k)))) t) h.outs
    let pending := m.pending.map fun f => if f.number = number then { f with outs := some (outs f, h.discards) } else f
    let m := drainBundles (s.pass n) (s.primState n) pending m
    { putTile n screenTile m s with free := s.free + 4096 }

/-! Binding (R259, R286) -/

/-- Screen tiles bound to a slice. -/
def State.sliceTiles (s : State) (l : Nat) : Nat :=
  (s.dyn.raster.passes.map fun k => (k.2.bound.filter fun b => match b.2 with
    | some m => m.tile == l
    | none => false).length).foldl (· + ·) 0

/-- A compositor pass has a screen tile for the slice. -/
def State.compositorBinds (s : State) (l : Nat) : Bool :=
  tabAny (fun n p => (s.dyn.cfg.context n).compositor && p.phase == .rendering && s.passOn n l && p.nextTile.isSome)
    s.dyn.raster.passes

/-- The slice of logical tile l may bind a screen tile of context n. -/
def State.mayBind (s : State) (n l : Nat) : Bool :=
  let p := s.pass n
  p.phase == .rendering && s.passOn n l && s.sliceTiles l < 2
  && ((s.dyn.cfg.context n).compositor || !s.compositorBinds l)

/-- The directory entry and the blocks of a screen tile's list are read. -/
def readList (n l k : Nat) (s : State) : State × Access Unit :=
  let va := (s.dyn.cfg.context n).binVa.toNat
  thenA (passRead n l (va + 16 * k) 16 s) fun _ s =>
    thenA (eachA (fun o s => passRead n l (va + o) 256 s) (tabGet [] (s.pass n).blocks k) s) fun _ s => (s, .ok ())

/-- A slice binds a screen tile: its list is read, and its targets are loaded. -/
def bindTile (n l k : Nat) (s : State) : State :=
  let rd : Reader := fun va len s => passRead n l va len s
  passAccess n (thenA (readList n l k s) fun _ s => loadTile rd (s.pass n) k s) fun v s =>
    let p := s.pass n
    let list := tabGet [] p.lists k
    putTile n k (skipDone s n p.area k list (list.length + 1) { tile := l, samples := v }) s

/-- SCREEN_TILE_BIND: the slice of a physical tile binds the lowest screen tile and loads its targets. Not due: no
effect; a sleeping tile starts to wake; under an issue cap of 0 % a pool tile binds none (R37). -/
def execScreenTileBind (ctx : BitVec 9) (t : Fin 36) (s : State) : Host.Outcome State Fault Refusal :=
  let n := ctx.toNat
  let s := joinTiles n s
  match s.dyn.cfg.logicalOf t.val, (s.pass n).nextTile with
  | some l, some k =>
    if !s.mayBind n l then .next s
    else if !s.tileAwake t.val then .next (startWake t.val s)
    else if !s.issues t.val then .next s
    else .next (unlessHeld (bindTile n l k) s)
  | _, _ => .next s

/-! Write-out (R278, R284) -/

/-- Store the samples of one 8 × 8 block of a level, under the cases of R278 when the image is tagged. -/
def storeBlock (rd : Reader) (wr : Writer) (i : Image) (layer level bx by_ : Nat) (vs : List ((Nat × Nat × Nat) × Nat))
    (s : State) : State × Access Unit :=
  let all := fun s => thenA (eachA (fun v s => writeTexel wr i layer level v.1.1 v.1.2.1 v.1.2.2 v.2 s) vs s) fun _ s => (s, .ok ())
  match vs with
  | [] => (s, .ok ())
  | v :: _ =>
    if i.tag = 0 then all s
    else if vs.all fun u => u.2 == i.clear then writeTag rd wr i (8 * bx) (8 * by_) 1 s
    else if vs.all fun u => u.2 == v.2 then
      thenA (writeTexel wr i layer level (8 * bx) (8 * by_) 0 v.2 s) fun _ s => writeTag rd wr i (8 * bx) (8 * by_) 2 s
    else thenA (all s) fun _ s => writeTag rd wr i (8 * bx) (8 * by_) 0 s

/-- The four samples of a pixel averaged in FP32 (R278); the first for integers. -/
def resolveTexel (f : Nat) (vs : List Nat) : Nat :=
  let cs := vs.map (texelValue f)
  let avg := fun c => fp32Weigh 4 (cs.map fun v => (1, comp v c))
  let v := pack4 (avg 0) (avg 1) (avg 2) (avg 3)
  let first := vs.headD 0
  if isUint f then first
  else match f with
    | 0x10 => fp32Unorm (avg 0) 16
    | 0x12 => texWith 0x12 0 (fp32Unorm (avg 0) 24) (texStencil 0x12 first)
    | _ => texelBits f v

/-- The blocks of a screen tile. -/
def Area.blocks (a : Area) (t : Nat) : List (Nat × Nat) :=
  let o := a.origin t
  (upFrom (o.2 / 8) 4).flatMap fun y => (upFrom (o.1 / 8) 4).map fun x => (x, y)

/-- The pixels of block (bx, by) that lie below a size. -/
def blockPixels (z : Nat × Nat) (bx by_ : Nat) : List (Nat × Nat) :=
  (upFrom (8 * by_) 8).flatMap fun y => (upFrom (8 * bx) 8).filterMap fun x => if x < z.1 ∧ y < z.2 then some (x, y) else none

/-- Store an image target. -/
def storeImage (rd : Reader) (wr : Writer) (p : PassRun) (i t : Nat) (m : ScreenTile) (s : State) : State × Access Unit :=
  let e := p.target i
  let img := p.image i
  thenA (eachA (fun b s =>
    let vs := (blockPixels (img.levelSize (tgLevel e)) b.1 b.2).flatMap fun q =>
      (p.samplesOf i).map fun k => ((q.1, q.2, k), (m.at_ (sampleKey i q.1 q.2 k)).toNat)
    storeBlock rd wr img (tgLayer e) (tgLevel e) b.1 b.2 vs s) (p.area.blocks t) s) fun _ s => (s, .ok ())

/-- Resolve an image target: pixels outside the render area keep what the one-sample image holds. -/
def storeResolved (rd : Reader) (wr : Writer) (p : PassRun) (i t : Nat) (m : ScreenTile) (s : State) : State × Access Unit :=
  let f := (p.image i).format
  let r := pictureOf (p.resolves.getD i 0)
  thenA (eachA (fun b s =>
    let px := (blockPixels (r.width, r.height) b.1 b.2).filter fun q => r.tag != 0 || p.area.inside q.1 q.2
    thenA (eachA (fun q s =>
        if p.area.inside q.1 q.2 then
          (s, .ok ((q.1, q.2, 0), resolveTexel f ((upFrom 0 4).map fun k => (m.at_ (sampleKey i q.1 q.2 k)).toNat)))
        else thenA (readTexel rd r 0 0 q.1 q.2 0 s) fun v s => (s, .ok ((q.1, q.2, 0), v))) px s) fun vs s =>
      storeBlock rd wr r 0 0 b.1 b.2 vs s) (p.area.blocks t) s) fun _ s => (s, .ok ())

/-- Write the channels of a tensor target (R284). -/
def storeTensor (wr : Writer) (p : PassRun) (i t : Nat) (m : ScreenTile) (s : State) : State × Access Unit :=
  let f := (p.tensor i).format.toNat
  let es := (p.targetPixels i t).flatMap fun q => (p.channels i).map fun c => (q.1, q.2, c)
  thenA (eachA (fun e s =>
    let (a, n) := p.channelAt i e.1 e.2.1 e.2.2
    wr a (bytesOf n (convertOne f none (fp32Val (comp (m.at_ (sampleKey i e.1 e.2.1 0)) e.2.2))).bits) s) es s) fun _ s => (s, .ok ())

/-- Write out target i; a flush stores in full whatever STORE says. -/
def storeTarget (rd : Reader) (wr : Writer) (p : PassRun) (i t : Nat) (m : ScreenTile) (s : State) : State × Access Unit :=
  let e := p.target i
  match tgKind e with
  | 0 => (s, .ok ())
  | 1 =>
    if p.flushing || tgStore e == 0 then storeImage rd wr p i t m s
    else if tgStore e = 2 then storeResolved rd wr p i t m s
    else (s, .ok ())
  | _ => if p.flushing || tgStore e == 0 then storeTensor wr p i t m s else (s, .ok ())

/-- The targets of a pass, ascending. -/
def PassRun.targetsUsed (p : PassRun) : List Nat := (upFrom 0 9).filter fun i => tgKind (p.target i) != 0

/-- The write-out of a screen tile goes on: the next target is stored; behind the last one the tile is free. -/
def writeNext (n screenTile : Nat) (m : ScreenTile) (s : State) : State :=
  let p := s.pass n
  let rd : Reader := fun va len s => passRead n m.tile va len s
  let wr : Writer := fun va d s => contextWrite (s.passActor n m.tile) va d s
  let k := m.out.getD 0
  match p.targetsUsed[k]? with
  | some i => passAccess n (storeTarget rd wr p i screenTile m s) fun _ s => putTile n screenTile { m with out := some (k + 1) } s
  | none => settlePass n (s.modPass n fun p =>
      { p with bound := tabPut none p.bound screenTile none, written := tabPut false p.written screenTile true })

/-- WRITE_OUT: a drawn screen tile goes to its targets, one target in a step (R263, R278). Not bound or not drawn: no effect; a
sleeping tile starts to wake. -/
def execWriteOut (ctx : BitVec 9) (turn : DrawnTurn) (s : State) : Host.Outcome State Fault Refusal :=
  let n := ctx.toNat
  let p := s.pass n
  match tabGet none p.bound turn.screenTile with
  | none => .next s
  | some m =>
    match s.dyn.cfg.physOf m.tile with
    | none => .next s
    | some q =>
      if !m.drawn (tabGet [] p.lists turn.screenTile) then .next s
      else if !s.tileAwake q then .next (startWake q s)
      else .next (unlessHeld (sliceSram n m.tile q turn.sram (writeNext n turn.screenTile m)) s)

/-- The end of a render pass signals on the tiles that it used (R141, R285): a counter of a context of its berth that holds a block
there. The manual names no counter, no value and no context: the end of the pass brings the first two, and the context is free. -/
def passSignal (n : Nat) (g : PassSignal) (s : State) : State :=
  let b := s.ctxBerth n
  ((s.pass n).tilesHeld.filterMap s.dyn.cfg.physOf).foldl (fun s p =>
    let owners := tabKeys (fun _ o => o != 0 && ((s.job (o - 1)).any fun j => j.berth == b)) (s.tileWork p).counterOwner
    match pickFrom (Config.pick s.free 0) owners with
    | none => s
    | some k => { s.modTileWork p fun w => { w with counters := tabMod 0 w.counters (k * 16 + g.counter.toNat) (· + g.value) }
        with free := s.free + 1 }) s

/-- PASS_COMPLETE: the pass ends when its last screen tile has been written out and its requests have completed (R264). Not yet: no
effect. -/
def execPassComplete (ctx : BitVec 9) (signal : Option PassSignal) (s : State) : Host.Outcome State Fault Refusal :=
  let n := ctx.toNat
  let p := s.pass n
  if p.phase == .rendering && !p.flushing && p.rendered && !s.jobWaits p.jobNo then
    .next (endPass n 0 0 (match signal with
      | some g => passSignal n g s
      | none => s))
  else .next s

/-! Image commands (R272) -/

/-- Checks of IMAGE_CLEAR and IMAGE_RESOLVE: the image, or the status. -/
def imageCommand (t : Ticket) (s : State) : State × Except Nat Image :=
  let va := fldN t.cmd.params 0 40
  if va % 64 ≠ 0 || !s.readable t.cmd.berth va 64 then (s, .error 0x00B4)
  else
    match readVirt t.src t.cmd.berth va 64 s with
    | (s, .ok d) =>
      let h : BitVec 512 := BitVec.ofNat 512 (ofBytes d)
      let i := pictureOf h
      if !pictureValid h || i.tag = 0 then (s, .error 0x00BC)
      else if !s.spansOk t.cmd.berth i.spans true || !s.spansOk t.cmd.berth i.spans false then (s, .error 0x00B4)
      else (s, .ok i)
    | r => (r.1, .error r.2.checkStatus)

/-- Set every tag of an image. -/
def setTags (rd : Reader) (wr : Writer) (i : Image) (v : Nat) (s : State) : State × Access Unit :=
  let n := i.tagGrid.1 * i.tagGrid.2
  thenA (wr i.tag (List.replicate (n / 4) (BitVec.ofNat 8 (85 * v))) s) fun _ s =>
    if n % 4 = 0 then (s, .ok ())
    else thenA (rd (i.tag + n / 4) 1 s) fun d s =>
      wr (i.tag + n / 4) (bytesOf 1 (mergeBits (ofBytes d) 0 (2 * (n % 4)) (85 * v))) s

/-- Write the decoded data of every block that is not raw. -/
def resolveBlocks (rd : Reader) (wr : Writer) (i : Image) (s : State) : State × Access Unit :=
  let blocks := (upFrom 0 i.tagGrid.2).flatMap fun y => (upFrom 0 i.tagGrid.1).map fun x => (x, y)
  thenA (eachA (fun b s =>
    thenA (readTag rd i (8 * b.1) (8 * b.2) s) fun tag s =>
      if tag = 0 ∨ tag = 3 then (s, .ok ())
      else
        thenA (eachA (fun q s => thenA (readTexel rd i 0 0 q.1 q.2.1 q.2.2 s) fun v s => (s, .ok (q, v)))
          (i.blockSamples b.1 b.2) s) fun vs s =>
          thenA (eachA (fun v s => writeTexel wr i 0 0 v.1.1 v.1.2.1 v.1.2.2 v.2 s) vs s) fun _ s => (s, .ok ()))
    blocks s) fun _ s => (s, .ok ())

/-- An image command runs; none while an earlier command of its queue still writes what it reads (R116). -/
def actImage (resolve : Bool) (t : Ticket) (s0 : State) : Option State :=
  match imageCommand t s0 with
  | (s, .error st) => some (writeRecord t st noResult s)
  | (s, .ok i) =>
    let ins := (fldN t.cmd.params 0 40, 64) :: if resolve then i.spans else []
    let waits := match pathQueue? t.cmd.path with
      | some q => s.mustWait q ins s.dyn.work.nextJob
      | none => false
    if waits then none
    else
      let rd := berthReader t.src t.cmd.berth
      let wr := berthWriter t.src t.cmd.berth
      let done := if resolve then thenA (resolveBlocks rd wr i s) fun _ s => setTags rd wr i 0 s else setTags rd wr i 1 s
      match done with
      | (s, .ok _) => some (writeRecord t 0 noResult s)
      | (s, a) => some (writeRecord t a.checkStatus noResult s)

/-- IMAGE_CLEAR. -/
def opImageClear : OpInfo := { opcode := 0x3020, needsBerth := true, wellFormed := onlyFields [(0, 40)] }
/-- IMAGE_RESOLVE. -/
def opImageResolve : OpInfo := { opcode := 0x3021, needsBerth := true, wellFormed := onlyFields [(0, 40)] }
/-- IMAGE_CLEAR sets every tag to cleared. -/
def execImageClear (c : Cmd) (s : State) : Host.Outcome State Fault Refusal := carryWait opImageClear c (actImage false) s
/-- IMAGE_RESOLVE writes decoded data and sets every tag to raw. -/
def execImageResolve (c : Cmd) (s : State) : Host.Outcome State Fault Refusal := carryWait opImageResolve c (actImage true) s

end Sys2Proof.Machine
end

