-- ==== Sys2Proof/Machine/Display.lean ====
section
/-! DEFINITION. The four display outputs (R291 to R296). -/

namespace Sys2Proof.Machine

/-- A display output. -/
def State.display (s : State) (o : Nat) : DisplayDyn := tabGet {} s.dyn.displays o
/-- Update a display output. -/
def State.modDisplay (o : Nat) (f : DisplayDyn → DisplayDyn) (s : State) : State := s.modDisplays fun t => tabMod {} t o f
/-- The configuration of an output. -/
def Shadow.output (c : Shadow) (o : Nat) : DisplayCfg := tabGet {} c.displays o

/-- The caller's berth is granted the output; the supervisor path reaches every one. -/
def Ticket.holdsOutput (t : Ticket) (c : Shadow) (o : Nat) : Bool :=
  t.fromSupervisor || bitAt (c.berth t.cmd.berth).outputGrant o

/-! DISPLAY_CONFIGURE (R292) -/

/-- The configuration that the parameters carry. -/
def outputOfParams (p : Params) (made : Nat) : DisplayCfg :=
  { enable := bitAt p 2, rgb101010 := bitAt p 3, cphy := bitAt p 4, lanes := fld p 5 3, hActive := fld p 32 16,
    hTotal := fld p 48 16, vActive := fld p 64 16, vTotal := fld p 80 16, hSync := fld p 96 16, vSync := fld p 112 16,
    frameNs := fld p 128 32, phaseNs := fld p 160 32, laneRate := fld p 192 16, made := made }

/-- The timing is within the limits of R291 and the lanes carry it. -/
def DisplayCfg.timingOk (d : DisplayCfg) : Bool :=
  let px := d.hTotal.toNat * d.vTotal.toNat
  let bpp := if d.rgb101010 then 30 else 24
  d.hActive.toNat ≤ 3840 && d.vActive.toNat ≤ 2160 && px * 10 ≤ 6 * d.frameNs.toNat
  && px * 1000 * bpp * 100 ≤ d.lanes.toNat * d.laneRate.toNat * (if d.cphy then 228 else 100) * d.frameNs.toNat
  && d.phaseNs.toNat < d.frameNs.toNat && d.laneRate.toNat ≤ (if d.cphy then 6000 else 4500)

/-- DISPLAY_CONFIGURE. -/
def ruleDisplayConfigure : ConfigRule := fun s t c =>
  let o := fldN t.cmd.params 0 2
  let d := outputOfParams t.cmd.params (s.lock.number.toNat + 1)
  if !t.holdsOutput c o then .refuse 0x00BD noResult
  else if !d.timingOk then .refuse 0x00BE noResult
  else .pass { c with displays := tabPut {} c.displays o d } noResult

/-- DISPLAY_CONFIGURE: LANES is 1 to 4, or 1 to 3 trios. -/
def opDisplayConfigure : OpInfo :=
  { opcode := 0x3030,
    wellFormed := fun p =>
      onlyFields [(0, 2), (2, 1), (3, 1), (4, 1), (5, 3), (32, 16), (48, 16), (64, 16), (80, 16), (96, 16), (112, 16),
        (128, 32), (160, 32), (192, 16)] p
      && 1 ≤ fldN p 5 3 && fldN p 5 3 ≤ (if bitAt p 4 then 3 else 4) }

/-- DISPLAY_CONFIGURE takes effect at the next lock cycle. -/
def execDisplayConfigure (c : Cmd) (s : State) : Host.Outcome State Fault Refusal :=
  carry opDisplayConfigure c (acceptConfig ruleDisplayConfigure) s

/-! DISPLAY_PRESENT and GET_DISPLAY (R294, R296) -/

/-- The image fits scan-out on an output. -/
def DisplayCfg.fits (d : DisplayCfg) (h : BitVec 512) : Bool :=
  let i := pictureOf h
  pictureValid h && i.fmt.scan && !i.four && i.width == d.hActive.toNat && i.height == d.vActive.toNat

/-- The present waits for its latch point; one that it overtakes completes with PRESENT_REPLACED. -/
def startPresent (t : Ticket) (o : Nat) (s : State) : State :=
  let old := (s.display o).pending
  let s := s.modDisplay o fun d => { d with pending := some (t, s.now16) }
  match old with
  | some (u, _) => writeRecord u 0x00BF noResult s
  | none => s

/-- DISPLAY_PRESENT is checked and starts; none while an earlier command of its queue still writes the image. -/
def actPresent (t : Ticket) (s0 : State) : Option State :=
  let o := fldN t.cmd.params 0 2
  let va := fldN t.cmd.params 64 40
  let d := s0.dyn.cfg.output o
  if !t.holdsOutput s0.dyn.cfg o || !d.enable then some (writeRecord t 0x00BD noResult s0)
  else if va % 64 ≠ 0 || !s0.readable t.cmd.berth va 64 then some (writeRecord t 0x00B4 noResult s0)
  else
    match readVirt t.src t.cmd.berth va 64 s0 with
    | (s, .ok b) =>
      let h : BitVec 512 := BitVec.ofNat 512 (ofBytes b)
      if !d.fits h then some (writeRecord t 0x00BC noResult s)
      else
        match pathQueue? t.cmd.path with
        | some q =>
          if s.mustWait q ((va, 64) :: (pictureOf h).spans) s.dyn.work.nextJob then none else some (startPresent t o s)
        | none => some (startPresent t o s)
    | r => some (writeRecord t r.2.checkStatus noResult r.1)

/-- DISPLAY_PRESENT. -/
def opDisplayPresent : OpInfo := { opcode := 0x3031, needsBerth := true, wellFormed := onlyFields [(0, 2), (64, 40)] }
/-- DISPLAY_PRESENT queues an image for the next latch point. -/
def execDisplayPresent (c : Cmd) (s : State) : Host.Outcome State Fault Refusal := carryWait opDisplayPresent c actPresent s

/-- GET_DISPLAY returns the snapshot. -/
def actGetDisplay (t : Ticket) (s : State) : State :=
  let o := fldN t.cmd.params 0 2
  let d := tabGet {} s.snap.displays o
  if !t.holdsOutput s.snap.cfg o then writeRecord t 0x00BD noResult s
  else
    writeRecord t 0 (shortResult [(0, 1, b2n (s.snap.cfg.output o).enable), (32, 32, d.frame.toNat),
      (64, 32, d.repeats.toNat), (96, 32, d.underruns.toNat)]) s

/-- GET_DISPLAY. -/
def opGetDisplay : OpInfo := { opcode := 0x3032, wellFormed := onlyFields [(0, 2)] }
/-- GET_DISPLAY. -/
def execGetDisplay (c : Cmd) (s : State) : Host.Outcome State Fault Refusal := carry opGetDisplay c actGetDisplay s

/-! Scan-out (R293, R295) -/

/-- The start of frame n, 2^-16 ns. -/
def DisplayCfg.frameStart (d : DisplayCfg) (n : Nat) : Nat := (d.phaseNs.toNat + n * d.frameNs.toNat) * 2 ^ 16

/-- The first frame that starts behind a time. -/
def DisplayCfg.frameAfter (d : DisplayCfg) (time : Nat) : Nat :=
  let ns := time / 2 ^ 16
  if ns < d.phaseNs.toNat then 0 else (ns - d.phaseNs.toNat) / d.frameNs.toNat + 1

/-- The number of the frame that is latched next. -/
def DisplayCfg.nextFrame (d : DisplayCfg) (y : DisplayDyn) : Nat := max y.latched (d.frameAfter y.since)

/-- The latch point of frame n. -/
def DisplayCfg.latchPoint (d : DisplayCfg) (n : Nat) : Nat := d.frameStart n - 100 * us16

/-- The present that frame n takes: one that started by its latch point. -/
def DisplayCfg.taken (d : DisplayCfg) (y : DisplayDyn) (n : Nat) : Option Ticket :=
  match y.pending with
  | some (t, at_) => if at_ ≤ d.latchPoint n then some t else none
  | none => none

/-- A texel as the output sends it (R291): R, G and B from bit 0 up, 8 or 10 bits each. The manual does not say how a component of the other
width is converted: a free value. -/
def scanPixel (wide : Bool) (f v : Nat) : Nat :=
  let n := if wide then 10 else 8
  let conv := fun (m x : Nat) => if m = n then x else (Config.scanComponent m n x) % 2 ^ n
  let (r, g, b) := if f = 0x07 then (conv 10 (v % 1024), conv 10 (v / 2 ^ 10 % 1024), conv 10 (v / 2 ^ 20 % 1024))
    else
      let c := fun i => conv 8 (v / 2 ^ (8 * i) % 256)
      if f = 0x05 ∨ f = 0x06 then (c 2, c 1, c 0) else (c 0, c 1, c 2)
  r + g * 2 ^ n + b * 2 ^ (2 * n)

/-- The pixels of a line of an image, tags decoded; none where a page or line cannot be read. -/
def scanLine (wide : Bool) (b : BitVec 6) (desc line : Nat) (s : State) : State × Option (List Nat) :=
  let src : Src := { source := 3, berth := b, gen := (s.dyn.cfg.berth b).gen }
  let rd := berthReader src b
  match rd desc 64 s with
  | (s, .ok d) =>
    let i := pictureOf (BitVec.ofNat 512 (ofBytes d))
    match eachA (fun x s => readTexel rd i 0 0 x line 0 s) (upFrom 0 i.width) s with
    | (s, .ok vs) => (s, some (vs.map (scanPixel wide i.format)))
    | (s, _) => (s, none)
  | (s, _) => (s, none)

/-- The output reads on ahead while its buffer has room (R293): the lines of the frame at hand, then those of the frame latched.
`fuel` bounds the lines. DESIGN CHOICE: it reads a line as soon as there is room. -/
def readAhead (o : Nat) : Nat → State → State
  | 0, s => s
  | fuel + 1, s =>
    let d := s.dyn.cfg.output o
    let y := s.display o
    if 8 ≤ y.buffer.length then s
    else
      match y.readImage with
      | some (b, desc) =>
        if y.readLine < d.vActive.toNat then
          let (s, l) := scanLine d.rgb101010 b desc.toNat y.readLine s
          readAhead o fuel (s.modDisplay o fun y =>
            { y with buffer := y.buffer ++ [(y.readFrame, y.readLine, l)], readLine := y.readLine + 1 })
        else if y.readFrame < y.latched then
          readAhead o fuel (s.modDisplay o fun y => { y with readFrame := y.latched, readImage := y.image, readLine := 0 })
        else s
      | none =>
        if y.readFrame < y.latched && y.image.isSome then
          readAhead o fuel (s.modDisplay o fun y => { y with readFrame := y.latched, readImage := y.image, readLine := 0 })
        else s

/-- Read ahead as far as the columns take the reads now. -/
def fillBuffer (o : Nat) (s : State) : State := unlessHeld (readAhead o 9) s

/-- DISPLAY_LATCH_POINT: 100 us before its start a frame takes the pending image, or repeats the last one, and its lines are read
ahead from now on. The output off, or the point not reached: no effect. -/
def execDisplayLatchPoint (o : Fin 4) (s : State) : Host.Outcome State Fault Refusal :=
  let d := s.dyn.cfg.output o.val
  let y := s.display o.val
  let n := d.nextFrame y
  if !d.enable || s.now16 < d.latchPoint n then .next s
  else
    match d.taken y n with
    | some t =>
      let s := s.modDisplay o.val fun y => { y with latched := n + 1, pending := none, image := some (t.cmd.berth, fld t.cmd.params 64 40) }
      .next (fillBuffer o.val (writeRecord t 0 (shortResult [(0, 32, (satInc y.frame).toNat)]) s))
    | none =>
      .next (fillBuffer o.val
        (s.modDisplay o.val fun y => { y with latched := n + 1, repeats := if y.image.isSome then satInc y.repeats else y.repeats }))

/-- DISPLAY_FRAME_START: the latched frame starts at its time; what is left of the one before is dropped. Not due: no effect. -/
def execDisplayFrameStart (o : Fin 4) (s : State) : Host.Outcome State Fault Refusal :=
  let d := s.dyn.cfg.output o.val
  let y := s.display o.val
  if !d.enable || y.latched ≤ y.started || s.now16 < d.frameStart (y.latched - 1) then .next s
  else .next (fillBuffer o.val (s.modDisplay o.val fun y =>
    { y with started := y.latched, frame := satInc y.frame, active := true, lines := 0, sent := []
             buffer := y.buffer.filter fun l => l.1 == y.latched
             readImage := if y.readFrame = y.latched then y.readImage else none }))

/-- A line leaves the output: pixels that are not in the buffer are zero, and the line counts in UNDERRUNS once; the line behind it is
read afresh. -/
def sendLine (o line arrived width : Nat) (s : State) : State :=
  let y := s.display o
  let px := match y.buffer.find? fun l => l.1 == y.started && l.2.1 == line with
    | some (_, _, some px) => px.take arrived
    | _ => []
  s.modDisplay o fun y =>
    { y with lines := y.lines + 1, sent := (px.take width ++ List.replicate (width - px.length) 0) :: y.sent
             underruns := if px.length < width then satInc y.underruns else y.underruns
             buffer := y.buffer.filter fun l => !(l.1 == y.started && l.2.1 == line)
             readLine := if y.readFrame = y.started then max y.readLine (line + 1) else y.readLine }

/-- SCAN_OUT_LINE: the next line of the frame is sent; `arrived`: so many of its pixels are in the buffer when due. No such line
due: no effect. -/
def execScanOutLine (o : Fin 4) (line : Nat) (arrived : Nat) (s : State) : Host.Outcome State Fault Refusal :=
  let d := s.dyn.cfg.output o.val
  let y := s.display o.val
  if !d.enable || !y.active || line ≠ y.lines || d.vActive.toNat ≤ line then .next s
  else .next (fillBuffer o.val (sendLine o.val line arrived d.hActive.toNat s))

end Sys2Proof.Machine
end

