-- ==== Sys2Proof/Machine/Ingest.lean ====
section
/-! DEFINITION. Sensor ingest, triggers, CSI-2 transmit ports and I3C controller buses (R322 to R346, R559). -/

namespace Sys2Proof.Machine

/-! Configuration -/

/-- The configuration of a stream. -/
def Shadow.stream (c : Shadow) (n : Nat) : StreamCfg := tabGet {} c.streams n
/-- The configuration of a trigger output. -/
def Shadow.trigger (c : Shadow) (n : Nat) : TriggerCfg := tabGet {} c.triggers n
/-- The configuration of a receive port. -/
def Shadow.rxPort (c : Shadow) (n : Nat) : CsiRxCfg := tabGet {} c.csiRx n
/-- The configuration of a transmit port. -/
def Shadow.txPort (c : Shadow) (n : Nat) : CsiTxCfg := tabGet {} c.csiTx n
/-- The configuration of an I3C bus. -/
def Shadow.bus (c : Shadow) (n : Nat) : I3cCfg := tabGet {} c.i3c n
/-- A stream. -/
def State.stream (s : State) (n : Nat) : StreamDyn := tabGet {} s.dyn.ingest.streams n
/-- Update a stream. -/
def State.modStream (n : Nat) (f : StreamDyn → StreamDyn) (s : State) : State :=
  s.modIngest fun g => { g with streams := tabMod {} g.streams n f }

/-- The caller's berth holds a grant bit; the supervisor path passes. -/
def Ticket.granted {w : Nat} (t : Ticket) (c : Shadow) (grant : BerthDesc → BitVec w) (n : Nat) : Bool :=
  t.fromSupervisor || bitAt (grant (c.berth t.cmd.berth)) n

/-- The data types of R323. -/
def dataTypeOk (d : Nat) : Bool :=
  d == 0x12 || d == 0x1E || d == 0x24 || (0x2A ≤ d && d ≤ 0x2E) || (0x30 ≤ d && d ≤ 0x37)

/-- The data types of R323 that an image line may have: 0x12 marks an embedded line (R330). -/
def imageTypeOk (d : Nat) : Bool := dataTypeOk d && d != 0x12

/-- The berth that a stream is granted to (R402, R403). -/
def Shadow.streamBerth (c : Shadow) (n : Nat) : Option Nat :=
  (tabKeys (fun _ (d : BerthDesc) => d.state == .live && bitAt d.streamGrant n) c.berths).head?

/-- The stream that the parameters of STREAM_CONFIG carry. -/
def streamOfParams (p : Params) : StreamCfg :=
  { enable := bitAt p 5, lidar := bitAt p 6, port := fld p 8 4, vc := fld p 12 5, dt := fld p 18 6, trigger := fld p 24 5,
    fnWrap := fld p 32 16, fnOffset := fld p 48 10, fnBe := bitAt p 58, expect := fld p 64 32, captureOffset := fld p 96 32,
    bufAddr := fld p 128 40, bufCount := fld p 176 8, bufSize := fld p 192 16, linePitch := fld p 208 16,
    sofOffset := fld p 224 10, sofMask := fld p 234 8, sofValue := fld p 242 8, udpPort := fld p 256 16,
    segPackets := fld p 272 10, embLines := fld p 288 8 }

/-- The fields of a stream are in range (R323, R329). -/
def StreamCfg.fieldsOk (d : StreamCfg) (c : Shadow) : Bool :=
  2 ≤ d.fnWrap.toNat && 2 * d.expect.toNat < (c.trigger d.trigger.toNat).period.toNat * 1000 && d.bufAddr.toNat % 0x10000 == 0
  && 2 ≤ d.bufCount.toNat && 1 ≤ d.bufSize.toNat && d.bufSize.toNat ≤ 4096 && d.linePitch.toNat % 64 == 0
  && (if d.lidar then d.port.toNat ≤ 7 && d.fnOffset.toNat ≤ 1022 && d.linePitch == 0 && 1 ≤ d.segPackets.toNat
      else d.port.toNat ≤ 11 && (d.vc.toNat ≤ 15 || (c.rxPort d.port.toNat).cphy) && imageTypeOk d.dt.toNat)

/-- Two enabled streams take the same packets (R322). -/
def StreamCfg.clashes (a b : StreamCfg) : Bool :=
  a.lidar == b.lidar && a.port == b.port && (if a.lidar then a.udpPort == b.udpPort else a.vc == b.vc)

/-- R322 holds in a shadow. -/
def Shadow.streamsOk (c : Shadow) : Bool :=
  let on := c.streams.filter fun k => k.2.enable
  (on.filter fun k => !k.2.lidar).length ≤ 24 && (on.filter fun k => k.2.lidar).length ≤ 8
  && on.all fun a => on.all fun b => a.1 == b.1 || !a.2.clashes b.2

/-- Bytes of one buffer. -/
def StreamCfg.bufBytes (d : StreamCfg) : Nat := d.bufSize.toNat * 0x10000
/-- The address of a buffer (R330). -/
def StreamCfg.bufferAt (d : StreamCfg) (i : Nat) : Nat := d.bufAddr.toNat + i * d.bufBytes

/-- A range of pages is writable normal memory of a berth in a shadow. -/
def Shadow.pagesOk (c : Shadow) (b : BitVec 6) (va bytes : Nat) (write : Bool) : Bool :=
  va + bytes ≤ 2 ^ 40 && (pagesOf va bytes).all fun p =>
    match c.entryNo b p with
    | none => false
    | some n =>
      let e := tabGet {} c.xlat n
      e.valid && e.owner == b && !e.device1 && (if write then e.write else e.read)

/-- The buffers of an enabled stream lie on writable normal pages of the berth that the stream is granted to (R345). -/
def Shadow.buffersOk (c : Shadow) (n : Nat) (d : StreamCfg) : Bool :=
  match c.streamBerth n with
  | none => false
  | some b => c.pagesOk (BitVec.ofNat 6 b) d.bufAddr.toNat (d.bufCount.toNat * d.bufBytes) true

/-- STREAM_CONFIG (R345). -/
def ruleStreamConfig : ConfigRule := fun _ t c =>
  let n := fldN t.cmd.params 0 5
  let d := streamOfParams t.cmd.params
  let c' := { c with streams := tabPut {} c.streams n d }
  if !t.granted c (·.streamGrant) n then .refuse 0x00C1 noResult
  else if !d.fieldsOk c then .refuse 0x00C0 noResult
  else if !c'.streamsOk then .refuse 0x00C2 noResult
  else if d.enable && !c.buffersOk n d then .refuse 0x00C3 noResult
  else .pass c' noResult

/-- CSI_RX_CONFIG (R323, R345). -/
def ruleCsiRx : ConfigRule := fun _ t c =>
  let p := t.cmd.params
  let lanes := fldN p 5 3
  let rate := fldN p 8 16
  let ok := if bitAt p 4 then 1 ≤ lanes && lanes ≤ 3 && 80 ≤ rate && rate ≤ 6000
    else (lanes == 1 || lanes == 2 || lanes == 4) && 80 ≤ rate && rate ≤ 9000
  if !t.fromSupervisor then .refuse 0x00C1 noResult
  else if 11 < fldN p 0 4 || !ok then .refuse 0x00C0 noResult
  else .pass { c with csiRx := tabPut {} c.csiRx (fldN p 0 4) { cphy := bitAt p 4, lanes := fld p 5 3, rate := fld p 8 16 } } noResult

/-- TRIGGER_CONFIG (R326, R345). -/
def ruleTrigger : ConfigRule := fun s t c =>
  let p := t.cmd.params
  let d : TriggerCfg := { enable := bitAt p 5, polarity := bitAt p 6, period := fld p 32 32, phase := fld p 64 32, width := fld p 96 16,
                          made := s.lock.number.toNat + 1 }
  if !t.fromSupervisor then .refuse 0x00C1 noResult
  else if d.period.toNat < 1000 || 1000000 < d.period.toNat || d.period.toNat ≤ d.phase.toNat || d.width == 0
      || d.period.toNat ≤ d.width.toNat then .refuse 0x00C0 noResult
  else .pass { c with triggers := tabPut {} c.triggers (fldN p 0 5) d } noResult

/-- A mirror is slower than its source (R341). -/
def txTooSlow (d : CsiTxCfg) (r : CsiRxCfg) : Bool :=
  100 * d.lanes.toNat * d.rate.toNat < (if r.cphy then 228 else 100) * r.lanes.toNat * r.rate.toNat

/-- CSI_TX_CONFIG (R341, R345). -/
def ruleCsiTx : ConfigRule := fun _ t c =>
  let p := t.cmd.params
  let d : CsiTxCfg := { enable := bitAt p 2, memory := bitAt p 3, lanes := fld p 4 3, rate := fld p 16 16, srcPort := fld p 32 4 }
  if !t.fromSupervisor then .refuse 0x00C1 noResult
  else if !(d.lanes == 1 || d.lanes == 2 || d.lanes == 4) || d.rate.toNat < 80 || 9000 < d.rate.toNat || 11 < d.srcPort.toNat then
    .refuse 0x00C0 noResult
  else if !d.memory && txTooSlow d (c.rxPort d.srcPort.toNat) then .refuse 0x00C6 noResult
  else .pass { c with csiTx := tabPut {} c.csiTx (fldN p 0 2) d } noResult

/-- I3C_CONFIG (R559). -/
def ruleI3cConfig : ConfigRule := fun s t c =>
  let p := t.cmd.params
  let q := c.queueDesc (fldN p 64 18)
  let d : I3cCfg := { sdrKhz := fld p 16 16, i2cKhz := fld p 32 16, ibiQueue := fld p 64 18, owner := some t.cmd, gen := t.gen,
                      made := s.lock.number.toNat + 1 }
  if !t.granted c (·.i3cGrant) (fldN p 0 2) then .refuse 0x00C1 noResult
  else if 12500 < d.sdrKhz.toNat || 1000 < d.i2cKhz.toNat || !(q.valid && q.kind == 1 && t.owns q.berth) then .refuse 0x00C0 noResult
  else .pass { c with i3c := tabPut {} c.i3c (fldN p 0 2) d } noResult

/-- STREAM_CONFIG. -/
def opStreamConfig : OpInfo :=
  { opcode := 0x4010,
    wellFormed := onlyFields [(0, 5), (5, 1), (6, 1), (8, 4), (12, 5), (18, 6), (24, 5), (32, 16), (48, 10), (58, 1), (64, 32),
      (96, 32), (128, 40), (176, 8), (192, 16), (208, 16), (224, 10), (234, 8), (242, 8), (256, 16), (272, 10), (288, 8)] }
/-- CSI_RX_CONFIG. -/
def opCsiRx : OpInfo := { opcode := 0x4011, wellFormed := onlyFields [(0, 4), (4, 1), (5, 3), (8, 16)] }
/-- TRIGGER_CONFIG. -/
def opTrigger : OpInfo := { opcode := 0x4020, wellFormed := onlyFields [(0, 5), (5, 1), (6, 1), (32, 32), (64, 32), (96, 16)] }
/-- CSI_TX_CONFIG. -/
def opCsiTx : OpInfo := { opcode := 0x4030, wellFormed := onlyFields [(0, 2), (2, 1), (3, 1), (4, 3), (16, 16), (32, 4)] }
/-- I3C_CONFIG: its records repeat over 256 result blocks (R376). -/
def opI3cConfig : OpInfo :=
  { opcode := 0x4040, wellFormed := onlyFields [(0, 2), (16, 16), (32, 16), (64, 18)], area := 64 * 256 }

/-- STREAM_CONFIG configures a stream. -/
def execStreamConfig (c : Cmd) (s : State) : Host.Outcome State Fault Refusal := carry opStreamConfig c (acceptConfig ruleStreamConfig) s
/-- CSI_RX_CONFIG configures a receive port. -/
def execCsiRxConfig (c : Cmd) (s : State) : Host.Outcome State Fault Refusal := carry opCsiRx c (acceptConfig ruleCsiRx) s
/-- TRIGGER_CONFIG configures a trigger output. -/
def execTriggerConfig (c : Cmd) (s : State) : Host.Outcome State Fault Refusal := carry opTrigger c (acceptConfig ruleTrigger) s
/-- CSI_TX_CONFIG configures a transmit port. -/
def execCsiTxConfig (c : Cmd) (s : State) : Host.Outcome State Fault Refusal := carry opCsiTx c (acceptConfig ruleCsiTx) s
/-- I3C_CONFIG configures a controller bus. -/
def execI3cConfig (c : Cmd) (s : State) : Host.Outcome State Fault Refusal := carry opI3cConfig c (acceptConfig ruleI3cConfig) s

/-! Status (R345) -/

/-- GET_STREAM_STATUS result. -/
def streamRecord (y : StreamDyn) : Result :=
  let st := match y.state with
    | .off => 0
    | .seeking => 1
    | .locked => 2
  longResult 32 [(0, 2, st), (2, 4, y.run), (32, 32, y.lastSeq.toNat), (64, 32, y.frames.toNat), (96, 16, y.slips.toNat),
    (112, 16, y.missing.toNat), (128, 16, y.duplicate.toNat), (144, 16, y.noRoute.toNat), (160, 16, y.queueFull.toNat),
    (176, 16, y.bufBusy.toNat), (192, 16, y.fifo.toNat), (208, 16, y.error.toNat), (224, 16, y.oversize.toNat)]

/-- GET_STREAM_STATUS returns the snapshot of a stream granted to the caller. -/
def actGetStream (t : Ticket) (s : State) : State :=
  let n := fldN t.cmd.params 0 5
  if t.granted s.snap.cfg (·.streamGrant) n then writeRecord t 0 (streamRecord (tabGet {} s.snap.ingest.streams n)) s
  else writeRecord t 0x00C1 noResult s

/-- GET_STREAM_STATUS. -/
def opGetStream : OpInfo := { opcode := 0x4050, runTime := true, wellFormed := onlyFields [(0, 5)] }
/-- GET_STREAM_STATUS. -/
def execGetStreamStatus (c : Cmd) (s : State) : Host.Outcome State Fault Refusal := carry opGetStream c actGetStream s

/-! Triggers (R326) -/

/-- T(s) of a trigger output, 2^-16 ns. -/
def TriggerCfg.time (d : TriggerCfg) (n : Nat) : Nat := (d.phase.toNat + n * d.period.toNat) * us16

/-- The first pulse behind a time. -/
def TriggerCfg.after (d : TriggerCfg) (time : Nat) : Nat :=
  let p := d.phase.toNat * us16
  if time < p then 0 else (time - p) / (d.period.toNat * us16) + 1

/-- TRIGGER_PULSE: the next pulse of an output is driven at its time. Not due: no effect. -/
def execTriggerPulse (o : Fin 32) (s : State) : Host.Outcome State Fault Refusal :=
  let d := s.dyn.cfg.trigger o.val
  let y := tabGet {} s.dyn.ingest.triggers o.val
  let n := max y.seq (d.after y.since)
  if !d.enable || s.now16 < d.time n then .next s
  else .next (s.modIngest fun g =>
    { g with triggers := tabMod {} g.triggers o.val fun y =>
        { y with seq := n + 1, time := d.time n, count := y.count + 1, ends := d.time n + d.width.toNat * us16 } })

/-- The level of a trigger output's pin at a time: active from a pulse's time until its end, under POLARITY (R326, R327). -/
def TriggerCfg.level (d : TriggerCfg) (y : TriggerDyn) (now : Nat) : Bool :=
  (decide (y.time ≤ now) && decide (now < y.ends)) != d.polarity

/-! Matching (R332, R333) -/

/-- EXPECT in units of 2^-16 ns. -/
def StreamCfg.expect16 (d : StreamCfg) : Int := d.expect.toNat * 2 ^ 16

/-- T(s) for any integer, and the period, in units of 2^-16 ns. -/
def TriggerCfg.timeInt (d : TriggerCfg) (n : Int) : Int := ((d.phase.toNat : Int) + n * d.period.toNat) * us16
/-- The period, 2^-16 ns. -/
def TriggerCfg.period16 (d : TriggerCfg) : Int := (d.period.toNat : Int) * us16

/-- Of base + k × step, the trigger nearest to a time, the lower on a tie. -/
def nearestTrigger (d : TriggerCfg) (x base step : Int) : Int :=
  let k := (x - d.timeInt base) / (step * d.period16)
  let a := base + k * step
  let b := a + step
  if (x - d.timeInt b).natAbs < (x - d.timeInt a).natAbs then b else a

/-- Triggers whose time has passed without a frame are missing (R333): in LOCKED each counts, in SEEKING the run ends. -/
def StreamDyn.passMissing (c : StreamCfg) (d : TriggerCfg) (now : Nat) (y : StreamDyn) : StreamDyn :=
  match y.watch with
  | none => y
  | some w =>
    let deadline := 2 * (d.timeInt w + c.expect16) + d.period16
    if (2 * now : Int) ≤ deadline then y
    else
      let k := ((2 * now - deadline - 1) / (2 * d.period16)).toNat + 1
      let y := { y with watch := some (w + k) }
      if y.state = .locked then { y with missing := satAdd y.missing k } else { y with run := 0 }

/-- What tracking finds for a frame. -/
structure Match where
  seq : Nat := 0
  lock : Bool := false
  dev : Int := 0
  duplicate : Bool := false
  deriving DecidableEq, Repr

/-- The SEEKING part of R332. -/
def StreamDyn.seek (c : StreamCfg) (d : TriggerCfg) (x : Int) (fn : BitVec 16) (y : StreamDyn) : StreamDyn × Match :=
  let n := (max 0 (nearestTrigger d x 0 1)).toNat
  let dev := x - d.timeInt n
  let run := if d.period16 < 4 * dev.natAbs then 0
    else if 0 < y.run ∧ n = y.ps + 1 ∧ fn.toNat = y.pfn % c.fnWrap.toNat + 1 then y.run + 1 else 1
  let y := { y with run := run, ps := n, pfn := fn.toNat, watch := some (n + 1), lastSeq := BitVec.ofNat 32 n }
  if run = 8 then ({ y with state := .locked, fb := fn.toNat, sb := n, last := n }, { seq := n, lock := true, dev := dev })
  else (y, { seq := n, dev := dev })

/-- Matching of a frame that arrived at time a (R332). -/
def StreamDyn.track (c : StreamCfg) (d : TriggerCfg) (a : Nat) (fn : BitVec 16) (y : StreamDyn) : StreamDyn × Match :=
  let y := y.passMissing c d a
  let x : Int := a - c.expect16
  if y.state = .locked then
    let n := nearestTrigger d x (y.sb + ((fn.toNat : Int) - y.fb) % c.fnWrap.toNat) c.fnWrap.toNat
    let dev := x - d.timeInt n
    if d.period16 < 2 * dev.natAbs then StreamDyn.seek c d x fn { y with slips := satInc y.slips, state := .seeking, run := 0 }
    else if n ≤ y.last then (y, { seq := n.toNat, lock := true, dev := dev, duplicate := true })
    else
      let k := n.toNat
      ({ y with fb := fn.toNat, sb := k, last := k, watch := some (k + 1), lastSeq := BitVec.ofNat 32 k },
       { seq := k, lock := true, dev := dev })
  else y.seek c d x fn

/-- MISSING of a stream: triggers that no frame has matched in time. None: no effect. -/
def execMissing (stream : BitVec 5) (s : State) : Host.Outcome State Fault Refusal :=
  let n := stream.toNat
  let c := s.dyn.cfg.stream n
  let d := s.dyn.cfg.trigger c.trigger.toNat
  if !c.enable || !d.enable then .next s else .next (s.modStream n (StreamDyn.passMissing c d s.now16))

/-! Samples (R330, R331, R336, R337) -/

/-- Why a sample is dropped. -/
inductive DropCause where
  | noRoute | duplicate | queueFull | bufBusy | fifo | error | oversize
  deriving DecidableEq, Repr

/-- Count a dropped sample. -/
def StreamDyn.countDrop (x : DropCause) (y : StreamDyn) : StreamDyn :=
  let y := { y with drops := satInc y.drops }
  match x with
  | .noRoute => { y with noRoute := satInc y.noRoute }
  | .duplicate => { y with duplicate := satInc y.duplicate }
  | .queueFull => { y with queueFull := satInc y.queueFull }
  | .bufBusy => { y with bufBusy := satInc y.bufBusy }
  | .fifo => { y with fifo := satInc y.fifo }
  | .error => { y with error := satInc y.error }
  | .oversize => { y with oversize := satInc y.oversize }

/-- Every contribution that Confluence holds. -/
def Fusion.contributions (f : Fusion) : List Contribution :=
  f.arriving ++ (f.groups.flatMap fun g => g.2.instants.flatMap fun i => i.contribs) ++ f.runs.flatMap fun r => r.contribs

/-- A sample waits in an elastic buffer. -/
def State.anyElastic (s : State) (f : ElasticItem → Bool) : Bool := tabAny (fun _ xs => xs.any f) s.dyn.ingest.elastic

/-- A buffer of a stream is free (R331, R354). -/
def State.bufferFree (s : State) (n buffer : Nat) : Bool :=
  !(s.dyn.ingest.held.any fun h => !h.block && h.unit == n && h.buffer == buffer)
  && !s.anyElastic (fun x => x.stream == n && x.sample.buffer == buffer)
  && !(s.dyn.fusion.contributions.any fun c => c.stream == n && c.buffer == buffer)

/-- Intake slots of a fusion group in use (R354). -/
def State.intakeUsed (s : State) (g : Nat) : Nat :=
  (s.dyn.fusion.contributions.filter fun c => c.group == some g).length
  + (s.dyn.ingest.streams.filter fun k => match k.2.sample with
      | some x => x.group == some g
      | none => false).length
  + ((s.dyn.ingest.elastic.flatMap fun k => k.2).filter fun x => x.data.isNone && x.sample.group == some g).length

/-- The fusion group that a stream's samples go to. -/
def Shadow.groupOf (c : Shadow) (n : Nat) : Option Nat :=
  let f := tabGet {} c.fusionStreams n
  if f.join then some f.group.toNat else none

/-- Check 3 of R336: a slot of the destination queue, and for a STAGE 0x1 cut an intake slot. -/
def State.intakeRoom (s : State) (n : Nat) (e : CutEntry) : Bool :=
  s.slotFree e.destQueue.toNat && (e.stage == 0 || match s.dyn.cfg.groupOf n with
    | some g => s.intakeUsed g < (tabGet {} s.dyn.cfg.groups g).intake.toNat
    | none => true)

/-- Take items out of the elastic buffers. -/
def State.cutElastic (f : ElasticItem → Bool) (s : State) : State :=
  s.modIngest fun g => { g with elastic := tabMap [] (fun _ xs => xs.filter fun x => !f x) g.elastic }

/-- Drop the sample in progress: what waits of it is discarded. -/
def dropSample (n : Nat) (x : DropCause) (s : State) : State :=
  match (s.stream n).sample with
  | none => s
  | some p =>
    let s := s.cutElastic fun y => y.stream == n && y.sample.number == p.number
    releaseSlot p.queue.toNat (s.modStream n fun y => { (y.countDrop x) with sample := none })

/-- A sample whose bytes could not be written is dropped, be it in progress or wholly received. -/
def dropNumber (n : Nat) (p : Sample) (x : DropCause) (s : State) : State :=
  if (s.stream n).sample.any fun q => q.number == p.number then dropSample n x s
  else
    let s := s.cutElastic fun y => y.stream == n && y.sample.number == p.number
    releaseSlot p.queue.toNat (s.modStream n fun y =>
      { (y.countDrop x) with nextBuf := if y.sample.isNone then p.buffer else y.nextBuf })

/-- The checks at the start of a sample (R336): it starts, or is dropped. -/
def startSample (n : Nat) (p : Sample) (duplicate : Bool) (s : State) : State :=
  let c := s.dyn.cfg.stream n
  let y := s.stream n
  let drop := fun x => s.modStream n (StreamDyn.countDrop x)
  match s.dyn.cfg.cutOf (if c.lidar then 1 else 0) n with
  | none => drop .noRoute
  | some e =>
    if duplicate then drop .duplicate
    else if !s.intakeRoom n e then drop .queueFull
    else if !s.bufferFree n y.nextBuf then drop .bufBusy
    else
      let x := { p with number := y.samples, buffer := y.nextBuf, queue := e.destQueue, berth := e.berth, gen := e.gen, stage1 := e.stage == 1,
                        group := if e.stage = 1 then s.dyn.cfg.groupOf n else none }
      reserveSlot e.destQueue.toNat (s.modStream n fun y => { y with sample := some x, samples := y.samples + 1 })

/-- The sample record (R339). -/
def sampleRecord (n : Nat) (c : StreamCfg) (p : Sample) (drops : BitVec 16) : List Byte :=
  bytesOf 64 (packFields [(0, 5, n), (5, 1, b2n c.lidar), (6, 1, b2n p.lock), (7, 1, b2n p.last), (8, 16, p.fn.toNat),
    (24, 8, min 255 p.seg), (32, 32, p.seq), (64, 80, layout80 p.time.toNat), (144, 80, layout80 p.arrive), (224, 8, p.buffer),
    (240, 16, p.lines), (256, 32, p.bytes), (288, 16, drops.toNat),
    (312, 32, ((max (-(2 ^ 31)) (min (2 ^ 31 - 1) (p.dev / 2 ^ 16)) : Int) % 2 ^ 32).toNat)])

/-- Write a record that names a buffer or block: it is held until the consumer passes the record. -/
def writeHeld (q : Nat) (bytes : List Byte) (holds : BitVec 21 → List Held) (s : State) : State × Bool :=
  let i := (s.queue q).prod
  match ringWrite (s.dyn.cfg.safetyQueue q) q bytes s with
  | (s, true) => (s.modIngest fun g => { g with held := g.held ++ holds i }, true)
  | (s, false) => (s, false)

/-- A sample's bytes are committed: its record goes to the queue, or the sample goes to Confluence (R339). -/
def deliverRecord (n : Nat) (p : Sample) (s : State) : State :=
  let c := s.dyn.cfg.stream n
  let record := sampleRecord n c p (s.stream n).drops
  let s := s.modStream n fun y => { y with drops := 0, frames := satInc y.frames }
  if p.stage1 then
    s.modFusion fun f => { f with arriving := f.arriving ++
      [{ stream := n, kind := c.lidar, lock := p.lock, time := p.time, record := record, buffer := p.buffer,
         addr := c.bufferAt p.buffer, berth := p.berth, packets := p.lines, queue := p.queue, group := p.group }] }
  else
    (writeHeld p.queue.toNat record (fun i => [{ queue := p.queue.toNat, index := i, block := false, unit := n, buffer := p.buffer }]) s).1

/-! Elastic buffers (R338) -/

/-- The elastic buffer that a stream's packets go through. -/
def StreamCfg.elasticKey (c : StreamCfg) : Nat := if c.lidar then 16 + c.port.toNat else c.port.toNat

/-- Bytes that an elastic buffer holds, of 512 KB, or 256 KB of a lidar MAC. -/
def elasticBytes (xs : List ElasticItem) : Nat := (xs.map fun x => match x.data with
  | some (_, d) => d.length
  | none => 0).foldl (· + ·) 0

/-- The column of a page home that cannot take a write now. -/
def State.heldColumn (s : State) (b : BitVec 6) (va len : Nat) : Option Nat :=
  (lineParts (len / 64 + 2) va len).findSome? fun x =>
    match s.lookup b x.1 with
    | some e => if e.target = 0 ∧ s.columnHolds (columnOf (e.addr x.1)) .posted then some (columnOf (e.addr x.1)) else none
    | none => none

/-- The writes of a sample go out under its berth (R411), on the safety channel where its queue is an endpoint in the safety basin. -/
def sampleSrc (s : State) (p : Sample) : Src :=
  { source := 3, berth := p.berth, gen := p.gen, safety := s.dyn.cfg.safetyQueue p.queue.toNat }

/-- The oldest item of an elastic buffer leaves it, if its home takes it: a sleeping home starts to wake. The flag: it
has left. -/
def drainItem (x : ElasticItem) (s : State) : State × Bool :=
  match x.data with
  | none => (deliverRecord x.stream x.sample s, true)
  | some (va, d) =>
    match s.heldColumn x.sample.berth va d.length with
    | some c => (startWake c s, false)
    | none =>
      match writeVirt (sampleSrc s x.sample) x.sample.berth va d s with
      | (s, .ok _) => (s, true)
      | (s, _) => (dropNumber x.stream x.sample .error s, true)

/-- An elastic buffer drains as far as the homes take its writes; `fuel` bounds the items. -/
def drainElastic (key : Nat) : Nat → State → State
  | 0, s => s
  | fuel + 1, s =>
    match tabGet [] s.dyn.ingest.elastic key with
    | [] => s
    | x :: _ =>
      match drainItem x s with
      | (_, false) => (drainItem x s).1
      | (_, true) =>
        drainElastic key fuel (drainItem x (s.modIngest fun g => { g with elastic := tabMod [] g.elastic key List.tail })).1

/-- Something enters the elastic buffer of a stream's port. -/
def pushElastic (n : Nat) (x : ElasticItem) (s : State) : State :=
  let key := (s.dyn.cfg.stream n).elasticKey
  let s := s.modIngest fun g => { g with elastic := tabMod [] g.elastic key (· ++ [x]) }
  drainElastic key (tabGet [] s.dyn.ingest.elastic key).length s

/-- Every elastic buffer drains: what the ports do between commands. -/
def drainPorts (s : State) : State :=
  (tabKeys (fun _ xs => !xs.isEmpty) s.dyn.ingest.elastic).foldl (fun s k =>
    drainElastic k (tabGet [] s.dyn.ingest.elastic k).length s) s

/-- The sample is received whole: it is delivered once its bytes are committed (R335, R339). -/
def deliverSample (n : Nat) (s : State) : State :=
  let c := s.dyn.cfg.stream n
  match (s.stream n).sample with
  | none => s
  | some p =>
    let s := s.modStream n fun y => { y with sample := none, nextBuf := (p.buffer + 1) % c.bufCount.toNat }
    pushElastic n { stream := n, sample := p } s

/-- Bytes of the sample in progress enter the elastic buffer of its port; one that overflows drops the sample (R337). -/
def storeSample (n off : Nat) (bytes : List Byte) (f : Sample → Sample) (s : State) : State :=
  let c := s.dyn.cfg.stream n
  match (s.stream n).sample with
  | none => s
  | some p =>
    if (if c.lidar then 0x40000 else 0x80000) < elasticBytes (tabGet [] s.dyn.ingest.elastic c.elasticKey) + bytes.length then
      dropSample n .fifo s
    else
      pushElastic n { stream := n, sample := p, data := some (c.bufferAt p.buffer + off, bytes) }
        (s.modStream n fun y => { y with sample := some (f p) })

/-! Cameras (R324, R330, R332) -/

/-- The enabled camera stream of a port and virtual channel. -/
def Shadow.cameraOf (c : Shadow) (port : Nat) (vc : BitVec 5) : Option Nat :=
  (tabKeys (fun _ d => d.enable && !d.lidar && d.port.toNat == port && d.vc == vc) c.streams).head?

/-- Mirroring transmit ports send a packet of their source port (R341). -/
def mirror (port : Nat) (x : TxPacket) (s : State) : State :=
  (upFrom 0 4).foldl (fun s o =>
    let d := s.dyn.cfg.txPort o
    if d.enable && !d.memory && d.srcPort.toNat == port then
      s.modIngest fun g => { g with txSent := tabMod [] g.txSent o (x :: ·) }
    else s) s

/-- A camera frame that passed R324 starts: it is tracked and its sample starts. -/
def startFrame (n : Nat) (fn : BitVec 16) (s : State) : State :=
  let c := s.dyn.cfg.stream n
  let d := s.dyn.cfg.trigger c.trigger.toNat
  let (y, m) := (s.stream n).track c d s.now16 fn
  let s := s.modStream n fun _ => { y with inFrame := true }
  startSample n { seq := m.seq, fn := fn, lock := m.lock, dev := m.dev, arrive := s.now16,
                  time := d.timeInt m.seq + c.captureOffset.toInt * 2 ^ 16 } m.duplicate s

/-- FRAME_START: mirrored, and for a stream of the virtual channel checked (R324), tracked and started. -/
def execFrameStart (port : Fin 12) (vc : BitVec 5) (fn : BitVec 16) (s : State) : Host.Outcome State Fault Refusal :=
  let s := mirror port.val { kind := 0, vc := vc, fn := fn } s
  match s.dyn.cfg.cameraOf port.val vc with
  | none => .next s
  | some n =>
    if fn = 0 || (s.stream n).inFrame then .next (s.modStream n (StreamDyn.countDrop .error)) else .next (startFrame n fn s)

/-- A line goes to its place in the buffer. -/
def storeLine (n : Nat) (c : StreamCfg) (p : Sample) (embedded : Bool) (payload : List Byte) (s : State) : State :=
  let row := if embedded then p.embedded else c.embLines.toNat + p.lines
  let off := row * c.linePitch.toNat
  if embedded && c.embLines.toNat ≤ p.embedded then s
  else if c.linePitch.toNat < payload.length || c.bufBytes < off + payload.length then dropSample n .oversize s
  else
    storeSample n off payload (fun p =>
      { p with lines := if embedded then p.lines else p.lines + 1, embedded := if embedded then p.embedded + 1 else p.embedded
               bytes := p.bytes + payload.length }) s

/-- LONG_PACKET: mirrored; a line of the frame in progress is stored, or an error drops the frame (R324, R337). -/
def execLongPacket (port : Fin 12) (vc : BitVec 5) (dt : BitVec 6) (payload : List Byte) (err : LineError) (s : State) :
    Host.Outcome State Fault Refusal :=
  let s := mirror port.val { kind := 1, vc := vc, dt := dt, payload := payload } s
  match s.dyn.cfg.cameraOf port.val vc with
  | none => .next s
  | some n =>
    let c := s.dyn.cfg.stream n
    match (s.stream n).sample with
    | none => .next s
    | some p =>
      match err with
      | .headerUncorrectable => .next (dropSample n .error s)
      | .payloadCrc => .next (dropSample n .error s)
      | .none =>
        if dt = 0x12 then .next (storeLine n c p true payload s)
        else if dt = c.dt then .next (storeLine n c p false payload s)
        else .next s

/-- FRAME_END of a camera stream: mirrored; a frame in progress is delivered. -/
def execFrameEnd (stream : BitVec 5) (s : State) : Host.Outcome State Fault Refusal :=
  let n := stream.toNat
  let c := s.dyn.cfg.stream n
  if !c.enable || c.lidar then .next s
  else
    let s := mirror c.port.toNat { kind := 2, vc := c.vc } s
    if (s.stream n).inFrame then .next (deliverSample n (s.modStream n fun y => { y with inFrame := false })) else .next s

/-! Lidars (R325, R330, R334, R335) -/

/-- The enabled lidar stream of a MAC and UDP port. -/
def Shadow.lidarOf (c : Shadow) (mac : Nat) (udpPort : BitVec 16) : Option Nat :=
  (tabKeys (fun _ d => d.enable && d.lidar && d.port.toNat == mac && d.udpPort == udpPort) c.streams).head?

/-- The payload is a start packet. -/
def StreamCfg.isStart (c : StreamCfg) (payload : List Byte) : Bool :=
  match payload[c.sofOffset.toNat]? with
  | some b => b &&& c.sofMask == c.sofValue
  | none => false

/-- The frame number of a start packet. -/
def StreamCfg.scanNumber (c : StreamCfg) (payload : List Byte) : BitVec 16 :=
  let b := takeBytes 2 (payload.drop c.fnOffset.toNat)
  let v := ofBytes (if c.fnBe then b.reverse else b)
  BitVec.ofNat 16 (v % c.fnWrap.toNat + 1)

/-- The corrected ingress stamp of a packet on a stream's MAC, on the working clock (R305, R325). -/
def State.lidarStamp (s : State) (c : StreamCfg) : Nat := (s.ingressStamp c.port.toNat 0).wc.toNat

/-- A packet joins the segment in progress; the segment ends with its last packet. -/
def storePacket (n : Nat) (payload : List Byte) (s : State) : State :=
  let c := s.dyn.cfg.stream n
  let header := bytesOf 16 (packFields [(0, 16, payload.length), (48, 80, layout80 (s.lidarStamp c))])
  let len := 16 + payload.length
  let s := match (s.stream n).sample with
    | none => s
    | some p =>
      if c.bufBytes < p.used + len then dropSample n .oversize s
      else storeSample n p.used (header ++ payload) (fun p =>
        { p with lines := p.lines + 1, bytes := p.bytes + len, used := (p.used + len + 63) / 64 * 64 }) s
  match (s.stream n).scan with
  | none => s
  | some x =>
    if x.packets + 1 < c.segPackets.toNat then s.modStream n fun y => { y with scan := some { x with packets := x.packets + 1 } }
    else deliverSample n (s.modStream n fun y => { y with scan := some { x with packets := 0, segs := x.segs + 1 } })

/-- The first packet of a segment starts its sample. -/
def startSegment (n : Nat) (x : Scan) (s : State) : State :=
  let c := s.dyn.cfg.stream n
  startSample n { seq := x.seq, fn := x.fn, lock := x.lock, dev := x.dev, arrive := s.lidarStamp c, seg := x.segs, last := false,
                  time := (s.lidarStamp c : Int) + c.captureOffset.toInt * 2 ^ 16 } x.duplicate s

/-- A scan begins: the segment before it is its scan's last. -/
def startScan (n : Nat) (payload : List Byte) (s : State) : State :=
  let c := s.dyn.cfg.stream n
  let s := deliverSample n (s.modStream n fun y => { y with sample := y.sample.map fun p => { p with last := true } })
  let fn := c.scanNumber payload
  let (y, m) := (s.stream n).track c (s.dyn.cfg.trigger c.trigger.toNat) (s.lidarStamp c) fn
  let x : Scan := { seq := m.seq, fn := fn, lock := m.lock, dev := m.dev, duplicate := m.duplicate }
  storePacket n payload (startSegment n x (s.modStream n fun _ => { y with scan := some x }))

/-- START_PACKET: a lidar datagram with the start marker begins a scan. A fragment counts as ERROR; for no stream, or
without the marker: no effect. -/
def execStartPacket (mac : Fin 8) (udpPort : BitVec 16) (payload : List Byte) (fragmented : Bool) (s : State) :
    Host.Outcome State Fault Refusal :=
  match s.dyn.cfg.lidarOf mac.val udpPort with
  | none => .next s
  | some n =>
    if fragmented then .next (s.modStream n fun y => { y with error := satInc y.error })
    else if !(s.dyn.cfg.stream n).isStart payload then .next s
    else .next (startScan n payload s)

/-- LIDAR_PACKET: a later datagram of a scan. Before the first start packet, or for no stream: no effect. -/
def execLidarPacket (mac : Fin 8) (udpPort : BitVec 16) (payload : List Byte) (fragmented : Bool) (s : State) :
    Host.Outcome State Fault Refusal :=
  match s.dyn.cfg.lidarOf mac.val udpPort with
  | none => .next s
  | some n =>
    if fragmented then .next (s.modStream n fun y => { y with error := satInc y.error })
    else
      match (s.stream n).scan with
      | none => .next s
      | some x => .next (storePacket n payload (if x.packets = 0 then startSegment n x s else s))

/-! Transmit ports (R342) -/

/-- Checks of CSI_TX_SEND. -/
def sendChecks (t : Ticket) (s : State) : Option Nat :=
  let p := t.cmd.params
  let d := s.dyn.cfg.txPort (fldN p 0 2)
  let lines := (upFrom 0 (fldN p 128 16)).map fun i => (fldN p 64 40 + i * fldN p 160 16, fldN p 144 16)
  firstOf [(!t.granted s.dyn.cfg (·.txGrant) (fldN p 0 2), 0x00C1),
    (!d.enable || !d.memory || !dataTypeOk (fldN p 7 6) || fldN p 64 40 % 64 != 0 || fldN p 160 16 % 64 != 0, 0x00C0),
    (!s.spansOk t.cmd.berth lines false, 0x00C3)]

/-- CSI_TX_SEND starts: its lines are read; none while the port sends another frame, or an earlier command of its queue
still writes the lines. -/
def actSend (t : Ticket) (s : State) : Option State :=
  let p := t.cmd.params
  let o := fldN p 0 2
  let lines := (upFrom 0 (fldN p 128 16)).map fun i => (fldN p 64 40 + i * fldN p 160 16, fldN p 144 16)
  let waits := match pathQueue? t.cmd.path with
    | some q => s.mustWait q lines s.dyn.work.nextJob
    | none => false
  match sendChecks t s with
  | some st => some (writeRecord t st noResult s)
  | none =>
    if waits || (tabGet none s.dyn.ingest.tx o).isSome then none
    else
      match eachA (fun x s => readVirt { source := 3, berth := t.cmd.berth, gen := t.gen } t.cmd.berth x.1 x.2 s) lines s with
      | (s, .ok d) => some (s.modIngest fun g => { g with tx := tabPut none g.tx o (some (t, d)) })
      | (s, .uncorrectable) => some (writeRecord t 0x000B noResult s)
      | (s, .addressFault) => some (writeRecord t 0x00C3 noResult s)

/-- CSI_TX_SEND. -/
def opSend : OpInfo :=
  { opcode := 0x4031, needsBerth := true, wellFormed := onlyFields [(0, 2), (2, 5), (7, 6), (16, 16), (64, 40), (128, 16), (144, 16), (160, 16)] }
/-- CSI_TX_SEND sends one frame from memory. -/
def execCsiTxSend (c : Cmd) (s : State) : Host.Outcome State Fault Refusal := carryWait opSend c actSend s

/-- CSI_TX_FRAME_END: the frame being sent has left the port. None: no effect. -/
def execCsiTxFrameEnd (port : Fin 4) (s : State) : Host.Outcome State Fault Refusal :=
  match tabGet none s.dyn.ingest.tx port.val with
  | none => .next s
  | some (t, lines) =>
    let p := t.cmd.params
    let vc := fld p 2 5
    let packets := [{ kind := 0, vc := vc, fn := fld p 16 16 : TxPacket }]
      ++ (lines.map fun d => { kind := 1, vc := vc, dt := fld p 7 6, payload := d })
      ++ [{ kind := 2, vc := vc, fn := fld p 16 16 }]
    .next (writeRecord t 0 noResult (s.modIngest fun g =>
      { g with tx := tabPut none g.tx port.val none, txSent := tabMod [] g.txSent port.val (packets.reverse ++ ·) }))

/-! I3C buses (R343, R344, R559) -/

/-- The data range of a transfer entry. -/
def xferSpan (e : BitVec 128) : Nat × Nat := (fldN e 32 40, fldN e 20 12)

/-- Checks of the entries read. -/
def xferChecks (t : Ticket) (s : State) (es : List (BitVec 128)) : Option Nat :=
  firstOf [(es.any fun e => fldN e 18 2 != 0 || fldN e 72 56 != 0, 0x00C0),
    (es.any fun e => !s.spansOk t.cmd.berth [xferSpan e] (bitAt e 7), 0x00C3)]

/-- I3C_XFER starts; none while the bus has another transfer, or an earlier command of its queue writes what it reads. -/
def actXfer (t : Ticket) (s : State) : Option State :=
  let p := t.cmd.params
  let o := fldN p 0 2
  let list := fldN p 64 40
  let n := fldN p 128 8
  if !t.granted s.dyn.cfg (·.i3cGrant) o then some (writeRecord t 0x00C1 noResult s)
  else if n = 0 || list % 16 ≠ 0 then some (writeRecord t 0x00C0 noResult s)
  else if !s.readable t.cmd.berth list (16 * n) then some (writeRecord t 0x00C3 noResult s)
  else
    match readVirt t.src t.cmd.berth list (16 * n) s with
    | (s, .uncorrectable) => some (writeRecord t 0x000B noResult s)
    | (s, .addressFault) => some (writeRecord t 0x00C3 noResult s)
    | (s, .ok d) =>
      let es := (upFrom 0 n).map fun i => BitVec.ofNat 128 (ofBytes ((d.drop (16 * i)).take 16))
      match xferChecks t s es with
      | some st => some (writeRecord t st noResult s)
      | none =>
        let ins := (list, 16 * n) :: (es.filter fun e => !bitAt e 7).map xferSpan
        let waits := match pathQueue? t.cmd.path with
          | some q => s.mustWait q ins s.dyn.work.nextJob
          | none => false
        if waits || (tabGet none s.dyn.ingest.xfer o).isSome then none
        else some (s.modIngest fun g =>
          { g with xfer := tabPut none g.xfer o (some { ticket := t, entries := es, sdrKhz := (s.dyn.cfg.bus o).sdrKhz,
                                                        i2cKhz := (s.dyn.cfg.bus o).i2cKhz }) })

/-- I3C_XFER. -/
def opXfer : OpInfo := { opcode := 0x4041, needsBerth := true, wellFormed := onlyFields [(0, 2), (64, 40), (128, 8)] }
/-- I3C_XFER performs a list of transfers. -/
def execI3cXfer (c : Cmd) (s : State) : Host.Outcome State Fault Refusal := carryWait opXfer c actXfer s

/-- I3C_TRANSFER_END: the transfer of a bus ends after `done` entries: all of them, or a NACK (`some false`) or a bus
error (`some true`) on the next. What was read goes to memory. An end that does not fit the transfer: no effect. -/
def execI3cTransferEnd (bus : Fin 4) (done : Nat) (result : Option Bool) (readBytes : List (List Byte)) (s : State) :
    Host.Outcome State Fault Refusal :=
  match tabGet none s.dyn.ingest.xfer bus.val with
  | none => .next s
  | some x =>
    let reads := (x.entries.take done).filter fun e => bitAt e 7
    let fits := (if result.isNone then done == x.entries.length else done < x.entries.length)
      && reads.length == readBytes.length && (reads.zip readBytes).all fun r => r.2.length ≤ (xferSpan r.1).2
    if !fits then .next s
    else
      let t := x.ticket
      let s := s.modIngest fun g => { g with xfer := tabPut none g.xfer bus.val none }
      let w := eachA (fun (r : BitVec 128 × List Byte) s =>
        writeVirt { source := 3, berth := t.cmd.berth, gen := t.gen } t.cmd.berth (xferSpan r.1).1 r.2 s) (reads.zip readBytes) s
      let r := shortResult [(0, 8, done)]
      match w with
      | (s, .uncorrectable) => .next (writeRecord t 0x000B noResult s)
      | (s, .addressFault) => .next (writeRecord t 0x00C3 noResult s)
      | (s, .ok _) => match result with
        | none => .next (writeRecord t 0 noResult s)
        | some b => .next (writeRecord t (if b then 0x00C5 else 0x00C4) r s)

/-- I3C_IBI: an in-band interrupt becomes a record in IBI_QUEUE when a slot is free (R559, R376). No queue: no effect. -/
def execI3cIbi (bus : Fin 4) (addr : BitVec 7) (payload : BitVec 64) (s : State) : Host.Outcome State Fault Refusal :=
  let c := s.dyn.cfg.bus bus.val
  match c.owner with
  | none => .next s
  | some o =>
    let t : Ticket := { opcode := 0x4040, cmd := o, gen := c.gen }
    let q := c.ibiQueue.toNat
    if s.stale t || !s.slotFree q then .next s
    else
      let k := tabGet 0 s.dyn.ingest.ibiCount bus.val
      let r := longResult 32 [(0, 7, addr.toNat), (64, 64, payload.toNat), (128, 80, layout80 s.now16)]
      let s := s.modIngest fun g => { g with ibiCount := tabPut 0 g.ibiCount bus.val (k + 1) }
      .next (moreRecord q t 0x00C7 r (k % 256) (reserveSlot q s))

/-! What a commit edge does (R327 to R329, R331, R340) -/

/-- Fields whose change puts a stream in SEEKING. -/
def StreamCfg.reseeks (a b : StreamCfg) : Bool :=
  a.enable != b.enable || a.port != b.port || a.vc != b.vc || a.udpPort != b.udpPort || a.trigger != b.trigger
  || a.fnWrap != b.fnWrap || a.expect != b.expect

/-- The stream starts to seek afresh. -/
def StreamDyn.restart (y : StreamDyn) : StreamDyn := { y with state := .seeking, run := 0, watch := none }

/-- One stream at a commit edge; `moved`: its trigger's timing changed or the working clock stepped. -/
def streamAtEdge (old new : Shadow) (moved : Bool) (n : Nat) (s : State) : State :=
  let a := old.stream n
  let b := new.stream n
  let s := if { a with captureOffset := b.captureOffset } = b then s else dropSample n .noRoute s
  let s := if a.bufAddr = b.bufAddr ∧ a.bufCount = b.bufCount ∧ a.bufSize = b.bufSize then s
    else s.modStream n fun y => { y with nextBuf := 0 }
  if !b.enable then (if a.enable then s.modStream n fun y => { y with state := .off, inFrame := false, scan := none, watch := none } else s)
  else if !a.enable then s.modStream n fun y => { state := .seeking, nextBuf := y.nextBuf, samples := y.samples }
  else if a.reseeks b || moved then s.modStream n fun y => { y.restart with inFrame := y.inFrame && a.port == b.port && a.vc == b.vc, scan := if a = b then y.scan else none }
  else if { a with captureOffset := b.captureOffset } = b then s
  else s.modStream n fun y => { y with scan := none }

/-- A trigger's timing changed, or the working clock stepped. -/
def triggerMoved (old new : Shadow) (stepped : Bool) (o : Nat) : Bool :=
  let a := old.trigger o
  let b := new.trigger o
  stepped || a.enable != b.enable || a.period != b.period || a.phase != b.phase

/-- Ingest at a commit edge. -/
def ingestAtEdge (old : Shadow) (stepped : Bool) (s : State) : State :=
  let new := s.dyn.cfg
  let now := s.now16
  let s := s.modIngest fun g =>
    { g with triggers := (upFrom 0 32).foldl (fun t o =>
        if stepped || (old.trigger o).made != (new.trigger o).made then tabMod {} t o fun y => { y with since := now, seq := 0 } else t) g.triggers
             ibiCount := tabMap 0 (fun b v => if (old.bus b).made = (new.bus b).made then v else 0) g.ibiCount }
  (upFrom 0 32).foldl (fun s n =>
    streamAtEdge old new ((new.stream n).enable && triggerMoved old new stepped (new.stream n).trigger.toNat) n s) s

end Sys2Proof.Machine
end

