-- ==== Sys2Proof/Machine/Fusion.lean ====
section
/-! DEFINITION. Confluence: fusion groups, instants, Level 0 runs, publication and association tables (R347 to R368). -/

namespace Sys2Proof.Machine

/-! Configuration (R348, R350, R357, R367) -/

/-- The configuration of a fusion group. -/
def Shadow.group (c : Shadow) (g : Nat) : GroupCfg := tabGet {} c.groups g
/-- The fusion configuration of a stream. -/
def Shadow.fusionStream (c : Shadow) (n : Nat) : FusionStreamCfg := tabGet {} c.fusionStreams n
/-- A fusion group. -/
def State.group (s : State) (g : Nat) : GroupDyn := tabGet {} s.dyn.fusion.groups g
/-- Update a fusion group. -/
def State.modGroup (g : Nat) (f : GroupDyn → GroupDyn) (s : State) : State :=
  s.modFusion fun x => { x with groups := tabMod {} x.groups g f }

/-- The gating window of R350 fits a period. -/
def FusionStreamCfg.windowOk (d : FusionStreamCfg) (period : BitVec 32) : Bool :=
  -(2 * (period.toNat : Int)) ≤ d.winLo.toInt && d.winLo.toInt < d.winHi.toInt && d.winHi.toInt ≤ 2 * (period.toNat : Int)

/-- Bytes of one instant block. -/
def GroupCfg.blockBytes (d : GroupCfg) : Nat := d.blockSize.toNat * 0x10000

/-- The group that the parameters of FUSION_GROUP_CONFIG carry. -/
def groupOfParams (p : Params) : GroupCfg :=
  { enable := bitAt p 2, berth := fld p 8 6, intake := fld p 16 12, period := fld p 32 32, phase := fld p 64 32,
    close := fld p 96 32, blockAddr := fld p 128 40, blockCount := fld p 176 8, blockSize := fld p 192 16,
    confirm := fld p 208 8, drop := fld p 216 8, tableAddr := fld p 224 40 }

/-- The fields of a group are in range (R348). -/
def GroupCfg.fieldsOk (d : GroupCfg) : Bool :=
  16 ≤ d.intake.toNat && 10000 ≤ d.period.toNat && d.period.toNat ≤ 1000000 && d.phase.toNat < d.period.toNat
  && 1000 ≤ d.close.toNat && d.close.toNat ≤ 2 * d.period.toNat && d.blockAddr.toNat % 0x10000 == 0 && 2 ≤ d.blockCount.toNat
  && 1 ≤ d.blockSize.toNat && d.blockSize.toNat ≤ 4096 && 128 + 64 * d.intake.toNat ≤ d.blockBytes
  && 1 ≤ d.confirm.toNat && 1 ≤ d.drop.toNat && d.tableAddr.toNat % 0x10000 == 0

/-- FUSION_GROUP_CONFIG (R348, R367). -/
def ruleFusionGroup : ConfigRule := fun _ t c =>
  let g := fldN t.cmd.params 0 2
  let d := groupOfParams t.cmd.params
  let c' := { c with groups := tabPut {} c.groups g d }
  let intake := ((upFrom 0 4).map fun k => (c'.group k).intake.toNat).foldl (· + ·) 0
  if !t.fromSupervisor then .refuse 0x00D1 noResult
  else if !d.fieldsOk then .refuse 0x00D0 noResult
  else if 4096 < intake || tabAny (fun _ f => f.join && f.group.toNat == g && !f.windowOk d.period) c.fusionStreams then
    .refuse 0x00D2 noResult
  else if d.enable && !(c.pagesOk d.berth d.blockAddr.toNat (d.blockCount.toNat * d.blockBytes) true
      && c.pagesOk d.berth d.tableAddr.toNat 0x20000 true) then .refuse 0x00D6 noResult
  else .pass c' noResult

/-- The caller owns a fusion group (R367 check 1). -/
def Ticket.ownsGroup (t : Ticket) (c : Shadow) (g : Nat) : Bool := t.owns (c.group g).berth

/-- FUSION_STREAM_CONFIG (R350, R367). -/
def ruleFusionStream : ConfigRule := fun _ t c =>
  let p := t.cmd.params
  let n := fldN p 0 5
  let d : FusionStreamCfg :=
    { join := bitAt p 5, group := fld p 6 2, project := bitAt p 8, ptFmt := fld p 9 2, ptOffset := fld p 16 10,
      ptStride := fld p 32 8, winLo := fld p 64 32, winHi := fld p 96 32 }
  if !t.granted c (·.streamGrant) n || (d.join && !t.ownsGroup c d.group.toNat) then .refuse 0x00D1 noResult
  else if 1 < d.ptFmt.toNat || d.ptStride.toNat < 6 || !d.windowOk (c.group d.group.toNat).period then .refuse 0x00D0 noResult
  else .pass { c with fusionStreams := tabPut {} c.fusionStreams n d } noResult

/-- FUSION_PAIR_SET (R357, R367); the calibration block is the data read at the check. -/
def rulePair : ConfigRule := fun _ t c =>
  let p := t.cmd.params
  let k := fldN p 0 6
  let d : PairCfg := { valid := bitAt p 6, lidar := fld p 8 5, camera := fld p 16 5, w := fld p 32 16, h := fld p 48 16,
                       cal := (upFrom 0 16).map fun i => BitVec.ofNat 32 (ofBytes ((t.data.drop (4 * i)).take 4)) }
  let sizeOk := fun (x : BitVec 16) => 1 ≤ x.toNat && x.toNat ≤ 4096
  if !t.granted c (·.streamGrant) d.lidar.toNat || !t.granted c (·.streamGrant) d.camera.toNat then .refuse 0x00D1 noResult
  else if !sizeOk d.w || !sizeOk d.h || fldN p 64 40 % 64 != 0 || !(c.stream d.lidar.toNat).lidar
      || (c.stream d.camera.toNat).lidar then .refuse 0x00D0 noResult
  else if d.valid && tabAny (fun j x => j != k && x.valid && x.lidar == d.lidar && x.camera == d.camera) c.pairs then
    .refuse 0x00D2 noResult
  else .pass { c with pairs := tabPut {} c.pairs k d } noResult

/-- FUSION_PAIR_SET reads the calibration block once, at its check. -/
def actPair (t : Ticket) (s : State) : State :=
  let va := fldN t.cmd.params 64 40
  match rulePair s t s.lock.opn with
  | .refuse st r => writeRecord t st r s
  | _ =>
    if !s.readable t.cmd.berth va 64 then writeRecord t 0x00D6 noResult s
    else
      match readVirt t.src t.cmd.berth va 64 s with
      | (s, .uncorrectable) => writeRecord t 0x000B noResult s
      | (s, .addressFault) => writeRecord t 0x00D6 noResult s
      | (s, .ok d) => acceptConfig rulePair { t with data := d } s

/-- FUSION_GROUP_CONFIG. -/
def opFusionGroup : OpInfo :=
  { opcode := 0x5001, wellFormed := onlyFields [(0, 2), (2, 1), (8, 6), (16, 12), (32, 32), (64, 32), (96, 32), (128, 40), (176, 8),
      (192, 16), (208, 8), (216, 8), (224, 40)] }
/-- FUSION_STREAM_CONFIG; PT_FMT 2 and 3 are reserved. -/
def opFusionStream : OpInfo :=
  { opcode := 0x5002, wellFormed := fun p => onlyFields [(0, 5), (5, 1), (6, 2), (8, 1), (9, 2), (16, 10), (32, 8), (64, 32), (96, 32)] p
      && fldN p 9 2 < 2 }
/-- FUSION_PAIR_SET. -/
def opPair : OpInfo := { opcode := 0x5003, needsBerth := true, wellFormed := onlyFields [(0, 6), (6, 1), (8, 5), (16, 5), (32, 16), (48, 16), (64, 40)] }

/-- FUSION_GROUP_CONFIG configures a group. -/
def execFusionGroupConfig (c : Cmd) (s : State) : Host.Outcome State Fault Refusal :=
  carry opFusionGroup c (acceptConfig ruleFusionGroup) s
/-- FUSION_STREAM_CONFIG places a stream in a group. -/
def execFusionStreamConfig (c : Cmd) (s : State) : Host.Outcome State Fault Refusal :=
  carry opFusionStream c (acceptConfig ruleFusionStream) s
/-- FUSION_PAIR_SET sets a projection pair. -/
def execFusionPairSet (c : Cmd) (s : State) : Host.Outcome State Fault Refusal := carry opPair c actPair s

/-! Instants and assignment (R349 to R354) -/

/-- When an instant becomes pending: V(i) − 2 × PERIOD. -/
def GroupCfg.opens (d : GroupCfg) (i : Nat) : Int := (d.validity i : Int) - 2 * ((d.period.toNat : Int) * us16)
/-- When an instant closes: V(i) + CLOSE. -/
def GroupCfg.closes (d : GroupCfg) (i : Nat) : Nat := d.validity i + d.close.toNat * us16

/-- The lowest i with V(i) − 2 × PERIOD at or after a time. -/
def GroupCfg.firstFrom (d : GroupCfg) (time : Nat) : Nat :=
  let need := time + 2 * (d.period.toNat * us16)
  let p := d.phase.toNat * us16
  if need ≤ p then 0 else (need - p + d.period.toNat * us16 - 1) / (d.period.toNat * us16)

/-- The pending instants of a group at a time (R349). -/
def GroupDyn.pendingAt (y : GroupDyn) (d : GroupCfg) (now : Nat) : List Nat :=
  if !d.enable then [] else (upFrom y.next 8).filter fun i => d.opens i ≤ now && now < d.closes i

/-- The instants whose window holds a time (R351): the first, and how many. -/
def windowInstants (f : FusionStreamCfg) (d : GroupCfg) (time : Int) : List Nat :=
  let p : Int := (d.period.toNat : Int) * us16
  let x := time - (d.phase.toNat : Int) * us16
  let lo := max 0 ((x - f.winHi.toInt * us16) / p + 1)
  let hi := (x - f.winLo.toInt * us16) / p
  upFrom lo.toNat (hi + 1 - lo).toNat

/-- Why Confluence excludes a sample (R353). -/
inductive Exclusion where
  | unlocked | outside | early | late | superseded
  deriving DecidableEq, Repr

/-- Count an excluded sample. -/
def GroupDyn.countExclusion (x : Exclusion) (y : GroupDyn) : GroupDyn :=
  let y := { y with dropped := satInc y.dropped }
  match x with
  | .unlocked => { y with unlocked := satInc y.unlocked }
  | .outside => { y with outside := satInc y.outside }
  | .early => { y with early := satInc y.early }
  | .late => { y with late := satInc y.late }
  | .superseded => { y with superseded := satInc y.superseded }

/-- The record of an excluded sample goes unchanged to the cut's queue, in the reserved slot (R354). -/
def excludeSample (c : Contribution) (s : State) : State :=
  (writeHeld c.queue.toNat c.record
    (fun i => [{ queue := c.queue.toNat, index := i, block := false, unit := c.stream, buffer := c.buffer }]) s).1

/-- A sample is excluded and counted in a group. -/
def excludeFrom (g : Nat) (x : Exclusion) (c : Contribution) (s : State) : State :=
  excludeSample c (s.modGroup g (GroupDyn.countExclusion x))

/-- The samples that an instant holds. -/
def GroupDyn.holds (y : GroupDyn) (i : Nat) : List Contribution :=
  match y.instants.find? fun (r : InstantRun) => r.number == i with
  | some r => r.contribs
  | none => []

/-- Put the samples that an instant holds. -/
def GroupDyn.setHolds (y : GroupDyn) (i : Nat) (cs : List Contribution) : GroupDyn :=
  { y with instants := (y.instants.filter fun (r : InstantRun) => r.number != i) ++ [{ number := i, contribs := cs }] }

/-- Of two camera samples, the first is to be kept: nearer to V(i), the lower TIME on a tie, else the one held. -/
def keepsFirst (v : Nat) (held new : Contribution) : Bool :=
  let a := (held.time - v).natAbs
  let b := (new.time - v).natAbs
  a < b || (a == b && held.time ≤ new.time)

/-- An instant takes a sample (R352). -/
def assignSample (g i : Nat) (c : Contribution) (s : State) : State :=
  let y := s.group g
  let held := y.holds i
  let rival := if c.kind then none else held.find? fun (x : Contribution) => x.stream == c.stream
  match rival with
  | none => s.modGroup g fun y => y.setHolds i (held ++ [c])
  | some x =>
    if keepsFirst ((s.dyn.cfg.group g).validity i) x c then excludeFrom g .superseded c s
    else excludeFrom g .superseded x (s.modGroup g fun y => y.setHolds i ((held.filter (· != x)) ++ [c]))

/-- SAMPLE_ARRIVE: the oldest sample of a stream on its way reaches Confluence (R350 to R354). None: no effect. -/
def execSampleArrive (stream : BitVec 5) (s : State) : Host.Outcome State Fault Refusal :=
  match s.dyn.fusion.arriving.find? fun (x : Contribution) => x.stream == stream.toNat with
  | none => .next s
  | some c =>
    let s := s.modFusion fun f => { f with arriving := f.arriving.erase c }
    let f := s.dyn.cfg.fusionStream c.stream
    let g := f.group.toNat
    let d := s.dyn.cfg.group g
    let y := s.group g
    if !f.join || !d.enable then .next (excludeSample c s)
    else if !c.lock then .next (excludeFrom g .unlocked c s)
    else
      let js := windowInstants f d c.time
      let pending := y.pendingAt d s.now16
      let closed := fun (j : Nat) => j < y.next || d.closes j ≤ s.now16
      match js.find? fun (j : Nat) => pending.contains j with
      | some i => .next (assignSample g i { c with carried := js.any fun (j : Nat) => j < i && closed j } s)
      | none =>
        if js.isEmpty then .next (excludeFrom g .outside c s)
        else if js.any closed then .next (excludeFrom g .late c s)
        else .next (excludeFrom g .early c s)

/-! Closing (R355, R360, R361) -/

/-- The next instant block of a group is free (R360). -/
def State.blockFree (s : State) (g k : Nat) : Bool :=
  !(s.dyn.ingest.held.any fun (h : Held) => h.block && h.unit == g && h.buffer == k)
  && !(s.dyn.fusion.runs.any fun (r : ClosedRun) => r.group == g && r.block == some k)

/-- Closed instants wait in order of their closes, then of their groups (R355). -/
def enterRun (r : ClosedRun) : List ClosedRun → List ClosedRun
  | [] => [r]
  | x :: rest =>
    if r.closed < x.closed || (r.closed == x.closed && r.group < x.group) then r :: x :: rest else x :: enterRun r rest

/-- An instant closes: it waits for its Level 0 run, with a slot of the class's queue and, with it, a block reserved. -/
def closeInstant (g i : Nat) (d : GroupCfg) (cutShort : Bool) (s : State) : State :=
  let y := s.group g
  let queue := match s.dyn.cfg.cutOf 4 g with
    | some e => if s.slotFree e.destQueue.toNat then some e.destQueue else none
    | none => none
  let k := y.nextBlock % d.blockCount.toNat
  let busy := !s.blockFree g k
  let block := if queue.isSome && !busy then some k else none
  let run : ClosedRun := { group := g, number := i, validity := d.validity i, cfg := d, cutShort := cutShort,
                           contribs := y.holds i, block := block, busy := busy, queue := queue, closed := min (d.closes i) s.now16 }
  let s := s.modGroup g fun y =>
    { y with next := i + 1, instants := y.instants.filter fun (r : InstantRun) => r.number != i
             nextBlock := if block.isSome then (k + 1) % d.blockCount.toNat else y.nextBlock }
  let s := s.modFusion fun f => { f with runs := enterRun run f.runs }
  match queue with
  | some q => reserveSlot q.toNat s
  | none => s

/-- INSTANT_CLOSE: the lowest open instant of a group closes at V(i) + CLOSE. Not due, or the group is disabled: no effect. -/
def execInstantClose (g : Fin 4) (s : State) : Host.Outcome State Fault Refusal :=
  let d := s.dyn.cfg.group g.val
  let i := (s.group g.val).next
  if !d.enable || s.now16 < d.closes i then .next s else .next (closeInstant g.val i d false s)

/-! Projection (R357, R358) -/

/-- A point: x, y, z as FP32. -/
abbrev Point3 := BitVec 32 × BitVec 32 × BitVec 32

/-- 0.001 as FP32. -/
def fp32Milli : BitVec 32 := 0x3A83126F

/-- A point at an offset of a payload (R350); bytes behind the payload's end are free values. -/
def pointAt (f : FusionStreamCfg) (payload : List Byte) (k free : Nat) : Point3 :=
  let at' := fun (off n : Nat) => ofBytes ((upFrom (f.ptOffset.toNat + k * f.ptStride.toNat + off) n).map fun a =>
    payload.getD a (Config.remoteByte free a))
  if f.ptFmt = 0 then (BitVec.ofNat 32 (at' 0 4), BitVec.ofNat 32 (at' 4 4), BitVec.ofNat 32 (at' 8 4))
  else
    let metres := fun (off : Nat) => fp32Mul (fp32OfInt (BitVec.ofNat 16 (at' off 2)).toInt) fp32Milli
    (metres 0, metres 2, metres 4)

/-- The points of one packet's payload. -/
def payloadPoints (f : FusionStreamCfg) (payload : List Byte) (free : Nat) : List Point3 :=
  (upFrom 0 ((payload.length - f.ptOffset.toNat) / f.ptStride.toNat)).map fun k => pointAt f payload k free

/-- The points of the packets in a buffer, from an address on (R335). The points of a packet with an uncorrectable
line are skipped (R469); behind a header that cannot be read, or an address fault, nothing is found. -/
def bufferPoints (f : FusionStreamCfg) (a : Src) (b : BitVec 6) : Nat → Nat → State → State × List Point3
  | 0, _, s => (s, [])
  | n + 1, va, s =>
    match readVirt a b va 16 s with
    | (s, .ok h) =>
      let len := ofBytes (h.take 2)
      let next := va + (16 + len + 63) / 64 * 64
      match readVirt a b (va + 16) len s with
      | (s, .addressFault) => (s, [])
      | (s, .uncorrectable) => bufferPoints f a b n next s
      | (s, .ok p) =>
        let ps := payloadPoints f p s.free
        let (s, rest) := bufferPoints f a b n next s
        (s, ps ++ rest)
    | (s, _) => (s, [])

/-- What a pair makes of a point: u, v and zc, or no entry (R358). -/
def projectPoint (x : PairCfg) (p : Point3) : Option (BitVec 32 × BitVec 32 × BitVec 32) :=
  let m := fun (i : Nat) => x.cal.getD i 0
  let row := fun (i : Nat) => fp32Add (fp32Add (fp32Add (fp32Mul (m i) p.1) (fp32Mul (m (i + 1)) p.2.1)) (fp32Mul (m (i + 2)) p.2.2)) (m (i + 3))
  let zc := row 8
  let u := fp32Add (fp32Div (fp32Mul (m 12) (row 0)) zc) (m 14)
  let v := fp32Add (fp32Div (fp32Mul (m 13) (row 4)) zc) (m 15)
  if !fp32Lt 0 zc then none
  else if fp32Le 0 u && fp32Lt u (fp32OfInt x.w.toNat) && fp32Le 0 v && fp32Lt v (fp32OfInt x.h.toNat) then some (u, v, zc)
  else none

/-- round(16 × c) in 16 bits; a value that does not fit is free. -/
def fixed4 (c : BitVec 32) (free : Nat) : Nat :=
  let n := match fp32Rat c with
    | some q => (roundRat (16 * q)).toNat
    | none => 0x10000
  if n < 0x10000 then n else (Config.freeBits 16 free).toNat

/-- A projection entry (R359). -/
def projectionEntry (x : PairCfg) (point : Nat) (uvz : BitVec 32 × BitVec 32 × BitVec 32) (free : Nat) : List Byte :=
  bytesOf 16 (packFields [(0, 32, point), (32, 16, fixed4 uvz.1 free), (48, 16, fixed4 uvz.2.1 free), (64, 32, uvz.2.2.toNat),
    (96, 5, x.lidar.toNat), (104, 5, x.camera.toNat)])

/-- The entries of one pair over its lidar's points. -/
def pairEntries (x : PairCfg) (free : Nat) : Nat → List Point3 → List (List Byte)
  | _, [] => []
  | k, p :: t => match projectPoint x p with
    | some uvz => projectionEntry x k uvz free :: pairEntries x free (k + 1) t
    | none => pairEntries x free (k + 1) t

/-- The pairs that act in an instant, ascending (R357). -/
def Shadow.actingPairs (c : Shadow) (g : Nat) (mask : Nat → Bool) : List PairCfg :=
  let member := fun (n : Nat) => (c.fusionStream n).join && (c.fusionStream n).group.toNat == g && mask n
  ((upFrom 0 64).map fun k => (tabGet {} c.pairs k : PairCfg)).filter fun x =>
    x.valid && member x.lidar.toNat && member x.camera.toNat && (c.fusionStream x.lidar.toNat).project

/-- Samples in the order of R360: ascending stream, then ascending TIME. -/
def orderSamples (cs : List Contribution) : List Contribution :=
  (cs.mergeSort fun a b => decide (a.time ≤ b.time)).mergeSort fun a b => decide (a.stream ≤ b.stream)

/-- The points of a lidar stream's samples in order. -/
def streamPoints (f : FusionStreamCfg) : List Contribution → State → State × List Point3
  | [], s => (s, [])
  | c :: t, s =>
    let a : Src := { source := 3, berth := c.berth, gen := (s.dyn.cfg.berth c.berth).gen }
    let (s, ps) := bufferPoints f a c.berth c.packets c.addr s
    let (s, rest) := streamPoints f t s
    (s, ps ++ rest)

/-- The projection entries of an instant, in ascending pair and then POINT. -/
def projectInstant (g : Nat) (cs : List Contribution) (s : State) : State × List (List Byte) :=
  let pairs := s.dyn.cfg.actingPairs g fun n => cs.any fun (c : Contribution) => c.stream == n
  pairs.foldl (fun (x : State × List (List Byte)) p =>
    let (s, ps) := streamPoints (x.1.dyn.cfg.fusionStream p.lidar.toNat) (cs.filter fun (c : Contribution) => c.stream == p.lidar.toNat) x.1
    (s, x.2 ++ pairEntries p s.free 0 ps)) (s, [])

/-! Publication (R355, R360, R361) -/

/-- AGE at publication, from the oldest TIME of the streams that contribute (R355). -/
def ageOf (now : Nat) (times : List Int) : Nat :=
  match times with
  | [] => 0xFFFFFFFF
  | t :: ts => min 0xFFFFFFFE (max 0 (((now : Int) - ts.foldl min t) / 2 ^ 16)).toNat

/-- The least TIME per stream of an instant's samples. -/
def oldestTimes (cs : List Contribution) : List (Nat × Int) :=
  (upFrom 0 32).filterMap fun n =>
    match (cs.filter fun (c : Contribution) => c.stream == n).map fun (c : Contribution) => c.time with
    | [] => none
    | t :: ts => some (n, ts.foldl min t)

/-- The streams of the samples that pass a test, as a mask. -/
def maskOf (cs : List Contribution) : BitVec 32 := BitVec.ofNat 32 (packFields ((upFrom 0 32).map fun n =>
  (n, 1, b2n (cs.any fun (c : Contribution) => c.stream == n))))

/-- The fields of a fusion output record (R361). -/
structure FusionRecord where
  group : Nat
  level : Nat
  blockBusy : Bool := false
  trunc : Bool := false
  cutShort : Bool := false
  cls : Nat
  instant : Nat
  validity : Nat
  published : Nat
  age : Nat
  mask : BitVec 32
  carry : BitVec 32
  block : Nat := 0xFF
  samples : Nat := 0
  proj : Nat := 0
  data : Nat := 0
  dropped : Nat := 0

/-- The 128 bytes of a fusion output record (R361). -/
def FusionRecord.bytes (r : FusionRecord) : List Byte :=
  bytesOf 128 (packFields [(0, 2, r.group), (2, 2, r.level), (4, 1, b2n r.blockBusy), (5, 1, b2n r.trunc), (6, 1, b2n r.cutShort),
    (8, 6, r.cls), (32, 32, r.instant), (64, 80, layout80 r.validity), (144, 80, layout80 r.published), (224, 32, r.age),
    (256, 32, r.mask.toNat), (288, 32, r.carry.toNat), (320, 8, r.block), (336, 16, r.samples), (352, 32, r.proj),
    (384, 40, r.data), (432, 16, r.dropped)])

/-- What a Level 0 run puts in its block besides the record: the entries that fit, and whether some did not. -/
def runEntries (r : ClosedRun) (cs : List Contribution) (s : State) : State × List (List Byte) × Bool :=
  if r.block.isNone then (s, [], false)
  else
    let (s, es) := projectInstant r.group cs s
    let room := (r.cfg.blockBytes - 128 - 64 * cs.length) / 16
    (s, es.take room, room < es.length)

/-- The record of a Level 0 run goes to its queue; what it names is held until the consumer passes it (R354, R360). -/
def writeLevel0 (r : ClosedRun) (cs : List Contribution) (bytes : List Byte) (s : State) : State × Bool :=
  match r.queue with
  | none => (s, false)
  | some q => writeHeld q.toNat bytes (fun i => match r.block with
      | none => []
      | some k => { queue := q.toNat, index := i, block := true, unit := r.group, buffer := k } ::
          cs.map fun c => { queue := q.toNat, index := i, block := false, unit := c.stream, buffer := c.buffer }) s

/-- Publish a closed instant (R354, R355, R360, R361). -/
def publishRun (r : ClosedRun) (s : State) : State :=
  let d := r.cfg
  let cs := orderSamples r.contribs
  let (s, entries, trunc) := runEntries r cs s
  let named := r.block.isSome
  let mask := maskOf cs
  let carry := maskOf (cs.filter fun c => c.carried)
  let age := ageOf s.now16 (cs.map fun c => c.time)
  let record : FusionRecord :=
    { group := r.group, level := 0, blockBusy := r.busy, trunc := trunc, cutShort := r.cutShort, cls := r.group, instant := r.number,
      validity := r.validity, published := s.now16, age := age, mask := mask, carry := carry, block := r.block.getD 0xFF,
      samples := if named then cs.length else 0, proj := entries.length, dropped := (s.group r.group).dropped.toNat }
  let s := match r.block with
    | none => s
    | some k =>
      (writeVirt { source := 3, berth := d.berth, gen := (s.dyn.cfg.berth d.berth).gen } d.berth
        (d.blockAddr.toNat + k * d.blockBytes) (record.bytes ++ (cs.flatMap fun c => c.record) ++ entries.flatten) s).1
  let (s, written) := writeLevel0 r cs record.bytes s
  let s := s.modGroup r.group fun y =>
    { y with lastInstant := BitVec.ofNat 32 r.number, lastAge := BitVec.ofNat 32 age
             records := if written then satInc y.records else y.records
             outFull := if written then y.outFull else satInc y.outFull
             blockBusy := if r.busy then satInc y.blockBusy else y.blockBusy
             dropped := if written then 0 else y.dropped
             stamps := ({ number := r.number, validity := r.validity, mask := mask, carry := carry,
                          oldest := oldestTimes cs } :: y.stamps).take 16 }
  cs.foldl (fun s c => releaseSlot c.queue.toNat s) s

/-- LEVEL0_PUBLISH: the Level 0 run of the instant closed first ends (R356, R361). Of another group, or none: no effect. -/
def execLevel0Publish (g : Fin 4) (s : State) : Host.Outcome State Fault Refusal :=
  match s.dyn.fusion.runs with
  | [] => .next s
  | r :: t =>
    if r.group ≠ g.val then .next s
    else .next (publishRun r (s.modFusion fun f => { f with runs := t })).bump

/-! FUSION_PUBLISH and FUSION_ASSOC (R363 to R365) -/

/-- The stamps of an instant among the last 16 published. -/
def GroupDyn.stampOf (y : GroupDyn) (instant : BitVec 32) : Option Stamp :=
  y.stamps.find? fun (x : Stamp) => BitVec.ofNat 32 x.number == instant

/-- Write a Level 1 or Level 2 record to the cut of a class (R361, R363). -/
def publishLevel (p : Params) (x : Stamp) (s : State) : State :=
  let g := fldN p 6 2
  let cls := fldN p 0 6
  let keep : BitVec 32 := fld p 64 32
  let mask := x.mask &&& keep
  let record : FusionRecord :=
    { group := g, level := fldN p 8 2, cls := cls, instant := x.number, validity := x.validity, published := s.now16,
      age := ageOf s.now16 ((x.oldest.filter fun o => bitAt mask o.1).map fun o => o.2),
      mask := mask, carry := x.carry &&& keep, data := fldN p 128 40 }
  let full := s.modGroup g fun y => { y with outFull := satInc y.outFull }
  match s.dyn.cfg.cutOf 4 cls with
  | none => full
  | some e =>
    if !s.slotFree e.destQueue.toNat then full
    else
      match ringWrite (s.dyn.cfg.safetyQueue e.destQueue.toNat) e.destQueue.toNat record.bytes (reserveSlot e.destQueue.toNat s) with
      | (s, true) => s
      | (s, false) => s.modGroup g fun y => { y with outFull := satInc y.outFull }

/-- FUSION_PUBLISH starts; none while an earlier command of its queue writes the DATA range. -/
def actPublish (t : Ticket) (s : State) : Option State :=
  let p := t.cmd.params
  let g := fldN p 6 2
  let span := (fldN p 128 40, fldN p 168 32)
  let waits := match pathQueue? t.cmd.path with
    | some q => s.mustWait q [span] s.dyn.work.nextJob
    | none => false
  let refusal := firstOf [(!t.ownsGroup s.dyn.cfg g, 0x00D1),
    (fldN p 0 6 < 4 || !(fldN p 8 2 == 1 || fldN p 8 2 == 2) || fldN p 128 40 % 64 != 0, 0x00D0),
    (!s.spansOk t.cmd.berth [span] false, 0x00D6)]
  match refusal with
  | some st => some (writeRecord t st noResult s)
  | none =>
    if waits then none
    else
      match (s.group g).stampOf (fld p 32 32) with
      | none => some (writeRecord t 0x00D3 noResult s)
      | some x => some (writeRecord t 0 noResult (publishLevel p x s))

/-- FUSION_PUBLISH. -/
def opPublish : OpInfo := { opcode := 0x5020, needsBerth := true, wellFormed := onlyFields [(0, 6), (6, 2), (8, 2), (32, 32), (64, 32), (128, 40), (168, 32)] }
/-- FUSION_PUBLISH publishes a Level 1 or Level 2 record. -/
def execFusionPublish (c : Cmd) (s : State) : Host.Outcome State Fault Refusal := carryWait opPublish c actPublish s

/-- A track entry of the mirror (R364). -/
def Track.bytes (x : Track) : List Byte :=
  bytesOf 32 (packFields [(0, 2, x.state.toNat), (8, 8, x.hits.toNat), (16, 8, x.misses.toNat), (32, 32, x.id.toNat),
    (64, 32, x.lastInstant.toNat), (96, 80, x.lastValidity.toNat), (176, 32, x.tag.toNat)])

/-- A slot of a group's association table. -/
def GroupDyn.track (y : GroupDyn) (k : Nat) : Track := tabGet {} y.tracks k

/-- The next track ID: from a candidate on, the first that no live track holds; 0 is none. -/
def freshId (y : GroupDyn) : Nat → BitVec 32 → BitVec 32
  | 0, c => c
  | n + 1, c =>
    if c = 0 then freshId y n 1
    else if tabAny (fun _ x => x.state != 0 && x.id == c) y.tracks then freshId y n (c + 1) else c

/-- Where the last birth or update of a track was. -/
def Track.seen (x : Track) (i : Stamp) (tag : BitVec 32) : Track :=
  { x with lastInstant := BitVec.ofNat 32 i.number, lastValidity := BitVec.ofNat 80 (layout80 i.validity), tag := tag }

/-- Apply one operation to its slot (R365). -/
def applyAssoc (d : GroupCfg) (i : Stamp) (o : BitVec 128) (y : GroupDyn) : GroupDyn :=
  let k := fldN o 4 12
  let tag : BitVec 32 := fld o 32 32
  let x := y.track k
  let put := fun (x : Track) (y : GroupDyn) => { y with tracks := tabPut {} y.tracks k x }
  match fldN o 0 3 with
  | 1 =>
    let x' : Track := { x with hits := satInc x.hits, misses := 0 }
    let confirmed : Bool := (x.state == 1 && decide (d.confirm.toNat ≤ x'.hits.toNat)) || x.state == 3
    put { x'.seen i tag with state := if confirmed then 2 else x.state } y
  | 2 =>
    let id := freshId y 4098 y.nextId
    put ({ x with state := 1, hits := 1, misses := 0, id := id }.seen i tag) { y with nextId := id + 1 }
  | 3 =>
    let x' := { x with misses := satInc x.misses, hits := 0 }
    let state : BitVec 2 := if x.state = 2 then 3#2 else if x.state = 1 ∨ d.drop.toNat ≤ x'.misses.toNat then 0#2 else x.state
    put { x' with state := state } y
  | _ => put { x with state := 0 } y

/-- An operation's encoding is defined (R365). -/
def assocDefined (o : BitVec 128) : Bool :=
  1 ≤ fldN o 0 3 && fldN o 0 3 ≤ 4 && fldN o 3 1 == 0 && fldN o 16 16 == 0 && fldN o 64 64 == 0

/-- The list names no slot twice, and every slot is in a state that its operation takes. -/
def GroupDyn.assocOk (y : GroupDyn) (os : List (BitVec 128)) : Bool :=
  (os.map fun o => fldN o 4 12).Nodup
  && os.all fun o => ((y.track (fldN o 4 12)).state == 0) == (fldN o 0 3 == 2)

/-- Write the mirror entries of slots (R364). -/
def mirrorTracks (g : Nat) (ks : List Nat) (s : State) : State :=
  let d := s.dyn.cfg.group g
  ks.foldl (fun s k => (writeVirt { source := 3, berth := d.berth, gen := (s.dyn.cfg.berth d.berth).gen } d.berth
    (d.tableAddr.toNat + 32 * k) ((s.group g).track k).bytes s).1) s

/-- A checked list of operations is applied (R365). -/
def associate (t : Ticket) (g : Nat) (i : Stamp) (os : List (BitVec 128)) (s : State) : State :=
  let d := s.dyn.cfg.group g
  let s := s.modGroup g fun y =>
    let y := os.foldl (fun y o => applyAssoc d i o y) y
    { y with lastAssoc := some i.number, nextId := freshId y 4098 y.nextId }
  let s := mirrorTracks g (os.map fun o => fldN o 4 12) s
  let y := s.group g
  writeRecord t 0 (shortResult [(0, 13, tabCount (fun _ (x : Track) => x.state != 0) y.tracks), (32, 32, y.nextId.toNat)]) s

/-- FUSION_ASSOC (R365, R367). -/
def actAssoc (t : Ticket) (s : State) : State :=
  let p := t.cmd.params
  let g := fldN p 0 2
  let list := fldN p 64 40
  let n := fldN p 128 16
  let d := s.dyn.cfg.group g
  if !t.ownsGroup s.dyn.cfg g then writeRecord t 0x00D1 noResult s
  else if list % 16 ≠ 0 || n = 0 || 4096 < n then writeRecord t 0x00D0 noResult s
  else if !s.readable t.cmd.berth list (16 * n) then writeRecord t 0x00D6 noResult s
  else
    match readVirt t.src t.cmd.berth list (16 * n) s with
    | (s, .uncorrectable) => writeRecord t 0x000B noResult s
    | (s, .addressFault) => writeRecord t 0x00D6 noResult s
    | (s, .ok b) =>
      let os := (upFrom 0 n).map fun i => BitVec.ofNat 128 (ofBytes ((b.drop (16 * i)).take 16))
      let y := s.group g
      if !os.all assocDefined then writeRecord t 0x00D0 noResult s
      else if !s.writable d.berth d.tableAddr.toNat 0x20000 then writeRecord t 0x00D6 noResult s
      else
        match y.stampOf (fld p 32 32) with
        | none => writeRecord t 0x00D3 noResult s
        | some i =>
          let stale : Bool := match y.lastAssoc with
            | some l => i.number ≤ l
            | none => false
          if stale then writeRecord t 0x00D4 noResult s
          else if !y.assocOk os then writeRecord t 0x00D5 noResult s
          else associate t g i os s

/-- FUSION_ASSOC. -/
def opAssoc : OpInfo := { opcode := 0x5030, needsBerth := true, wellFormed := onlyFields [(0, 2), (32, 32), (64, 40), (128, 16)] }
/-- FUSION_ASSOC applies association operations to a table. -/
def execFusionAssoc (c : Cmd) (s : State) : Host.Outcome State Fault Refusal := carry opAssoc c actAssoc s

/-- GET_FUSION_STATUS result (R367). -/
def fusionRecord (d : GroupCfg) (now : Nat) (y : GroupDyn) : Result :=
  longResult 32 [(0, 1, b2n d.enable), (2, 3, (y.pendingAt d now).length), (32, 32, y.lastInstant.toNat), (64, 32, y.lastAge.toNat),
    (96, 32, y.records.toNat), (128, 16, y.unlocked.toNat), (144, 16, y.outside.toNat), (160, 16, y.early.toNat),
    (176, 16, y.late.toNat), (192, 16, y.superseded.toNat), (208, 16, y.outFull.toNat), (224, 16, y.blockBusy.toNat)]

/-- GET_FUSION_STATUS returns the snapshot of a group. -/
def actGetFusion (t : Ticket) (s : State) : State :=
  let g := fldN t.cmd.params 0 2
  let c := s.snap.cfg
  if !t.ownsGroup c g then writeRecord t 0x00D1 noResult s
  else writeRecord t 0 (fusionRecord (c.group g) (t16 s.snap.time.wc) (tabGet {} s.snap.fusion.groups g)) s

/-- GET_FUSION_STATUS. -/
def opGetFusion : OpInfo := { opcode := 0x5040, runTime := true, wellFormed := onlyFields [(0, 2)] }
/-- GET_FUSION_STATUS. -/
def execGetFusionStatus (c : Cmd) (s : State) : Host.Outcome State Fault Refusal := carry opGetFusion c actGetFusion s

/-! What a commit edge does (R349, R366) -/

/-- Release what the samples of an instant reserve. -/
def releaseSamples (cs : List Contribution) (s : State) : State := cs.foldl (fun s c => releaseSlot c.queue.toNat s) s

/-- Release what closed runs and their samples reserve. -/
def releaseRuns (rs : List ClosedRun) (s : State) : State :=
  rs.foldl (fun s r => match r.queue with
    | some q => releaseSlot q.toNat s
    | none => s) (releaseSamples (rs.flatMap fun r => r.contribs) s)

/-- Samples and runs of a berth whose generation moved on go: their queues and buffers are freed with it. -/
def dropBerthSamples (b : BitVec 6) (s : State) : State :=
  let keep := fun (c : Contribution) => c.berth != b
  let s := releaseRuns (s.dyn.fusion.runs.filter fun (r : ClosedRun) => r.cfg.berth == b) s
  s.modFusion fun f =>
    { groups := tabMap {} (fun _ y => { y with instants := y.instants.map fun r => { r with contribs := r.contribs.filter keep } }) f.groups
      arriving := f.arriving.filter keep
      runs := (f.runs.filter fun (r : ClosedRun) => r.cfg.berth != b).map fun r => { r with contribs := r.contribs.filter keep } }

/-- A berth reset of a group's owner (R366): pending instants and closed ones waiting are discarded, the table is freed. -/
def resetGroup (g : Nat) (s : State) : State :=
  let d := s.dyn.cfg.group g
  let y := s.group g
  let s := releaseSamples (y.instants.flatMap fun r => r.contribs) s
  let next := if d.enable then max y.next (d.firstFrom (s.now16 + 1)) else y.next
  let s := s.modGroup g fun y =>
    { y with instants := [], next := next, tracks := tabMap {} (fun _ x => { x with state := 0 }) y.tracks }
  let gone := s.dyn.fusion.runs.filter fun (r : ClosedRun) => r.group == g
  let s := releaseRuns gone s
  s.modFusion fun f => { f with runs := f.runs.filter fun (r : ClosedRun) => r.group != g }

/-- Close every instant pending at a time, cut short (R366). -/
def cutGroup (g : Nat) (d : GroupCfg) (before : Nat) (s : State) : State :=
  ((s.group g).pendingAt d before).foldl (fun s i => closeInstant g i d true s) s

/-- One group at a commit edge; `before`: the working clock before an acquisition step. -/
def groupAtEdge (old : Shadow) (stepped : Bool) (before g : Nat) (s : State) : State :=
  let a := old.group g
  let b := s.dyn.cfg.group g
  let moved := stepped || a.period != b.period || a.phase != b.phase || a.close != b.close
  let s := if a.enable && (moved || !b.enable) then cutGroup g a before s else s
  let s := if b.enable && !a.enable then
      s.modGroup g fun y =>
        { stamps := y.stamps, nextId := y.nextId, lastAssoc := y.lastAssoc, nextBlock := y.nextBlock,
          next := b.firstFrom s.now16, tracks := tabMap {} (fun _ x => { x with state := 0 }) y.tracks }
    else if b.enable && moved then s.modGroup g fun y => { y with next := b.firstFrom s.now16 }
    else s
  if b.enable && (!a.enable || a.tableAddr != b.tableAddr || a.berth != b.berth) then mirrorTracks g (upFrom 0 4096) s else s

/-- Fusion at a commit edge. -/
def fusionAtEdge (old : Shadow) (stepped : Bool) (before : Nat) (s : State) : State :=
  (upFrom 0 4).foldl (fun s g => groupAtEdge old stepped before g s) s

end Sys2Proof.Machine
end

