-- ==== Sys2Proof/Machine/Isgal.lean ====
section
/-! DEFINITION. Isgal ports: training, flits, replay, lanes, routing, locked sequences, side-band state, copies of
peers' cut records, link status (R512 to R527). -/

namespace Sys2Proof.Machine

/-! Wiring and training (R512 to R514) -/

/-- The peers of a device on a board, ascending. -/
def peersOf (devices me : Nat) : List Nat := (upFrom 0 devices).filter (· ≠ me)

/-- Ports per peer. -/
def portsPerPeer (devices : Nat) : Nat := 6 / (devices - 1)

/-- What R513 expects at a port: the peer and its port. -/
def wiredTo (devices me port : Nat) : Option (Nat × Nat) :=
  let k := portsPerPeer devices
  match (peersOf devices me)[port / k]? with
  | none => none
  | some b =>
    match (peersOf devices b).findIdx? (· == me) with
    | none => none
    | some j => some (b, j * k + port % k)

/-- Devices per board that a grade allows (R5). -/
def gradeDevices (grade : BitVec 2) : Nat := if grade = 1 then 2 else 4

/-- Why a port refuses the link with this identity (R514): the code of CAUSE, 0 for none. -/
def refuseCause (b : Bring) (port : Nat) (id : PeerIdentity) : Nat :=
  let devices := b.boardN.toNat + 1
  if id.grade ≠ b.grade then 1
  else if gradeDevices b.grade < devices then 2
  else if id.devId = b.devId then 3
  else if id.boardN ≠ b.boardN || devices ≤ b.devId.toNat || devices ≤ id.devId.toNat
      || wiredTo devices b.devId.toNat port != some (id.devId.toNat, id.port.toNat) then 4
  else 0

/-- The lanes of a port that the fuses call bad. -/
def Bring.fusedBad (b : Bring) (port : Nat) : BitVec 8 := fld b.fuses.laneBad (8 * port) 8

/-- PORT_TRAINING_DONE (R488, R514): the lanes of a training port are up and the identities exchanged. The port
refuses the link, has too few lanes, or is up and joins traffic at the next lock cycle. -/
def execPortTrainingDone (port : Fin 6) (id : PeerIdentity) (s : State) : Host.Outcome State Fault Refusal :=
  let p := port.val
  if (s.port p).state ≠ .training then .next s
  else
    let b := s.dyn.bring
    let cause := refuseCause b p id
    let down := fun (c : Nat) (s : State) => s.modPort p fun d =>
      { d with state := .down, cause := BitVec.ofNat 3 c, peer := id.devId, peerPort := id.port }
    if cause ≠ 0 then
      let s := if cause = 4 then s else s.modBring fun b =>
        { b with isgalRefused := b.isgalRefused ||| BitVec.ofNat 6 (2 ^ p),
                 refuseCause := if b.isgalRefused = 0 then BitVec.ofNat 2 cause else b.refuseCause }
      .next (down cause s)
    else
      let good := ~~~(b.fusedBad p)
      let lanes := id.lanes &&& good
      let s := ((setBits good 8).filter fun l => !bitAt lanes l).foldl (fun s l => addDefect 2 0 (p + 8 * l) s) s
      if popCount lanes 8 < 6 then .next (down 5 s)
      else
        .next (s.modPort p fun d =>
          { d with state := .up, cause := 0, peer := id.devId, peerPort := id.port, lanes := lanes, rxSeq := 0, txSeq := 0,
                   replay := [], slots := [], laneFails := [], replayRun := 0, nak := false, received := [], heard := s.now16 })

/-! Ports that go down (R516, R526) -/

/-- The error record of a transaction that was lost. -/
def lostRecord (tx : IsgalTx) (s : State) : State :=
  addError { (txSrc tx).toRec 1 with addr := BitVec.ofNat 48 (txPa tx) } s

/-- A posted write was lost: its context is torn down, or the loss is only recorded. -/
def loseWrite (tx : IsgalTx) (owner : Option Requester) (s : State) : State :=
  let s := lostRecord tx s
  match owner with
  | some (.context t j) => failOn j .uncorrectable t s
  | some (.hart _) => raiseBerth tx.berth.toNat 3 s
  | _ => s

/-- A non-posted request was lost: its reader gets an error completion; a prefetch fills nothing. -/
def loseRequest (o : OutReq) (s : State) : State :=
  let s := lostRecord o.tx (s.modIsgal fun g => { g with outs := g.outs.filter fun x => x.tag != o.tag })
  let s := match o.fill with
    | some f => fillFailed f s
    | none => s
  match o.reader with
  | some r => faultAccess r o.va .uncorrectable s
  | none => s

/-- A LOCK_READ was lost. -/
def loseLock (k : OutLock) (s : State) : State :=
  let s := lostRecord k.tx (s.modIsgal fun g => { g with outLocks := g.outLocks.filter fun x => x.tag != k.tag })
  faultAccess (.hart k.hart) k.va .uncorrectable s

/-- Every request, lock and write that a test picks is lost. -/
def loseTraffic (requests : OutReq → Bool) (locks : OutLock → Bool) (writes : List (IsgalTx × Option Requester)) (s : State) :
    State :=
  let s := writes.foldl (fun s w => loseWrite w.1 w.2 s) s
  let s := (s.dyn.isgal.outs.filter requests).foldl (fun s o => loseRequest o s) s
  (s.dyn.isgal.outLocks.filter fun k => !k.granted && locks k).foldl (fun s k => loseLock k s) s

/-- A port goes down; what was on it is lost, and so is what waits for its peer when no port of the group stays up. -/
def portDown (p : Nat) (cause : BitVec 3) (retrain : Bool) (s : State) : State :=
  let d := s.port p
  let writes := (d.replay.filter fun e => e.2.1.kind == 1).map fun e => e.2
  let s := s.modPort p fun d =>
    { d with state := if retrain then .training else .down, cause := cause, replay := [], lanes := 0, nak := false
             replayRun := 0, laneFails := [], received := d.received.filter fun tx => tx.kind == 1 }
  let s := loseTraffic (fun o => o.port == some p) (fun k => k.port == some p) writes s
  if s.peerUp d.peer then s
  else
    let waits := (s.dyn.isgal.waiting.filter fun w => w.dev == d.peer && w.tx.kind == 1).map fun w => (w.tx, w.owner)
    let s := s.modIsgal fun g => { g with waiting := g.waiting.filter fun w => w.dev != d.peer }
    loseTraffic (fun o => o.peer == d.peer) (fun k => k.peer == d.peer && k.resendAt.isNone) waits s

/-! Flits (R515, R516) -/

/-- One second in units of 2^-16 ns. -/
def second16 : Nat := 10 ^ 9 * 2 ^ 16

/-- A lane failed its CRC: counted for the record of this second (R477), and towards its retirement. -/
def laneFailed (p l : Nat) (s : State) : State :=
  let now := s.now16
  let s := flushSecond 6 0 (tabGet {} s.dyn.errors.laneSecs (p * 8 + l)) s
  let fresh : SecCount := { unit := BitVec.ofNat 6 (p + 8 * l), source := 3, count := 1, first := BitVec.ofNat 80 (layout80 now),
                            lockCycle := s.lock.number }
  let s := s.modErrors fun e => { e with laneSecs := tabMod {} e.laneSecs (p * 8 + l) fun c => SecCount.next fresh c now }
  s.modPort p fun d => { d with laneFails := (d.laneFails.filter fun f => now < f.2 + second16) ++ [(l, now)] }

/-- A lane that failed 16 times within a second is retired (R467, R516); too few lanes take the port down. -/
def retireLane (p l : Nat) (s : State) : State :=
  if ((s.port p).laneFails.filter fun f => f.1 == l).length < 16 then s
  else
    let s := s.modPort p fun d =>
      { d with lanes := d.lanes &&& ~~~(BitVec.ofNat 8 (2 ^ l)), laneFails := d.laneFails.filter fun f => f.1 != l }
    let s := addDefect 2 2 (p + 8 * l) (addError { kind := 7, source := 3, unit := BitVec.ofNat 6 (p + 8 * l) } s)
    if popCount (s.port p).lanes 8 < 6 then portDown p 5 false s else s

/-- The ACK and NAK of a flit: acknowledged flits leave the buffer, a NAK replays the rest (R516). -/
def takeAck (p : Nat) (ack : BitVec 16) (nak : Bool) (s : State) : State :=
  let d := s.port p
  let rest := d.replay.filter fun e => !seqUpTo e.1 ack
  let run := (if rest.length < d.replay.length then 0 else d.replayRun) + b2n (nak && !rest.isEmpty)
  let s := s.modPort p fun d =>
    { d with replay := rest, replayRun := run, replays := if nak then satAdd d.replays rest.length else d.replays }
  if 16 ≤ run then portDown p 6 false s else sendWaiting s

/-- A completion reaches its requester (R515); one of an old generation delivers nothing (R411). -/
def takeCompletion (dev : BitVec 2) (tx : IsgalTx) (s : State) : State :=
  let stale := tx.gen != (s.dyn.cfg.berth tx.berth).gen
  match s.dyn.isgal.outs.find? fun (o : OutReq) => o.tag == tx.tag && o.peer == dev with
  | some o =>
    let s := s.modIsgal fun g => { g with outs := g.outs.filter fun (x : OutReq) => x.tag != o.tag }
    let s := match o.fill with
      | some f => if stale || tx.status != 0 then fillFailed f s else fillArrived f (takeBytes 64 tx.data) s
      | none => s
    match o.reader with
    | none => s
    | some r =>
      if stale then s
      else if o.tx.kind = 8 then
        match r with
        | .context t j =>
          match s.dyn.cfg.physOf t.val with
          | some p =>
            let key := writeKey j (36 + 36 * dev.toNat + columnOf (txPa o.tx))
            s.modTileWork p fun w => { w with fenceNo := tabPut 0 w.fenceNo key o.len }
          | none => s
        | _ => s
      else if tx.status = 1 then faultAccess r o.va .addressFault s
      else if tx.status = 2 then faultAccess r o.va .uncorrectable s
      else if o.conditional then scDone r o.va (tx.status == 0) s
      else if o.tx.kind = 2 then respond r o.va .done s
      else respond r o.va (.data (takeBytes o.len tx.data)) s
  | none =>
    match s.dyn.isgal.outLocks.find? fun (k : OutLock) => k.tag == tx.tag && k.peer == dev && !k.granted with
    | none => s
    | some k =>
      let drop := s.modIsgal fun g => { g with outLocks := g.outLocks.filter fun (x : OutLock) => x.tag != k.tag }
      if stale then drop
      else if tx.status = 1 then faultAccess (.hart k.hart) k.va .addressFault drop
      else if tx.status = 2 then faultAccess (.hart k.hart) k.va .uncorrectable drop
      else
        let s := s.modIsgal fun g =>
          { g with outLocks := g.outLocks.map fun (x : OutLock) => if x.tag = k.tag then { x with granted := true } else x }
        respond (.hart k.hart) k.va (.data (takeBytes k.len tx.data)) s

/-- The transactions of a flit received in order: completions are delivered, the others wait to be served. -/
def takeTransactions (p : Nat) (txs : List IsgalTx) (s : State) : State :=
  txs.foldl (fun s tx =>
    if tx.kind = 4 then takeCompletion (s.port p).peer tx s
    else s.modPort p fun d => { d with received := d.received ++ [tx] }) s

/-- CREDITS of a flit (R515): slots of the peer's pounds come back, for each class the safety channel's first. -/
def takeFlitCredits (p : Nat) (credits : List Nat) (s : State) : State :=
  s.modPort p fun d =>
    { d with slots := [PoundKind.completion, .posted, .request].foldl (fun t k =>
        returnSlots 0 k false (credits.getD (2 * poundIndex k + 1) 0) (returnSlots 0 k true (credits.getD (2 * poundIndex k) 0) t)) d.slots }

/-- What a flit delivered lets go on: accesses that waited, and transactions that waited to leave. -/
def afterFlit (s : State) : State := sendWaiting (if s.dyn.bring.ready then serveHeld s else s)

/-- FLIT_RECEIVE (R516): a flit with a wrong CRC counts its lanes' failures and owes a NAK; an intact one acknowledges,
and delivers when it is the next in order. A port that is not up: no effect. -/
def execFlitReceive (port : Fin 6) (seq ack : BitVec 16) (nak crcOk : Bool) (laneBad : BitVec 8) (body : FlitBody)
    (s : State) : Host.Outcome State Fault Refusal :=
  let p := port.val
  if (s.port p).state ≠ .up then .next s
  else
    let s := s.modPort p fun d => { d with heard := s.now16 }
    let bad := setBits (laneBad &&& (s.port p).lanes) 8
    let s := bad.foldl (fun s l => laneFailed p l s) s
    if !crcOk then
      .next (bad.foldl (fun s l => retireLane p l s) (s.modPort p fun d => { d with nak := true }))
    else
      let next := seq == (s.port p).rxSeq + 1
      let s := takeAck p ack nak (if next then takeFlitCredits p body.credits s else s)
      let d := s.port p
      if d.state ≠ .up then .next s
      else if next then .next (afterFlit (takeTransactions p body.txs (s.modPort p fun d => { d with rxSeq := seq, nak := false })))
      else if seqUpTo seq d.rxSeq then .next s
      else .next (s.modPort p fun d => { d with nak := true })

/-- PEER_SILENT (R516): 10 µs without a sign of the peer take the port down, and it trains again. Not due: no effect. -/
def execPeerSilent (port : Fin 6) (s : State) : Host.Outcome State Fault Refusal :=
  let d := s.port port.val
  if d.state ≠ .up ∨ s.now16 < d.heard + 10 * us16 then .next s else .next (portDown port.val 7 true s)

/-! Transactions received (R518, R520, R522, R523) -/

/-- A transaction received may be served: none before it that it has to follow, a posted write of its berth to its
column or one of its class and channel, is waiting. -/
def inTurn (tx : IsgalTx) : List IsgalTx → Bool
  | [] => false
  | y :: t =>
    if y = tx then true
    else
      let follows := columnOf (txPa y) == columnOf (txPa tx) && y.berth == tx.berth
        && ((y.cls == tx.cls && y.safety == tx.safety) || y.cls == 1)
      !follows && inTurn tx t

/-- Take a received transaction of some kinds off its port, if it is its turn. -/
def takeReceived (p : Nat) (tx : IsgalTx) (kinds : List (BitVec 4)) (s : State) : Option State :=
  if s.dyn.bring.ready && kinds.contains tx.kind && inTurn tx (s.port p).received then
    some (s.modPort p fun d => { d with received := d.received.erase tx })
  else none

/-- INBOUND_TRANSACTION (R520): a read, write, atomic, flush or side-band poll received is served. Not received, or
not its turn: no effect. -/
def execInboundTransaction (port : Fin 6) (tx : IsgalTx) (s : State) : Host.Outcome State Fault Refusal :=
  match takeReceived port.val tx [0, 1, 2, 3, 8, 9] s with
  | some s => .next (serveInbound s.lock.number.toNat port tx (serveHeld s))
  | none => .next s

/-- LOCK_READ (R522, R523): a load-reserved of a peer reaches its column port. -/
def execLockRead (port : Fin 6) (tx : IsgalTx) (s : State) : Host.Outcome State Fault Refusal :=
  match takeReceived port.val tx [5] s with
  | some s => .next (serveLockRead s.lock.number.toNat port tx (serveHeld s))
  | none => .next s

/-- LOCK_WRITE (R522): a store-conditional of a peer reaches its column port. -/
def execLockWrite (port : Fin 6) (tx : IsgalTx) (s : State) : Host.Outcome State Fault Refusal :=
  match takeReceived port.val tx [6] s with
  | some s => .next (serveHeld (serveLockWrite port tx s))
  | none => .next s

/-- LOCK_TIMEOUT (R522): a lock held 4 µs is released. Not due: no effect. -/
def execLockTimeout (column : Fin 36) (s : State) : Host.Outcome State Fault Refusal :=
  match tabGet none s.dyn.isgal.colLocks column.val with
  | none => .next s
  | some k =>
    if s.now16 < k.expiry then .next s
    else
      let s := s.modIsgal fun g => { g with colLocks := tabPut none g.colLocks column.val none }
      .next (serveHeld (s.modPort k.port fun d => { d with lockTimeouts := satInc d.lockTimeouts }))

/-- Change the LOCK_READ with a tag. -/
def modOutLock (tag : BitVec 16) (f : OutLock → OutLock) (s : State) : State :=
  s.modIsgal fun g => { g with outLocks := g.outLocks.map fun (k : OutLock) => if k.tag = tag then f k else k }

/-- After the 8th RETRY the line is read without a lock (R523). -/
def readUnlocked (k : OutLock) (s : State) : State :=
  let tx : IsgalTx := { k.tx with kind := 0 }
  let o : OutReq := { tag := k.tag, peer := k.peer, reader := some (.hart k.hart), va := k.va, tx := tx,
                      len := k.len, stamp := k.stamp }
  sendStamped { dev := k.peer, tx := tx, owner := o.reader, stamp := k.stamp } (s.modIsgal fun g =>
    { g with outLocks := g.outLocks.filter fun (x : OutLock) => x.tag != k.tag, outs := g.outs ++ [o] })

/-- LOCK_RETRY_RECEIVE (R523): a RETRY received for a LOCK_READ schedules its resend, or ends it unlocked. Not
received, or for no lock: no effect. -/
def execLockRetryReceive (port : Fin 6) (tag : BitVec 16) (s : State) : Host.Outcome State Fault Refusal :=
  let p := port.val
  match (s.port p).received.find? fun (tx : IsgalTx) => tx.kind == 7 && tx.tag == tag with
  | none => .next s
  | some tx =>
    let s := s.modPort p fun d => { d with received := d.received.erase tx, lockRetries := satInc d.lockRetries }
    match s.dyn.isgal.outLocks.find? fun (k : OutLock) => k.tag == tag && !k.granted with
    | none => .next s
    | some k =>
      let n := k.retries + 1
      if 8 ≤ n then .next (readUnlocked k s)
      else .next (modOutLock tag (fun k => { k with retries := n, resendAt := some (s.now16 + n * us16) }) s)

/-- LOCK_RESEND (R523): the LOCK_READ is sent again after its back-off. Not due: no effect. -/
def execLockResend (tag : BitVec 16) (s : State) : Host.Outcome State Fault Refusal :=
  match s.dyn.isgal.outLocks.find? fun (k : OutLock) => k.tag == tag with
  | none => .next s
  | some k =>
    match k.resendAt with
    | none => .next s
    | some time =>
      if s.now16 < time then .next s
      else .next (sendStamped { dev := k.peer, tx := k.tx, owner := some (.hart k.hart), stamp := k.stamp }
        (modOutLock tag (fun k => { k with resendAt := none }) s))

/-! Side-band state (R524) -/

/-- SIDE_BAND_POLL: every POLL_US each peer with a port up is polled. Not due: no effect. -/
def execSideBandPoll (peer : BitVec 2) (s : State) : Host.Outcome State Fault Refusal :=
  let g := s.dyn.isgal
  let y := tabGet (0, false) g.polled peer.toNat
  let due := y.1 = 0 || (y.1 - 1) + g.pollUs.toNat * us16 ≤ s.now16
  if !due || !s.peerUp peer then .next s
  else
    let tx : IsgalTx := { kind := 9, cls := 2, safety := true, addr := BitVec.ofNat 50 (peer.toNat * 2 ^ 48), tag := g.nextTag }
    .next (sendPeer peer tx none (s.modIsgal fun g =>
      { g with polled := tabPut (0, false) g.polled peer.toNat (s.now16 + 1, true), nextTag := g.nextTag + 1 }))

/-- SIDE_BAND_RECORD: the record of a peer polled is kept, and each NOTIFY bit raises a berth's peer interrupt. -/
def execSideBandRecord (peer : BitVec 2) (lockCycle : BitVec 64) (running latch : Bool) (live notify : BitVec 64) (s : State) :
    Host.Outcome State Fault Refusal :=
  let y := tabGet (0, false) s.dyn.isgal.polled peer.toNat
  if !y.2 then .next s
  else
    let n := peer.toNat
    let s := s.modIsgal fun g =>
      { g with polled := tabPut (0, false) g.polled n (y.1, false), peerLock := tabPut 0 g.peerLock n lockCycle,
               peerRunning := tabPut false g.peerRunning n running, peerLatch := tabPut false g.peerLatch n latch,
               peerLive := tabPut 0 g.peerLive n live }
    .next ((setBits notify 64).foldl (fun s b => raiseBerth b 1 s) s)

/-! Copies of peers' records (R525) -/

/-- PEER_CUT_COPY: a record that a peer's cut wrote is copied to this cut's queue, or counted in PEER_DROPS. A cut
that names no peer's cut, or a peer that is not up: no effect. -/
def execPeerCutCopy (cut : BitVec 12) (peerBerth : BitVec 6) (record : List Byte) (s : State) : Host.Outcome State Fault Refusal :=
  let e := tabGet {} s.dyn.cfg.cuts cut.toNat
  let dev : BitVec 2 := fld e.src 16 2
  if !e.valid || e.srcKind ≠ 3 || e.gen ≠ (s.dyn.cfg.berth e.berth).gen || !s.peerUp dev then .next s
  else
    let q := e.destQueue.toNat
    if peerBerth = e.berth && s.slotFree q then .next (ringWrite (s.dyn.cfg.safetyQueue q) q record (reserveSlot q s)).1
    else
      match (upFrom 0 6).find? fun p => (s.port p).state == .up && (s.port p).peer == dev with
      | some p => .next (s.modPort p fun d => { d with peerDrops := satInc d.peerDrops })
      | none => .next s

/-! Link status (R527) -/

/-- The code of a port's state. -/
def portCode : PortRun → Nat
  | .down => 0
  | .training => 1
  | .up => 2

/-- GET_LINK_STATUS result. -/
def linkRecord (b : Bring) (pollUs : BitVec 10) (p : Nat) (d : PortDyn) : Result :=
  longResult 64 [(0, 2, portCode d.state), (2, 3, d.cause.toNat), (5, 2, d.peer.toNat), (8, 3, d.peerPort.toNat),
    (16, 8, d.lanes.toNat), (24, 8, (b.fusedBad p).toNat), (32, 32, d.replays.toNat), (64, 16, d.lockRetries.toNat),
    (80, 16, d.lockTimeouts.toNat), (96, 16, d.peerDrops.toNat), (112, 10, pollUs.toNat)]

/-- GET_LINK_STATUS returns the snapshot of a port. -/
def actGetLink (t : Ticket) (s : State) : State :=
  let p := fldN t.cmd.params 0 3
  writeRecord t 0 (linkRecord s.snap.bring s.snap.isgal.pollUs p (tabGet {} s.snap.isgal.ports p)) s

/-- GET_LINK_STATUS; ports 6 and 7 are reserved encodings. -/
def opGetLink : OpInfo := { opcode := 0x8030, runTime := true, wellFormed := fun p => onlyFields [(0, 3)] p && fldN p 0 3 ≤ 5 }
/-- GET_LINK_STATUS returns a port's state, lanes and counters. -/
def execGetLinkStatus (c : Cmd) (s : State) : Host.Outcome State Fault Refusal := carry opGetLink c (maintenance actGetLink) s

/-- What a commit edge does to Isgal: ports that are up join traffic, and what waited is sent (R517). -/
def isgalAtEdge (s : State) : State :=
  let up := BitVec.ofNat 6 (packFields ((upFrom 0 6).map fun p => (p, 1, b2n ((s.port p).state == .up))))
  sendWaiting (serveHeld (s.modIsgal fun g => { g with upSet := up }))

/-- A berth's generation moved on: its traffic that has not left, and the completions it waits for, are discarded (R411,
R520). -/
def dropBerthTraffic (b : BitVec 6) (s : State) : State :=
  s.modIsgal fun g =>
    { g with waiting := g.waiting.filter fun w => w.tx.berth != b || w.tx.kind == 4 || w.tx.kind == 7
             outs := g.outs.filter fun (o : OutReq) => o.tx.berth != b
             outLocks := g.outLocks.filter fun (k : OutLock) => k.tx.berth != b }

end Sys2Proof.Machine
end

