-- ==== Sys2Proof/Machine/Models.lean ====
section
/-! DEFINITION. Models: registration, residency, invocation, and the steps of jobs (R148 to R182). -/

namespace Sys2Proof.Machine

/-! The model image (R148, R149) -/

/-- `n` bytes of an image as a word of `w` bits. -/
def word (w : Nat) (img : List Byte) (off n : Nat) : BitVec w := BitVec.ofNat w (ofBytes (sub img off n))

/-- Where the tables of an image start: shards, slots, steps, and the end of the steps. -/
structure ImageMap where
  shards : Nat
  slots : Nat
  steps : Nat
  shardAt : Nat := 64
  slotAt : Nat
  stepAt : Nat
  finish : Nat
  deriving DecidableEq, Repr

/-- The layout that the header gives. -/
def imageMap (h : BitVec 512) : ImageMap :=
  let shards := fldN h 8 6
  let slots := fldN h 32 4 + fldN h 36 4
  let steps := fldN h 16 12
  let slotAt := 64 + 16 * shards
  let stepAt := slotAt + ceilDiv (8 * slots) 64 * 64
  { shards := shards, slots := slots, steps := steps, slotAt := slotAt, stepAt := stepAt, finish := stepAt + 32 * steps }

/-- The header's fields are in range. -/
def modelHeaderOk (h : BitVec 512) : Bool :=
  let m := imageMap h
  let len := fldN h 128 32
  fldN h 0 4 == 1 && !bitAt h 5 && !bitAt h 7 && 1 ≤ m.shards && m.shards ≤ 32 && fldN h 14 2 == 0
  && 1 ≤ m.steps && fldN h 28 4 == 0 && 1 ≤ fldN h 36 4 && fldN h 40 24 == 0
  && fldN h 64 40 % 0x10000 == 0 && fldN h 104 24 == 0
  && len % 64 == 0 && len ≤ 0x400000 && m.finish ≤ len && fldN h 160 96 == 0

/-- The shard of an entry, not yet anchored. -/
def shardOf (e : BitVec 128) : Shard := { weightOffset := fld e 0 32, weightBytes := fld e 32 32, work := fld e 64 8 }

/-- A shard entry is in range (R148, R149). -/
def shardEntryOk (e : BitVec 128) : Bool :=
  let x := shardOf e
  x.weightOffset.toNat % 0x10000 == 0 && x.weightBytes.toNat ≤ 0x1000000 && fldN e 72 56 == 0
  && x.weightGranules + x.work.toNat ≤ 256

/-- The shard entries of an image. -/
def shardEntries (img : List Byte) (m : ImageMap) : List (BitVec 128) :=
  (upFrom 0 m.shards).map fun i => word 128 img (m.shardAt + 16 * i) 16
/-- The I/O entries of an image. -/
def slotEntries (img : List Byte) (m : ImageMap) : List (BitVec 64) :=
  (upFrom 0 m.slots).map fun i => word 64 img (m.slotAt + 8 * i) 8
/-- The step entries of an image. -/
def stepEntries (img : List Byte) (m : ImageMap) : List (BitVec 256) :=
  (upFrom 0 m.steps).map fun i => word 256 img (m.stepAt + 32 * i) 32

/-- A step entry is in range, its parameter block inside the image. -/
def stepEntryOk (e : BitVec 256) (m : ImageMap) (len : Nat) : Bool :=
  1 ≤ fldN e 0 4 && fldN e 0 4 ≤ 6 && fldN e 4 4 == 0 && fldN e 8 5 < m.shards && fldN e 13 3 == 0 && fldN e 22 2 == 0
  && fldN e 28 4 == 0 && fldN e 96 32 % 16 == 0 && fldN e 96 32 + 48 ≤ len && fldN e 128 128 == 0

/-- No two ranges of a list meet. -/
def spansApart : List (Nat × Nat) → Bool
  | [] => true
  | a :: t => (t.all fun b => !spansMeet a b) && spansApart t

/-- The padding behind the I/O table is reserved and zero. -/
def paddingZero (img : List Byte) (m : ImageMap) : Bool :=
  (sub img (m.slotAt + 8 * m.slots) (m.stepAt - (m.slotAt + 8 * m.slots))).all fun b => b == 0

/-- Check 2 of R155 on the copied image. -/
def modelImageOk (img : List Byte) : Bool :=
  let h := word 512 img 0 64
  let m := imageMap h
  let shards := shardEntries img m
  modelHeaderOk h && shards.all shardEntryOk
  && spansApart (shards.map fun e => ((shardOf e).weightOffset.toNat, (shardOf e).weightBytes.toNat))
  && (slotEntries img m).all (fun e => fldN e 40 24 == 0) && paddingZero img m
  && (stepEntries img m).all fun e => stepEntryOk e m (fldN h 128 32)

/-- The step that an entry spells, with its parameter block. -/
def stepOf (img : List Byte) (e : BitVec 256) : ModelStep :=
  { kind := fld e 0 4, shard := fld e 8 5, waitCtr := fld e 16 4, waitEn := bitAt e 20, signalEn := bitAt e 21,
    signalCtr := fld e 24 4, waitTarget := fld e 32 32, signalValue := fld e 64 32,
    params := word 384 img (fldN e 96 32) 48 }

/-! Registration (R154, R155) -/

/-- Cut bytes into pieces of the lengths given. -/
def cutPieces : List Nat → List Byte → List (List Byte)
  | [], _ => []
  | n :: t, d => d.take n :: cutPieces t (d.drop n)

/-- The model that a ticket's copy spells: image, I/O headers, weights, then for a calibrated model its input. Anchors
follow the map of the shadow (R154). -/
def modelOf (t : Ticket) (c : Shadow) : Model :=
  let h := word 512 t.data 0 64
  let len := fldN h 128 32
  let img := t.data.take len
  let m := imageMap h
  let heads := (slotEntries img m).zipIdx.map fun e => headerOf (fldN e.1 0 40) (word 512 t.data (len + 64 * e.2) 64)
  let xs := (shardEntries img m).map shardOf
  let rest := t.data.drop (len + 64 * m.slots)
  let ws := cutPieces (xs.map fun x => x.weightBytes.toNat) rest
  let total := (xs.map fun x => x.weightBytes.toNat).foldl (· + ·) 0
  let input := rest.drop total
  let on := c.enabledTiles
  let anchored := xs.zipIdx.map fun x =>
    let l := on.getD ((fldN t.cmd.params 48 5 + x.2) % on.length) 0
    { x.1 with home := l, anchor := (c.physOf l).getD 0, weights := ws.getD x.2 [] }
  let outs := heads.drop (fldN h 32 4)
  let count := (outs.map fun o => o.dim0.toNat * o.rows * o.batch).foldl (· + ·) 0
  let digest := fld h 256 256
  { valid := true, safety := bitAt h 6, rerunOk := bitAt h 4, image := img, shards := anchored, io := heads, inputs := fldN h 32 4,
    steps := (stepEntries img m).map (stepOf img), imageLen := fld h 128 32, weightAddr := fld h 64 40, digest := digest,
    calibration := if bitAt h 6 ∧ m.shards = 1 then
        some { input := input, bands := (upFrom 0 count).map (Config.calibrationBand digest),
               calWaves := Config.calibrationWaves digest } else none }

/-- Hold free frames of one column for a weight copy; `k` numbers the choice. -/
def holdFrames (k : Nat) (b : BitVec 6) (col : Nat) : Nat → Shadow → Option (Shadow × List Nat)
  | 0, c => some (c, [])
  | n + 1, c =>
    match c.freeFrame k col with
    | none => none
    | some f =>
      match holdFrames k b col n { c with frames := tabPut .free c.frames f (.held b) } with
      | none => none
      | some (c, fs) => some (c, f :: fs)

/-- Hold the frames of every shard's weights in its anchor column. -/
def holdModel (k : Nat) (b : BitVec 6) : List Shard → Shadow → Option (Shadow × List Nat)
  | [], c => some (c, [])
  | x :: t, c =>
    match holdFrames k b x.anchor x.weightGranules c with
    | none => none
    | some (c, fs) =>
      match holdModel k b t c with
      | none => none
      | some (c, gs) => some (c, fs ++ gs)

/-- The units of 64 KB of the image pool of 16,384 that hold no model image (R186), ascending. -/
def Shadow.freeUnits (c : Shadow) : List Nat :=
  let taken := c.models.flatMap fun kv => kv.2.units
  (upFrom 0 16384).filter fun u => !taken.contains u

/-- Check 7 of R155: every assigned tile is in the safety basin, and what it holds fits. -/
def safetyFits (c : Shadow) (m : Model) : Bool :=
  let c' := { c with models := tabPut {} c.models 65536 m }
  m.shards.all fun x => c.safetyTile x.home
    && ((c'.models.flatMap fun kv => if kv.2.safety then kv.2.shards.filter fun y => y.home == x.home else []).map fun y =>
        y.weightGranules + y.work.toNat).foldl (· + ·) 0 ≤ 256

/-- Checks 5 to 8 of R155 and the calibration of R450; some free handle is taken. DESIGN CHOICE: the image takes the lowest free
units of the pool. -/
def ruleModelRegister : ConfigRule := fun s t c =>
  let b := t.cmd.berth
  let d := c.berth b
  let m := modelOf t c
  let pages := (m.shards.map fun x => x.weightGranules).foldl (· + ·) 0
  match pickFrom (Config.pick s.free 0) ((upFrom 0 1024).filter fun i => !(tabGet {} c.models (b.toNat * 1024 + i)).valid) with
  | none => .refuse 0x0084 noResult
  | some i =>
    let units := c.freeUnits.take (ceilDiv m.imageLen.toNat 0x10000)
    if 4096 ≤ tabCount (fun _ x => x.valid) c.models || units.length < ceilDiv m.imageLen.toNat 0x10000 then
      .refuse 0x0084 noResult
    else if d.memQuota.toNat < d.memUsed.toNat + pages then .refuse 0x0085 noResult
    else
      match holdModel s.free b m.shards c with
      | none => .refuse 0x0085 noResult
      | some (c', fs) =>
        if m.safety && !safetyFits c m then .refuse 0x0086 noResult
        else if BitVec.ofNat 256 (ofBytes (sha256 (m.shards.flatMap fun x => x.weights))) ≠ m.digest then .refuse 0x0081 noResult
        else if m.calibration.isSome && Config.calibrationFails m.digest then .refuse 0x00F5 noResult
        else
          let c' := { c' with berths := tabPut {} c'.berths b.toNat { d with memUsed := d.memUsed + BitVec.ofNat 24 pages } }
          .pass { c' with models := tabPut {} c'.models (b.toNat * 1024 + i) { m with frames := fs, units := units } } (shortResult [(0, 10, i)])

/-- Read the ranges listed, one after the other. -/
def readSpans (a : Src) (b : BitVec 6) (xs : List (Nat × Nat)) (s : State) : State × Access (List Byte) :=
  thenA (eachA (fun x s => readVirt a b x.1 x.2 s) xs s) fun ds s => (s, .ok ds.flatten)

/-- The ranges that check 3 of R155 asks for: each declared header, then each shard's weights. -/
def modelSpans (img : List Byte) : List (Nat × Nat) × List (Nat × Nat) :=
  let h := word 512 img 0 64
  let m := imageMap h
  ((slotEntries img m).map fun e => (fldN e 0 40, 64),
   (shardEntries img m).map fun e => (fldN h 64 40 + (shardOf e).weightOffset.toNat, (shardOf e).weightBytes.toNat))

/-- The data of the declared input slots, for a model to be calibrated (R450). -/
def calibrationSpans (img heads : List Byte) : List (Nat × Nat) :=
  let h := word 512 img 0 64
  let m := imageMap h
  if !(bitAt h 6 && m.shards == 1) then []
  else ((slotEntries img m).take (fldN h 32 4)).zipIdx.flatMap fun e =>
    let x := headerOf (fldN e.1 0 40) (word 512 heads (64 * e.2) 64)
    [x.dataSpan, x.scaleSpan]

/-- MODEL_REGISTER. -/
def opModelRegister : OpInfo := { opcode := 0x1001, needsBerth := true, wellFormed := onlyFields [(0, 40), (48, 5)] }

/-- What the fault of a read refuses a command with. -/
def readStatus {α : Type} (fault : Nat) : Access α → Nat
  | .uncorrectable => 0x000B
  | _ => fault

/-- Checks 3 and 4 of R155, with the image read. -/
def registerImage (t : Ticket) (img : List Byte) (s : State) : State :=
  let b := t.cmd.berth
  let (hs, ws) := modelSpans img
  if !((hs ++ ws).all fun x => s.readable b x.1 x.2) || !(hs.all fun x => x.1 % 64 == 0) then writeRecord t 0x008A noResult s
  else if bitAt (word 512 img 0 64) 6 && !(t.fromSupervisor && s.inService) then writeRecord t 0x0053 noResult s
  else
    match readSpans t.src b hs s with
    | (s, .ok heads) =>
      match readSpans t.src b ws s with
      | (s, .ok weights) =>
        let cal := calibrationSpans img heads
        match readSpans t.src b cal s with
        | (s, .ok input) => acceptConfig ruleModelRegister { t with data := img ++ heads ++ weights ++ input } s
        | (s, _) => writeRecord t 0x00F5 noResult s
      | (s, a) => writeRecord t (readStatus 0x008A a) noResult s
    | (s, a) => writeRecord t (readStatus 0x008A a) noResult s

/-- Checks 1 and 2 of R155: the model image is copied once. -/
def actModelRegister (t : Ticket) (s : State) : State :=
  let b := t.cmd.berth
  let va := fldN t.cmd.params 0 40
  if va % 64 ≠ 0 || !s.readable b va 64 then writeRecord t 0x008A noResult s
  else
    match readVirt t.src b va 64 s with
    | (s, .ok hd) =>
      let h := word 512 hd 0 64
      if !s.readable b va (fldN h 128 32) then writeRecord t 0x008A noResult s
      else if !modelHeaderOk h then writeRecord t 0x0080 noResult s
      else
        match readVirt t.src b (va + 64) (fldN h 128 32 - 64) s with
        | (s, .ok rest) => if modelImageOk (hd ++ rest) then registerImage t (hd ++ rest) s else writeRecord t 0x0080 noResult s
        | (s, a) => writeRecord t (readStatus 0x008A a) noResult s
    | (s, a) => writeRecord t (readStatus 0x008A a) noResult s

/-- MODEL_REGISTER. -/
def execModelRegister (c : Cmd) (s : State) : Host.Outcome State Fault Refusal := carry opModelRegister c actModelRegister s

/-- The model behind a handle of a berth. -/
def Shadow.model (c : Shadow) (b : BitVec 6) (h : Nat) : Model := tabGet {} c.models (b.toNat * 1024 + h)

/-- A job of the model runs, or waits untaken in a queue (R156). -/
def modelBusy (s : State) (b : BitVec 6) (h : Nat) : Bool :=
  tabAny (fun _ j => match j with
    | some j => (j.kind == .model || j.kind == .preload || j.kind == .sounding) && j.berth == b && j.handle.toNat == h
    | none => false) s.dyn.work.jobs
  || s.anyUntaken b fun p => (fldN p 0 16 == 0x1003 || fldN p 0 16 == 0x1011) && fldN p 128 10 == h

/-- MODEL_UNREGISTER (R156): the frames of the weight copies wait to be zeroed. -/
def ruleModelUnregister : ConfigRule := fun s t c =>
  let h := fldN t.cmd.params 0 10
  let b := t.cmd.berth
  let m := c.model b h
  if !m.valid then .refuse 0x0082 noResult
  else if modelBusy s b h then .refuse 0x0083 noResult
  else
    let fs := m.frames.foldl (fun f k =>
      if tabGet .free f k = .held b then tabPut .free f k (.freed b (s.lock.number.toNat + 1)) else f) c.frames
    .pass { c with frames := fs, models := tabPut {} c.models (b.toNat * 1024 + h) {} } noResult

/-- MODEL_UNREGISTER. -/
def opModelUnregister : OpInfo := { opcode := 0x1002, needsBerth := true, wellFormed := onlyFields [(0, 10)] }
/-- MODEL_UNREGISTER frees a handle. -/
def execModelUnregister (c : Cmd) (s : State) : Host.Outcome State Fault Refusal :=
  carry opModelUnregister c (acceptConfig ruleModelUnregister) s

/-- GET_MODEL. -/
def opGetModel : OpInfo := { opcode := 0x1004, needsBerth := true, wellFormed := onlyFields [(0, 10)] }

/-- The logical tiles that hold a resident shard of a model, as a mask. -/
def Dyn.residentMask (d : Dyn) (b : BitVec 6) (h : Nat) : Nat :=
  (d.cfg.enabledTiles.map fun l => match d.cfg.physOf l with
    | some p => if (tabGet {} d.work.tiles p).residents.any fun r => r.berth == b && r.handle.toNat == h then 2 ^ l else 0
    | none => 0).foldl (· + ·) 0

/-- GET_MODEL returns the mask and the count latched at the last lock cycle. -/
def actGetModel (t : Ticket) (s : State) : State :=
  let h := fldN t.cmd.params 0 10
  let b := t.cmd.berth
  if !(s.snap.cfg.model b h).valid then writeRecord t 0x0082 noResult s
  else writeRecord t 0 (shortResult [(0, 32, s.snap.residentMask b h),
                                     (32, 32, (tabGet 0 s.snap.work.started (b.toNat * 1024 + h)).toNat)]) s

/-- GET_MODEL. -/
def execGetModel (c : Cmd) (s : State) : Host.Outcome State Fault Refusal := carry opGetModel c actGetModel s

/-- SET_RESIDENCY (R157). -/
def ruleSetResidency : ConfigRule := fun _ t c =>
  let p := t.cmd.params
  if fldN p 8 8 = 0 then .refuse 0x0080 noResult
  else .pass { c with residency := tabPut {} c.residency t.cmd.berth.toNat { hotSet := bitAt p 0, hotShare := fld p 8 8 } } noResult

/-- SET_RESIDENCY. -/
def opSetResidency : OpInfo := { opcode := 0x1010, needsBerth := true, wellFormed := onlyFields [(0, 1), (8, 8)] }
/-- SET_RESIDENCY sets the berth's residency mode. -/
def execSetResidency (c : Cmd) (s : State) : Host.Outcome State Fault Refusal :=
  carry opSetResidency c (acceptConfig ruleSetResidency) s

/-! Invocation (R153, R175 to R177) -/

/-- A given header matches the declared one (R153). -/
def TensorHeader.agrees (a b : TensorHeader) : Bool :=
  a.format == b.format && a.layout == b.layout && a.rank == b.rank && a.dim0 == b.dim0 && a.dim1 == b.dim1
  && a.dim2 == b.dim2 && a.dim3 == b.dim3

/-- Checks 1 to 4 of R176. -/
def invokeFailure (t : Ticket) (n : Nat) (m : Model) (s : State) : Option Nat :=
  let c := s.dyn.cfg
  let tiles := (c.tilesUnder n).length
  firstOf [(!t.ownsBasin c n, 0x0050), (!m.valid, 0x0082), (m.safety != c.safetyBasin n, 0x0088),
           (tiles != 0 && tiles < m.shards.length, 0x0087)]

/-- Read the given header of each slot. -/
def readGiven (t : Ticket) (entries : List (BitVec 64)) (s : State) : State × Access (List TensorHeader) :=
  eachA (fun e s => thenA (readVirt t.src t.cmd.berth (fldN e 0 40) 64 s) fun d s =>
    (s, .ok (headerOf (fldN e 0 40) (word 512 d 0 64)))) entries s

/-- Enter a job of a model and count it as started. -/
def startModel (t : Ticket) (kind : JobKind) (n h : Nat) (m : Model) (io : List TensorHeader) (ins outs : List (Nat × Nat))
    (s : State) : State :=
  let b := t.cmd.berth
  let key := b.toNat * 1024 + h
  let (s, leaf) := leafFor t (some (b, BitVec.ofNat 10 h)) n s
  let j : Job := { kind := kind, ticket := t, berth := b, gen := t.gen, queue := pathQueue? t.cmd.path,
                   priority := pathPriority t s, basin := BitVec.ofNat 10 leaf, handle := BitVec.ofNat 10 h, model := m,
                   io := io, ins := ins, outs := outs, since := s.now16 }
  let (s, j) := placeModel leaf j s
  addJob j (s.modWork fun w => { w with started := tabMod 0 w.started key satInc })

/-- Checks 5 to 7 of R176, and the job. -/
def invokeIo (t : Ticket) (n h : Nat) (m : Model) (s : State) : State :=
  let b := t.cmd.berth
  let va := fldN t.cmd.params 64 40
  let k := m.io.length
  if va % 64 ≠ 0 || !s.readable b va (8 * k) then writeRecord t 0x008A noResult s
  else
    match readVirt t.src b va (8 * k) s with
    | (s, .ok d) =>
      let es := (upFrom 0 k).map fun i => word 64 d (8 * i) 8
      if !(es.all fun e => fldN e 40 24 == 0 && fldN e 0 40 % 64 == 0 && s.readable b (fldN e 0 40) 64) then
        writeRecord t 0x0089 noResult s
      else
        match readGiven t es s with
        | (s, .ok io) =>
          let ins := (io.take m.inputs).flatMap fun x => x.spans
          let outs := (io.drop m.inputs).flatMap fun x => x.outSpans
          if !((io.zip m.io).all fun x => x.1.agrees x.2) then writeRecord t 0x0089 noResult s
          else if !s.spansOk b ins false || !s.spansOk b outs true then writeRecord t 0x0066 noResult s
          else startModel t .model n h m io (ins ++ io.map fun x => x.headSpan) outs s
        | (s, a) => writeRecord t (readStatus 0x0089 a) noResult s
    | (s, a) => writeRecord t (readStatus 0x008A a) noResult s

/-- MODEL_INVOKE. -/
def opModelInvoke : OpInfo := { opcode := 0x1003, needsBerth := true, wellFormed := onlyFields [(0, 10), (16, 10), (64, 40)] }

/-- MODEL_INVOKE is checked and becomes a job. -/
def actModelInvoke (t : Ticket) (s : State) : State :=
  let h := fldN t.cmd.params 0 10
  let n := fldN t.cmd.params 16 10
  let m := s.dyn.cfg.model t.cmd.berth h
  match invokeFailure t n m s with
  | some st => writeRecord t st noResult s
  | none => invokeIo t n h m s

/-- The headers that a MODEL_INVOKE gives, as far as its I/O array can be read: an earlier command of the queue may still write
them (R116). -/
def invokeHeads (t : Ticket) (s : State) : List (Nat × Nat) :=
  let b := t.cmd.berth
  let k := (s.dyn.cfg.model b (fldN t.cmd.params 0 10)).io.length
  let va := fldN t.cmd.params 64 40
  (va, 8 * k) ::
    match (readVirt t.src b va (8 * k) s).2 with
    | .ok d => (upFrom 0 k).map fun i => (fldN (word 64 d (8 * i) 8) 0 40, 64)
    | _ => []

/-- MODEL_INVOKE. -/
def execModelInvoke (c : Cmd) (s : State) : Host.Outcome State Fault Refusal := carryJob opModelInvoke invokeHeads c actModelInvoke s

/-- MODEL_PRELOAD. -/
def opModelPreload : OpInfo := { opcode := 0x1011, needsBerth := true, wellFormed := onlyFields [(0, 10), (16, 10)] }

/-- MODEL_PRELOAD: in hot-set mode a job with no steps; in swap mode it completes with no effect. -/
def actModelPreload (t : Ticket) (s : State) : State :=
  let h := fldN t.cmd.params 0 10
  let n := fldN t.cmd.params 16 10
  let m := s.dyn.cfg.model t.cmd.berth h
  match invokeFailure t n m s with
  | some st => writeRecord t st noResult s
  | none =>
    if s.dyn.cfg.hotSet t.cmd.berth then startModel t .preload n h m [] [] [] s else writeRecord t 0 noResult s

/-- MODEL_PRELOAD. -/
def execModelPreload (c : Cmd) (s : State) : Host.Outcome State Fault Refusal :=
  carryJob opModelPreload (fun _ _ => []) c actModelPreload s

/-! Switching (R158 to R162) -/

/-- Reload waves of a shard to a physical tile (R161). -/
def reloadWaves (x : Shard) (p : Nat) : Nat :=
  if x.anchor = p then ceilDiv (x.weightBytes.toNat * 11) 10000 else ceilDiv x.weightBytes.toNat 512

/-- Does `a` go before `b` as a victim (R162)? Age over cost, cross-multiplied; ties by handle, then shard. -/
def evictsBefore (now : Nat) (a b : Resident) : Bool :=
  let x := (now - a.lastStart) * b.cost
  let y := (now - b.lastStart) * a.cost
  y < x || (x == y && (a.handle.toNat < b.handle.toNat || (a.handle == b.handle && a.shard < b.shard)))

/-- The victim among candidates. -/
def victimOf (now : Nat) : List Resident → Option Resident
  | [] => none
  | a :: t => match victimOf now t with
    | none => some a
    | some b => if evictsBefore now a b then some a else some b

/-- Make room on a tile for `need` granules of weights of berth `b`, and `work` of working store (R162). The flag: there is
room; else the shard waits, and what was freed stays free. `fuel` bounds the victims. -/
def makeRoom (p : Nat) (b : BitVec 6) (need work : Nat) : Nat → State → State × Bool
  | 0, s => (s, false)
  | fuel + 1, s =>
    let w := s.tileWork p
    let share := (tabGet {} s.dyn.cfg.residency b.toNat).hotShare.toNat
    let mine := w.residents.filter fun r => r.berth == b && !r.safety
    let held := (mine.map fun r => r.granules).foldl (· + ·) 0
    if held + need ≤ share ∧ need + work ≤ s.dyn.freeGranules p then (s, true)
    else
      match victimOf s.nowUs (mine.filter fun r => r.users.isEmpty) with
      | none => (s, false)
      | some v => makeRoom p b need work fuel (s.modTileWork p fun w => { w with residents := w.residents.filter fun r => r != v })

/-- The resident entry is shard `i` of a model. -/
def Resident.names (r : Resident) (b : BitVec 6) (h : BitVec 10) (i : Nat) : Bool := r.berth == b && r.handle == h && r.shard == i

/-- How a shard starts on its tile (R158 to R162, R453): its resident copy is used, its weights have to come, or there is no
room. -/
inductive WeightPlan where
  | resident | load | wait
  deriving DecidableEq, Repr

/-- The tile makes ready for a shard: victims are freed, and what is left to do with its weights is decided. -/
def planWeights (p i : Nat) (b : Job) (x : Shard) (s : State) : State × WeightPlan :=
  let hot := s.dyn.cfg.hotSet b.berth
  let work := x.work.toNat
  if b.kind = .sounding then (s, .load)
  else if (s.tileWork p).residents.any (fun r => r.names b.berth b.handle i && (r.safety || hot)) then
    (s, if work ≤ s.dyn.freeGranules p then .resident else .wait)
  else if hot then
    match makeRoom p b.berth x.weightGranules work 257 s with
    | (s, ok) => (s, if ok then .load else .wait)
  else (s, if x.weightGranules + work ≤ s.dyn.freeGranules p then .load else .wait)

/-- Read a shard's weights from its copy, through the columns that hold it. -/
def fetchWeights (p j i : Nat) (b : Job) (x : Shard) (s : State) : State × Option (List Byte) :=
  let fs := b.model.framesOf i
  match fs.find? fun f => s.columnHolds (columnOf (f * 0x10000)) .request with
  | some f => (blockAt (columnOf (f * 0x10000)) s, none)
  | none => readCopy (s.jobSrc j ((s.dyn.cfg.logicalOf p).getD 0)) fs x.weightBytes.toNat s

/-- The shard is in use on the tile, from its resident copy or from the weights that came. -/
def useWeights (p j i : Nat) (b : Job) (x : Shard) (loaded : Option (List Byte)) (s : State) : State :=
  let now := s.nowUs
  match loaded with
  | none =>
    let used := fun (r : Resident) => if r.names b.berth b.handle i then { r with users := j :: r.users, lastStart := now } else r
    s.modTileWork p fun w => { w with residents := w.residents.map used }
  | some d =>
    if b.kind = .sounding then modShard j i (fun y => { y with weights := d }) s
    else s.modTileWork p fun w => { w with residents := w.residents ++
      [{ berth := b.berth, handle := b.handle, shard := i, granules := x.weightGranules, lastStart := now,
         cost := reloadWaves x p, weights := d, users := [j] }] }

/-- The shard's switch is made: its waves and reload are counted, its granules and counter block are there. -/
def makeSwitch (p j i : Nat) (x : Shard) (loaded : Bool) (s : State) : State :=
  match counterBlock p j s with
  | none => s
  | some (s, _) =>
    let cost := max 4400 (if loaded then reloadWaves x p else 0)
    let s := regrant p (modShard j i (fun y => { y with switched := true, reloaded := loaded }) s)
    let s := s.modJob j fun b => { b with switchWaves := b.switchWaves + cost
                                          reloads := b.reloads + b2n (loaded && x.weightBytes != 0) }
    s.modSafety fun f => { f with sounding := f.sounding.map fun r => if r.job = j then { r with started := true } else r }

/-- The lines of a model's image that the switch fetches: header, tables (R148, R161). A line that is uncorrectable ends the
job (R473). -/
def imageRead (a : Src) (m : Model) (spans : List (Nat × Nat)) (s : State) : State × Bool :=
  let lines := spans.flatMap fun x => (linesOf x.1 x.2).map fun n => imageLine (m.units.getD (n / 1024) 0) (n % 1024 * 64)
  lines.eraseDups.foldl (fun x n =>
    if !x.2 then x
    else
      let col := columnOf (n * 64)
      if x.1.columnHolds col .request then (blockAt col x.1, true)
      else
        match readDramLine a n x.1 with
        | (s, d) => (s, d.isSome)) (s, true)

/-- What a switch of shard `i` reads of the image: the header, the shard's entry, its step entries and their parameter blocks. -/
def switchSpans (m : Model) (i : Nat) : List (Nat × Nat) :=
  let t := imageMap (word 512 m.image 0 64)
  (0, 64) :: (t.shardAt + 16 * i, 16) ::
    (m.steps.zipIdx.filter fun e => e.1.shard.toNat == i).flatMap fun e =>
      let at_ := t.stepAt + 32 * e.2
      [(at_, 32), (fldN (word 256 m.image at_ 32) 96 32, 48)]

/-- Switch to a shard whose tile is awake (R161). -/
def switchShard (j i p : Nat) (b : Job) (s : State) : State :=
  let x := b.model.shards.getD i {}
  let bad := fun (s : State) => failJob j .uncorrectable i 0 s
  match planWeights p i b x s with
  | (s, .wait) => s
  | (s, plan) =>
    if !counterRoom s p j then s
    else
      match imageRead (s.jobSrc j ((s.dyn.cfg.logicalOf p).getD 0)) b.model (switchSpans b.model i) s with
      | (s, false) => bad s
      | (s, true) =>
        if plan = .resident then
          if (s.tileWork p).residents.any (fun r => r.names b.berth b.handle i && r.bad) then bad s
          else makeSwitch p j i x false (useWeights p j i b x none s)
        else
          match fetchWeights p j i b x s with
          | (s, none) => bad s
          | (s, some d) => makeSwitch p j i x true (useWeights p j i b x (some d) s)

/-- A placed shard that has not started may start on its tile: one that left the job's basin, or takes no new work, may not (R62). -/
def State.placeHolds (s : State) (b : Job) (x : ShardRun) : Bool :=
  b.kind == .sounding || (s.dyn.tileOpen x.tile && (x.borrowed || b.model.safety || s.dyn.cfg.leafOf x.tile == some b.basin.toNat))

/-- A shard that may not start on its tile is placed on another of the basin, if there is one. -/
def moveShard (j : Nat) (b : Job) (x : ShardRun) (s : State) : State :=
  let n := b.basin.toNat
  match s.dyn.pickTile n b x.shard ((s.dyn.openTiles n).filter fun l => !b.tiles.contains l) with
  | none => s
  | some l =>
    (modShard j x.shard (fun y => { y with tile := l }) (noteChosen n l s)).modJob j fun b =>
      { b with tiles := b.tiles.map fun k => if k = x.tile then l else k }

/-- SHARD_SWITCH (R161): the tile is awake, the weights, working granules and a counter block are there. A sleeping tile starts
to wake. Not to be switched, or waiting for room: no other effect. -/
def execShardSwitch (job : Nat) (shard : BitVec 5) (s : State) : Host.Outcome State Fault Refusal :=
  match s.job job with
  | none => .next s
  | some b =>
    match b.shards.find? fun (x : ShardRun) => x.shard == shard.toNat with
    | none => .next s
    | some x =>
      if !b.placed || x.switched then .next s
      else if !s.placeHolds b x then .next (moveShard job b x s)
      else
        match s.dyn.cfg.physOf x.tile with
        | none => .next s
        | some p =>
          if !s.tileAwake p then .next (startWake p s) else .next (unlessHeld (switchShard job shard.toNat p b) s)

/-! Steps (R150 to R153) -/

/-- The engine of a step kind: 0 array, 1 lanes, 2 NI. -/
def stepEngine (k : BitVec 4) : Nat := if k = 1 ∨ k = 2 then 0 else if k = 3 then 1 else 2

/-- The step may start: its shard has switched, earlier steps on its engine have finished, its wait holds. -/
def stepReady (s : State) (j : Nat) (b : Job) (x : ShardRun) (n : Nat) : Bool :=
  match b.model.steps[n]? with
  | none => false
  | some e =>
    x.switched && e.shard.toNat == x.shard && !x.done.contains n && !x.running.contains n
    && (b.model.steps.zipIdx.all fun y =>
      !(y.2 < n && y.1.shard == e.shard && stepEngine y.1.kind == stepEngine e.kind) || x.done.contains y.2)
    && (!e.waitEn || match s.dyn.cfg.physOf x.tile with
      | some p => waitHolds (counterOf p j e.waitCtr s) e.waitTarget
      | none => false)

/-- The header that a step parameter names: the one that the invocation gives for a declared header (R153), else the
64 bytes read by the step's engine. A sounding, which no invocation makes, has the declared ones. -/
def stepHeader (g : Engine) (b : Job) (va : Nat) (s : State) : State × Access TensorHeader :=
  match b.model.io.findIdx? fun x => x.addr.toNat == va with
  | some i => (s, .ok (b.io.getD i (b.model.io.getD i {})))
  | none => thenA (engineRead g va 64 s) fun d s => (s, .ok (headerOf va (BitVec.ofNat 512 (ofBytes d))))

/-- The array run of a MATMUL or CONVERT step on the shard's own tile; none where the parameters are not valid. -/
def stepArray (g : Engine) (b : Job) (e : ModelStep) (s : State) : State × Access (Option ArrayRun) :=
  let p := e.params
  let at_ := fun i => fldN p i 40
  if e.kind = 1 then
    thenA (eachA (fun va s => stepHeader g b va s) [at_ 0, at_ 64, at_ 128] s) fun hs s =>
      match hs with
      | [x, y, z] =>
        let bad := !(opTensorMatmul.wellFormed p) || (matmulFields x y z (fldN p 192 40) (bitAt p 258)).isSome
        (s, .ok (if bad then none else some
          { a := x, b := y, c := z, bias := fldN p 192 40, stochastic := bitAt p 256, accumulate := bitAt p 258,
            tiles := [g.tile] }))
      | _ => (s, .ok none)
  else
    thenA (eachA (fun va s => stepHeader g b va s) [at_ 0, at_ 64] s) fun hs s =>
      match hs with
      | [x, z] =>
        let bad := !(opTensorConvert.wellFormed p) || (convertFields x z (bitAt p 128)).isSome
        (s, .ok (if bad then none else some
          { convert := true, a := x, c := z, stochastic := bitAt p 128, tiles := [g.tile] }))
      | _ => (s, .ok none)

/-- The grid of a LANES step; none where the parameters or the program are not valid. -/
def stepLanes (g : Engine) (b : Job) (n : Nat) (e : ModelStep) (s : State) : State × Access (Option LaneRun) :=
  let d := dispatchParams e.params
  let q := s.dyn.cfg.program b.berth d.slot
  if !(opLaneDispatch.wellFormed e.params) || (dispatchFailure d q).isSome then (s, .ok none)
  else thenA (engineRead g d.arg (4 * q.uniforms.toNat) s) fun a s => (s, .ok (some (laneRunOf d q (leWords a) n)))

/-- FETCH, WRITE_BACK and SEND copy at once (R151); none where the parameters are not valid or the addresses do not
suit. SEND writes the working store of the shard it names. -/
def stepCopy (g : Engine) (e : ModelStep) (s : State) : State × Access (Option Unit) :=
  let p := e.params
  let src := fldN p 0 40
  let dst := fldN p 64 40
  let n := fldN p 128 32
  let dest := if e.kind = 6 then { g with shard := some (fldN p 160 5) } else g
  let suits := match e.kind.toNat with
    | 4 => src < workBase && workBase ≤ dst
    | 5 => workBase ≤ src && dst < workBase
    | _ => workBase ≤ src && workBase ≤ dst
  if n % 64 ≠ 0 || !suits then (s, .ok none)
  else thenA (engineRead g src n s) fun d s => thenA (engineWrite dest dst d s) fun _ s => (s, .ok (some ()))

/-- A step's access or parameters failed: the job is torn down (R179); parameters that are not valid count as an
illegal instruction. -/
def stepFault {α : Type} (j i n : Nat) (a : Access α) (s : State) : State :=
  match a with
  | .addressFault => failJob j .addressFault i n s
  | .uncorrectable => failJob j .uncorrectable i n s
  | .ok _ => failJob j .illegalInstruction i n s

/-- Start a step that is ready. -/
def startStep (j i n : Nat) (b : Job) (x : ShardRun) (e : ModelStep) (s : State) : State :=
  let g : Engine := { job := j, tile := x.tile, shard := some i, step := n }
  let run := fun s : State => modShard j i (fun y => { y with running := n :: y.running }) s
  match stepEngine e.kind with
  | 0 =>
    match stepArray g b e s with
    | (s, .ok (some r)) =>
      let (s, r) := beginRun b.berth r s
      modShard j i (fun y => { y with array := some (n, r) }) (run s)
    | (s, a) => stepFault j i n a s
  | 1 =>
    match stepLanes g b n e s with
    | (s, .ok (some r)) => modShard j i (fun y => { y with lanes := some r }) (run s)
    | (s, a) => stepFault j i n a s
  | _ =>
    match stepCopy g e s with
    | (s, .ok (some _)) => finishStep j i n s
    | (s, a) => stepFault j i n a s

/-- The shard that a SEND writes has switched. -/
def sendReady (b : Job) (e : ModelStep) : Bool :=
  e.kind != 6 || b.shards.any fun y => y.shard == fldN e.params 160 5 && y.switched

/-- A step of an engine on a logical tile: a sleeping tile starts to wake; under an issue cap of 0 % a pool tile starts nothing
(R37); a unit that cannot serve one of its accesses holds it. -/
def onTile (l : Nat) (f : Nat → State → State) (s : State) : State :=
  match s.dyn.cfg.physOf l with
  | none => s
  | some p => if !s.tileAwake p then startWake p s else if !s.issues p then s else unlessHeld (f p) s

/-- A step whose reads of SRAM meet something (R214). -/
def withSram (w : SramWord) (p : Nat) (a : Src) (bad go : State → State) (s : State) : State :=
  match sramWord w p a s with
  | (s, true) => go s
  | (s, false) => bad s

/-- MODEL_STEP_START (R150). Not ready: no effect. -/
def execModelStepStart (job : Nat) (turn : ShardTurn) (step : Nat) (s : State) : Host.Outcome State Fault Refusal :=
  match s.job job with
  | none => .next s
  | some b =>
    match b.shards.find? fun (x : ShardRun) => x.shard == turn.shard.toNat with
    | none => .next s
    | some x =>
      let e := b.model.steps.getD step {}
      if b.kind = .preload || !stepReady s job b x step || !sendReady b e then .next s
      else .next (onTile x.tile (fun p s =>
        withSram turn.sram p (s.jobSrc job x.tile) (failJob job .uncorrectable turn.shard.toNat step) (startStep job turn.shard.toNat step b x e) s) s)

/-! The array's turn (R105, R169, R172) -/

/-- An array run that a tile could load for: its job, its shard, and its rank: a sounding first, own work over
borrowed work, higher priority, the older placed. -/
structure Turn where
  job : Nat
  shard : Option Nat
  rank : Nat
  deriving DecidableEq, Repr

/-- The runs that want the array of a logical tile. -/
def turnsOn (s : State) (l : Nat) : List Turn :=
  s.dyn.work.jobs.flatMap fun kv => match kv.2 with
    | none => []
    | some b =>
      if !b.placed then [] else
      let rank := fun (borrowed : Bool) =>
        ((b2n (b.kind != .sounding) * 2 + b2n borrowed) * 8 + (7 - b.priority.toNat)) * 2 ^ 64 + b.placedNo
      let steps := (b.shards.filter fun x => x.tile == l && x.array.isSome).map fun x =>
        ({ job := kv.1, shard := some x.shard, rank := rank x.borrowed } : Turn)
      match b.array with
      | some r => if !r.finished && r.nextTile == l then { job := kv.1, shard := none, rank := rank (b.lent == some l) } :: steps else steps
      | none => steps

/-- The run whose turn it is on a logical tile. -/
def turnOn (s : State) (l : Nat) : Option Turn := minBy (fun t => t.rank) (turnsOn s l)

/-- A load of a tensor command. -/
def loadTensor (j : Nat) (b : Job) (r : ArrayRun) (s : State) : State :=
  match runLoad { job := j, tile := r.nextTile } b.berth r s with
  | (s, .ok r) => s.modJob j fun b => { b with array := some r }
  | (s, a) => accessFailed j a 0 0 s

/-- A load of a step of a shard; the last load finishes the step. -/
def loadStep (j i n : Nat) (b : Job) (x : ShardRun) (r : ArrayRun) (s : State) : State :=
  if r.finished then finishStep j i n s
  else
    match runLoad { job := j, tile := x.tile, shard := some i, step := n } b.berth r s with
    | (s, .ok r) =>
      let s := modShard j i (fun y => { y with array := some (n, r) }) s
      if r.finished then finishStep j i n s else s
    | (s, a) => accessFailed j a i n s

/-- The array of a logical tile makes a load when it is the run's turn. -/
def arrayTurn (sram : SramWord) (l j : Nat) (shard : Option Nat) (step : Nat) (load : State → State) (s : State) : State :=
  if (turnOn s l).map (fun t => (t.job, t.shard)) ≠ some (j, shard) then s
  else onTile l (fun p s => withSram sram p (s.jobSrc j l) (failJob j .uncorrectable (shard.getD 0) step) load s) s

/-- ARRAY_LOAD (R105, R107, R169): the next load of a tensor command, or of a shard's step, when the array is its.
Else no effect. -/
def execArrayLoad (job : Nat) (turn : ShardTurn) (s : State) : Host.Outcome State Fault Refusal :=
  match s.job job with
  | none => .next s
  | some b =>
    if !b.placed then .next s
    else
      match b.array with
      | some r => .next (if r.finished then s else arrayTurn turn.sram r.nextTile job none 0 (loadTensor job b r) s)
      | none =>
        match b.shards.find? fun (x : ShardRun) => x.shard == turn.shard.toNat with
        | none => .next s
        | some x =>
          match x.array with
          | none => .next s
          | some (n, r) => .next (arrayTurn turn.sram x.tile job (some turn.shard.toNat) n (loadStep job turn.shard.toNat n b x r) s)

/-! Borrowing and ends (R172, R178) -/

/-- A leaf basin is in the performance pool. -/
def Shadow.perfBasin (c : Shadow) (n : Nat) : Bool := c.basinUsed n && !c.safetyBasin n

/-- A job that waits since `since` may borrow a logical tile (R172): it has waited 50 us with no tile of its basin free, the tile has
been without placed work of its own for 50 us and takes work, and its basin is not DEDICATED to another berth. -/
def mayBorrow (s : State) (b : Job) (since l p : Nat) : Bool :=
  let c := s.dyn.cfg
  !b.placed && b.kind != .pass && c.perfBasin b.basin.toNat && since + 50 * us16 ≤ s.now16 && !b.model.safety && b.kind != .sounding
  && s.dyn.tileOpen l && s.dyn.load l == 0 && (s.tile p).idleSince + 50 * us48 ≤ s.dyn.time.wc
  && match c.leafOf l with
    | some n => n != b.basin.toNat && c.perfBasin n && !((c.basin n).dedicated && (c.basin n).berth != b.berth)
    | none => false

/-- The job placed with a borrowed tile, if the tiles of its basin and that one suffice. -/
def borrowPlace (b : Job) (l : Nat) (s : State) : Option (State × Job) :=
  let b := { b with lent := some l }
  match b.array with
  | some r =>
    let (s, r) := beginRun b.berth { r with tiles := [l], split := 1 } s
    some (s, { b with tiles := [l], array := some r })
  | none =>
    if b.kind = .dispatch then some (s, b)
    else
      let k := b.model.shards.length
      let own := (s.dyn.openTiles b.basin.toNat).take (k - 1)
      if own.length + 1 < k ∨ k = 0 then none
      else
        let xs := (own ++ [l]).zipIdx.map fun x => ({ shard := x.2, tile := x.1, borrowed := x.1 == l } : ShardRun)
        some (s, { b with shards := xs, tiles := own ++ [l] })

/-- The job has nothing left to do: its steps are done, its shards loaded, or its loads made. -/
def Job.finished (b : Job) : Bool :=
  b.placed && match b.kind with
  | .model => b.shards.all fun x => x.switched && (b.model.steps.zipIdx.all fun e =>
      e.1.shard.toNat != x.shard || x.done.contains e.2)
  | .preload => b.shards.all fun x => x.switched
  | .matmul | .convert => match b.array with
    | some r => r.finished
    | none => false
  | .dispatch | .sounding | .pass => false

/-- JOB_COMPLETE (R178, R179): a finished job completes once its requests have; a fault of a step tears the job down. Neither, or
a render pass (R264): no effect. -/
def execJobComplete (job : Nat) (fault : Option (JobFault × BitVec 5 × BitVec 12)) (s : State) : Host.Outcome State Fault Refusal :=
  match s.job job, fault with
  | none, _ => .next s
  | some b, some f => if b.kind = .pass then .next s else .next (failJob job f.1 f.2.1.toNat f.2.2.toNat s)
  | some b, none => if b.finished && !s.jobWaits job then .next (completeJob job s) else .next s

/-! The copies of registered models and loaded programs (R131, R154, R186) -/

/-- Write whole lines from a line on; the last is filled up with zeros. -/
def Memory.setLines : Nat → Nat → List Byte → Memory → Memory
  | 0, _, _, m => m
  | n + 1, l, bs, m => Memory.setLines n (l + 1) (bs.drop 64) (m.setLine l bs)

/-- Write bytes into 64 KB pieces that begin at the lines given. -/
def Memory.setPieces : List Nat → List Byte → Memory → Memory
  | [], _, m => m
  | l :: t, bs, m => Memory.setPieces t (bs.drop 0x10000) (m.setLines (ceilDiv (min bs.length 0x10000) 64) l bs)

/-- The image goes to its units, and each shard's weights to their frames. -/
def Memory.storeModel (x : Model) (m : Memory) : Memory :=
  x.shards.zipIdx.foldl (fun m y => m.setPieces ((x.framesOf y.2).map (· * 1024)) y.1.weights)
    (m.setPieces (x.units.map fun u => imageLine u 0) x.image)

/-- The code goes to its slot. -/
def Memory.storeProgram (b slot : Nat) (code : List Byte) (m : Memory) : Memory :=
  m.setPieces ((upFrom 0 4).map fun i => programLine b slot (i * 0x10000)) code

/-- The models that a cycle changes, by key. -/
def modelsChanged (old new : Shadow) : List Nat :=
  ((old.models ++ new.models).map fun kv => kv.1).eraseDups.filter fun k => tabGet {} old.models k != tabGet {} new.models k

/-- The copies that a lock cycle makes live are in the columns: images, weights, code. -/
def storeCopies (old : Shadow) (s : State) : State :=
  let new := s.dyn.cfg
  let programs := ((new.programs.map fun kv => kv.1).filter fun k => tabGet {} old.programs k != tabGet {} new.programs k)
  s.modMem fun m =>
    programs.foldl (fun m k => m.storeProgram (k / 64) (k % 64) (tabGet {} new.programs k).code)
      ((modelsChanged old new).foldl (fun m k => m.storeModel (tabGet {} new.models k)) m)

end Sys2Proof.Machine
end

