-- ==== Sys2Proof/Machine/Close.lean ====
section
/-! DEFINITION. The close of a shadow: retirements, then every command checked again in sequence order (R69 to R74,
R199, R219, R380, R406, R470, R472, R476, R479). -/

namespace Sys2Proof.Machine

/-! Retirement of tiles (R65, R476, R479) -/


/-- The unassigned spares, ascending. -/
def Shadow.spareTiles (c : Shadow) : List Nat := (upFrom 0 36).filter fun p => tabGet TileKind.spare c.tiles p == .spare

/-- The enabled logical tiles outside the safety basin, ascending. -/
def Shadow.poolTiles (c : Shadow) : List Nat := c.enabledTiles.filter fun t => !c.safetyTile t

/-- A logical number ceases to exist: it leaves its basin and every TILE_GRANT (R409). -/
def Shadow.cease (t : Nat) (c : Shadow) : Shadow :=
  let gone : BitVec 32 := BitVec.ofNat 32 (2 ^ t)
  let c := c.takeTiles gone
  let grants := tabMap {} (fun _ (d : BerthDesc) => { d with tileGrant := d.tileGrant &&& ~~~ gone }) c.berths
  { c with ceased := c.ceased ||| BitVec.ofNat 36 (2 ^ t), berths := grants }

/-- A physical tile carries another kind. -/
def Shadow.setTile (p : Nat) (k : TileKind) (c : Shadow) : Shadow := { c with tiles := tabPut .spare c.tiles p k }

/-- The retirement of a logical tile's physical tile without a spare (R65, R476). -/
def Shadow.retireBare (p l : Nat) (c : Shadow) : Shadow × Retirement :=
  if !c.safetyTile l then ((c.setTile p (.retired 2)).cease l, { tile := p, logical := some l })
  else
    match c.poolTiles.getLast? with
    | none => (c.setTile p (.retired 2), { tile := p, logical := some l })
    | some t =>
      match c.physOf t with
      | none => (c.setTile p (.retired 2), { tile := p, logical := some l })
      | some q =>
        (((c.setTile p (.retired 2)).setTile q (.logical l)).cease t, { tile := p, logical := some l, heir := some q, taken := some t })

/-- The retirement of a physical tile (R476); none when it is retired already. -/
def Shadow.retireTile (p : Nat) (c : Shadow) : Option (Shadow × Retirement) :=
  match tabGet TileKind.spare c.tiles p with
  | .retired _ => none
  | .spare => some (c.setTile p (.retired 2), { tile := p })
  | .logical l =>
    match minBy (hops p) c.spareTiles with
    | some q => some ((c.setTile p (.retired 2)).setTile q (.logical l), { tile := p, logical := some l, heir := some q })
    | none => some (c.retireBare p l)

/-- The order of R476: tiles that carry safety-basin logical tiles first, each group ascending. -/
def Shadow.retireOrder (c : Shadow) (ps : List Nat) : List Nat :=
  let safe := fun p => match c.logicalOf p with
    | some l => c.safetyTile l
    | none => false
  let up := sortBy id ps.eraseDups
  up.filter safe ++ up.filter fun p => !safe p

/-- The retirements of one lock cycle. -/
def retireTiles (ps : List Nat) (c : Shadow) : Shadow × List Retirement :=
  (c.retireOrder ps).foldl (fun a p => match a.1.retireTile p with
    | some (c, r) => (c, a.2 ++ [r])
    | none => a) (c, [])

/-- TILE_RETIRE (R479, R480), on the shadow left by earlier commands. -/
def ruleTileRetire : ConfigRule := fun _ t c =>
  if !t.fromSupervisor then .refuse 0x0100 noResult
  else
    match c.retireTile (tileOfXY t.cmd.params) with
    | some (c, _) => .pass c noResult
    | none => .refuse 0x0056 noResult

/-- TILE_RETIRE; 6 and 7 of X and Y are reserved. -/
def opTileRetire : OpInfo :=
  { opcode := 0x8011, wellFormed := fun p => onlyFields [(0, 3), (3, 3)] p && fldN p 0 3 < 6 && fldN p 3 3 < 6 }

/-- TILE_RETIRE retires a physical tile at the next lock cycle. -/
def execTileRetire (c : Cmd) (s : State) : Host.Outcome State Fault Refusal := carry opTileRetire c (acceptConfig ruleTileRetire) s

/-! The configuration commands by opcode -/

/-- The checks and effect of every configuration command. -/
def configRules : List (Nat × ConfigRule) :=
  [(0x0010, ruleLockCommit), (0x0018, ruleSetPowerPolicy),
   (0x1001, ruleModelRegister), (0x1002, ruleModelUnregister), (0x1010, ruleSetResidency),
   (0x1040, ruleProgramLoad), (0x1041, ruleProgramUnload),
   (0x3001, ruleCtxCreate), (0x3002, ruleCtxDestroy), (0x3004, ruleStateLoad), (0x3005, ruleStateFree), (0x3011, ruleBinGrow),
   (0x3030, ruleDisplayConfigure),
   (0x4001, ruleCutSet), (0x4002, ruleCutClear), (opStreamConfig.opcode.toNat, ruleStreamConfig),
   (opCsiRx.opcode.toNat, ruleCsiRx), (opTrigger.opcode.toNat, ruleTrigger), (opCsiTx.opcode.toNat, ruleCsiTx),
   (opI3cConfig.opcode.toNat, ruleI3cConfig),
   (0x5001, ruleFusionGroup), (0x5002, ruleFusionStream), (0x5003, rulePair),
   (0x6001, ruleTimeDomain), (0x6002, ruleTimePort), (0x6003, ruleTimeSelect),
   (0x7001, ruleGaugeSet), (0x7002, ruleGaugeClear), (0x7010, ruleSoundingSet),
   (0x8001, ruleServiceEnter), (0x8002, ruleServiceLeave), (0x8011, ruleTileRetire),
   (0x9001, ruleBerthCreate), (0x9002, ruleBerthModify), (0x9003, ruleBerthReset), (0x9004, ruleBerthDestroy), (0x9006, ruleBerthGrant),
   (0x9010, ruleBasinCreate), (0x9011, ruleBasinModify), (0x9012, ruleBasinDestroy),
   (0x9020, ruleQueueCreate), (0x9021, ruleQueueModify), (0x9022, ruleQueueDestroy), (0x9024, ruleQueueResume),
   (0x9030, ruleMem), (0x9031, ruleMem), (0x9032, ruleMem), (0x9033, ruleMem)]

/-- The rule of a configuration opcode. -/
def configRule (op : BitVec 16) : Option ConfigRule := (configRules.find? fun r => r.1 == op.toNat).map fun r => r.2

/-! What comes before the commands -/

/-- A frame is retired (R470): the entry that maps it is invalid, the owner's MEM_USED falls. -/
def Shadow.retireFrame (f : Nat) (c : Shadow) : Shadow :=
  let owner := match tabGet .free c.frames f with
    | .held b => some b
    | .freed b _ => some b
    | _ => none
  let c := match owner with
    | some b => c.poolFrame f b
    | none => c
  { c with xlat := c.xlat.filter fun e => !(e.2.valid && e.2.target == 0 && e.2.frame.toNat == f)
           frames := tabPut .free c.frames f .retired }

/-- A CLOSING berth has nothing left to zero (R406): no frame of it waits, no tile of it is in HANDOVER. -/
def State.berthDrained (s : State) (b : Nat) : Bool :=
  let mine := BitVec.ofNat 6 b
  !tabAny (fun _ x => match x with
    | .held o => o == mine
    | .freed o _ => o == mine
    | _ => false) s.dyn.cfg.frames
  && (setBits (s.dyn.cfg.berth mine).tileGrant 32).all fun t => !s.dyn.inHandover t

/-- A berth becomes FREE (R406). -/
def Shadow.freeBerth (b : Nat) (c : Shadow) : Shadow :=
  { c with grants := tabMap {} (fun _ g => if g.berth.toNat = b then {} else g) c.grants
           basins := tabMap {} (fun _ d => if d.berth.toNat = b then {} else d) c.basins
           programs := tabMap {} (fun k p => if k / 64 = b then {} else p) c.programs
           models := tabMap {} (fun k m => if k / 1024 = b then {} else m) c.models
           residency := tabPut {} c.residency b {}
           berths := tabMod {} c.berths b fun d => { gen := d.gen } }

/-- The berths that become FREE at this cycle. -/
def State.closingDone (s : State) : List Nat := tabKeys (fun b d => d.state == .closing && s.berthDrained b) s.dyn.cfg.berths

/-- Entries of a memory command that commit now (R219); what is unmapped is freed. -/
def Shadow.applyEntries (cycle : Nat) (es : List (Nat × XlatEntry)) (c : Shadow) : Shadow :=
  let gone := es.filterMap fun e =>
    let x := tabGet {} c.xlat e.1
    if x.valid ∧ x.target = 0 ∧ !e.2.valid then some (x.frame.toNat, x.owner) else none
  { c with xlat := putEntries c.xlat es
           frames := gone.foldl (fun t f => if tabGet .free t f.1 = .held f.2 then tabPut .free t f.1 (.freed f.2 cycle) else t) c.frames }

/-! The pass over the commands -/

/-- Where the pass stands: the state that the rules see, the shadow so far, the commands that passed with their
results, those refused, and the translation entries that may still change (R199). -/
structure Pass where
  view : State
  cfg : Shadow
  done : List (Ticket × Result) := []
  refused : List (Ticket × Nat × Result) := []
  budget : Nat := 4096

/-- A command waits for a later cycle. -/
def Pass.hold (t : Ticket) (p : Pass) : Pass := { p with view := p.view.modLock fun k => { k with waiting := k.waiting ++ [t] } }
/-- A command is refused. -/
def Pass.refuse (t : Ticket) (st : Nat) (r : Result) (p : Pass) : Pass := { p with refused := p.refused ++ [(t, st, r)] }
/-- A command passes. -/
def Pass.accept (t : Ticket) (c : Shadow) (r : Result) (p : Pass) : Pass := { p with view := p.view.bump, cfg := c, done := p.done ++ [(t, r)] }

/-- The number of the cycle that commits. -/
def Pass.cycle (p : Pass) : Nat := p.view.lock.number.toNat + 1

/-- The entries of commands that commit over several cycles go on, at most as many as may change (R219). -/
def Pass.goOn (l : LongMap) (p : Pass) : Pass :=
  let now := if l.whole && p.budget < l.todo.length then [] else l.todo.take p.budget
  let p := { p with cfg := p.cfg.applyEntries p.cycle now, budget := p.budget - now.length }
  let left := l.todo.drop now.length
  if left.isEmpty then { p with done := p.done ++ [(l.ticket, l.result)] }
  else { p with view := p.view.modLock fun k => { k with longMaps := k.longMaps ++ [{ l with todo := left }] } }

/-- A memory command (R199, R200, R219). One whose entries find no room in the cycle is checked, and holds its frames, with
the others, and commits in a later cycle. -/
def Pass.memory (t : Ticket) (p : Pass) : Pass :=
  if !t.cmd.device && memMustWait p.view t.cmd.berth then p.hold t
  else
    match memPlan p.view t p.cfg with
    | .refuse st => p.refuse t st noResult
    | .plan c es =>
      if es.length ≤ p.budget then
        { (p.accept t { c with xlat := putEntries c.xlat es } noResult) with budget := p.budget - es.length }
      else
        let frames := if t.opcode = 0x9032 then p.cfg.frames else c.frames
        { p with cfg := { c with frames := frames } }.goOn
          { ticket := t, whole := decide (es.length ≤ 4096), berth := t.cmd.berth, todo := es, result := noResult }

/-- One command is checked again. A TILE_RETIRE has had its effect already. -/
def Pass.check (p : Pass) (t : Ticket) : Pass :=
  if t.opcode.toNat / 16 = 0x903 then p.memory t
  else if t.opcode = 0x8011 then
    if p.view.lock.retireTiles.contains (tileOfXY t.cmd.params) then p.accept t p.cfg noResult else p.refuse t 0x0056 noResult
  else
    match configRule t.opcode with
    | none => p
    | some rule =>
      match rule p.view t p.cfg with
      | .pass c r => p.accept t c r
      | .refuse st r => p.refuse t st r
      | .wait => p.hold t

/-- A command that its berth's new generation leaves behind (R380); the one that raises it stays. -/
def Ticket.current (t : Ticket) (c : Shadow) : Bool :=
  t.cmd.device || t.opcode == 0x9003 || t.opcode == 0x9004 || (c.berth t.cmd.berth).gen == t.gen

/-- Check commands in order, again without those that the cycle itself leaves behind; `fuel` bounds their number. -/
def recheck : Nat → Pass → List Ticket → Pass
  | 0, p, _ => p
  | fuel + 1, p, ts =>
    let r := ts.foldl Pass.check p
    if ts.all fun t => t.current r.cfg then r else recheck fuel p (ts.filter fun t => t.current r.cfg)

/-- The tiles that TILE_RETIRE commands of the shadow retire. -/
def State.retireCommands (s : State) : List Nat :=
  (((s.lock.openCmds.filter fun t => t.opcode == 0x8011).map fun t => tileOfXY t.cmd.params).eraseDups).filter fun p =>
    !(tabGet TileKind.spare s.dyn.cfg.tiles p).isRetired && !s.lock.retireTiles.contains p

/-- The shadow before its commands: frames, lost entries, berths that close, and tiles. -/
def closeBase (s : State) : Shadow × List Retirement :=
  let c := { s.dyn.cfg with genRaise := [], resumes := [] }
  let c := s.lock.retireFrames.foldl (fun c f => c.retireFrame f) c
  let c := { c with xlat := s.lock.lostEntries.foldl (fun x n => tabPut {} x n {}) c.xlat }
  let c := s.closingDone.foldl (fun c b => c.freeBerth b) c
  retireTiles (s.lock.retireTiles ++ s.retireCommands) c

/-- The pass at a close: what lies before it has been applied. -/
def closePass (s : State) : Pass × List Retirement :=
  let (c, rs) := closeBase s
  let cleared := tabKeys (fun _ v => v == some true) s.lock.voids
  let view := s.modLock fun k =>
    { k with openCmds := [], waiting := [], longMaps := [], retireTiles := s.retireCommands, clearing := cleared,
             voids := tabMap none (fun _ v => if v = some true then none else v) k.voids }
  let p : Pass := { view := view, cfg := c, budget := 4096 - (s.dyn.cfg.xlat.length - c.xlat.length) }
  let p := s.lock.longMaps.foldl (fun p l => p.goOn l) p
  let ts := s.lock.openCmds
  (recheck (ts.length + 1) p ts, rs)

/-- The shadow closes: later commands go to the next one. -/
def closeShadow (s : State) : State :=
  let (p, rs) := closePass s
  let k := p.view.lock
  let next := { p.cfg with genRaise := [], resumes := [] }
  let s := { s with free := p.view.free }
  let s := s.modLock fun x =>
    { x with phase := .closed, staged := p.cfg, stagedCmds := p.done, opn := next, openCmds := k.waiting, waiting := k.waiting,
             longMaps := k.longMaps, closeBy := none, retireTiles := [], retireFrames := [], lostEntries := [],
             clearing := k.clearing, retirements := rs, goneFrames := x.retireFrames }
  p.refused.foldl (fun s r => writeRecord r.1 r.2.1 r.2.2 s) s

/-- A lock cycle can go on: bring-up is done and Veldon runs (R472). -/
def State.locks (s : State) : Bool := s.dyn.bring.ready && !s.dyn.errors.veldonHalted

/-- SHADOW_CLOSE (R69, R73, R74): the firmware closes the shadow, once the configuration before the live one has been
freed. Else: no effect. -/
def execShadowClose (s : State) : Host.Outcome State Fault Refusal :=
  if !s.locks || s.lock.phase != .idle then .next s else .next (closeShadow s)

end Sys2Proof.Machine
end

