-- ==== Sys2Proof/Machine/Commit.lean ====
section
/-! DEFINITION. The commit edge: what a new generation and a retirement end, what becomes live, the snapshot, the
records (R14, R43, R62, R63, R69 to R72, R146, R160, R181, R258, R263, R366, R380, R398, R406, R412, R470, R476). -/

namespace Sys2Proof.Machine

/-- The numbers of the jobs that satisfy a condition. -/
def Work.jobsWhere (p : Job → Bool) (w : Work) : List Nat :=
  tabKeys (fun _ j => match j with
    | some j => p j
    | none => false) w.jobs

/-- The berths whose generation a cycle increments. -/
def raisedBerths (old new : Shadow) : List Nat :=
  (upFrom 0 64).filter fun b => (tabGet {} old.berths b).gen != (tabGet {} new.berths b).gen

/-! A new generation (R412) -/

/-- A tile has state of a new handover to work off. -/
def beginHandover (zero reload : Bool) (p : Nat) (s : State) : State :=
  startWake p (s.modTile p fun d => { d with handover := some (match d.handover with
    | some h => { zero := h.zero || zero, reload := h.reload || reload }
    | none => { zero := zero, reload := reload }) })

/-- Jobs and passes of a berth stop without a record; the tiles they held zero their state. -/
def stopJobs (b : BitVec 6) (s : State) : State :=
  let jobs := s.dyn.work.jobsWhere fun j => j.berth == b
  let passes := tabKeys (fun n p => p.job.isSome && (s.dyn.cfg.context n).berth == b) s.dyn.raster.passes
  let tiles := (upFrom 0 36).filter fun p =>
    jobs.any (fun j => (s.jobTiles j).contains p) || passes.any (fun n => tabGet 0 (s.tileWork p).raster n != 0)
  let s := jobs.foldl (fun s j => releaseJob j s) s
  let s := passes.foldl (fun s n => dropPass n s) s
  tiles.foldl (fun s p => beginHandover false false p s) s

/-- Samples, transfers and frames of a berth in progress stop (R340, R366). -/
def stopSensors (b : BitVec 6) (s : State) : State :=
  let s := (upFrom 0 32).foldl (fun s n => match (s.stream n).sample with
    | some x => if x.berth = b then dropSample n .noRoute s else s
    | none => s) s
  let s := (s.dyn.ingest.elastic.flatMap fun k => k.2.filter fun x => x.data.isNone && x.sample.berth == b).foldl
    (fun s x => dropNumber x.stream x.sample .noRoute s) s
  let s := dropBerthSamples b s
  let s := (upFrom 0 4).foldl (fun s g => if (s.dyn.cfg.group g).berth = b then resetGroup g s else s) s
  s.modIngest fun g =>
    { g with tx := tabMap none (fun _ x => match x with
               | some y => if y.1.cmd.berth = b then none else some y
               | none => none) g.tx
             xfer := tabMap none (fun _ x => match x with
               | some y => if y.ticket.cmd.berth = b then none else some y
               | none => none) g.xfer }

/-- Requests whose requester the berth's new generation leaves behind. -/
def stopRequests (b : BitVec 6) (s : State) : State :=
  let gone := fun (r : Requester) => match r with
    | .context _ j => (s.job j).isNone
    | .edge _ e => e == b
    | .hart _ => false
  let keep := fun (h : HeldReq) => match h.instr with
    | .memoryRead r _ _ _ _ => !gone r
    | .memoryWrite r _ _ _ => !gone r
    | .memoryAtomic r _ _ _ _ _ => !gone r
    | _ => true
  let s := s.modIsgal fun g => { g with held := g.held.filter keep }
  s.modGateway fun g => { g with requests := g.requests.filter fun r => match r.reader with
    | some q => !gone q
    | none => true }

/-- What the increment of a berth's generation ends, in the configuration before it (R388, R398, R412). -/
def dropBerthWork (b : BitVec 6) (s : State) : State :=
  let s := match s.dyn.safety.sounding with
    | some r => if (s.job r.job).any fun j => j.berth == b then s.modSafety fun f => { f with sounding := none } else s
    | none => s
  let s := dropBerthTraffic b (stopSensors b (stopJobs b s))
  let s := stopRequests b s
  let s := s.modDisplays fun t => tabMap {} (fun _ (d : DisplayDyn) => match d.pending with
    | some (u, _) => if u.cmd.berth = b then { d with pending := none } else d
    | none => d) t
  let s := s.modWork fun w =>
    { w with seeds := tabPut 0 w.seeds b.toNat 0
             tiles := tabMap {} (fun _ (t : TileWork) => { t with sr := tabPut 0 t.sr b.toNat 0 }) w.tiles }
  s.modMailbox b.toNat fun x => { overrun := x.overrun }

/-! Retirement of a tile (R146, R181, R263, R476) -/

/-- Workgroups of a dispatch that a tile loses are run again elsewhere. -/
def rerunGroups (p j : Nat) (s : State) : State :=
  let lost := ((s.tileWork p).workgroups.filter fun g => g.job == j).map fun g => g.index
  s.modJob j fun b => { b with lanes := b.lanes.map fun r => { r with again := r.again ++ lost } }

/-- A job starts again from step 0 on tiles that JOB_CHOOSE places. -/
def restartJob (j : Nat) (s : State) : State :=
  let s := s.modWork fun w => { w with tiles := tabMap {} (fun _ t => t.without s.dyn.cfg j) w.tiles }
  s.modJob j fun b =>
    { b with placed := false, lent := none, shards := [], tiles := [], switchWaves := 0, reloads := 0, reruns := b.reruns + 1 }

/-- A job meets the retirement of a tile it uses. A sounding that has not started keeps its place. -/
def evictJob (p l j : Nat) (s : State) : State :=
  match s.job j with
  | none => s
  | some b =>
    let x := (b.shards.find? fun x => x.tile == l).getD {}
    if b.kind = .sounding then
      (if s.dyn.safety.sounding.any fun r => r.started then failJob j .tileRetired 0 0 s else s)
    else if !b.rerunOk then failJob j .tileRetired x.shard (x.running.headD 0) s
    else if b.kind = .dispatch then rerunGroups p j s
    else restartJob j s

/-- A pass meets the retirement of a physical tile that carries logical tile `l`: batches are undealt, bundles that ran there are placed
again, bound screen tiles are bound again, unless a write-out has started (R258, R260, R263). With an heir the logical
tile stays with the pass. -/
def evictPass (l : Nat) (heir : Bool) (n : Nat) (s : State) : State :=
  let started := tabAny (fun _ x => x.any fun (m : ScreenTile) => m.tile == l && m.out.isSome) (s.pass n).bound
  if started then failPass n 5 s
  else
    let lost := tabKeys (fun _ x => x.any fun (m : ScreenTile) => m.tile == l) (s.pass n).bound
    let s := dropShades n (fun h => match h with
      | .quads k _ => lost.contains k
      | .vertices _ _ => false) (stopBatches n (fun b => b.tile == l) s)
    s.modPass n fun p =>
      { p with bound := lost.foldl (fun t k => tabPut none t k none) p.bound
               tilesHeld := if heir then p.tilesHeld else p.tilesHeld.filter (· != l) }

/-- The work of logical tile `l` on physical tile `p` ends as on a retired tile. -/
def evictTile (p l : Nat) (heir : Bool) (s : State) : State :=
  let jobs := (s.dyn.work.jobsWhere fun j => j.kind != .dispatch && j.placedOn l)
    ++ (s.tileWork p).groupJobs.filter fun j => (s.job j).any fun b => b.kind != .pass
  let passes := tabKeys (fun _ x => x.job.isSome && x.tilesHeld.contains l) s.dyn.raster.passes
  let s := jobs.eraseDups.foldl (fun s j => evictJob p l j s) s
  let s := passes.foldl (fun s n => evictPass l heir n s) s
  s.modTileWork p fun _ => {}

/-- Passes that hold a logical tile have their granules on the physical tile that carries it now. -/
def reseatPasses (l : Nat) (s : State) : State :=
  (tabKeys (fun _ x => x.job.isSome && x.tilesHeld.contains l) s.dyn.raster.passes).foldl
    (fun s n => holdTiles n (2 * (s.pass n).granules) [l] s) s

/-- A physical tile leaves service: its tests end, it is off. -/
def closeTile (p : Nat) (s : State) : State :=
  let tests := (s.tile p).tests
  let s := s.modTile p fun d =>
    { d with power := .off, pace := 0, tests := [], testDrain := false, handover := none, wakeEnds := none, windowMin := none }
  tests.foldl (fun s t => writeRecord t 0x0056 noResult s) (s.modTileWork p fun _ => {})

/-- A retirement, in the configuration before it. -/
def endRetired (r : Retirement) (s : State) : State :=
  let s := match r.logical with
    | some l => evictTile r.tile l r.heir.isSome s
    | none => s
  let s := closeTile r.tile s
  match r.heir, r.taken with
  | some q, some t => evictTile q t false s
  | some q, none => s.modTileWork q fun _ => {}
  | none, _ => s

/-- A retirement, in the new configuration: the heir powers up and is zeroed, the events are recorded. -/
def recordRetired (r : Retirement) (s : State) : State :=
  let s := addError { kind := 9, source := 1, unit := BitVec.ofNat 6 r.tile, count := satOf 16 (s.tile r.tile).failures } s
  let s := addDefect 0 2 r.tile s
  let s := match r.heir with
    | none => s
    | some q =>
      let kind : BitVec 4 := if r.taken.isSome then 0xB else 0xA
      let safe := (s.dyn.cfg.logicalOf q).any s.dyn.cfg.safetyTile
      let s := match r.logical with
        | some l => reseatPasses l s
        | none => s
      addError { kind := kind, source := 1, unit := BitVec.ofNat 6 q } (beginHandover true safe q s)
  s.modBring fun b => { b with capacityClass := capacityOf b.grade.toNat s.dyn.cfg.enabledTiles.length }

/-! What the new configuration changes on the tiles (R62, R63, R90, R157, R160) -/

/-- Who owns what a logical tile holds: the owner of its leaf basin, else the berth that has it in TILE_GRANT. -/
def Shadow.tileOwner (c : Shadow) (l : Nat) : Option (BitVec 6) :=
  match c.leafOf l with
  | some n => some (c.basin n).berth
  | none => ((upFrom 0 64).find? fun b => bitAt (tabGet {} c.berths b).tileGrant l).map (BitVec.ofNat 6)

/-- A logical tile that stays on its physical tile: handover, and the generator of a berth it enters. -/
def moveTile (old : Shadow) (p l : Nat) (s : State) : State :=
  let new := s.dyn.cfg
  let safety := old.safetyTile l != new.safetyTile l
  let owner := old.tileOwner l
  let zero := safety || (owner.isSome && new.tileOwner l != owner)
  let seat := fun (c : Shadow) => (c.leafOf l).map fun n => (n, (c.basin n).berth, (c.basin n).made)
  let moved := old.leafOf l != new.leafOf l
  let s := if zero || (moved && !s.tasksOver p) then beginHandover zero (new.safetyTile l) p s else s
  match new.leafOf l with
  | some n => if seat old != seat new then s.modTileWork p fun w => { w with sr := tabPut 0 w.sr (new.basin n).berth.toNat 0 } else s
  | none => s

/-- Resident shards follow the models, residency modes and the safety basin. -/
def residentsAtEdge (old : Shadow) (s : State) : State :=
  let new := s.dyn.cfg
  let changed := modelsChanged old new
  let keep := fun (r : Resident) =>
    !changed.contains (r.berth.toNat * 1024 + r.handle.toNat) && (r.safety || new.hotSet r.berth || !r.users.isEmpty)
  let s := s.modWork fun w =>
    { w with tiles := tabMap {} (fun _ (t : TileWork) => { t with residents := t.residents.filter keep }) w.tiles
             started := changed.foldl (fun t k => tabPut 0 t k 0) w.started }
  (upFrom 0 36).foldl (fun s p => match new.logicalOf p with
    | some l =>
      if (new.safetyShards l).all (s.tileWork p).hasSafety then s
      else if (s.tile p).handover.isNone && s.tileAwake p then loadSafety p s
      else beginHandover false true p s
    | none => s) s

/-- Every tile that carries the same logical tile as before. -/
def tilesAtEdge (old : Shadow) (s : State) : State :=
  let s := (upFrom 0 36).foldl (fun s p => match old.logicalOf p with
    | some l => if s.dyn.cfg.logicalOf p = some l then moveTile old p l s else s
    | none => s) s
  let s := residentsAtEdge old s
  -- the weather snapshot's lowest window, tests that may begin, and tolerances (R30, R43, R502)
  let s := s.modTiles fun t => tabMap {} (fun _ (d : TileDyn) =>
    { d with paceMin := d.windowMin.getD d.paceMin, windowMin := none, testDrain := d.testDrain || !d.tests.isEmpty }) t
  s.dyn.liveTiles.foldl (fun s p =>
    let x := (s.tile p).power
    if (x == .nap || x == .doze || x == .deep) && !s.dyn.allows p x then startWake p s else s) s

/-! What it changes elsewhere -/

/-- Queues that are new or gone start afresh; QUEUE_RESUME acts (R163, R180). -/
def queuesAtEdge (old : Shadow) (resumes : Tab Nat) (s : State) : State :=
  let new := s.dyn.cfg
  let fresh := fun q => (old.queueDesc q).made != (new.queueDesc q).made || (old.queueDesc q).valid != (new.queueDesc q).valid
  let s := s.modQueues fun t => tabMap {} (fun q y => if fresh q then {} else y) t
  let s := s.modIngest fun g => { g with held := g.held.filter fun h => !fresh h.queue }
  resumes.foldl (fun s r => s.modQueue r.1 fun y =>
    { y with faulted := false, toCancel := if r.2 = 2 then y.present else y.toCancel }) s

/-- Contexts that are new or gone are idle; one that grew resumes binning once it can (R223, R256). -/
def contextsAtEdge (old : Shadow) (s : State) : State :=
  (tabKeys (fun _ _ => true) s.dyn.raster.passes).foldl (fun s n =>
    let a := old.context n
    let b := s.dyn.cfg.context n
    if !b.valid || a.made != b.made then s.modPass n fun _ => {}
    else if a.grown != b.grown && (s.pass n).phase == .weir then tryResume n (s.modPass n fun p => { p with resumeDue := true })
    else s) s

/-- Outputs that were configured restart (R292). -/
def displaysAtEdge (old : Shadow) (s : State) : State :=
  let new := s.dyn.cfg
  let now := s.now16
  (upFrom 0 4).foldl (fun s o =>
    if (old.output o).made = (new.output o).made then s
    else s.modDisplay o fun d =>
      let on := !(old.output o).enable && (new.output o).enable
      { d with since := now, active := false, latched := 0, started := 0, lines := 0, sent := []
               buffer := [], readFrame := 0, readImage := none, readLine := 0
               frame := if on then 0 else d.frame, repeats := if on then 0 else d.repeats
               underruns := if on then 0 else d.underruns
               image := if (new.output o).enable then d.image else none }) s

/-- Prefetched lines of pages whose entry changed are dropped (R208, R220). -/
def prefetchAtEdge (old : Shadow) (s : State) : State :=
  let new := s.dyn.cfg
  let changed := (old.xlat.filter fun kv => tabGet {} new.xlat kv.1 != kv.2).map fun kv => kv.2.lineKey 0 / 1024
  if changed.isEmpty then s
  else s.modWork fun w =>
    { w with tiles := tabMap {} (fun _ (t : TileWork) =>
        { t with prefetch := t.prefetch.filter fun e => !changed.contains (e.line / 1024) }) w.tiles }

/-- Frames that were retired answer with errors from now on (R470). -/
def recordFrame (f : Nat) (s : State) : State :=
  let s := s.modErrors fun e => { e with badFrames := tabPut false e.badFrames f true }
  addDefect 3 2 f
    (addError { kind := 3, source := 1, unit := BitVec.ofNat 6 (columnOf (f * 0x10000)), addr := BitVec.ofNat 48 (f * 0x10000) } s)

/-- Leaving the service state counts as a passed test of every checker (R456). -/
def checkersAtEdge (old : Shadow) (s : State) : State :=
  if !old.running && s.dyn.cfg.running then
    let now := s.now16
    s.modSafety fun f => { f with checkers := (upFrom 0 116).foldl (fun t i => tabPut {} t i { lastPass := now }) f.checkers }
  else s

/-- The governor and the rail follow the policy (R39, R546). -/
def powerAtEdge (s : State) : State :=
  let ceil := s.dyn.cfg.policy.perfCeil
  applySteps (s.modPower fun p => { p with step := if ceil.toNat < p.step.toNat then ceil else p.step })

/-! The edge -/

/-- What the cycle ends, in the configuration before it. -/
def beforeSwap (raised : List Nat) (s : State) : State :=
  let s := raised.foldl (fun s b => dropBerthWork (BitVec.ofNat 6 b) s) s
  s.lock.retirements.foldl (fun s r => endRetired r s) s

/-- The closed shadow becomes live; the configuration before it stays until it is freed (R69, R71). -/
def swapIn (s : State) : State :=
  let old := s.dyn.cfg
  let new := { s.lock.staged with genRaise := [], resumes := [] }
  let now := s.now16
  (s.modCfg fun _ => new).modLock fun k =>
    { k with number := k.number + 1, phase := .committed, prev := some old, lastEdge := now }

/-- Void marks: of berths that end a generation, and those that clear (R200). -/
def voidsAtEdge (ended : List Nat) (s : State) : State :=
  s.modLock fun k =>
    { k with voids := ended.foldl (fun t b => tabPut none t b (some false))
               (k.clearing.foldl (fun t b => if tabGet none t b = some (some true) then tabPut none t b none else t) k.voids)
             clearing := [] }

/-- What becomes of the units under the new configuration. -/
def afterSwap (old : Shadow) (resumes : Tab Nat) (s : State) : State :=
  let retired := s.lock.retirements
  let frames := s.lock.goneFrames
  let before := s.now16
  let acquired := s.dyn.time.acquired
  let s := retired.foldl (fun s r => recordRetired r s) (storeCopies old s)
  let s := frames.foldl (fun s f => recordFrame f s) s
  let s := tilesAtEdge old s
  let s := match s.dyn.safety.sounding with
    | some r => match retired.find? fun x => x.logical == some r.tile with
      | some x => if r.started then failSounding r x.tile 0 s else s
      | none => s
    | none => s
  let s := contextsAtEdge old (queuesAtEdge old resumes s)
  let s := timeAtEdge old (displaysAtEdge old s)
  let s := s.modLock fun k => { k with lastEdge := s.now16 }
  let stepped := s.dyn.time.acquired != acquired
  let s := fusionAtEdge old stepped before (ingestAtEdge old stepped s)
  let s := prefetchAtEdge old (gaugesAtEdge s)
  let s := powerAtEdge (checkersAtEdge old s)
  let s := isgalAtEdge (s.modBring fun b => { b with cycled := true })
  settle (refreshWarm (s.modLock fun k => { k with retirements := [], goneFrames := [] }))

/-- Commands of a generation left behind go; the open shadow is made again without them (R380). -/
def dropStale (s : State) : State :=
  let k := s.lock
  let fresh := fun (t : Ticket) => !s.stale t
  let open_ := k.openCmds.filter fresh
  let base : Shadow := { s.lock.staged with genRaise := [], resumes := [] }
  let redo := fun (c : Shadow) (t : Ticket) => match configRule t.opcode with
    | none => c
    | some rule => match rule s t c with
      | .pass c _ => c
      | _ => c
  let opn := if open_.length = k.openCmds.length then k.opn else open_.foldl redo base
  s.modLock fun k =>
    { k with opn := opn, openCmds := open_, waiting := k.waiting.filter fresh
             longMaps := k.longMaps.filter fun l => fresh l.ticket }

/-- The key of the model that a registration made, if it is a SAFETY model whose shards are not all loaded yet (R154). -/
def State.loadPending (s : State) (x : Ticket × Result) : Option (Ticket × Result × Nat) :=
  let key := x.1.cmd.berth.toNat * 1024 + x.2.bits % 1024
  if x.1.opcode = 0x1001 ∧ (tabGet {} s.dyn.cfg.models key).safety ∧ !s.safetyLoaded key then some (x.1, x.2, key) else none

/-- The records of the commands that the cycle commits; BERTH_DESTROY waits until its berth is FREE, a registration until its
safety shards are loaded (R70, R154, R407). -/
def commitRecords (s : State) : State :=
  let free := fun (t : Ticket) => (tabGet {} s.dyn.cfg.berths (fldN t.cmd.params 0 6)).state == .free
  let cmds := s.lock.stagedCmds
  let freed := s.lock.destroys.filter free
  let fresh := (cmds.filter fun x => x.1.opcode == 0x9004).map fun x => x.1
  let s := s.modLock fun k => { k with stagedCmds := [], destroys := (k.destroys.filter fun t => !free t) ++ fresh }
  let later := cmds.filterMap s.loadPending
  let s := s.modLock fun k => { k with loading := k.loading ++ later }
  let s := (cmds.filter fun x => x.1.opcode != 0x9004 && (s.loadPending x).isNone).foldl (fun s x => writeRecord x.1 0 x.2 s) s
  freed.foldl (fun s t => writeRecord t 0 noResult s) s

/-- The commit edge of a closed shadow. -/
def commitEdge (s : State) : State :=
  let old := s.dyn.cfg
  let resumes := s.lock.staged.resumes
  let raised := raisedBerths old s.lock.staged
  let ended := raised.filter fun b => (tabGet {} old.berths b).state != .free
  let s := swapIn (beforeSwap raised s)
  let s := afterSwap old resumes (voidsAtEdge ended s)
  let s : State := { s with snap := s.dyn }
  commitRecords (dropStale (writeStatusLines s))

/-- COMMIT_EDGE (R69): the closed shadow becomes live on the commit strobe, at an edge of the 25 MHz reference (R299). No shadow
closed, or no edge: no effect. -/
def execCommitEdge (s : State) : Host.Outcome State Fault Refusal :=
  if !s.locks || s.lock.phase != .closed || !s.dyn.time.onEdge then .next s else .next (commitEdge s)

/-- Configuration N is freed at every unit (R69, R71). -/
def freeConfig (s : State) : State := serveHeld (s.modLock fun k => { k with phase := .idle, prev := none })

/-- CONFIG_FREE (R71, R73, R199): the configuration before the live one is freed at every unit, and the next shadow may
close. None waits: no effect. -/
def execConfigFree (s : State) : Host.Outcome State Fault Refusal :=
  if s.lock.phase != .committed || s.oldTraffic then .next s
  else .next (freeConfig s)

/-! The bounds on lock cycles (R21, R74) -/

/-- The shadow has to close now: LOCK_COMMIT's 100 us have passed, or the commit edge would come later than 1 ms after the
last one. DESIGN CHOICE: 4 us are kept for the prepare phase, which R73's table bounds by 3 us. -/
def State.closeDue (s : State) : Bool :=
  s.lock.closeBy.any (· ≤ s.now16) || s.lock.lastEdge + 1000 * us16 ≤ s.now16 + 4 * us16

/-- The next edge of the reference would come later than 1 ms after the last commit edge. -/
def State.edgeDue (s : State) : Bool := s.dyn.time.onEdge && s.lock.lastEdge + 1000 * us16 < s.now16 + 41 * 2 ^ 16

/-- What the firmware and the timekeeping block do of themselves to keep the bounds on lock cycles. -/
def keepCycles (s : State) : State :=
  if !s.locks then s
  else
    let s := if s.lock.phase = .committed ∧ s.closeDue ∧ !s.oldTraffic then freeConfig s else s
    let s := if s.lock.phase = .idle ∧ s.closeDue then closeShadow s else s
    if s.lock.phase = .closed ∧ s.edgeDue then commitEdge s else s

/-- One tick of the timing clock: what the block does when no command waits. -/
def tick (s : State) : State := keepCycles (clockTick s)

end Sys2Proof.Machine
end

