-- ==== Sys2Proof/Machine/Packets.lean ====
section
/-! DEFINITION. Taking packets from mailboxes and submission rings: the packet's own fields, its opcode, the start of
commands in queue order, the choice of jobs, cancellation (R60, R61, R166, R168, R170, R174, R180, R369, R372 to R374, R384,
R388 to R390, R558, R560). -/

namespace Sys2Proof.Machine

/-! Opcodes (R384) -/

/-- What an opcode does with a packet that has passed checks 1 to 13; none: its command may not start yet. -/
structure Handler where
  op : OpInfo
  act : Ticket → State → Option State
  /-- the headers that the packet names (R116) -/
  heads : Ticket → State → List (Nat × Nat) := fun _ _ => []

/-- A command that starts as soon as it is taken. -/
def atOnce (op : OpInfo) (act : Ticket → State → State) : Handler := { op := op, act := fun t s => some (act t s) }
/-- A command that starts as soon as it is taken, but not before the headers that it names are written. -/
def afterHeads (op : OpInfo) (heads : Ticket → State → List (Nat × Nat)) (act : Ticket → State → State) : Handler :=
  { atOnce op act with heads := heads }
/-- A configuration command. -/
def configures (op : OpInfo) (rule : ConfigRule) : Handler := atOnce op (acceptConfig rule)
/-- A command that returns a record. -/
def returns (op : OpInfo) (r : Ticket → State → Result) : Handler := atOnce op fun t s => answer 0 (r t s) t s

/-- Classes 0 to 2. -/
def handlers0 : List Handler :=
  [returns opEcho fun t _ => shortResult [(0, 128, fldN t.cmd.params 0 128)], atOnce opNegotiate actNegotiate,
   returns opGetDeviceStatus fun _ s => deviceStatus s, atOnce opLockCommit actLockCommit, atOnce opGetWeather actGetWeather,
   configures opSetPowerPolicy ruleSetPowerPolicy,
   atOnce opModelRegister actModelRegister, configures opModelUnregister ruleModelUnregister, afterHeads opModelInvoke invokeHeads actModelInvoke,
   atOnce opGetModel actGetModel, configures opSetResidency ruleSetResidency, atOnce opModelPreload actModelPreload,
   atOnce opProgramLoad actProgramLoad, configures opProgramUnload ruleProgramUnload, atOnce opLaneDispatch actLaneDispatch,
   afterHeads opTensorMatmul tensorHeads actMatmul, afterHeads opTensorConvert tensorHeads actConvert,
   { op := opTensorSeed, act := fun t s => match pathQueue? t.cmd.path with
      | some q => if s.queueWorks q then none else some (actSeed t s)
      | none => some (actSeed t s) }]

/-- Classes 3 and 4. -/
def handlers3 : List Handler :=
  [configures opCtxCreate ruleCtxCreate, configures opCtxDestroy ruleCtxDestroy, atOnce opGetCtx actGetCtx,
   atOnce opStateLoad actStateLoad, configures opStateFree ruleStateFree, { op := opPass, act := actPass },
   configures opBinGrow ruleBinGrow, atOnce opAbandon actAbandon, { op := opImageClear, act := actImage false },
   { op := opImageResolve, act := actImage true }, configures opDisplayConfigure ruleDisplayConfigure,
   { op := opDisplayPresent, act := actPresent }, atOnce opGetDisplay actGetDisplay,
   configures opCutSet ruleCutSet, configures opCutClear ruleCutClear, configures opStreamConfig ruleStreamConfig,
   configures opCsiRx ruleCsiRx, configures opTrigger ruleTrigger, configures opCsiTx ruleCsiTx, { op := opSend, act := actSend },
   configures opI3cConfig ruleI3cConfig, { op := opXfer, act := actXfer }, atOnce opGetStream actGetStream]

/-- Classes 5 to 7. -/
def handlers5 : List Handler :=
  [configures opFusionGroup ruleFusionGroup, configures opFusionStream ruleFusionStream, atOnce opPair actPair,
   { op := opPublish, act := actPublish }, atOnce opAssoc actAssoc, atOnce opGetFusion actGetFusion,
   configures opTimeDomain ruleTimeDomain, configures opTimePort ruleTimePort, configures opTimeSelect ruleTimeSelect,
   atOnce opTimeMeasure actTimeMeasure, returns opGetTime fun t s => timeRecord s.snap (fldN t.cmd.params 0 4),
   configures opGaugeSet ruleGaugeSet, configures opGaugeClear ruleGaugeClear,
   returns opGetGauge fun t s =>
     let n := fldN t.cmd.params 0 12
     gaugeRecord (tabGet {} s.snap.cfg.gauges n) (s.snap.safety.gaugeOf n),
   configures opSoundingSet ruleSoundingSet, atOnce opMooringStore actMooringStore, atOnce opSelfTest actSelfTest,
   atOnce opHeartbeat actHeartbeat, atOnce opDoubtRelease actDoubtRelease,
   returns opGetSafety fun t s => safetyView s.snap (fldN t.cmd.params 0 4)]

/-- Classes 8 to 0xA; FW_UPDATE takes its recovery form while bring-up is halted. -/
def handlers8 (s : State) : List Handler :=
  [configures opServiceEnter ruleServiceEnter, configures opServiceLeave ruleServiceLeave,
   atOnce opGetBringup (maintenance fun t s => answer 0 (bringupRecord s.bringView) t s), atOnce opTileTest (maintenance actTileTest),
   configures opTileRetire ruleTileRetire, atOnce opGetTileMap (maintenance fun t s => answer 0 (tileMapRecord s.snap) t s),
   atOnce opGetErrorLog (maintenance actGetErrorLog), atOnce opGetDefectLog (maintenance actGetDefectLog),
   atOnce opGetLink (maintenance actGetLink),
   configures opBerthCreate ruleBerthCreate, configures opBerthModify ruleBerthModify, configures opBerthReset ruleBerthReset,
   configures opBerthDestroy ruleBerthDestroy, atOnce opGetBerth actGetBerth, configures opBerthGrant ruleBerthGrant,
   configures opBasinCreate ruleBasinCreate, configures opBasinModify ruleBasinModify, configures opBasinDestroy ruleBasinDestroy,
   atOnce opGetBasin actGetBasin, configures opQueueCreate ruleQueueCreate, configures opQueueModify ruleQueueModify,
   configures opQueueDestroy ruleQueueDestroy, atOnce opGetQueue actGetQueue, configures opQueueResume ruleQueueResume,
   configures opMemAlloc ruleMem, configures opMemMapWindow ruleMem, configures opMemFree ruleMem, configures opMemProtect ruleMem,
   atOnce opGetMapping actGetMapping,
   returns opGetFwIdentity fun _ s => fwIdentity s, returns opGetIdentity fun _ s => identityRecord s.bringView.bring,
   atOnce opLicenceInstall actLicenceInstall, returns opGetLicence fun _ s => licenceRecord s.bringView.bring,
   atOnce (opFwUpdate s.halted) (if s.halted then actRecovery else actUpdate)]

/-- Every assigned opcode (R384). -/
def handlers (s : State) : List Handler := handlers0 ++ handlers3 ++ handlers5 ++ handlers8 s

/-- The handler of an opcode. -/
def handlerOf (o : BitVec 16) (s : State) : Option Handler := (handlers s).find? fun h => h.op.opcode == o

/-! A packet (R369, R374) -/

/-- The packet's fields, on the path that brought it. -/
def packetCmd (path : Path) (p : BitVec 512) : Cmd :=
  { path := path, berth := fld p 16 6, notify := bitAt p 24, silent := bitAt p 25, device := bitAt p 26, gen := fld p 32 16,
    seq := fld p 64 32, resultAddr := fld p 96 32, params := fld p 128 384 }

/-- Check 4: the reserved bits are zero. -/
def packetReservedOk (p : BitVec 512) : Bool := fldN p 22 2 == 0 && fldN p 27 5 == 0 && fldN p 48 16 == 0

/-- Checks 6 to 8 of a packet whose opcode is not assigned. -/
def unknownFailure (c : Cmd) (s : State) : Nat × Result :=
  if !berthSuits c s then (0x0004, noResult)
  else if c.gen ≠ s.genOf c then (0x0005, shortResult [(0, 16, c.gen.toNat), (16, 16, (s.genOf c).toNat)])
  else (0x0002, noResult)

/-- A packet that has been taken is carried through checks 4 to 13 and handed to its class; none: its command may not
start yet. -/
def takePacket (path : Path) (p : BitVec 512) (s : State) : Option State :=
  let c := packetCmd path p
  let o : BitVec 16 := fld p 0 16
  let t : Ticket := { opcode := o, cmd := c, gen := s.genOf c, cq := s.cqOf path }
  if !packetReservedOk p then some (writeRecord t 0x0001 noResult s)
  else
    match handlerOf o s with
    | none => some (passChecks5 t (some (unknownFailure c s)) s).1
    | some h =>
      if s.headersWait h.heads h.op c then none
      else
        match passChecks5 t (firstFailure h.op c s) s with
        | (s, some t) => h.act t s
        | (s, none) => some s

/-! Mailboxes (R388 to R390) -/

/-- Checks 1 to 3 of R374 on the message in a slot: the status of the first that fails. -/
def messageFailure (inb : Tab Byte) : Option Nat :=
  let byte := tabGet (0 : Byte) inb
  let h : BitVec 128 := BitVec.ofNat 128 (ofBytes ((upFrom 0 16).map byte))
  let len := fldN h 24 8
  if fld h 64 32 ≠ crc32 (((upFrom 0 8) ++ upFrom 16 len).map byte) then some 0x000C
  else if fldN h 0 8 ≠ 1 then some 0x0007
  else if fldN h 16 2 ≠ 0 || len ≠ 64 || fldN h 18 6 ≠ 0 || fldN h 32 32 ≠ 0 || fldN h 96 32 ≠ 0 then some 0x0001
  else none

/-- The path that a mailbox's packets come by. -/
def mailboxPath (m : Fin 65) : Path := if m.val = 64 then .supervisor else .mailbox (BitVec.ofNat 6 m.val)

/-- MAILBOX_TAKE: Veldon takes a posted message, refuses it or accepts its packet. Nothing posted, or a command that may
not start yet: no effect. -/
def execMailboxTake (m : Fin 65) (s : State) : Host.Outcome State Fault Refusal :=
  let x := s.mailbox m.val
  if !s.serves (mailboxPath m) || x.state != .posted then .next s
  else
    let packet := (upFrom 16 64).map (tabGet (0 : Byte) x.inb)
    match messageFailure x.inb with
    | some st => .next (refuseMessage m.val packet st s)
    | none =>
      let p : BitVec 512 := BitVec.ofNat 512 (ofBytes packet)
      .next ((takePacket (mailboxPath m) p (s.modMailbox m.val fun x => { x with state := .taken })).getD s)

/-! Submission rings (R165, R166, R558) -/

/-- Read the entry at CONS. -/
def readHead (q : Nat) (s : State) : State × Access (List Byte) :=
  let d := s.dyn.cfg.queueDesc q
  let va := d.ringAddr.toNat + (s.queue q).cons.toNat % d.slots * d.entryBytes
  readVirt { source := 1, berth := d.berth, gen := (s.dyn.cfg.berth d.berth).gen } d.berth va 64 s

/-- The entry at CONS is taken: a slot of the completion queue is reserved, CONS moves, and with it the idle time of the
tiles that the queue feeds (R41). -/
def passHead (q : Nat) (s : State) : State :=
  let s := reserveSlot (s.dyn.cfg.queueDesc q).cq.toNat s
  let s := s.modQueue q fun y => { y with cons := y.cons + 1, headSince := s.now16, headLeaf := none }
  let s := writeIndex q (s.queue q).cons s
  match s.dyn.cfg.basinOfQueue q with
  | none => s
  | some n => (s.dyn.cfg.tilesUnder n).foldl (fun s l => match s.dyn.cfg.physOf l with
    | some p => touchTile p s
    | none => s) s

/-- The record of an entry that cannot be read (R558). -/
def ringFault (q status : Nat) (s : State) : State :=
  let d := s.dyn.cfg.queueDesc q
  let seq := (s.queue q).expSeq.getD (Config.anySeq s.free)
  let t : Ticket := { opcode := 0, cmd := { path := .queue (BitVec.ofNat 18 q), berth := d.berth, seq := seq },
                      gen := (s.dyn.cfg.berth d.berth).gen, cq := d.cq }
  (writeRecord t status noResult s).bump

/-- The leaf basin of the job or pass that the step from `s` to `s'` started, if it started one. -/
def startedOn (s s' : State) : Option Nat := (s'.job s.dyn.work.nextJob).map fun b => b.basin.toNat

/-- A command that would start may: a job has its tiles, and reads nothing that an earlier one of its queue still
writes (R60, R116, R177). -/
def mayBegin (q : BitVec 18) (s s' : State) : Bool :=
  s'.dyn.work.nextJob = s.dyn.work.nextJob || match s'.job s.dyn.work.nextJob with
    | some b => b.placed && !s'.mustWait q b.ins s.dyn.work.nextJob
    | none => true

/-- What taking the oldest untaken command of a queue leads to; none where there is none, or it may not start yet. -/
def tryHead (q : BitVec 18) (s : State) : Option State :=
  if !s.serves (.queue q) || !s.mayStart q.toNat || (s.queue q.toNat).present = 0 then none
  else
    match readHead q.toNat s with
    | (x, .addressFault) => some (ringFault q.toNat 0x000D (passHead q.toNat x))
    | (x, .uncorrectable) => some (ringFault q.toNat 0x000B (passHead q.toNat x))
    | (x, .ok d) => takePacket (.queue q) (BitVec.ofNat 512 (ofBytes d)) (passHead q.toNat x)

/-- The oldest untaken command of a queue is taken; none where there is none, or it may not start. -/
def takeEntry (q : BitVec 18) (s : State) : Option State :=
  (tryHead q s).bind fun s' => if mayBegin q s s' then some s' else none

/-- A command at the head of a queue that names a composite basin names its leaf from now on (R168). -/
def resolveHead (q : Nat) (s : State) : State :=
  match (tryHead (BitVec.ofNat 18 q) s).bind fun s' => (s'.job s.dyn.work.nextJob).map fun b => (s', b.ticket.cmd.seq) with
  | some (s', seq) => keepLeaf q seq s s'
  | none => s

/-- The submission queues, ascending. -/
def Shadow.takenQueues (c : Shadow) : List Nat := tabKeys (fun _ (d : QueueDesc) => d.valid && d.kind == 0) c.queues

/-! The choice of jobs (R168) -/

/-- Some tile of a leaf basin has no placed work waiting: no shard placed there that has not started. -/
def State.wantsWork (s : State) (n : Nat) : Bool :=
  (s.dyn.openTiles n).any fun l => !tabAny (fun _ j => match j with
    | some (b : Job) => b.placed && b.shards.any fun x => x.tile == l && !x.switched
    | none => false) s.dyn.work.jobs

/-- Place a job that waits for tiles on a leaf basin (R60, R176, R181); none: not there, or not yet. -/
def placeWaiting (n j : Nat) (b : Job) (s : State) : Option State :=
  if b.placed then none
  else
    let model := if b.kind = .model ∨ b.kind = .preload then some (b.berth, b.handle) else none
    let (s, leaf) := leafFor b.ticket model b.basin.toNat s
    let b := { b with basin := BitVec.ofNat 10 n }
    if leaf ≠ n then none
    else
      match b.array with
      | some r =>
        let (s, r) := dealRun b.berth n r s
        if r.tiles.isEmpty then none else some (setPlaced j { b with array := some r, tiles := r.tiles } s)
      | none =>
        if b.kind = .dispatch then (if (s.dyn.openTiles n).isEmpty then none else some (setPlaced j b s))
        else
          let (s, b) := placeModel n b s
          if b.placed then some (setPlaced j b s) else none

/-- Work that a leaf basin may take: the queue's number, the priority, what taking it does. -/
abbrev Candidate := Nat × Nat × State

/-- The jobs that were taken and wait for tiles of a leaf basin; one that no queue brought counts behind every queue. -/
def waitingJobs (n : Nat) (s : State) : List Candidate :=
  s.dyn.work.jobs.filterMap fun kv => kv.2.bind fun b => (placeWaiting n kv.1 b s).map fun s' =>
    ((b.queue.map (·.toNat)).getD 0x40000, b.priority.toNat, s')

/-- The queues whose oldest untaken command names a leaf basin and may start, with its level and what taking it does. -/
def candidates (n : Nat) (s : State) : List Candidate :=
  s.dyn.cfg.takenQueues.filterMap fun q =>
    match takeEntry (BitVec.ofNat 18 q) s with
    | none => none
    | some s' => if startedOn s s' = some n then some (q, (s.dyn.cfg.queueDesc q).priority.toNat, s') else none

/-- The numbers of a list, each once, ascending. -/
def ascending (l : List Nat) : List Nat := tabKeys (fun _ _ => true) (l.foldl (fun t k => tabPut 0 t k 1) [])

/-- The queue that a leaf basin takes its next job from, and what taking it does (R168). A job that waits in the job table
stands for its queue, before the queue's head. -/
def nextJobOf (n : Nat) (s : State) : Option (Nat × State) :=
  if !s.wantsWork n then none
  else
    let cs := waitingJobs n s ++ candidates n s
    let level := (cs.map fun c => c.2.1).foldl max 0
    let top := cs.filter fun c => c.2.1 == level
    match nextAfter (tabGet 0 s.dyn.work.lastServed (n * 8 + level)) (ascending (top.map fun c => c.1)) with
    | none => none
    | some q => (top.find? fun c => c.1 == q).map fun c =>
        (q, c.2.2.modWork fun w => { w with lastServed := tabPut 0 w.lastServed (n * 8 + level) (q + 1) })

/-- JOB_CHOOSE: the commands at the heads of the queues have their leaf basins, and one leaf basin takes the job that R168 chooses.
Nothing to choose: no other effect. -/
def execJobChoose (basin : BitVec 10) (s : State) : Host.Outcome State Fault Refusal :=
  let n := basin.toNat
  if !s.dyn.bring.ready || s.dyn.errors.veldonHalted then .next s
  else
    let s := s.dyn.cfg.takenQueues.foldl (fun s q => resolveHead q s) s
    match nextJobOf n s with
    | some (_, s) => .next s
    | none => .next s

/-- JOB_BORROW (R172) of the logical tile that a physical tile carries, for a job that was taken and waits, or for the command
at the head of a queue. Not permitted: no effect. -/
def execJobBorrow (work : Waiting) (t : Fin 36) (s : State) : Host.Outcome State Fault Refusal :=
  let place := fun (j since l : Nat) (b : Job) (s' : State) =>
    if !mayBorrow s' b since l t then s
    else
      match borrowPlace b l s' with
      | some (x, b) => setPlaced j b x
      | none => s
  match s.dyn.cfg.logicalOf t with
  | none => .next s
  | some l =>
    match work with
    | .job j =>
      match s.job j with
      | some b => .next (place j b.since l b s)
      | none => .next s
    | .head q =>
      let j := s.dyn.work.nextJob
      match (tryHead q s).bind fun s' => (s'.job j).map fun b => (s', b) with
      | some (s', b) => .next (if s'.mustWait q b.ins j then s else place j (s.queue q.toNat).headSince l b s')
      | none => .next s

/-- QUEUE_ENTRY_TAKE: the oldest untaken command of a queue starts: one that needs no tile as soon as it is the oldest,
one that starts a job or a pass when its basin chooses its queue. Else no effect. -/
def execQueueEntryTake (q : BitVec 18) (s : State) : Host.Outcome State Fault Refusal :=
  let s := resolveHead q.toNat s
  match takeEntry q s with
  | none => .next s
  | some s' =>
    match startedOn s s' with
    | none => .next s'
    | some n => match nextJobOf n s with
      | some (k, s') => if k = q.toNat then .next s' else .next s
      | none => .next s

/-! Cancellation (R180) -/

/-- COMMAND_CANCEL: the oldest of the untaken commands that a QUEUE_RESUME with DISCARD found completes with CANCELLED,
whatever SILENT holds, once a slot is free. None is left, or no slot: no effect. -/
def execCommandCancel (q : BitVec 18) (s : State) : Host.Outcome State Fault Refusal :=
  let n := q.toNat
  let y := s.queue n
  if !s.serves (.queue q) || y.toCancel = 0 || y.present = 0 || !s.slotFree (s.dyn.cfg.queueDesc n).cq.toNat then .next s
  else
    let less := fun (s : State) => (passHead n s).modQueue n fun y => { y with toCancel := y.toCancel - 1 }
    match readHead n s with
    | (s, .addressFault) => .next (ringFault n 0x000D (less s))
    | (s, .uncorrectable) => .next (ringFault n 0x000B (less s))
    | (s, .ok d) =>
      let p : BitVec 512 := BitVec.ofNat 512 (ofBytes d)
      let c := { packetCmd (.queue q) p with silent := false }
      let s := setExpected c.path (c.seq + 1) (less s)
      .next (writeRecord { opcode := fld p 0 16, cmd := c, gen := s.genOf c, cq := s.cqOf c.path } 0x0092 noResult s)

end Sys2Proof.Machine
end

