-- ==== Sys2Proof/Machine/Shading.lean ====
section
/-! DEFINITION. Where workgroups and shading bundles are placed, and what their end brings (R126, R135, R136, R151, R238, R260). -/

namespace Sys2Proof.Machine

/-- The context whose pass is job `j`. -/
def State.passOf (s : State) (j : Nat) : Option Nat :=
  (tabKeys (fun _ p => p.job.isSome && p.jobNo == j) s.dyn.raster.passes).head?

/-- WORKGROUP_PLACE (R126, R135, R140, R238): the next workgroup of a job's grid, or the next vertex bundle of a pass. Nothing
to place, or no room: no effect. -/
def execWorkgroupPlace (job : Nat) (s : State) : Host.Outcome State Fault Refusal :=
  match s.job job with
  | none => .next s
  | some b =>
    if !b.placed then .next s
    else if b.kind ≠ .pass then .next (placeGrid job b s)
    else
      match (s.passOf job).bind fun n => (s.nextVertices n).map fun x => (n, x.1, x.2) with
      | some (n, v, k) => .next (placeVertices n k v s)
      | none => .next s

/-- What the end of a workgroup brings: its grid counts it, and may end its step; the results of a shading bundle go to its
pass. -/
def endGroup (w : Workgroup) (s : State) : State :=
  match w.shade with
  | none => endLanes w.job w.shard (countEnd w.job w.shard s)
  | some h => match h.part with
    | .vertices batch part => endVertices h.ctx batch part h s
    | .quads screenTile number => endQuads h.ctx screenTile number h s

/-- WORKGROUP_END (R136): a workgroup whose bundles have all ended frees its slots, registers and shared memory. -/
def execWorkgroupEnd (t : Fin 36) (group : Fin 64) (wg : Nat) (s : State) : Host.Outcome State Fault Refusal :=
  match groupAt (s.tileWork t.val) group.val wg with
  | none => .next s
  | some (i, w) =>
    if w.bundles.all fun b => b.ended then
      .next (unlessHeld (fun s => touchTile t.val (endGroup w
        (s.modTileWork t.val fun x => { x with workgroups := x.workgroups.eraseIdx i }))) s)
    else .next s

end Sys2Proof.Machine
end

