-- ==== Sys2Proof/Machine/Dispatch.lean ====
section
/-! DEFINITION. The meaning of every command: one arm per constructor, one call per arm. -/

namespace Sys2Proof.Machine

def exec (i : Instr) (s : State) : Host.Outcome State Fault Refusal :=
  match i with
  | .echo c => Sys2Proof.Machine.execEcho c s
  | .negotiate c => Sys2Proof.Machine.execNegotiate c s
  | .getDeviceStatus c => Sys2Proof.Machine.execGetDeviceStatus c s
  | .lockCommit c => Sys2Proof.Machine.execLockCommit c s
  | .getWeather c => Sys2Proof.Machine.execGetWeather c s
  | .setPowerPolicy c => Sys2Proof.Machine.execSetPowerPolicy c s
  | .modelRegister c => Sys2Proof.Machine.execModelRegister c s
  | .modelUnregister c => Sys2Proof.Machine.execModelUnregister c s
  | .modelInvoke c => Sys2Proof.Machine.execModelInvoke c s
  | .getModel c => Sys2Proof.Machine.execGetModel c s
  | .setResidency c => Sys2Proof.Machine.execSetResidency c s
  | .modelPreload c => Sys2Proof.Machine.execModelPreload c s
  | .programLoad c => Sys2Proof.Machine.execProgramLoad c s
  | .programUnload c => Sys2Proof.Machine.execProgramUnload c s
  | .laneDispatch c => Sys2Proof.Machine.execLaneDispatch c s
  | .tensorMatmul c => Sys2Proof.Machine.execTensorMatmul c s
  | .tensorConvert c => Sys2Proof.Machine.execTensorConvert c s
  | .tensorSeedSr c => Sys2Proof.Machine.execTensorSeedSr c s
  | .rasterCtxCreate c => Sys2Proof.Machine.execRasterCtxCreate c s
  | .rasterCtxDestroy c => Sys2Proof.Machine.execRasterCtxDestroy c s
  | .getRasterCtx c => Sys2Proof.Machine.execGetRasterCtx c s
  | .rasterStateLoad c => Sys2Proof.Machine.execRasterStateLoad c s
  | .rasterStateFree c => Sys2Proof.Machine.execRasterStateFree c s
  | .rasterPass c => Sys2Proof.Machine.execRasterPass c s
  | .binGrow c => Sys2Proof.Machine.execBinGrow c s
  | .binAbandon c => Sys2Proof.Machine.execBinAbandon c s
  | .imageClear c => Sys2Proof.Machine.execImageClear c s
  | .imageResolve c => Sys2Proof.Machine.execImageResolve c s
  | .displayConfigure c => Sys2Proof.Machine.execDisplayConfigure c s
  | .displayPresent c => Sys2Proof.Machine.execDisplayPresent c s
  | .getDisplay c => Sys2Proof.Machine.execGetDisplay c s
  | .cutSet c => Sys2Proof.Machine.execCutSet c s
  | .cutClear c => Sys2Proof.Machine.execCutClear c s
  | .streamConfig c => Sys2Proof.Machine.execStreamConfig c s
  | .csiRxConfig c => Sys2Proof.Machine.execCsiRxConfig c s
  | .triggerConfig c => Sys2Proof.Machine.execTriggerConfig c s
  | .csiTxConfig c => Sys2Proof.Machine.execCsiTxConfig c s
  | .csiTxSend c => Sys2Proof.Machine.execCsiTxSend c s
  | .i3cConfig c => Sys2Proof.Machine.execI3cConfig c s
  | .i3cXfer c => Sys2Proof.Machine.execI3cXfer c s
  | .getStreamStatus c => Sys2Proof.Machine.execGetStreamStatus c s
  | .fusionGroupConfig c => Sys2Proof.Machine.execFusionGroupConfig c s
  | .fusionStreamConfig c => Sys2Proof.Machine.execFusionStreamConfig c s
  | .fusionPairSet c => Sys2Proof.Machine.execFusionPairSet c s
  | .fusionPublish c => Sys2Proof.Machine.execFusionPublish c s
  | .fusionAssoc c => Sys2Proof.Machine.execFusionAssoc c s
  | .getFusionStatus c => Sys2Proof.Machine.execGetFusionStatus c s
  | .timeDomainConfig c => Sys2Proof.Machine.execTimeDomainConfig c s
  | .timePortConfig c => Sys2Proof.Machine.execTimePortConfig c s
  | .timeSelect c => Sys2Proof.Machine.execTimeSelect c s
  | .timePortMeasure c => Sys2Proof.Machine.execTimePortMeasure c s
  | .getTimeStatus c => Sys2Proof.Machine.execGetTimeStatus c s
  | .gaugeSet c => Sys2Proof.Machine.execGaugeSet c s
  | .gaugeClear c => Sys2Proof.Machine.execGaugeClear c s
  | .getGauge c => Sys2Proof.Machine.execGetGauge c s
  | .soundingSet c => Sys2Proof.Machine.execSoundingSet c s
  | .mooringStore c => Sys2Proof.Machine.execMooringStore c s
  | .selfTest c => Sys2Proof.Machine.execSelfTest c s
  | .supervisorHeartbeat c => Sys2Proof.Machine.execSupervisorHeartbeat c s
  | .doubtRelease c => Sys2Proof.Machine.execDoubtRelease c s
  | .getSafetyStatus c => Sys2Proof.Machine.execGetSafetyStatus c s
  | .serviceEnter c => Sys2Proof.Machine.execServiceEnter c s
  | .serviceLeave c => Sys2Proof.Machine.execServiceLeave c s
  | .getBringupStatus c => Sys2Proof.Machine.execGetBringupStatus c s
  | .tileTest c => Sys2Proof.Machine.execTileTest c s
  | .tileRetire c => Sys2Proof.Machine.execTileRetire c s
  | .getTileMap c => Sys2Proof.Machine.execGetTileMap c s
  | .getErrorLog c => Sys2Proof.Machine.execGetErrorLog c s
  | .getDefectLog c => Sys2Proof.Machine.execGetDefectLog c s
  | .getLinkStatus c => Sys2Proof.Machine.execGetLinkStatus c s
  | .berthCreate c => Sys2Proof.Machine.execBerthCreate c s
  | .berthModify c => Sys2Proof.Machine.execBerthModify c s
  | .berthReset c => Sys2Proof.Machine.execBerthReset c s
  | .berthDestroy c => Sys2Proof.Machine.execBerthDestroy c s
  | .getBerth c => Sys2Proof.Machine.execGetBerth c s
  | .berthGrant c => Sys2Proof.Machine.execBerthGrant c s
  | .basinCreate c => Sys2Proof.Machine.execBasinCreate c s
  | .basinModify c => Sys2Proof.Machine.execBasinModify c s
  | .basinDestroy c => Sys2Proof.Machine.execBasinDestroy c s
  | .getBasin c => Sys2Proof.Machine.execGetBasin c s
  | .queueCreate c => Sys2Proof.Machine.execQueueCreate c s
  | .queueModify c => Sys2Proof.Machine.execQueueModify c s
  | .queueDestroy c => Sys2Proof.Machine.execQueueDestroy c s
  | .getQueue c => Sys2Proof.Machine.execGetQueue c s
  | .queueResume c => Sys2Proof.Machine.execQueueResume c s
  | .memAlloc c => Sys2Proof.Machine.execMemAlloc c s
  | .memMapWindow c => Sys2Proof.Machine.execMemMapWindow c s
  | .memFree c => Sys2Proof.Machine.execMemFree c s
  | .memProtect c => Sys2Proof.Machine.execMemProtect c s
  | .getMapping c => Sys2Proof.Machine.execGetMapping c s
  | .getFwIdentity c => Sys2Proof.Machine.execGetFwIdentity c s
  | .getDeviceIdentity c => Sys2Proof.Machine.execGetDeviceIdentity c s
  | .licenceInstall c => Sys2Proof.Machine.execLicenceInstall c s
  | .getLicence c => Sys2Proof.Machine.execGetLicence c s
  | .fwUpdate c => Sys2Proof.Machine.execFwUpdate c s
  | .fwUpdateRecovery c => Sys2Proof.Machine.execFwUpdateRecovery c s
  | .doorbellWrite q value => Sys2Proof.Machine.execDoorbellWrite q value s
  | .mailboxPost m ackToo => Sys2Proof.Machine.execMailboxPost m ackToo s
  | .mailboxAck m postToo => Sys2Proof.Machine.execMailboxAck m postToo s
  | .registerWrite addr data => Sys2Proof.Machine.execRegisterWrite addr data s
  | .mailboxTake m => Sys2Proof.Machine.execMailboxTake m s
  | .queueEntryTake q => Sys2Proof.Machine.execQueueEntryTake q s
  | .commandCancel q => Sys2Proof.Machine.execCommandCancel q s
  | .i3cPrivateWrite bytes => Sys2Proof.Machine.execI3cPrivateWrite bytes s
  | .i3cReplyRead len => Sys2Proof.Machine.execI3cReplyRead len s
  | .entdaa addr => Sys2Proof.Machine.execEntdaa addr s
  | .setdasa addr => Sys2Proof.Machine.execSetdasa addr s
  | .setnewda addr => Sys2Proof.Machine.execSetnewda addr s
  | .rstdaa => Sys2Proof.Machine.execRstdaa s
  | .getpid => Sys2Proof.Machine.execGetpid s
  | .getbcr => Sys2Proof.Machine.execGetbcr s
  | .getdcr => Sys2Proof.Machine.execGetdcr s
  | .getstatus => Sys2Proof.Machine.execGetstatus s
  | .getmrl => Sys2Proof.Machine.execGetmrl s
  | .getmwl => Sys2Proof.Machine.execGetmwl s
  | .enec events => Sys2Proof.Machine.execEnec events s
  | .disec events => Sys2Proof.Machine.execDisec events s
  | .kberthWrite h value virtualMode => Sys2Proof.Machine.execKberthWrite h value virtualMode s
  | .shadowClose => Sys2Proof.Machine.execShadowClose s
  | .commitEdge => Sys2Proof.Machine.execCommitEdge s
  | .configFree => Sys2Proof.Machine.execConfigFree s
  | .voidRangeClear b => Sys2Proof.Machine.execVoidRangeClear b s
  | .frameZero frame => Sys2Proof.Machine.execFrameZero frame s
  | .handoverComplete t => Sys2Proof.Machine.execHandoverComplete t s
  | .memoryRead r addr len flips reserve => Sys2Proof.Machine.execMemoryRead r addr len flips reserve s
  | .memoryWrite r addr data conditional => Sys2Proof.Machine.execMemoryWrite r addr data conditional s
  | .memoryAtomic r addr op size8 operand compare => Sys2Proof.Machine.execMemoryAtomic r addr op size8 operand compare s
  | .releaseFence t job => Sys2Proof.Machine.execReleaseFence t job s
  | .patrolRead pa flips => Sys2Proof.Machine.execPatrolRead pa flips s
  | .creditReturn unit k safety => Sys2Proof.Machine.execCreditReturn unit k safety s
  | .weatherWindow t pace tj vlocal => Sys2Proof.Machine.execWeatherWindow t pace tj vlocal s
  | .governorSample railMilliamps estVcore estVmem estVio estVisl => Sys2Proof.Machine.execGovernorSample railMilliamps estVcore estVmem estVio estVisl s
  | .regulatorRetry => Sys2Proof.Machine.execRegulatorRetry s
  | .tileStateEnter t => Sys2Proof.Machine.execTileStateEnter t s
  | .tileWake t => Sys2Proof.Machine.execTileWake t s
  | .tileWakeDone t => Sys2Proof.Machine.execTileWakeDone t s
  | .jobChoose basin => Sys2Proof.Machine.execJobChoose basin s
  | .jobBorrow work t => Sys2Proof.Machine.execJobBorrow work t s
  | .shardSwitch job shard => Sys2Proof.Machine.execShardSwitch job shard s
  | .modelStepStart job turn step => Sys2Proof.Machine.execModelStepStart job turn step s
  | .arrayLoad job turn => Sys2Proof.Machine.execArrayLoad job turn s
  | .jobComplete job fault => Sys2Proof.Machine.execJobComplete job fault s
  | .workgroupPlace job => Sys2Proof.Machine.execWorkgroupPlace job s
  | .bundleIssue t group op sram => Sys2Proof.Machine.execBundleIssue t group op sram s
  | .barrierRelease t group wg => Sys2Proof.Machine.execBarrierRelease t group wg s
  | .workgroupEnd t group wg => Sys2Proof.Machine.execWorkgroupEnd t group wg s
  | .timeLimitExpiry job => Sys2Proof.Machine.execTimeLimitExpiry job s
  | .dispatchComplete job => Sys2Proof.Machine.execDispatchComplete job s
  | .batchDeal ctx t sram => Sys2Proof.Machine.execBatchDeal ctx t sram s
  | .chunkRequest ctx batch => Sys2Proof.Machine.execChunkRequest ctx batch s
  | .batchPublish ctx batch => Sys2Proof.Machine.execBatchPublish ctx batch s
  | .weirTimeout ctx => Sys2Proof.Machine.execWeirTimeout ctx s
  | .screenTileBind ctx t => Sys2Proof.Machine.execScreenTileBind ctx t s
  | .fragmentBundle ctx screenTile sram => Sys2Proof.Machine.execFragmentBundle ctx screenTile sram s
  | .writeOut ctx turn => Sys2Proof.Machine.execWriteOut ctx turn s
  | .passComplete ctx signal => Sys2Proof.Machine.execPassComplete ctx signal s
  | .displayLatchPoint o => Sys2Proof.Machine.execDisplayLatchPoint o s
  | .displayFrameStart o => Sys2Proof.Machine.execDisplayFrameStart o s
  | .scanOutLine o line arrived => Sys2Proof.Machine.execScanOutLine o line arrived s
  | .triggerPulse o => Sys2Proof.Machine.execTriggerPulse o s
  | .frameStart port vc fn => Sys2Proof.Machine.execFrameStart port vc fn s
  | .startPacket mac udpPort payload fragmented => Sys2Proof.Machine.execStartPacket mac udpPort payload fragmented s
  | .longPacket port vc dt payload err => Sys2Proof.Machine.execLongPacket port vc dt payload err s
  | .lidarPacket mac udpPort payload fragmented => Sys2Proof.Machine.execLidarPacket mac udpPort payload fragmented s
  | .frameEnd stream => Sys2Proof.Machine.execFrameEnd stream s
  | .missing stream => Sys2Proof.Machine.execMissing stream s
  | .i3cIbi bus addr payload => Sys2Proof.Machine.execI3cIbi bus addr payload s
  | .sampleArrive stream => Sys2Proof.Machine.execSampleArrive stream s
  | .instantClose g => Sys2Proof.Machine.execInstantClose g s
  | .level0Publish g => Sys2Proof.Machine.execLevel0Publish g s
  | .syncReceive port domainNumber origin followUp ingress => Sys2Proof.Machine.execSyncReceive port domainNumber origin followUp ingress s
  | .syncSend port d => Sys2Proof.Machine.execSyncSend port d s
  | .pdelayExchange port t1 t2 t3 t4 rateRatio => Sys2Proof.Machine.execPdelayExchange port t1 t2 t3 t4 rateRatio s
  | .portLinkUp port txPath rxPath => Sys2Proof.Machine.execPortLinkUp port txPath rxPath s
  | .syncLoss d => Sys2Proof.Machine.execSyncLoss d s
  | .holdoverExpiry d => Sys2Proof.Machine.execHoldoverExpiry d s
  | .workingClockSlew => Sys2Proof.Machine.execWorkingClockSlew s
  | .tcxoCheck ppm => Sys2Proof.Machine.execTcxoCheck ppm s
  | .beaconSend peer => Sys2Proof.Machine.execBeaconSend peer s
  | .beaconReceive peer wc stratum linkDelay => Sys2Proof.Machine.execBeaconReceive peer wc stratum linkDelay s
  | .tokenProduce pair copy tok badWord => Sys2Proof.Machine.execTokenProduce pair copy tok badWord s
  | .skewTime pair => Sys2Proof.Machine.execSkewTime pair s
  | .beatWrite pair => Sys2Proof.Machine.execBeatWrite pair s
  | .beatWatchdog pair => Sys2Proof.Machine.execBeatWatchdog pair s
  | .roleTakeover => Sys2Proof.Machine.execRoleTakeover s
  | .inputToken pair kind halfA halfB => Sys2Proof.Machine.execInputToken pair kind halfA halfB s
  | .asyncEventTake pair => Sys2Proof.Machine.execAsyncEventTake pair s
  | .readPortRead pair pa flips => Sys2Proof.Machine.execReadPortRead pair pa flips s
  | .debugHalt pair countA countB => Sys2Proof.Machine.execDebugHalt pair countA countB s
  | .debugStep pair countA countB => Sys2Proof.Machine.execDebugStep pair countA countB s
  | .debugAccess pair write addr a b => Sys2Proof.Machine.execDebugAccess pair write addr a b s
  | .islandWeatherWindow pace tj => Sys2Proof.Machine.execIslandWeatherWindow pace tj s
  | .islandStart facts => Sys2Proof.Machine.execIslandStart facts s
  | .islReset => Sys2Proof.Machine.execIslReset s
  | .playoutStart => Sys2Proof.Machine.execPlayoutStart s
  | .planEntrySend index => Sys2Proof.Machine.execPlanEntrySend index s
  | .finalRepeat channel stream => Sys2Proof.Machine.execFinalRepeat channel stream s
  | .gaugeDeadline g => Sys2Proof.Machine.execGaugeDeadline g s
  | .stampReadResponse g flips => Sys2Proof.Machine.execStampReadResponse g flips s
  | .stampReadTimeout g => Sys2Proof.Machine.execStampReadTimeout g s
  | .expiredGaugePoll g => Sys2Proof.Machine.execExpiredGaugePoll g s
  | .soundingRelease instant => Sys2Proof.Machine.execSoundingRelease instant s
  | .soundingWindowEnd => Sys2Proof.Machine.execSoundingWindowEnd s
  | .soundingComplete outputs fault => Sys2Proof.Machine.execSoundingComplete outputs fault s
  | .drizzleSlot => Sys2Proof.Machine.execDrizzleSlot s
  | .drizzleSliceEnd failed => Sys2Proof.Machine.execDrizzleSliceEnd failed s
  | .heartbeatDeadline => Sys2Proof.Machine.execHeartbeatDeadline s
  | .errorRecordSecond => Sys2Proof.Machine.execErrorRecordSecond s
  | .coldStart facts => Sys2Proof.Machine.execColdStart facts s
  | .warmResetAssert => Sys2Proof.Machine.execWarmResetAssert s
  | .warmResetRelease facts => Sys2Proof.Machine.execWarmResetRelease facts s
  | .corePwrgdFall => Sys2Proof.Machine.execCorePwrgdFall s
  | .vmemOutOfRange => Sys2Proof.Machine.execVmemOutOfRange s
  | .islPwrgdFall => Sys2Proof.Machine.execIslPwrgdFall s
  | .portTrainingDone port id => Sys2Proof.Machine.execPortTrainingDone port id s
  | .flitReceive port seq ack nak crcOk laneBad body => Sys2Proof.Machine.execFlitReceive port seq ack nak crcOk laneBad body s
  | .peerSilent port => Sys2Proof.Machine.execPeerSilent port s
  | .inboundTransaction port tx => Sys2Proof.Machine.execInboundTransaction port tx s
  | .lockRead port tx => Sys2Proof.Machine.execLockRead port tx s
  | .lockWrite port tx => Sys2Proof.Machine.execLockWrite port tx s
  | .lockTimeout column => Sys2Proof.Machine.execLockTimeout column s
  | .lockRetryReceive port tag => Sys2Proof.Machine.execLockRetryReceive port tag s
  | .lockResend tag => Sys2Proof.Machine.execLockResend tag s
  | .sideBandPoll peer => Sys2Proof.Machine.execSideBandPoll peer s
  | .sideBandRecord peer lockCycle running latch live notify => Sys2Proof.Machine.execSideBandRecord peer lockCycle running latch live notify s
  | .peerCutCopy cut peerBerth record => Sys2Proof.Machine.execPeerCutCopy cut peerBerth record s
  | .txRingPoll ch => Sys2Proof.Machine.execTxRingPoll ch s
  | .rxFrame ch format pcp frame => Sys2Proof.Machine.execRxFrame ch format pcp frame s
  | .setpointReadPoint cls => Sys2Proof.Machine.execSetpointReadPoint cls s
  | .setpointSlot cls => Sys2Proof.Machine.execSetpointSlot cls s
  | .pcieInbound bus addr write len => Sys2Proof.Machine.execPcieInbound bus addr write len s
  | .pcieTimeout tag => Sys2Proof.Machine.execPcieTimeout tag s
  | .tileSelfTestEnd t failingBlock => Sys2Proof.Machine.execTileSelfTestEnd t failingBlock s
  | .i3cTransferEnd bus done result readBytes => Sys2Proof.Machine.execI3cTransferEnd bus done result readBytes s
  | .csiTxFrameEnd port => Sys2Proof.Machine.execCsiTxFrameEnd port s
  | .txFrameDone ch sent => Sys2Proof.Machine.execTxFrameDone ch sent s
  | .portLinkDown mac => Sys2Proof.Machine.execPortLinkDown mac s
  | .busOff ch entered => Sys2Proof.Machine.execBusOff ch entered s
  | .pcieCompletion tag data ok => Sys2Proof.Machine.execPcieCompletion tag data ok s
  | .debugResume pair => Sys2Proof.Machine.execDebugResume pair s
  | .flashWriteEnd readBackOk => Sys2Proof.Machine.execFlashWriteEnd readBackOk s

end Sys2Proof.Machine
end

