-- ==== Sys2Proof/Machine/Step.lean ====
section
/-! DEFINITION. One step: the command at the front of the queue, or one tick of the timing clock. -/

namespace Sys2Proof.Machine

/-- With no command waiting, one tick of the 250 MHz timing clock passes (R301), and the elastic buffers of the ports drain
(R338). -/
def idle (s : State) : State := drainPorts (tick s)

/-- Take the command at the front of the queue and carry it out; with no command waiting, the block idles. -/
def step (s : State) : Host.Outcome State Fault Refusal :=
  match s.pending with
  | [] => .next (idle s)
  | c :: rest => exec c { s with pending := rest }

/-- The state with the command that a table word spells at the front of the queue. The table gives no
row any bits, so no word spells a command and the state stays as it is. -/
def State.withFetchWord (s : State) (nbits w : Nat) : State :=
  match decodeTableWord nbits w with
  | none => s
  | some c => { s with pending := c :: s.pending }

end Sys2Proof.Machine
end

