-- ==== Sys2Proof/WellFormed.lean ====
section
/-! DEFINITION. Which commands and events the device's interfaces can bring: the bounds that the types of `Instr` do not
say by themselves. The meanings are total all the same. -/

namespace Sys2Proof

/-- A sample, record or payload of a bus: bytes, and not too many. -/
def sizeWithin (lo hi : Nat) (bs : List Byte) : Bool := lo ≤ bs.length && bs.length ≤ hi

/-- An address is a multiple of a size. -/
def alignedTo (n a : Nat) : Bool := a % n == 0

/-- A transaction of R515: KIND 0x0 to 0xA, CLASS 0x0 to 0x2, SIZE 0x0 to 0x6, at most one line of data. -/
def IsgalTx.wellFormed (x : IsgalTx) : Bool :=
  x.kind.toNat ≤ 0xA && x.cls != 3 && x.size.toNat ≤ 6 && x.data.length ≤ 64

/-- A lane instruction names no reserved number format (R85). -/
def LaneOp.wellFormed : LaneOp → Bool
  | .convert _ _ f g => f.toNat ≤ 0xD && g.toNat ≤ 0xD
  | _ => true

/-- What a start finds: rows lie in a bank of 131,072, POLL_US in its range (R489, R524). -/
def StartFacts.wellFormed (x : StartFacts) : Bool :=
  (match x.pollUs with
   | some p => 2 ≤ p.toNat && p.toNat ≤ 1000
   | none => true)
  && x.boardN.toNat ≤ 3

/-- A command or event that some interface can bring. -/
def Instr.wellFormed : Instr → Bool
  -- a packet on a berth's mailbox or queue never acts at device scope (R369); the recovery form comes by the supervisor
  | .fwUpdateRecovery c => c.path == .supervisor
  -- ordered-device accesses (R202, R385)
  | .registerWrite a d => (d.length == 1 || d.length == 2 || d.length == 4 || d.length == 8) && alignedTo d.length a.toNat
  | .i3cPrivateWrite bs => sizeWithin 1 256 bs
  | .i3cReplyRead n => 1 ≤ n
  -- memory (R183, R194, R206, R209, R217)
  | .frameZero f => f < 36 * 0x8000
  | .memoryRead _ _ n _ _ => 1 ≤ n && n ≤ 4096
  | .memoryWrite _ _ d _ => sizeWithin 1 4096 d
  | .memoryAtomic _ a _ size8 _ _ => alignedTo (if size8 then 8 else 4) a.toNat
  | .patrolRead a _ => alignedTo 64 a.toNat
  | .creditReturn u _ _ => u ≤ 37
  -- lanes and raster
  | .bundleIssue _ _ op _ => op.wellFormed
  -- sensors and the gateway
  | .startPacket _ _ p _ => sizeWithin 1 1472 p
  | .lidarPacket _ _ p _ => sizeWithin 1 1472 p
  | .longPacket _ _ _ p _ => p.length ≤ 65535
  | .rxFrame _ _ _ f => sizeWithin 1 2058 f
  | .pcieInbound _ _ w n => (match w with
      | some d => sizeWithin 1 4096 d
      | none => 1 ≤ n && n ≤ 4096)
  -- Isgal and starts
  | .flitReceive _ _ _ _ _ _ body => body.txs.all IsgalTx.wellFormed && body.txs.length ≤ 12
  | .inboundTransaction _ x => x.wellFormed
  | .lockRead _ x => x.wellFormed
  | .lockWrite _ x => x.wellFormed
  | .peerCutCopy _ _ r => r.length == 64 || r.length == 32
  | .coldStart x => x.wellFormed
  | .warmResetRelease x => x.wellFormed
  | .tokenProduce _ _ t _ => t.channel.toNat ≤ 4
  | _ => true

end Sys2Proof
end

