-- ==== Sys2Proof/Safety.lean ====
section
/-! DEFINITION. What counts as a safe run, and the notions that statements about steps are made in. -/

namespace Sys2Proof.Machine

/-- The outcome is a next state that satisfies `P`. -/
def NextIs (o : Host.Outcome State Fault Refusal) (P : State → Prop) : Prop := ∃ t, o = .next t ∧ P t

/-- If the outcome is a next state, it satisfies `P`. -/
def IfNext (o : Host.Outcome State Fault Refusal) (P : State → Prop) : Prop := ∀ t, o = .next t → P t

/-- A step goes on: it neither faults nor is refused. -/
def stepsOn (s : State) : Bool := match step s with
  | .next _ => true
  | _ => false

/-- The commands `cs` put in front of the queue. -/
def State.withCommands (cs : List Instr) (s : State) : State := { s with pending := cs ++ s.pending }

/-- The memory is in its canonical form. -/
def State.memOk (s : State) : Prop := s.mem.wf = true

/-- What every step keeps of the whole machine: memory stays in its canonical form. -/
def State.Inv (s : State) : Prop := s.memOk

/-! A packet that passes every check of R374 -/

/-- The device takes the packet `c` up (R371, R373, R388): its path is served, and a mailbox stands EMPTY or a
command may start on the queue. -/
def State.takes (s : State) (c : Cmd) : Bool :=
  s.serves c.path && match c.path with
    | .queue q => s.mayStart q.toNat
    | .mailbox m => (s.mailbox m.toNat).state == .empty
    | .supervisor => (s.mailbox 64).state == .empty

/-- The state once the packet is taken: the mailbox in TAKEN, or the slot of its record reserved. -/
def State.taken (s : State) (c : Cmd) : State :=
  match c.path with
  | .queue q => reserveSlot (s.dyn.cfg.queueDesc q.toNat).cq.toNat s
  | .mailbox m => s.modMailbox m.toNat fun x => { x with state := .taken }
  | .supervisor => s.modMailbox 64 fun x => { x with state := .taken }

/-- The packet's SEQ is the one its path expects (check 5). -/
def State.inTurn (s : State) (c : Cmd) : Bool :=
  match s.expected c.path with
  | none => true
  | some e => c.seq == e

/-- A packet of an opcode is taken and passes checks 5 to 13 of R374. -/
def Admits (op : OpInfo) (c : Cmd) (s : State) : Bool :=
  s.takes c && s.inTurn c && (firstFailure op c (s.taken c)).isNone

/-- The state in which a packet that passed the checks acts: it is taken, and its path expects the next SEQ. -/
def admitted (c : Cmd) (s : State) : State := setExpected c.path (c.seq + 1) (s.taken c)

/-- The state after an admitted packet has been answered at once with a status and a result. -/
def answered (op : OpInfo) (c : Cmd) (status : Nat) (r : Result) (s : State) : State :=
  writeRecord (ticketOf op c s) status r (admitted c s)

/-- A configuration command has been entered: the open shadow is `cfg`, the command stands in acceptance order among
those whose records the commit writes (R70, R372), and nothing else of the configuration has changed. -/
def enter (t : Ticket) (cfg : Shadow) (s : State) : State :=
  (s.modLock fun k => { k with opn := cfg, openCmds := k.openCmds ++ [t] }).bump

/-- The state after an admitted configuration command has been entered at once. -/
def entered (op : OpInfo) (c : Cmd) (cfg : Shadow) (s : State) : State := enter (ticketOf op c s) cfg (admitted c s)

/-- The state after an admitted configuration command whose checks, in their order, are `checks`: the first that holds
refuses it with its status, and when none holds the open shadow becomes `cfg`. -/
def settled (op : OpInfo) (c : Cmd) (checks : List (Bool × Nat)) (cfg : Shadow) (s : State) : State :=
  (firstOf checks).elim (entered op c cfg s) fun st => answered op c st noResult s

/-- The state after an admitted command answered at once whose checks, in their order, are `checks`: the first that holds
gives its status, and when none holds the record has status 0 and the result `r`. -/
def replied (op : OpInfo) (c : Cmd) (checks : List (Bool × Nat)) (r : Result) (s : State) : State :=
  (firstOf checks).elim (answered op c 0 r s) fun st => answered op c st noResult s

end Sys2Proof.Machine
end

