-- ==== Sys2Proof/Certificates/Slice0/Obligations.lean ====
section
/-! DEFINITION. The statements for the provers: what commands and events do, family by family, and what every step keeps. -/

open Sys2Proof Sys2Proof.Machine

/-! The step, reset, and what every step keeps -/

/-- A step takes the front command, and runs it on the state with the rest of the queue. The queue is the model's own (log
entry 1), and the table gives no row bits (log entry 154). -/
def Obligations.AStepRunsTheFrontCommand : Prop :=
  (∀ (c : Instr) (rest : List Instr) (s : State), step { s with pending := c :: rest } = exec c { s with pending := rest })
  ∧ (∀ (s : State) (nbits w : Nat), s.withFetchWord nbits w = s)

/-- With no command waiting a step is one tick of the 250 MHz timing clock (R299, R301, R309, R419), after which the bounds of
R21 and R74 on lock cycles are kept and the ports drain (R338). That the tick stands there is the model's choice: log entry 1. -/
def Obligations.AnEmptyQueueIsOneTick : Prop :=
  ∀ s : State, s.pending = [] →
    let time := s.dyn.time
    let wc := time.wc + tickStep time.wcF
    let clock := fun (d : DomainDyn) => if d.state = .grandmaster then wc else d.clock + tickStep d.f
    let isl := s.dyn.island
    let add := if !isl.disciplined then isl.rate else if isl.time = time.wc then wc - time.wc
      else max (4 * 2 ^ 48 - 4 * 2 ^ 48 / 20000) (min (4 * 2 ^ 48 + 4 * 2 ^ 48 / 20000) (wc - isl.time))
    let moved : State :=
      { s with
        dyn :=
          { s.dyn with
            time :=
              { time with
                wc := wc, domA := { time.domA with clock := clock time.domA }, domB := { time.domB with clock := clock time.domB },
                refPhase := (time.refPhase + 1) % 10 },
            island := { isl with time := isl.time + add, rate := add } } }
    step s = .next (drainPorts (keepCycles moved))
    ∧ ((moved.locks = false ∨ (moved.closeDue = false ∧ moved.edgeDue = false)) → keepCycles moved = moved)
    ∧ ((moved.locks = false ∨ (moved.closeDue = false ∧ moved.edgeDue = false)) → s.dyn.ingest.elastic = [] →
        step s = .next moved)

/-- What reset leaves: the values the spec gives (R388, R439, R486), and the canonical form of memory. -/
def Obligations.ResetLeavesTheBlockUnready : Prop :=
  State.reset.Inv ∧ State.reset.dyn.bring.ready = false ∧ State.reset.dyn.safety.latch = true
  ∧ (∀ m, (State.reset.mailbox m).state = .empty ∧ (State.reset.mailbox m).negotiated = false)
  ∧ (∀ b, (State.reset.dyn.cfg.berth b).state = .free) ∧ State.reset.dyn.cfg.basins = []
  ∧ (∀ q, (State.reset.dyn.cfg.queueDesc q).valid = false) ∧ State.reset.lock.number = 0 ∧ State.reset.pending = []

/-- Every step keeps the invariant `State.Inv`; and no command touches the queue of waiting commands. -/
def Obligations.EveryStepKeepsTheInvariant : Prop :=
  (∀ s : State, s.Inv → IfNext (step s) State.Inv)
  ∧ (∀ (c : Instr) (s : State), s.Inv → IfNext (exec c s) fun t => t.Inv ∧ t.pending = s.pending)


/-! Device commands (class 0x0) and the firmware identity -/

/-- ECHO, GET_DEVICE_STATUS, GET_FW_IDENTITY, GET_WEATHER and NEGOTIATE: each admitted packet is answered at once, with
the result the spec gives it, and the next state is the admitted state with that answer (R30, R395, R399, R400). -/
def Obligations.DeviceReadsAnswerAtOnce : Prop :=
  (∀ c s, Admits opEcho c s = true →
    exec (.echo c) s = .next (answered opEcho c 0 (shortResult [(0, 128, fldN c.params 0 128)]) s))
  ∧ (∀ c s, Admits opGetDeviceStatus c s = true →
    exec (.getDeviceStatus c) s = .next (answered opGetDeviceStatus c 0
      (shortResult [(0, 2, b2n s.snap.cfg.running), (2, 2, s.dyn.bring.grade.toNat), (4, 2, s.dyn.bring.devId.toNat),
        (8, 6, s.snap.cfg.enabledTiles.length), (16, 8, 1), (24, 8, 2), (64, 64, s.lock.number.toNat)]) s))
  ∧ (∀ c s, Admits opGetFwIdentity c s = true →
    exec (.getFwIdentity c) s = .next (answered opGetFwIdentity c 0
      (longResult 64 [(0, 32, fldN s.dyn.bring.image.header 0 32), (128, 256, s.dyn.bring.image.digest.toNat)]) s))
  ∧ (∀ c s p, Admits opGetWeather c s = true → s.snap.cfg.physOf (fldN c.params 0 6) = some p →
    exec (.getWeather c) s = .next (answered opGetWeather c 0
      (weatherRecord (tabGet {} s.snap.tiles p) (!s.snap.tileIdle p) (s.snap.cfg.safetyTile (fldN c.params 0 6))) s))
  ∧ (∀ c s, Admits opGetWeather c s = true → s.snap.cfg.physOf (fldN c.params 0 6) = none →
    exec (.getWeather c) s = .next (answered opGetWeather c 0x0056 noResult s))
  ∧ (∀ c s m, Admits opNegotiate c s = true → pathMailbox? c.path = some m →
    exec (.negotiate c) s = .next
      ((answered opNegotiate c 0 (shortResult [(0, 8, 1), (8, 8, 2),
        (64, 64, (fld c.params 0 64 &&& (if m = 64 then 0xF else 0x7)).toNat)]) s).modMailbox m fun x =>
          { x with negotiated := true, features := fld c.params 0 64 &&& (if m = 64 then 0xF else 0x7) }))

/-- LOCK_COMMIT asks for a lock cycle within 100 us; SET_POWER_POLICY writes the policy into the open shadow, or is refused
on any path but the supervisor's and when the policy breaks the power budget (R39, R40, R70, R74). -/
def Obligations.DeviceConfigurationEntersTheShadow : Prop :=
  (∀ c s, Admits opLockCommit c s = true →
    exec (.lockCommit c) s = .next ((entered opLockCommit c s.lock.opn s).modLock fun k =>
      { k with closeBy := some (k.closeBy.getD (s.now16 + 100 * us16)) }))
  ∧ (∀ c s cfg, Admits opSetPowerPolicy c s = true → c.path = .supervisor →
    cfg = { s.lock.opn with
      policy := { safeStep := fld c.params 0 5, perfCeil := fld c.params 8 5, excEn := bitAt c.params 16 } } →
    (cfg.budgetOk = true → exec (.setPowerPolicy c) s = .next (entered opSetPowerPolicy c cfg s))
    ∧ (cfg.budgetOk = false → exec (.setPowerPolicy c) s = .next (answered opSetPowerPolicy c 0x0040 noResult s)))
  ∧ (∀ c s, Admits opSetPowerPolicy c s = true → c.path ≠ .supervisor →
    exec (.setPowerPolicy c) s = .next (answered opSetPowerPolicy c 0x0003 noResult s))


/-! Basins, cuts, berths, queues and mappings: configuration commands -/

/-- R67 as a whole: CUT_SET and CUT_CLEAR are refused at the first check that fails, with its status and no change of the
configuration, and else change exactly their entry of the open shadow, so that a source feeds at most one valid cut. -/
def Obligations.CutCommandsFollowTheirChecks : Prop :=
  let feedsOne := fun (k : Shadow) => ∀ i j, (tabGet {} k.cuts i).valid = true → (tabGet {} k.cuts j).valid = true →
    (tabGet {} k.cuts i).srcKind = (tabGet {} k.cuts j).srcKind → (tabGet {} k.cuts i).src = (tabGet {} k.cuts j).src → i = j
  (∀ c s n e, Admits opCutSet c s = true → n = fldN c.params 0 12 → e = cutOfParams c.params →
    let cfg := s.lock.opn
    let sup : Bool := c.path == .supervisor
    let old := tabGet {} cfg.cuts n
    let v := e.src.toNat
    let stream : Bool := e.srcKind == 0 || e.srcKind == 1
    let denied : Bool := (!sup && e.berth != c.berth) || (old.valid && !(sup || c.berth == old.berth))
      || (stream && v < 32 && !bitAt (cfg.berth e.berth).streamGrant v)
    let inRange : Bool := (stream && v < 32) || e.srcKind == 2
      || (e.srcKind == 3 && fldN e.src 16 2 ≠ s.dyn.bring.devId.toNat && fldN e.src 16 2 ≤ s.dyn.bring.boardN.toNat
            && fldN e.src 12 4 = 0)
      || (e.srcKind == 4 && v < 64)
    let invalid : Bool := (cfg.berth e.berth).state ≠ .live || !inRange
    let conflict : Bool := tabAny (fun k x => k != n && x.valid && (x.srcKind == e.srcKind && x.src == e.src)) cfg.cuts
      || tabAny (fun k d => k != e.berth.toNat && d.state != .free && d.queueFirst.toNat ≤ e.destQueue.toNat
            && e.destQueue.toNat < d.queueFirst.toNat + d.queueCount.toNat) cfg.berths
    let cfg' := { cfg with cuts := tabPut {} cfg.cuts n { e with gen := (cfg.berth e.berth).gen } }
    (denied = true → exec (.cutSet c) s = .next (answered opCutSet c 0x00C1 noResult s))
    ∧ (denied = false → invalid = true → exec (.cutSet c) s = .next (answered opCutSet c 0x00C0 noResult s))
    ∧ (denied = false → invalid = false → conflict = true →
        exec (.cutSet c) s = .next (answered opCutSet c 0x00C8 noResult s))
    ∧ (denied = false → invalid = false → conflict = false →
        exec (.cutSet c) s = .next (entered opCutSet c cfg' s)
        ∧ (tabWf {} cfg.cuts = true → feedsOne cfg → feedsOne cfg')))
  ∧ (∀ c s n, Admits opCutClear c s = true → n = fldN c.params 0 12 →
    let cfg := s.lock.opn
    let sup : Bool := c.path == .supervisor
    let old := tabGet {} cfg.cuts n
    let denied : Bool := old.valid && !(sup || c.berth == old.berth)
    let cfg' := { cfg with cuts := tabPut {} cfg.cuts n {} }
    (denied = true → exec (.cutClear c) s = .next (answered opCutClear c 0x00C1 noResult s))
    ∧ (old.valid = false → exec (.cutClear c) s = .next (answered opCutClear c 0x00C0 noResult s))
    ∧ (denied = false → old.valid = true →
        exec (.cutClear c) s = .next (entered opCutClear c cfg' s)
        ∧ (tabWf {} cfg.cuts = true → feedsOne cfg → feedsOne cfg')))

/-- BASIN_CREATE, BASIN_MODIFY and BASIN_DESTROY (R58, R59): the first check that fails answers its status and changes
nothing of the configuration; when none fails the command completes and changes its descriptor in the open shadow. -/
def Obligations.BasinCommandsChangeTheirDescriptor : Prop :=
  let refusal := fun (checks : List (Bool × Nat)) => checks.findSome? fun x => if x.1 then some x.2 else none
  let checks := fun (t : Ticket) (s : State) (n : Nat) (old d : BasinDesc) (create : Bool) =>
    let cfg := s.lock.opn
    let p := d.parent.toNat
    let sup := t.fromSupervisor
    let tile := cfg.tileCheck n d.berth (d.tileMask &&& ~~~ old.tileMask)
    [ (d.hasParent && !t.ownsBasin cfg p, 0x0050),
      ((n == 0 || (!create && cfg.under 0 n) || (d.hasParent && cfg.under 0 p)) && !(sup && s.inService), 0x0053),
      (d.kind == 0 || (d.kind == 2 && d.tileMask != 0)
        || !(if sup then (cfg.berth d.berth).state == .live else d.berth == t.cmd.berth)
        || (d.hasParent && !((cfg.basin p).kind == 2 && (cfg.basin p).berth == d.berth))
        || (!create && d.berth != old.berth && (old.hasParent || !(cfg.children n).isEmpty)), 0x0057),
      (d.hasParent && (p == n || (!create && cfg.under n p)), 0x0051),
      (tile.isSome, tile.getD 0),
      (!create && old.kind == 2 && d.kind == 1 && !(cfg.children n).isEmpty, 0x0054),
      (tabAny (fun k e => k != n && e.kind != 0 && e.endpoint == d.endpoint) cfg.basins, 0x0055),
      (!({ cfg with basins := tabPut {} cfg.basins n d } : Shadow).budgetOk, 0x0040) ]
  (∀ c s n d, Admits opBasinCreate c s = true → n = fldN c.params 0 10 → d = basinOfParams c.params →
    let cfg := s.lock.opn
    let all := (cfg.basinUsed n, 0x0050) :: checks (ticketOf opBasinCreate c s) s n {} d true
    (∀ st, refusal all = some st → exec (.basinCreate c) s = .next (answered opBasinCreate c st noResult s))
    ∧ (refusal all = none → exec (.basinCreate c) s = .next (entered opBasinCreate c
        { cfg with basins := tabPut {} cfg.basins n { d with made := s.lock.number.toNat + 1 },
                   basinNext := tabMap 0 (fun k v => if k % 1024 = n then 0 else v) cfg.basinNext } s)))
  ∧ (∀ c s n d, Admits opBasinModify c s = true → n = fldN c.params 0 10 → d = basinOfParams c.params →
    let cfg := s.lock.opn
    let t := ticketOf opBasinModify c s
    let all := (!t.ownsBasin cfg n, 0x0050) :: checks t s n (cfg.basin n) d false
    (∀ st, refusal all = some st → exec (.basinModify c) s = .next (answered opBasinModify c st noResult s))
    ∧ (refusal all = none → exec (.basinModify c) s = .next (entered opBasinModify c
        { cfg with basins := tabPut {} cfg.basins n { d with made := (cfg.basin n).made } } s)))
  ∧ (∀ c s n, Admits opBasinDestroy c s = true → n = fldN c.params 0 10 →
    let cfg := s.lock.opn
    let cfg' := { cfg with basins := tabPut {} cfg.basins n {} }
    let t := ticketOf opBasinDestroy c s
    let all : List (Bool × Nat) :=
      [ (!t.ownsBasin cfg n, 0x0050), (cfg.under 0 n && !(t.fromSupervisor && s.inService), 0x0053),
        (!(cfg.children n).isEmpty || (cfg.basin n).tileMask != 0, 0x0054), (!cfg'.budgetOk, 0x0040) ]
    (∀ st, refusal all = some st → exec (.basinDestroy c) s = .next (answered opBasinDestroy c st noResult s))
    ∧ (refusal all = none → exec (.basinDestroy c) s = .next (entered opBasinDestroy c cfg' s)))

/-- The berth lifecycle commands (R402, R406 to R409): what BERTH_CREATE, BERTH_MODIFY, BERTH_RESET and BERTH_DESTROY write
into the open shadow, and their refusal off the supervisor path and in the wrong state. -/
def Obligations.BerthCommandsMoveTheLifecycle : Prop :=
  (∀ c s b d, Admits opBerthCreate c s = true → c.path = .supervisor → b = fldN c.params 8 6 →
    d = { (({} : BerthDesc).withParams c.params) with state := .live, gen := (tabGet {} s.lock.opn.berths b).gen + 1 } →
    let cfg := s.lock.opn
    ((tabGet {} cfg.berths b).state ≠ .free → exec (.berthCreate c) s = .next (answered opBerthCreate c 0x0111 noResult s))
    ∧ ((tabGet {} cfg.berths b).state = .free → (s.inService = true ∨ cfg.touchesSafety d.tileGrant = false) →
        berthChecks cfg b {} d = none →
        exec (.berthCreate c) s = .next (entered opBerthCreate c
          { cfg with berths := tabPut {} cfg.berths b d, genRaise := tabPut 0 cfg.genRaise b 1 } s)))
  ∧ (∀ c s b old d, Admits opBerthModify c s = true → c.path = .supervisor → b = fldN c.params 8 6 →
    old = tabGet {} s.lock.opn.berths b → d = old.withParams c.params →
    let cfg := s.lock.opn
    let cfg' := cfg.takeTiles (old.tileGrant &&& ~~~ d.tileGrant)
    (old.state ≠ .live → exec (.berthModify c) s = .next (answered opBerthModify c 0x0111 noResult s))
    ∧ (old.state = .live → (s.inService = true ∨ cfg.touchesSafety (old.tileGrant ^^^ d.tileGrant) = false) →
        berthChecks cfg b old d = none →
        exec (.berthModify c) s = .next (entered opBerthModify c { cfg' with berths := tabPut {} cfg'.berths b d } s)))
  ∧ (∀ c s b, Admits opBerthReset c s = true → b = fldN c.params 0 6 →
    (c.path = .supervisor ∨ ∃ m : BitVec 6, c.path = .mailbox m ∧ m.toNat = b) →
    let cfg := s.lock.opn
    ((tabGet {} cfg.berths b).state ≠ .live → exec (.berthReset c) s = .next (answered opBerthReset c 0x0111 noResult s))
    ∧ ((tabGet {} cfg.berths b).state = .live → s.inService = false → cfg.ownsSafety b = true →
        exec (.berthReset c) s = .next (answered opBerthReset c 0x0053 noResult s))
    ∧ ((tabGet {} cfg.berths b).state = .live → (s.inService = true ∨ cfg.ownsSafety b = false) →
        exec (.berthReset c) s = .next (entered opBerthReset c (cfg.raiseGen b .live (s.lock.number.toNat + 1)) s)))
  ∧ (∀ c s b, Admits opBerthDestroy c s = true → c.path = .supervisor → b = fldN c.params 0 6 →
    let cfg := s.lock.opn
    let cycle := s.lock.number.toNat + 1
    (tabGet {} cfg.berths b).state = .live → (s.inService = true ∨ cfg.ownsSafety b = false) →
      exec (.berthDestroy c) s = .next (entered opBerthDestroy c ((cfg.raiseGen b .closing cycle).dropWeights b cycle) s))
  ∧ (∀ c s, c.path ≠ .supervisor →
    (Admits opBerthCreate c s = true → exec (.berthCreate c) s = .next (answered opBerthCreate c 0x0115 noResult s))
    ∧ (Admits opBerthModify c s = true → exec (.berthModify c) s = .next (answered opBerthModify c 0x0115 noResult s))
    ∧ (Admits opBerthDestroy c s = true → exec (.berthDestroy c) s = .next (answered opBerthDestroy c 0x0115 noResult s)))

/-- A berth's generation increments at most once per lock cycle, and the increment takes the berth its queues, cuts,
translation entries and raster contexts (R406, R412). -/
def Obligations.GenerationRisesOncePerShadow : Prop :=
  ∀ (c : Shadow) (b : Nat) (st : BerthState) (cycle : Nat), tabWf {} c.berths = true → tabWf 0 c.genRaise = true →
    let c' := c.raiseGen b st cycle
    (tabGet 0 c.genRaise b = 0 → (tabGet {} c'.berths b).gen = (tabGet {} c.berths b).gen + 1)
    ∧ (tabGet 0 c.genRaise b ≠ 0 → (tabGet {} c'.berths b).gen = (tabGet {} c.berths b).gen)
    ∧ (tabGet {} c'.berths b).state = st
    ∧ tabGet 0 c'.genRaise b = 1
    ∧ (∀ k, k ≠ b → tabGet {} c'.berths k = tabGet {} c.berths k)
    ∧ (tabGet 0 c.genRaise b = 0 →
        (∀ kv ∈ c'.queues, kv.2.berth.toNat ≠ b) ∧ (∀ kv ∈ c'.cuts, kv.2.berth.toNat ≠ b)
        ∧ (∀ kv ∈ c'.xlat, kv.2.owner.toNat ≠ b) ∧ (∀ kv ∈ c'.rasterCtx, kv.2.berth.toNat ≠ b))

/-- BERTH_GRANT (R403, R405, R407, R409): the grant written or revoked in the open shadow, and each refusal in order. -/
def Obligations.BerthGrantWritesOneGrant : Prop :=
  ∀ c s n b g, Admits opBerthGrant c s = true → n = fldN c.params 0 7 → b = fldN c.params 8 6 →
    g = ({ valid := true, berth := fld c.params 8 6, first := fld c.params 32 32, frames := fld c.params 64 32 } : HostGrant) →
    let cfg := s.lock.opn
    let old := tabGet {} cfg.grants n
    let live := (tabGet {} cfg.berths b).state = .live
    let outside : Bool := g.first.toNat < 0xC0000000 || g.frames == 0 || 0x100000000 < g.first.toNat + g.frames.toNat
    let overlap := tabAny (fun k e => k != n && e.valid && e.berth != g.berth
        && rangesMeet g.first.toNat g.frames.toNat e.first.toNat e.frames.toNat) cfg.grants
    (c.path ≠ .supervisor → exec (.berthGrant c) s = .next (answered opBerthGrant c 0x0115 noResult s))
    ∧ (c.path = .supervisor → bitAt c.params 7 = true →
        (¬ live → exec (.berthGrant c) s = .next (answered opBerthGrant c 0x0111 noResult s))
        ∧ (live → outside = true → exec (.berthGrant c) s = .next (answered opBerthGrant c 0x0110 noResult s))
        ∧ (live → outside = false → overlap = true → exec (.berthGrant c) s = .next (answered opBerthGrant c 0x0112 noResult s))
        ∧ (live → outside = false → overlap = false →
            (old.valid && ({ cfg with grants := tabPut {} cfg.grants n g }).grantInUse 128 old) = false →
            exec (.berthGrant c) s = .next (entered opBerthGrant c { cfg with grants := tabPut {} cfg.grants n g } s)))
    ∧ (c.path = .supervisor → bitAt c.params 7 = false →
        ((old.valid && old.berth.toNat == b) = false →
            exec (.berthGrant c) s = .next (answered opBerthGrant c 0x0110 noResult s))
        ∧ ((old.valid && old.berth.toNat == b) = true → cfg.grantInUse n old = true →
            exec (.berthGrant c) s = .next (answered opBerthGrant c 0x0113 noResult s))
        ∧ ((old.valid && old.berth.toNat == b) = true → cfg.grantInUse n old = false →
            exec (.berthGrant c) s = .next (entered opBerthGrant c { cfg with grants := tabPut {} cfg.grants n {} } s)))

/-- The queue commands (R163, R167, R180): what they write into the open shadow, and the order of their refusals. -/
def Obligations.QueueCommandsFollowTheirChecks : Prop :=
  (∀ c s q d, Admits opQueueCreate c s = true → q = fldN c.params 0 18 → d = queueOfParams c.params →
    let cfg := s.lock.opn
    let b := cfg.berth d.berth
    let unknown : Bool := (cfg.queueDesc q).valid
      || !(if c.path == .supervisor then b.state == .live else d.berth == c.berth)
    let outside : Bool := !(b.queueFirst.toNat ≤ q && q < b.queueFirst.toNat + b.queueCount.toNat)
    let invalid : Bool := !queueFieldsOk d || !d.valid || !cfg.cqOk d
    (unknown = true → exec (.queueCreate c) s = .next (answered opQueueCreate c 0x0090 noResult s))
    ∧ (unknown = false → outside = true → exec (.queueCreate c) s = .next (answered opQueueCreate c 0x0094 noResult s))
    ∧ (unknown = false → outside = false → invalid = true →
        exec (.queueCreate c) s = .next (answered opQueueCreate c 0x0091 noResult s))
    ∧ (unknown = false → outside = false → invalid = false →
        exec (.queueCreate c) s = .next (entered opQueueCreate c
          { cfg with queues := tabPut {} cfg.queues q { d with gen := b.gen, made := s.lock.number.toNat + 1 } } s)))
  ∧ (∀ c s q old d, Admits opQueueModify c s = true → q = fldN c.params 0 18 → old = s.lock.opn.queueDesc q →
    d = { queueOfParams c.params with gen := old.gen, made := old.made } →
    let cfg := s.lock.opn
    let owned := (ticketOf opQueueModify c s).ownsQueue cfg q
    let invalid : Bool := !queueFieldsOk d || !d.valid || d.berth ≠ old.berth || !cfg.cqOk d
    let moved : Bool := !queueEmpty (admitted c s) old q
      && (d.ringAddr ≠ old.ringAddr || d.ringLog2 ≠ old.ringLog2 || d.kind ≠ old.kind || d.entry ≠ old.entry)
    let named : Bool := (d.kind ≠ old.kind || d.entry ≠ old.entry) && cfg.queueNamed q
    (owned = false → exec (.queueModify c) s = .next (answered opQueueModify c 0x0090 noResult s))
    ∧ (owned = true → invalid = true → exec (.queueModify c) s = .next (answered opQueueModify c 0x0091 noResult s))
    ∧ (owned = true → invalid = false → moved = true ∨ named = true →
        exec (.queueModify c) s = .next (answered opQueueModify c 0x0093 noResult s))
    ∧ (owned = true → invalid = false → moved = false → named = false →
        exec (.queueModify c) s = .next (entered opQueueModify c { cfg with queues := tabPut {} cfg.queues q d } s)))
  ∧ (∀ c s q, Admits opQueueDestroy c s = true → q = fldN c.params 0 18 →
    let cfg := s.lock.opn
    let owned := (ticketOf opQueueDestroy c s).ownsQueue cfg q
    let busy : Bool := !queueEmpty (admitted c s) (cfg.queueDesc q) q || cfg.queueNamed q
    (owned = false → exec (.queueDestroy c) s = .next (answered opQueueDestroy c 0x0090 noResult s))
    ∧ (owned = true → busy = true → exec (.queueDestroy c) s = .next (answered opQueueDestroy c 0x0093 noResult s))
    ∧ (owned = true → busy = false →
        exec (.queueDestroy c) s = .next (entered opQueueDestroy c { cfg with queues := tabPut {} cfg.queues q {} } s)))
  ∧ (∀ c s q, Admits opQueueResume c s = true → q = fldN c.params 0 18 →
    let cfg := s.lock.opn
    let owned := (ticketOf opQueueResume c s).ownsQueue cfg q
    (owned = false → exec (.queueResume c) s = .next (answered opQueueResume c 0x0090 noResult s))
    ∧ (owned = true → exec (.queueResume c) s = .next (entered opQueueResume c
        { cfg with resumes := tabPut 0 cfg.resumes q (max (tabGet 0 cfg.resumes q) (if bitAt c.params 18 then 2 else 1)) } s)))

/-- The memory mapping commands (R200, R216 to R220): the refusal of the first check that fails, the wait, and the entries that
each command that passes puts into the open shadow, in ascending VA. Which free frame of a column is taken is a free value (log
entry 70). -/
def Obligations.MemoryCommandsChangeTheTranslation : Prop :=
  let refusal := fun (checks : List (Bool × Nat)) => checks.findSome? fun x => if x.1 then some x.2 else none
  let kept := fun (op : OpInfo) (c : Cmd) (s : State) => (admitted c s).modLock fun k =>
    { k with openCmds := k.openCmds ++ [ticketOf op c s], waiting := k.waiting ++ [ticketOf op c s] }
  (∀ c s, c.device = true →
    (Admits opMemAlloc c s = true → exec (.memAlloc c) s = .next (answered opMemAlloc c 0x0004 noResult s))
    ∧ (Admits opMemMapWindow c s = true → exec (.memMapWindow c) s = .next (answered opMemMapWindow c 0x0004 noResult s))
    ∧ (Admits opMemFree c s = true → exec (.memFree c) s = .next (answered opMemFree c 0x0004 noResult s))
    ∧ (Admits opMemProtect c s = true → exec (.memProtect c) s = .next (answered opMemProtect c 0x0004 noResult s)))
  ∧ (∀ c s, c.device = false → memMustWait s c.berth = true →
    (Admits opMemAlloc c s = true → exec (.memAlloc c) s = .next (kept opMemAlloc c s))
    ∧ (Admits opMemMapWindow c s = true → exec (.memMapWindow c) s = .next (kept opMemMapWindow c s))
    ∧ (Admits opMemFree c s = true → exec (.memFree c) s = .next (kept opMemFree c s))
    ∧ (Admits opMemProtect c s = true → exec (.memProtect c) s = .next (kept opMemProtect c s)))
  ∧ (∀ c s, c.device = false → memMustWait s c.berth = false →
    let cfg := s.lock.opn
    let va := memVa c.params
    let n := memPages c.params
    let es := cfg.mapEntries c.berth va n
    let range : Bool := va % 0x10000 == 0 && 1 ≤ n && n ≤ 16711680 && va / 0x10000 + n ≤ (cfg.berth c.berth).xlatCount.toNat
    let valid := fun (k : Nat) => (tabGet {} cfg.xlat k).valid
    let watched := cfg.stampOn c.berth va n
    (Admits opMemAlloc c s = true →
      let d := cfg.berth c.berth
      let e0 := (({ valid := true, owner := c.berth } : XlatEntry).withFlags c.params)
      let place := fldN c.params 96 2
      let wh := fldN c.params 112 10
      let checks : List (Bool × Nat) :=
        [ (!range, 0x00A0), (!entryFlagsOk e0 || (place == 2 && !cfg.enabled wh), 0x00A1),
          (place == 1 && !(ticketOf opMemAlloc c s).ownsBasin cfg wh, 0x0050), (es.any valid, 0x00A2),
          (decide (d.memQuota.toNat < d.memUsed.toNat + n), 0x00A5) ]
      let tiles := if place = 1 then cfg.tilesUnder wh else []
      let turn := tabGet 0 cfg.basinNext (c.berth.toNat * 1024 + wh)
      let cols := if place = 0 then turnAfter (fun k => k + 1 == tabGet 0 cfg.spreadNext c.berth.toNat) (upFrom 0 36)
        else if place = 2 then [wh].filterMap cfg.physOf
        else ((tiles.filter fun k => turn ≤ k) ++ (tiles.filter fun k => k < turn)).filterMap cfg.physOf
      (∀ st, refusal checks = some st → exec (.memAlloc c) s = .next (answered opMemAlloc c st noResult s))
      ∧ (refusal checks = none →
        (placePages (admitted c s).free c.berth n cols cfg = none →
          exec (.memAlloc c) s = .next (answered opMemAlloc c 0x00A6 noResult s))
        ∧ (∀ fs next held, placePages (admitted c s).free c.berth n cols cfg = some (fs, next, held) →
          let last := next.getLast?.getD 0
          exec (.memAlloc c) s = .next (entered opMemAlloc c
            { held with
              berths := tabPut {} held.berths c.berth.toNat { d with memUsed := d.memUsed + BitVec.ofNat 24 n },
              spreadNext := if place = 0 then tabPut 0 held.spreadNext c.berth.toNat (last + 1) else held.spreadNext,
              basinNext := if place = 1
                then tabPut 0 held.basinNext (c.berth.toNat * 1024 + wh) ((held.logicalOf last).getD 0 + 1) else held.basinNext,
              xlat := putEntries held.xlat ((es.zip fs).map fun ef => (ef.1, { e0 with frame := BitVec.ofNat 32 ef.2 })) } s))))
    ∧ (Admits opMemMapWindow c s = true →
      let target := fldN c.params 96 2
      let first := fldN c.params 160 32
      let e0 := (({ valid := true, owner := c.berth, target := fld c.params 96 2, device := fld c.params 112 2 } : XlatEntry).withFlags
        c.params)
      let entries := (es.zip (upFrom first n)).map fun ef => (ef.1, { e0 with frame := BitVec.ofNat 32 ef.2 })
      let checks : List (Bool × Nat) :=
        [ (!range, 0x00A0),
          (decide (0x100000000 < first + n) || (target == 2 && !(upFrom first n).all fun f => registerFrame f || pcieFrame f)
            || !entries.all (fun x => entryFlagsOk x.2), 0x00A1),
          (es.any valid, 0x00A2),
          (!(upFrom first n).all (windowGranted (admitted c s) cfg c.berth target (fldN c.params 112 2) e0.device1), 0x00A4) ]
      (∀ st, refusal checks = some st → exec (.memMapWindow c) s = .next (answered opMemMapWindow c st noResult s))
      ∧ (refusal checks = none → exec (.memMapWindow c) s = .next (entered opMemMapWindow c
          { cfg with xlat := putEntries cfg.xlat entries } s)))
    ∧ (Admits opMemFree c s = true →
      let checks : List (Bool × Nat) := [ (!range, 0x00A0), (!es.all valid, 0x00A3), (watched, 0x0053) ]
      (∀ st, refusal checks = some st → exec (.memFree c) s = .next (answered opMemFree c st noResult s))
      ∧ (refusal checks = none → exec (.memFree c) s = .next (entered opMemFree c
          { cfg with
            frames := (es.filterMap fun k =>
                let e := tabGet {} cfg.xlat k
                if e.target = 0 then some e.frame.toNat else none).foldl (fun t f =>
              if tabGet .free t f = .held c.berth then tabPut .free t f (.freed c.berth (s.lock.number.toNat + 1)) else t) cfg.frames,
            xlat := putEntries cfg.xlat (es.map fun k => (k, {})) } s)))
    ∧ (Admits opMemProtect c s = true →
      let new := es.map fun k => (k, (tabGet {} cfg.xlat k).withFlags c.params)
      let checks : List (Bool × Nat) :=
        [ (!range, 0x00A0), (!new.all (fun x => entryFlagsOk x.2), 0x00A1), (!es.all valid, 0x00A3),
          (!bitAt c.params 128 && watched, 0x0053) ]
      (∀ st, refusal checks = some st → exec (.memProtect c) s = .next (answered opMemProtect c st noResult s))
      ∧ (refusal checks = none → exec (.memProtect c) s = .next (entered opMemProtect c
          { cfg with xlat := putEntries cfg.xlat new } s))))

/-- The reads of configuration (R56, R163, R221, R408): the latched descriptors, to who may see them; nothing else changes. -/
def Obligations.LatchedDescriptorsAreRead : Prop :=
  (∀ c s, Admits opGetBasin c s = true →
    let n := fldN c.params 0 10
    let owned := (ticketOf opGetBasin c s).ownsBasin s.lock.opn n
    (owned = true → exec (.getBasin c) s = .next (answered opGetBasin c 0 (basinRecord s.snap n) s))
    ∧ (owned = false → exec (.getBasin c) s = .next (answered opGetBasin c 0x0050 noResult s)))
  ∧ (∀ c s, Admits opGetBerth c s = true →
    let b := fldN c.params 0 6
    ((c.path = .supervisor ∨ ∃ m : BitVec 6, c.path = .mailbox m ∧ m.toNat = b) →
      exec (.getBerth c) s = .next (answered opGetBerth c 0 (berthRecord (tabGet {} s.snap.cfg.berths b) b) s))
    ∧ (¬ (c.path = .supervisor ∨ ∃ m : BitVec 6, c.path = .mailbox m ∧ m.toNat = b) →
      exec (.getBerth c) s = .next (answered opGetBerth c 0x0115 noResult s)))
  ∧ (∀ c s, Admits opGetQueue c s = true →
    let q := fldN c.params 0 18
    let owned := (ticketOf opGetQueue c s).ownsQueue s.snap.cfg q
    (owned = true → exec (.getQueue c) s = .next (answered opGetQueue c 0
        (queueRecord (s.snap.cfg.queueDesc q) (tabGet {} s.snap.queues q)) s))
    ∧ (owned = false → exec (.getQueue c) s = .next (answered opGetQueue c 0x0090 noResult s)))
  ∧ (∀ c s, Admits opGetMapping c s = true → c.device = true →
    exec (.getMapping c) s = .next (answered opGetMapping c 0x0004 noResult s))
  ∧ (∀ c s, Admits opGetMapping c s = true → c.device = false →
    let va := fldN c.params 0 40
    let cfg := s.snap.cfg
    (va % 0x10000 ≠ 0 ∨ cfg.entryNo c.berth va = none →
      exec (.getMapping c) s = .next (answered opGetMapping c 0x00A0 noResult s))
    ∧ (∀ n, va % 0x10000 = 0 → cfg.entryNo c.berth va = some n →
      let e := tabGet {} cfg.xlat n
      (e.valid = false → exec (.getMapping c) s = .next (answered opGetMapping c 0 (longResult 32 [(16, 6, 0x3F)]) s))
      ∧ (e.valid = true → exec (.getMapping c) s = .next (answered opGetMapping c 0
          (longResult 32 [(0, 7, e.flags), (8, 2, e.device.toNat),
            (16, 6, if e.target = 0 then (cfg.logicalOf (columnOf (e.frame.toNat * 0x10000))).getD 0x3F else 0x3F)]) s))))


/-! Models, lane programs and tensor commands -/

/-- MODEL_UNREGISTER, GET_MODEL and SET_RESIDENCY (R156, R157): refusals, the shadow they leave, what is read. -/
def Obligations.ModelTableCommandsFollowTheirChecks : Prop :=
  (∀ c s h, Admits opModelUnregister c s = true → h = fldN c.params 0 10 →
    let cfg := s.lock.opn
    ((cfg.model c.berth h).valid = false →
        exec (.modelUnregister c) s = .next (answered opModelUnregister c 0x0082 noResult s))
    ∧ ((cfg.model c.berth h).valid = true → modelBusy (admitted c s) c.berth h = true →
        exec (.modelUnregister c) s = .next (answered opModelUnregister c 0x0083 noResult s))
    ∧ ((cfg.model c.berth h).valid = true → modelBusy (admitted c s) c.berth h = false →
        exec (.modelUnregister c) s = .next (entered opModelUnregister c
          { cfg with
            frames := (cfg.model c.berth h).frames.foldl (fun f k =>
              if tabGet .free f k = .held c.berth then tabPut .free f k (.freed c.berth (s.lock.number.toNat + 1)) else f) cfg.frames,
            models := tabPut {} cfg.models (c.berth.toNat * 1024 + h) {} } s)))
  ∧ (∀ c s h, Admits opGetModel c s = true → h = fldN c.params 0 10 →
    ((s.snap.cfg.model c.berth h).valid = false → exec (.getModel c) s = .next (answered opGetModel c 0x0082 noResult s))
    ∧ ((s.snap.cfg.model c.berth h).valid = true →
        exec (.getModel c) s = .next (answered opGetModel c 0 (shortResult [(0, 32, s.snap.residentMask c.berth h),
          (32, 32, (tabGet 0 s.snap.work.started (c.berth.toNat * 1024 + h)).toNat)]) s)))
  ∧ (∀ c s, Admits opSetResidency c s = true →
    (fldN c.params 8 8 = 0 → exec (.setResidency c) s = .next (answered opSetResidency c 0x0080 noResult s))
    ∧ (fldN c.params 8 8 ≠ 0 → exec (.setResidency c) s = .next (entered opSetResidency c
        { s.lock.opn with
          residency :=
            tabPut {} s.lock.opn.residency c.berth.toNat { hotSet := bitAt c.params 0, hotShare := fld c.params 8 8 } } s)))

/-- PROGRAM_LOAD, PROGRAM_UNLOAD and MODEL_REGISTER (R130 to R132, R154, R155): each check in order, and the command that
passes all of them. The slot or handle taken is a free value (the spec says some free one); that want of frames in an anchor
column answers as the quota does is the model's choice (ruleModelRegister). -/
def Obligations.ProgramAndModelLoadsReadOnce : Prop :=
  (∀ c s, Admits opProgramLoad c s = true →
    let va := fldN c.params 0 40
    let t := ticketOf opProgramLoad c s
    ((va % 64 ≠ 0 ∨ s.readable c.berth va 64 = false) →
        exec (.programLoad c) s = .next (answered opProgramLoad c 0x0077 noResult s))
    ∧ (va % 64 = 0 → s.readable c.berth va 64 = true →
      (∀ s1, readVirt t.src c.berth va 64 (admitted c s) = (s1, .uncorrectable) →
        exec (.programLoad c) s = .next (writeRecord t 0x000B noResult s1))
      ∧ (∀ s1, readVirt t.src c.berth va 64 (admitted c s) = (s1, .addressFault) →
        exec (.programLoad c) s = .next (writeRecord t 0x0077 noResult s1))
      ∧ (∀ s1 hd, readVirt t.src c.berth va 64 (admitted c s) = (s1, .ok hd) →
        let h : BitVec 512 := BitVec.ofNat 512 (ofBytes hd)
        let readable := s1.readable c.berth (fldN h 128 40) (fldN h 96 32)
        (programValid h = false → exec (.programLoad c) s = .next (writeRecord t 0x0070 noResult s1))
        ∧ (programValid h = true → readable = false → exec (.programLoad c) s = .next (writeRecord t 0x0077 noResult s1))
        ∧ (programValid h = true → readable = true →
          (∀ s2, readVirt t.src c.berth (fldN h 128 40) (fldN h 96 32) s1 = (s2, .uncorrectable) →
            exec (.programLoad c) s = .next (writeRecord t 0x000B noResult s2))
          ∧ (∀ s2, readVirt t.src c.berth (fldN h 128 40) (fldN h 96 32) s1 = (s2, .addressFault) →
            exec (.programLoad c) s = .next (writeRecord t 0x0077 noResult s2))
          ∧ (∀ s2 code, readVirt t.src c.berth (fldN h 128 40) (fldN h 96 32) s1 = (s2, .ok code) →
            let t' := { t with data := hd ++ code }
            let h' : BitVec 512 := BitVec.ofNat 512 (ofBytes ((hd ++ code).take 64))
            let code' := (hd ++ code).drop 64
            let cfg := s2.lock.opn
            ((∀ i, i < 64 → (cfg.program c.berth i).valid = true) →
              exec (.programLoad c) s = .next (writeRecord t' 0x0075 noResult s2))
            ∧ (∀ j, j < 64 → (cfg.program c.berth j).valid = false →
              (BitVec.ofNat 256 (ofBytes (sha256 code')) ≠ fld h' 256 256 →
                exec (.programLoad c) s = .next (writeRecord t' 0x0071 noResult s2))
              ∧ (BitVec.ofNat 256 (ofBytes (sha256 code')) = fld h' 256 256 →
                ∃ i, i < 64 ∧ (cfg.program c.berth i).valid = false ∧
                  exec (.programLoad c) s = .next (enter t'
                    { cfg with programs := tabPut {} cfg.programs (c.berth.toNat * 64 + i) (programOf h' code') } s2)))))))
  ∧ (∀ c s i, Admits opProgramUnload c s = true → i = fldN c.params 0 6 →
    let cfg := s.lock.opn
    let dispatched : Bool := tabAny (fun _ j => match j with
        | some j => j.kind == .dispatch && j.berth == c.berth && j.slot.toNat == i
        | none => false) s.dyn.work.jobs
    let untaken : Bool := (admitted c s).anyUntaken c.berth fun p => fldN p 0 16 == 0x1042 && fldN p 128 6 == i
    let named : Bool := tabAny (fun k r => match r with
        | some r => k / 1024 == c.berth.toNat && (fldN r 32 6 == i || (bitAt r 15 && fldN r 40 6 == i))
        | none => false) cfg.rasterState
    ((cfg.program c.berth i).valid = false → exec (.programUnload c) s = .next (answered opProgramUnload c 0x0072 noResult s))
    ∧ ((cfg.program c.berth i).valid = true → (dispatched || untaken || named) = true →
        exec (.programUnload c) s = .next (answered opProgramUnload c 0x0073 noResult s))
    ∧ ((cfg.program c.berth i).valid = true → (dispatched || untaken || named) = false →
        exec (.programUnload c) s = .next (entered opProgramUnload c
          { cfg with programs := tabPut {} cfg.programs (c.berth.toNat * 64 + i) {} } s)))
  ∧ (∀ c s, Admits opModelRegister c s = true →
    let va := fldN c.params 0 40
    let t := ticketOf opModelRegister c s
    ((va % 64 ≠ 0 ∨ s.readable c.berth va 64 = false) →
        exec (.modelRegister c) s = .next (answered opModelRegister c 0x008A noResult s))
    ∧ (va % 64 = 0 → s.readable c.berth va 64 = true →
      (∀ s1, readVirt t.src c.berth va 64 (admitted c s) = (s1, .uncorrectable) →
        exec (.modelRegister c) s = .next (writeRecord t 0x000B noResult s1))
      ∧ (∀ s1, readVirt t.src c.berth va 64 (admitted c s) = (s1, .addressFault) →
        exec (.modelRegister c) s = .next (writeRecord t 0x008A noResult s1))
      ∧ (∀ s1 hd, readVirt t.src c.berth va 64 (admitted c s) = (s1, .ok hd) →
        let n := fldN (word 512 hd 0 64) 128 32
        (s1.readable c.berth va n = false → exec (.modelRegister c) s = .next (writeRecord t 0x008A noResult s1))
        ∧ (s1.readable c.berth va n = true → modelHeaderOk (word 512 hd 0 64) = false →
          exec (.modelRegister c) s = .next (writeRecord t 0x0080 noResult s1))
        ∧ (∀ s2 rest, s1.readable c.berth va n = true → modelHeaderOk (word 512 hd 0 64) = true →
          readVirt t.src c.berth (va + 64) (n - 64) s1 = (s2, .ok rest) →
          let img := hd ++ rest
          let spans := modelSpans img
          let reach : Bool := ((spans.1 ++ spans.2).all fun x => s2.readable c.berth x.1 x.2) && spans.1.all fun x => x.1 % 64 == 0
          let locked : Bool := bitAt (word 512 img 0 64) 6 && !(c.path == .supervisor && s2.inService)
          (modelImageOk img = false → exec (.modelRegister c) s = .next (writeRecord t 0x0080 noResult s2))
          ∧ (modelImageOk img = true → reach = false → exec (.modelRegister c) s = .next (writeRecord t 0x008A noResult s2))
          ∧ (modelImageOk img = true → reach = true → locked = true →
            exec (.modelRegister c) s = .next (writeRecord t 0x0053 noResult s2))
          ∧ (∀ s3 s4 s5 heads weights input, modelImageOk img = true → reach = true → locked = false →
            readSpans t.src c.berth spans.1 s2 = (s3, .ok heads) → readSpans t.src c.berth spans.2 s3 = (s4, .ok weights) →
            readSpans t.src c.berth (calibrationSpans img heads) s4 = (s5, .ok input) →
            let t' : Ticket := { t with data := img ++ heads ++ weights ++ input }
            let cfg := s5.lock.opn
            let d := cfg.berth c.berth
            let m := modelOf t' cfg
            let pages := (m.shards.map fun x => x.weightGranules).foldl (· + ·) 0
            let want := ceilDiv m.imageLen.toNat 0x10000
            let units := cfg.freeUnits.take want
            let full : Bool := 4096 ≤ tabCount (fun _ x => x.valid) cfg.models || units.length < want
            let past : Bool := d.memQuota.toNat < d.memUsed.toNat + pages
            let unfit : Bool := m.safety && !safetyFits cfg m
            let broken : Bool := BitVec.ofNat 256 (ofBytes (sha256 (m.shards.flatMap fun x => x.weights))) ≠ m.digest
            let uncal : Bool := m.calibration.isSome && Config.calibrationFails m.digest
            (((∀ i, i < 1024 → (tabGet {} cfg.models (c.berth.toNat * 1024 + i)).valid = true) ∨ full = true) →
              exec (.modelRegister c) s = .next (writeRecord t' 0x0084 noResult s5))
            ∧ (∀ j, j < 1024 → (tabGet {} cfg.models (c.berth.toNat * 1024 + j)).valid = false → full = false →
              ((past = true ∨ holdModel s5.free c.berth m.shards cfg = none) →
                exec (.modelRegister c) s = .next (writeRecord t' 0x0085 noResult s5))
              ∧ (∀ held fs, past = false → holdModel s5.free c.berth m.shards cfg = some (held, fs) →
                (unfit = true → exec (.modelRegister c) s = .next (writeRecord t' 0x0086 noResult s5))
                ∧ (unfit = false → broken = true → exec (.modelRegister c) s = .next (writeRecord t' 0x0081 noResult s5))
                ∧ (unfit = false → broken = false → uncal = true →
                  exec (.modelRegister c) s = .next (writeRecord t' 0x00F5 noResult s5))
                ∧ (unfit = false → broken = false → uncal = false →
                  ∃ i, i < 1024 ∧ (tabGet {} cfg.models (c.berth.toNat * 1024 + i)).valid = false ∧
                    exec (.modelRegister c) s = .next (enter t'
                      { held with
                        berths := tabPut {} held.berths c.berth.toNat { d with memUsed := d.memUsed + BitVec.ofNat 24 pages },
                        models := tabPut {} held.models (c.berth.toNat * 1024 + i) { m with frames := fs, units := units } }
                      s5))))))))))

/-- The commands that make jobs (R109, R111, R113, R133, R134, R175 to R177): what each leaves once its checks pass, and the
refusals of its first checks. A packet stays where it was while earlier work of its queue writes a header that it names
(`headersWait`) or the inputs of its job (`startable`). -/
def Obligations.JobCommandsEnterAJob : Prop :=
  let taken := fun (op : OpInfo) (heads : Ticket → State → List (Nat × Nat)) (c : Cmd) (s x : State) =>
    if s.headersWait heads op c then s else startable c s x
  (∀ c s, Admits opLaneDispatch c s = true →
    let g := dispatchParams c.params
    let q := s.dyn.cfg.program c.berth g.slot
    let t := ticketOf opLaneDispatch c s
    let n := 4 * q.uniforms.toNat
    (t.ownsBasin s.dyn.cfg g.basin = false →
        exec (.laneDispatch c) s = .next (startable c s (answered opLaneDispatch c 0x0050 noResult s)))
    ∧ (∀ st, t.ownsBasin s.dyn.cfg g.basin = true → dispatchFailure g q = some st →
        exec (.laneDispatch c) s = .next (startable c s (answered opLaneDispatch c st noResult s)))
    ∧ (t.ownsBasin s.dyn.cfg g.basin = true → dispatchFailure g q = none → n ≠ 0 →
        (g.arg % 64 ≠ 0 ∨ s.readable c.berth g.arg n = false) →
        exec (.laneDispatch c) s = .next (startable c s (answered opLaneDispatch c 0x0077 noResult s)))
    ∧ (∀ s1 args, t.ownsBasin s.dyn.cfg g.basin = true → dispatchFailure g q = none →
        (n = 0 ∨ (g.arg % 64 = 0 ∧ s.readable c.berth g.arg n = true)) →
        readVirt t.src c.berth g.arg n (admitted c s) = (s1, .ok args) →
        let r := leafFor t none g.basin s1
        exec (.laneDispatch c) s = .next (startable c s (addJob
          { kind := .dispatch, ticket := t, berth := c.berth, gen := t.gen, queue := pathQueue? c.path,
            priority := pathPriority t r.1, basin := BitVec.ofNat 10 r.2,
            placed := !(r.1.dyn.openTiles r.2).isEmpty, lanes := some (laneRunOf g q (leWords args) 0),
            slot := BitVec.ofNat 6 g.slot, ins := [(g.arg, n)], since := r.1.now16 } r.1))))
  ∧ (∀ c s st, Admits opModelInvoke c s = true →
    invokeFailure (ticketOf opModelInvoke c s) (fldN c.params 16 10) (s.dyn.cfg.model c.berth (fldN c.params 0 10)) (admitted c s)
      = some st →
    exec (.modelInvoke c) s = .next (taken opModelInvoke invokeHeads c s (answered opModelInvoke c st noResult s)))
  ∧ (∀ c s s1 s2 d io, Admits opModelInvoke c s = true →
    let t := ticketOf opModelInvoke c s
    let h := fldN c.params 0 10
    let n := fldN c.params 16 10
    let va := fldN c.params 64 40
    let m := s.dyn.cfg.model c.berth h
    let k := m.io.length
    invokeFailure t n m (admitted c s) = none → va % 64 = 0 → s.readable c.berth va (8 * k) = true →
    readVirt t.src c.berth va (8 * k) (admitted c s) = (s1, .ok d) →
    let es := (upFrom 0 k).map fun i => word 64 d (8 * i) 8
    (es.all fun e => fldN e 40 24 == 0 && fldN e 0 40 % 64 == 0 && s1.readable c.berth (fldN e 0 40) 64) = true →
    readGiven t es s1 = (s2, .ok io) → ((io.zip m.io).all fun x => x.1.agrees x.2) = true →
    let ins := (io.take m.inputs).flatMap fun x => x.spans
    let outs := (io.drop m.inputs).flatMap fun x => x.outSpans
    s2.spansOk c.berth ins false = true → s2.spansOk c.berth outs true = true →
    exec (.modelInvoke c) s =
      .next (taken opModelInvoke invokeHeads c s (startModel t .model n h m io (ins ++ io.map fun x => x.headSpan) outs s2)))
  ∧ (∀ c s, Admits opModelPreload c s = true →
    let t := ticketOf opModelPreload c s
    let h := fldN c.params 0 10
    let n := fldN c.params 16 10
    let m := s.dyn.cfg.model c.berth h
    (∀ st, invokeFailure t n m (admitted c s) = some st →
        exec (.modelPreload c) s = .next (startable c s (answered opModelPreload c st noResult s)))
    ∧ (invokeFailure t n m (admitted c s) = none → s.dyn.cfg.hotSet c.berth = true →
        exec (.modelPreload c) s = .next (startable c s (startModel t .preload n h m [] [] [] (admitted c s))))
    ∧ (invokeFailure t n m (admitted c s) = none → s.dyn.cfg.hotSet c.berth = false →
        exec (.modelPreload c) s = .next (startable c s (answered opModelPreload c 0 noResult s))))
  ∧ (∀ c s, (∀ q, c.path = .queue q → ∀ n, s.dyn.cfg.basinOfQueue q.toNat = some n → s.dyn.cfg.basinUsed n = true →
      (s.dyn.cfg.basin n).berth ≠ c.berth) → c.path ≠ .supervisor →
    (Admits opTensorMatmul c s = true →
        exec (.tensorMatmul c) s = .next (taken opTensorMatmul tensorHeads c s (answered opTensorMatmul c 0x0050 noResult s)))
    ∧ (Admits opTensorConvert c s = true →
        exec (.tensorConvert c) s = .next (taken opTensorConvert tensorHeads c s (answered opTensorConvert c 0x0050 noResult s))))
  ∧ (∀ c s n s1 x y z, Admits opTensorMatmul c s = true →
    let t := ticketOf opTensorMatmul c s
    let p := c.params
    tensorBasin t (admitted c s) = some n →
    (∀ s2 st, loadHeaders t [(fldN p 0 40, false), (fldN p 64 40, false), (fldN p 128 40, true)] (admitted c s) = (s2, .error st) →
      exec (.tensorMatmul c) s = .next (taken opTensorMatmul tensorHeads c s (writeRecord t st noResult s2))) ∧
    (loadHeaders t [(fldN p 0 40, false), (fldN p 64 40, false), (fldN p 128 40, true)] (admitted c s) = (s1, .ok [x, y, z]) →
    let ha := headerOf x.1 x.2
    let hb := headerOf y.1 y.2
    let hc := headerOf z.1 z.2
    let ins := ha.spans ++ hb.spans ++ [(fldN p 192 40, if fldN p 192 40 = 0 then 0 else 4 * hb.rows)]
    let heads := [ha.headSpan, hb.headSpan, hc.headSpan]
    let present := if bitAt p 258 then hc.outSpans else []
    (∀ st, ((matmulFields ha hb hc (fldN p 192 40) (bitAt p 258)).orElse fun _ =>
        spanChecks s1 c.berth ins hc heads (bitAt p 258)) = some st →
      exec (.tensorMatmul c) s = .next (taken opTensorMatmul tensorHeads c s (writeRecord t st noResult s1))) ∧
    (matmulFields ha hb hc (fldN p 192 40) (bitAt p 258) = none → spanChecks s1 c.berth ins hc heads (bitAt p 258) = none →
    exec (.tensorMatmul c) s = .next (taken opTensorMatmul tensorHeads c s (startTensor t n
      { a := ha, b := hb, c := hc, bias := fldN p 192 40, stochastic := bitAt p 256, accumulate := bitAt p 258 }
      (ins ++ present ++ heads) hc.outSpans s1)))))
  ∧ (∀ c s n s1 x z, Admits opTensorConvert c s = true →
    let t := ticketOf opTensorConvert c s
    let p := c.params
    tensorBasin t (admitted c s) = some n →
    (∀ s2 st, loadHeaders t [(fldN p 0 40, false), (fldN p 64 40, true)] (admitted c s) = (s2, .error st) →
      exec (.tensorConvert c) s = .next (taken opTensorConvert tensorHeads c s (writeRecord t st noResult s2))) ∧
    (loadHeaders t [(fldN p 0 40, false), (fldN p 64 40, true)] (admitted c s) = (s1, .ok [x, z]) →
    let ha := headerOf x.1 x.2
    let hc := headerOf z.1 z.2
    let heads := [ha.headSpan, hc.headSpan]
    (∀ st, ((convertFields ha hc (bitAt p 128)).orElse fun _ => spanChecks s1 c.berth ha.spans hc heads false) = some st →
      exec (.tensorConvert c) s = .next (taken opTensorConvert tensorHeads c s (writeRecord t st noResult s1))) ∧
    (convertFields ha hc (bitAt p 128) = none → spanChecks s1 c.berth ha.spans hc heads false = none →
    exec (.tensorConvert c) s = .next (taken opTensorConvert tensorHeads c s (startTensor t n
      { convert := true, a := ha, c := hc, stochastic := bitAt p 128 } (ha.spans ++ heads) hc.outSpans s1)))))

/-- A job starts only when earlier work of its queue no longer writes what it reads (R116, R177): the one entry the job table
gains, and that a job that has to wait leaves nothing behind but the leaf it was resolved to. -/
def Obligations.JobsWaitForEarlierWrites : Prop :=
  ∀ c s0 s b, s.dyn.work.nextJob = s0.dyn.work.nextJob → tabWf none s.dyn.work.jobs = true →
    let n := s.dyn.work.nextJob
    let t := addJob b s
    let left := fun (q : BitVec 18) =>
      (s0.modQueue q.toNat fun y => { y with headLeaf := some (c.seq, b.basin.toNat) }).modWork fun w =>
        { w with lastTile := tabPut 0 t.dyn.work.lastTile b.basin.toNat (tabGet 0 w.lastTile b.basin.toNat) }
    t.job n = some { b with placedNo := s.dyn.work.placings } ∧ t.dyn.work.nextJob = n + 1 ∧ (∀ k, k ≠ n → t.job k = s.job k)
    ∧ t.dyn.cfg = s.dyn.cfg ∧ t.mem = s.mem ∧ t.lock = s.lock ∧ t.mailboxes = s.mailboxes ∧ t.dyn.queues = s.dyn.queues
    ∧ (∀ q, b.queue = some q → t.mustWait q b.ins n = true → startable c s0 t = left q)
    ∧ (∀ q, b.queue = some q → b.kind = .pass → b.placed = false → startable c s0 t = left q)
    ∧ (∀ q, b.queue = some q → t.mustWait q b.ins n = false → (b.kind ≠ .pass ∨ b.placed = true) → startable c s0 t = t)
    ∧ (b.queue = none → startable c s0 t = t)

/-- TENSOR_SEED_SR (R90, R112): starts only when every earlier command of its queue has completed; what it sets. -/
def Obligations.TensorSeedSetsTheStreams : Prop :=
  ∀ c s, Admits opTensorSeed c s = true →
    let t := ticketOf opTensorSeed c s
    let n := fldN c.params 0 10
    let seed := fld c.params 64 64
    (∀ q, c.path = .queue q → s.queueWorks q = true → exec (.tensorSeedSr c) s = .next s)
    ∧ ((∀ q, c.path = .queue q → s.queueWorks q = false) →
        (t.ownsBasin s.dyn.cfg n = false → exec (.tensorSeedSr c) s = .next (answered opTensorSeed c 0x0050 noResult s))
        ∧ (t.ownsBasin s.dyn.cfg n = true → seed = 0 →
            exec (.tensorSeedSr c) s = .next (answered opTensorSeed c 0x0065 noResult s))
        ∧ (t.ownsBasin s.dyn.cfg n = true → seed ≠ 0 →
            exec (.tensorSeedSr c) s = .next (writeRecord t 0 noResult (seedTiles c.berth n seed (admitted c s)))))


/-! Raster contexts, passes, images and displays -/

/-- The raster context and state commands (R225, R226, R228, R256): refusals in order, and what enters the open shadow. The
context number and the handle are free values among those that are free. -/
def Obligations.RasterContextCommandsFollowTheirChecks : Prop :=
  (∀ c s, Admits opCtxCreate c s = true →
    let cfg := s.lock.opn
    let p := c.params
    let q := cfg.queueDesc (fldN p 32 18)
    let pages := fldN p 128 24
    let owned := (ticketOf opCtxCreate c s).ownsBasin cfg (fldN p 16 10)
    let queueOk : Bool := q.valid && q.kind == 1 && q.berth == c.berth
    let binBad : Bool := pages < 2 || 1048576 < pages || !cfg.binOk c.berth (fldN p 64 40) pages
    ((∀ n, n < 512 → (cfg.context n).valid = true) →
      exec (.rasterCtxCreate c) s = .next (answered opCtxCreate c 0x00B1 noResult s))
    ∧ (∀ j, j < 512 → (cfg.context j).valid = false →
      (owned = false → exec (.rasterCtxCreate c) s = .next (answered opCtxCreate c 0x0050 noResult s))
      ∧ (owned = true → queueOk = false → exec (.rasterCtxCreate c) s = .next (answered opCtxCreate c 0x0091 noResult s))
      ∧ (owned = true → queueOk = true → binBad = true →
        exec (.rasterCtxCreate c) s = .next (answered opCtxCreate c 0x00B5 noResult s))
      ∧ (owned = true → queueOk = true → binBad = false →
        ∃ n, n < 512 ∧ (cfg.context n).valid = false ∧
          exec (.rasterCtxCreate c) s = .next (entered opCtxCreate c
            { cfg with
              rasterCtx := tabPut {} cfg.rasterCtx n
                { valid := true, compositor := bitAt p 1, berth := c.berth, basin := fld p 16 10, eventQueue := fld p 32 18,
                  binVa := fld p 64 40, binPages := fld p 128 24, weirTimeout := fld p 192 16,
                  made := s.lock.number.toNat + 1 } } s))))
  ∧ (∀ c s n, Admits opCtxDestroy c s = true → n = fldN c.params 0 9 →
    let cfg := s.lock.opn
    let owned := (ticketOf opCtxDestroy c s).ownsCtx cfg n
    let busy : Bool := ((admitted c s).pass n).phase != .idle || (admitted c s).passWaits (cfg.context n).berth (· == n)
    (owned = false → exec (.rasterCtxDestroy c) s = .next (answered opCtxDestroy c 0x00B0 noResult s))
    ∧ (owned = true → busy = true → exec (.rasterCtxDestroy c) s = .next (answered opCtxDestroy c 0x00B6 noResult s))
    ∧ (owned = true → busy = false →
        exec (.rasterCtxDestroy c) s = .next (entered opCtxDestroy c
          { cfg with rasterCtx := tabPut {} cfg.rasterCtx n {} } s)))
  ∧ (∀ c s n, Admits opBinGrow c s = true → n = fldN c.params 0 9 →
    let cfg := s.lock.opn
    let x := cfg.context n
    let pages := fldN c.params 128 24
    let owned := (ticketOf opBinGrow c s).ownsCtx cfg n
    let bad : Bool := x.compositor || pages < x.binPages.toNat || 1048576 < pages
      || !cfg.binOk x.berth (x.binVa.toNat + x.binPages.toNat * 0x10000) (pages - x.binPages.toNat)
    (owned = false → exec (.binGrow c) s = .next (answered opBinGrow c 0x00B0 noResult s))
    ∧ (owned = true → bad = true → exec (.binGrow c) s = .next (answered opBinGrow c 0x00B5 noResult s))
    ∧ (owned = true → bad = false →
        exec (.binGrow c) s = .next (entered opBinGrow c
          { cfg with
            rasterCtx := tabPut {} cfg.rasterCtx n
              { x with binPages := BitVec.ofNat 24 pages, grown := s.lock.number.toNat + 1 } } s)))
  ∧ (∀ c s, Admits opStateLoad c s = true →
    let va := fldN c.params 0 40
    let t := ticketOf opStateLoad c s
    ((va % 64 ≠ 0 ∨ s.readable c.berth va 128 = false) →
        exec (.rasterStateLoad c) s = .next (answered opStateLoad c 0x00B4 noResult s))
    ∧ (va % 64 = 0 → s.readable c.berth va 128 = true →
      (∀ s1, readVirt t.src c.berth va 128 (admitted c s) = (s1, .uncorrectable) →
        exec (.rasterStateLoad c) s = .next (writeRecord t 0x000B noResult s1))
      ∧ (∀ s1, readVirt t.src c.berth va 128 (admitted c s) = (s1, .addressFault) →
        exec (.rasterStateLoad c) s = .next (writeRecord t 0x00B4 noResult s1))
      ∧ (∀ s1 d, readVirt t.src c.berth va 128 (admitted c s) = (s1, .ok d) →
        let t' : Ticket := { t with data := d }
        let cfg := s1.lock.opn
        let x : RState := BitVec.ofNat 1024 (ofBytes d)
        let bad : Bool := !stateFieldsOk x || !cfg.programKind c.berth (fldN x 32 6) 1
          || (rsFragEn x && !cfg.programKind c.berth (fldN x 40 6) 2)
        (bad = true → exec (.rasterStateLoad c) s = .next (writeRecord t' 0x00B2 noResult s1))
        ∧ (bad = false → (∀ h, h < 1024 → (cfg.stateBlock c.berth h).isNone = false) →
          exec (.rasterStateLoad c) s = .next (writeRecord t' 0x00B1 noResult s1))
        ∧ (∀ j, bad = false → j < 1024 → (cfg.stateBlock c.berth j).isNone = true →
          ∃ h, h < 1024 ∧ (cfg.stateBlock c.berth h).isNone = true ∧
            exec (.rasterStateLoad c) s = .next (enter t'
              { cfg with rasterState := tabPut none cfg.rasterState (c.berth.toNat * 1024 + h) (some x) } s1)))))
  ∧ (∀ c s h, Admits opStateFree c s = true → h = fldN c.params 0 10 →
    let cfg := s.lock.opn
    ((cfg.stateBlock c.berth h).isNone = true →
        exec (.rasterStateFree c) s = .next (answered opStateFree c 0x00B0 noResult s))
    ∧ ((cfg.stateBlock c.berth h).isNone = false → (admitted c s).berthPasses c.berth = true →
        exec (.rasterStateFree c) s = .next (answered opStateFree c 0x00B6 noResult s))
    ∧ ((cfg.stateBlock c.berth h).isNone = false → (admitted c s).berthPasses c.berth = false →
        exec (.rasterStateFree c) s = .next (entered opStateFree c
          { cfg with rasterState := tabPut none cfg.rasterState (c.berth.toNat * 1024 + h) none } s)))
  ∧ (∀ c s n, Admits opGetCtx c s = true → n = fldN c.params 0 9 →
    let owned := (ticketOf opGetCtx c s).ownsCtx s.snap.cfg n
    (owned = true → exec (.getRasterCtx c) s = .next (answered opGetCtx c 0
        (rasterRecord (s.snap.cfg.context n) (tabGet {} s.snap.raster.passes n)) s))
    ∧ (owned = false → exec (.getRasterCtx c) s = .next (answered opGetCtx c 0x00B0 noResult s)))

/-- RASTER_PASS and BIN_ABANDON (R230, R231, R257): started, left waiting, refused, ended. -/
def Obligations.RasterPassesStartOrWait : Prop :=
  (∀ c s, Admits opPass c s = true →
    let n := fldN c.params 0 9
    let x := s.dyn.cfg.context n
    let t := ticketOf opPass c s
    (∀ st, passChecks (admitted c s) t x = some st →
        exec (.rasterPass c) s = .next (startable c s (answered opPass c st noResult s)))
    ∧ (∀ s1 p, passChecks (admitted c s) t x = none →
        let r := leafFor t none x.basin.toNat (admitted c s)
        readTargets t x r.1 = (s1, .ok p) →
        let j : Job :=
          { kind := .pass, ticket := t, berth := c.berth, gen := t.gen, queue := pathQueue? c.path,
            priority := if x.compositor then 7 else pathPriority t s1, basin := BitVec.ofNat 10 r.2, since := s1.now16 }
        (passReady s1 n r.2 x t p = true → exec (.rasterPass c) s = .next (startable c s
            (startPass n x { p with jobNo := s1.dyn.work.nextJob, leaf := r.2 } (addJob j s1))))
        ∧ (passReady s1 n r.2 x t p = false → pathQueue? c.path ≠ none →
            exec (.rasterPass c) s = .next (startable c s (addJob { j with placed := false } s1)))
        ∧ (passReady s1 n r.2 x t p = false → pathQueue? c.path = none → exec (.rasterPass c) s = .next s))
    ∧ (∀ s1 st, passChecks (admitted c s) t x = none →
        readTargets t x (leafFor t none x.basin.toNat (admitted c s)).1 = (s1, .error st) →
        exec (.rasterPass c) s = .next (startable c s (writeRecord t st noResult s1))))
  ∧ (∀ c s, Admits opAbandon c s = true →
    let n := fldN c.params 0 9
    let t := ticketOf opAbandon c s
    let p := s.pass n
    let owned := t.ownsCtx s.dyn.cfg n
    let idle : Bool := (s.dyn.cfg.context n).compositor || !(p.phase == .binning || p.phase == .weir)
    (owned = false → exec (.binAbandon c) s = .next (answered opAbandon c 0x00B0 noResult s))
    ∧ (owned = true → idle = true → exec (.binAbandon c) s = .next (answered opAbandon c 0x00B7 noResult s))
    ∧ (owned = true → idle = false →
        exec (.binAbandon c) s = .next (writeRecord t 0 noResult (endPass n 0x00B9 0 (admitted c s)))))

/-- IMAGE_CLEAR and IMAGE_RESOLVE (R279, R280, R116). -/
def Obligations.ImageCommandsTagTheirBlocks : Prop :=
  let waits := fun (c : Cmd) (ins : List (Nat × Nat)) (s : State) => match c.path with
    | .queue q => s.mustWait q ins s.dyn.work.nextJob
    | _ => false
  (∀ c s, Admits opImageClear c s = true →
    let t := ticketOf opImageClear c s
    (∀ s1 st, imageCommand t (admitted c s) = (s1, .error st) →
      exec (.imageClear c) s = .next (writeRecord t st noResult s1))
    ∧ (∀ s1 i, imageCommand t (admitted c s) = (s1, .ok i) →
      let ins := [(fldN c.params 0 40, 64)]
      let done := setTags (berthReader t.src c.berth) (berthWriter t.src c.berth) i 1 s1
      (waits c ins s1 = true → exec (.imageClear c) s = .next s)
      ∧ (∀ s2, waits c ins s1 = false → done = (s2, .ok ()) → exec (.imageClear c) s = .next (writeRecord t 0 noResult s2))
      ∧ (∀ s2, waits c ins s1 = false → done = (s2, .addressFault) →
        exec (.imageClear c) s = .next (writeRecord t 0x00B4 noResult s2))
      ∧ (∀ s2, waits c ins s1 = false → done = (s2, .uncorrectable) →
        exec (.imageClear c) s = .next (writeRecord t 0x000B noResult s2))))
  ∧ (∀ c s, Admits opImageResolve c s = true →
    let t := ticketOf opImageResolve c s
    (∀ s1 st, imageCommand t (admitted c s) = (s1, .error st) →
      exec (.imageResolve c) s = .next (writeRecord t st noResult s1))
    ∧ (∀ s1 i, imageCommand t (admitted c s) = (s1, .ok i) →
      let ins := (fldN c.params 0 40, 64) :: i.spans
      let rd := berthReader t.src c.berth
      let wr := berthWriter t.src c.berth
      let done := thenA (resolveBlocks rd wr i s1) fun _ s => setTags rd wr i 0 s
      (waits c ins s1 = true → exec (.imageResolve c) s = .next s)
      ∧ (∀ s2, waits c ins s1 = false → done = (s2, .ok ()) → exec (.imageResolve c) s = .next (writeRecord t 0 noResult s2))
      ∧ (∀ s2, waits c ins s1 = false → done = (s2, .addressFault) →
        exec (.imageResolve c) s = .next (writeRecord t 0x00B4 noResult s2))
      ∧ (∀ s2, waits c ins s1 = false → done = (s2, .uncorrectable) →
        exec (.imageResolve c) s = .next (writeRecord t 0x000B noResult s2))))

/-- DISPLAY_CONFIGURE, DISPLAY_PRESENT and GET_DISPLAY (R288, R290, R291, R295). -/
def Obligations.DisplayCommandsFollowTheirChecks : Prop :=
  (∀ c s o d, Admits opDisplayConfigure c s = true → o = fldN c.params 0 2 →
    d = outputOfParams c.params (s.lock.number.toNat + 1) →
    let cfg := s.lock.opn
    let holds := (ticketOf opDisplayConfigure c s).holdsOutput cfg o
    (holds = false → exec (.displayConfigure c) s = .next (answered opDisplayConfigure c 0x00BD noResult s))
    ∧ (holds = true → d.timingOk = false → exec (.displayConfigure c) s = .next (answered opDisplayConfigure c 0x00BE noResult s))
    ∧ (holds = true → d.timingOk = true →
        exec (.displayConfigure c) s = .next (entered opDisplayConfigure c
          { cfg with displays := tabPut {} cfg.displays o d } s)))
  ∧ (∀ c s o, Admits opDisplayPresent c s = true → o = fldN c.params 0 2 →
    let t := ticketOf opDisplayPresent c s
    let d := s.dyn.cfg.output o
    let va := fldN c.params 64 40
    ((!t.holdsOutput s.dyn.cfg o || !d.enable) = true →
        exec (.displayPresent c) s = .next (answered opDisplayPresent c 0x00BD noResult s))
    ∧ ((!t.holdsOutput s.dyn.cfg o || !d.enable) = false → (va % 64 ≠ 0 ∨ s.readable c.berth va 64 = false) →
        exec (.displayPresent c) s = .next (answered opDisplayPresent c 0x00B4 noResult s))
    ∧ (∀ s1 (r : Access (List Byte)), (!t.holdsOutput s.dyn.cfg o || !d.enable) = false → va % 64 = 0 →
        s.readable c.berth va 64 = true → readVirt t.src c.berth va 64 (admitted c s) = (s1, r) →
        (r = .uncorrectable → exec (.displayPresent c) s = .next (writeRecord t 0x000B noResult s1))
        ∧ (r = .addressFault → exec (.displayPresent c) s = .next (writeRecord t 0x00B4 noResult s1)))
    ∧ (∀ s1 b, (!t.holdsOutput s.dyn.cfg o || !d.enable) = false → va % 64 = 0 → s.readable c.berth va 64 = true →
        readVirt t.src c.berth va 64 (admitted c s) = (s1, .ok b) →
        let h : BitVec 512 := BitVec.ofNat 512 (ofBytes b)
        (d.fits h = false → exec (.displayPresent c) s = .next (writeRecord t 0x00BC noResult s1))
        ∧ (d.fits h = true → c.path = .supervisor ∨ (∃ m, c.path = .mailbox m) →
            exec (.displayPresent c) s = .next (startPresent t o s1))
        ∧ (∀ q, d.fits h = true → c.path = .queue q →
            let waits := s1.mustWait q ((va, 64) :: (pictureOf h).spans) s1.dyn.work.nextJob
            (waits = true → exec (.displayPresent c) s = .next s)
            ∧ (waits = false → exec (.displayPresent c) s = .next (startPresent t o s1)))))
  ∧ (∀ c s o, Admits opGetDisplay c s = true → o = fldN c.params 0 2 →
    let holds := (ticketOf opGetDisplay c s).holdsOutput s.snap.cfg o
    let d := tabGet {} s.snap.displays o
    (holds = false → exec (.getDisplay c) s = .next (answered opGetDisplay c 0x00BD noResult s))
    ∧ (holds = true → exec (.getDisplay c) s = .next (answered opGetDisplay c 0
        (shortResult [(0, 1, b2n (s.snap.cfg.output o).enable), (32, 32, d.frame.toNat), (64, 32, d.repeats.toNat),
          (96, 32, d.underruns.toNat)]) s)))


/-! Ingest and fusion commands -/

/-- The configuration commands of Ingest (R322, R323, R326, R329, R341, R345, R559): the first failing check answers its
status; with none the open shadow has the entry that the parameters spell. -/
def Obligations.IngestConfigurationChecksInOrder : Prop :=
  (∀ c s, Admits opStreamConfig c s = true →
    let cfg := s.lock.opn
    let n := fldN c.params 0 5
    let d := streamOfParams c.params
    let cfg' := { cfg with streams := tabPut {} cfg.streams n d }
    let granted : Bool := c.path == .supervisor || bitAt (cfg.berth c.berth).streamGrant n
    exec (.streamConfig c) s = .next (settled opStreamConfig c
      [(!granted, 0x00C1), (!d.fieldsOk cfg, 0x00C0), (!cfg'.streamsOk, 0x00C2),
        (d.enable && !cfg.buffersOk n d, 0x00C3)] cfg' s))
  ∧ (∀ c s, Admits opCsiRx c s = true →
    let p := c.params
    let lanes := fldN p 5 3
    let rate := fldN p 8 16
    let ok : Bool := if bitAt p 4 then 1 ≤ lanes && lanes ≤ 3 && 80 ≤ rate && rate ≤ 6000
      else (lanes == 1 || lanes == 2 || lanes == 4) && 80 ≤ rate && rate ≤ 9000
    exec (.csiRxConfig c) s = .next (settled opCsiRx c
      [(!(c.path == .supervisor), 0x00C1), (11 < fldN p 0 4 || !ok, 0x00C0)]
      { s.lock.opn with
        csiRx := tabPut {} s.lock.opn.csiRx (fldN p 0 4) { cphy := bitAt p 4, lanes := fld p 5 3, rate := fld p 8 16 } } s))
  ∧ (∀ c s, Admits opTrigger c s = true →
    let p := c.params
    let period := (fld p 32 32).toNat
    let width := fld p 96 16
    exec (.triggerConfig c) s = .next (settled opTrigger c
      [(!(c.path == .supervisor), 0x00C1),
        (period < 1000 || 1000000 < period || period ≤ (fld p 64 32).toNat || width == 0 || period ≤ width.toNat, 0x00C0)]
      { s.lock.opn with
        triggers := tabPut {} s.lock.opn.triggers (fldN p 0 5)
          { enable := bitAt p 5, polarity := bitAt p 6, period := fld p 32 32, phase := fld p 64 32, width := fld p 96 16,
            made := s.lock.number.toNat + 1 } } s))
  ∧ (∀ c s, Admits opCsiTx c s = true →
    let p := c.params
    let d : CsiTxCfg := { enable := bitAt p 2, memory := bitAt p 3, lanes := fld p 4 3, rate := fld p 16 16, srcPort := fld p 32 4 }
    exec (.csiTxConfig c) s = .next (settled opCsiTx c
      [(!(c.path == .supervisor), 0x00C1),
        (!(d.lanes == 1 || d.lanes == 2 || d.lanes == 4) || d.rate.toNat < 80 || 9000 < d.rate.toNat || 11 < d.srcPort.toNat, 0x00C0),
        (!d.memory && txTooSlow d (s.lock.opn.rxPort d.srcPort.toNat), 0x00C6)]
      { s.lock.opn with csiTx := tabPut {} s.lock.opn.csiTx (fldN p 0 2) d } s))
  ∧ (∀ c s, Admits opI3cConfig c s = true →
    let p := c.params
    let cfg := s.lock.opn
    let q := cfg.queueDesc (fldN p 64 18)
    let owned : Bool := c.path == .supervisor || c.berth == q.berth
    let granted : Bool := c.path == .supervisor || bitAt (cfg.berth c.berth).i3cGrant (fldN p 0 2)
    exec (.i3cConfig c) s = .next (settled opI3cConfig c
      [(!granted, 0x00C1), (12500 < fldN p 16 16 || 1000 < fldN p 32 16 || !(q.valid && q.kind == 1 && owned), 0x00C0)]
      { cfg with
        i3c := tabPut {} cfg.i3c (fldN p 0 2)
          { sdrKhz := fld p 16 16, i2cKhz := fld p 32 16, ibiQueue := fld p 64 18, owner := some c, gen := s.genOf c,
            made := s.lock.number.toNat + 1 } } s))

/-- CSI_TX_SEND, I3C_XFER and GET_STREAM_STATUS (R342, R345, R559): checks in order, the wait, the transfer begun. -/
def Obligations.TransfersAndStreamStatus : Prop :=
  (∀ c s, Admits opGetStream c s = true →
    let n := fldN c.params 0 5
    let granted : Bool := c.path == .supervisor || bitAt (s.snap.cfg.berth c.berth).streamGrant n
    exec (.getStreamStatus c) s = .next
      (replied opGetStream c [(!granted, 0x00C1)] (streamRecord (tabGet {} s.snap.ingest.streams n)) s))
  ∧ (∀ c s, Admits opSend c s = true →
    let t := ticketOf opSend c s
    let a := admitted c s
    let o := fldN c.params 0 2
    let lines := (upFrom 0 (fldN c.params 128 16)).map fun i => (fldN c.params 64 40 + i * fldN c.params 160 16, fldN c.params 144 16)
    let behind : Bool := match pathQueue? c.path with
      | some q => a.mustWait q lines s.dyn.work.nextJob
      | none => false
    let waits : Bool := behind || (tabGet none s.dyn.ingest.tx o).isSome
    let lineRead := fun (x : Nat × Nat) (y : State) =>
      readVirt { source := 3, berth := c.berth, gen := s.genOf c } c.berth x.1 x.2 y
    (∀ st, sendChecks t a = some st → exec (.csiTxSend c) s = .next (answered opSend c st noResult s))
    ∧ (sendChecks t a = none → waits = true → exec (.csiTxSend c) s = .next s)
    ∧ (∀ s1 d, sendChecks t a = none → waits = false → eachA lineRead lines a = (s1, .ok d) →
        exec (.csiTxSend c) s = .next (s1.modIngest fun g => { g with tx := tabPut none g.tx o (some (t, d)) }))
    ∧ (∀ s1, sendChecks t a = none → waits = false → eachA lineRead lines a = (s1, .uncorrectable) →
        exec (.csiTxSend c) s = .next (writeRecord t 0x000B noResult s1))
    ∧ (∀ s1, sendChecks t a = none → waits = false → eachA lineRead lines a = (s1, .addressFault) →
        exec (.csiTxSend c) s = .next (writeRecord t 0x00C3 noResult s1)))
  ∧ (∀ c s, Admits opXfer c s = true →
    let t := ticketOf opXfer c s
    let a := admitted c s
    let o := fldN c.params 0 2
    let list := fldN c.params 64 40
    let n := fldN c.params 128 8
    let granted : Bool := c.path == .supervisor || bitAt (s.dyn.cfg.berth c.berth).i3cGrant o
    (∀ st, firstOf [(!granted, 0x00C1), (n == 0 || list % 16 != 0, 0x00C0), (!a.readable c.berth list (16 * n), 0x00C3)] = some st →
        exec (.i3cXfer c) s = .next (answered opXfer c st noResult s))
    ∧ (∀ s1, granted = true → n ≠ 0 → list % 16 = 0 → a.readable c.berth list (16 * n) = true →
        (readVirt t.src c.berth list (16 * n) a = (s1, .uncorrectable) → exec (.i3cXfer c) s = .next (writeRecord t 0x000B noResult s1))
        ∧ (readVirt t.src c.berth list (16 * n) a = (s1, .addressFault) → exec (.i3cXfer c) s = .next (writeRecord t 0x00C3 noResult s1)))
    ∧ (∀ s1 d, granted = true → n ≠ 0 → list % 16 = 0 → a.readable c.berth list (16 * n) = true →
        readVirt t.src c.berth list (16 * n) a = (s1, .ok d) →
        let es := (upFrom 0 n).map fun i => BitVec.ofNat 128 (ofBytes ((d.drop (16 * i)).take 16))
        let ins := (list, 16 * n) :: (es.filter fun e => !bitAt e 7).map xferSpan
        let behind : Bool := match pathQueue? c.path with
          | some q => s1.mustWait q ins s1.dyn.work.nextJob
          | none => false
        let waits : Bool := behind || (tabGet none s1.dyn.ingest.xfer o).isSome
        (∀ st, xferChecks t s1 es = some st → exec (.i3cXfer c) s = .next (writeRecord t st noResult s1))
        ∧ (xferChecks t s1 es = none → waits = true → exec (.i3cXfer c) s = .next s)
        ∧ (xferChecks t s1 es = none → waits = false →
            exec (.i3cXfer c) s = .next
              (s1.modIngest fun g => { g with xfer := tabPut none g.xfer o (some
                { ticket := t, entries := es, sdrKhz := (s1.dyn.cfg.bus o).sdrKhz, i2cKhz := (s1.dyn.cfg.bus o).i2cKhz }) }))))

/-- The configuration commands of Confluence (R348, R350, R357, R367): the first failing check answers its status; with none
the open shadow has the entry that the parameters (and for a pair the calibration block read) spell. -/
def Obligations.FusionConfigurationChecksInOrder : Prop :=
  (∀ c s, Admits opFusionGroup c s = true →
    let cfg := s.lock.opn
    let g := fldN c.params 0 2
    let d := groupOfParams c.params
    let cfg' := { cfg with groups := tabPut {} cfg.groups g d }
    let intake := ((upFrom 0 4).map fun k => (cfg'.group k).intake.toNat).foldl (· + ·) 0
    exec (.fusionGroupConfig c) s = .next (settled opFusionGroup c
      [(!(c.path == .supervisor), 0x00D1), (!d.fieldsOk, 0x00D0),
        (4096 < intake || tabAny (fun _ f => f.join && f.group.toNat == g && !f.windowOk d.period) cfg.fusionStreams, 0x00D2),
        (d.enable && !(cfg.pagesOk d.berth d.blockAddr.toNat (d.blockCount.toNat * d.blockBytes) true
          && cfg.pagesOk d.berth d.tableAddr.toNat 0x20000 true), 0x00D6)] cfg' s))
  ∧ (∀ c s, Admits opFusionStream c s = true →
    let p := c.params
    let cfg := s.lock.opn
    let n := fldN p 0 5
    let d : FusionStreamCfg :=
      { join := bitAt p 5, group := fld p 6 2, project := bitAt p 8, ptFmt := fld p 9 2, ptOffset := fld p 16 10,
        ptStride := fld p 32 8, winLo := fld p 64 32, winHi := fld p 96 32 }
    let granted : Bool := c.path == .supervisor || bitAt (cfg.berth c.berth).streamGrant n
    let owned : Bool := c.path == .supervisor || c.berth == (cfg.group d.group.toNat).berth
    exec (.fusionStreamConfig c) s = .next (settled opFusionStream c
      [(!granted || (d.join && !owned), 0x00D1),
        (1 < d.ptFmt.toNat || d.ptStride.toNat < 6 || !d.windowOk (cfg.group d.group.toNat).period, 0x00D0)]
      { cfg with fusionStreams := tabPut {} cfg.fusionStreams n d } s))
  ∧ (∀ c s, Admits opPair c s = true →
    let p := c.params
    let k := fldN p 0 6
    let va := fldN p 64 40
    let t := ticketOf opPair c s
    let a := admitted c s
    let granted := fun (y : State) (n : Nat) => c.path == .supervisor || bitAt (y.lock.opn.berth c.berth).streamGrant n
    let sizeOk := fun (x : BitVec 16) => 1 ≤ x.toNat && x.toNat ≤ 4096
    let pair : List Byte → PairCfg := fun d =>
      { valid := bitAt p 6, lidar := fld p 8 5, camera := fld p 16 5, w := fld p 32 16, h := fld p 48 16,
        cal := (upFrom 0 16).map fun i => BitVec.ofNat 32 (ofBytes ((d.drop (4 * i)).take 4)) }
    let checks := fun (y : State) =>
      [(!granted y (fldN p 8 5) || !granted y (fldN p 16 5), 0x00D1),
        (!sizeOk (fld p 32 16) || !sizeOk (fld p 48 16) || va % 64 != 0 || !(y.lock.opn.stream (fldN p 8 5)).lidar
          || (y.lock.opn.stream (fldN p 16 5)).lidar, 0x00D0),
        (bitAt p 6 && tabAny (fun j x => j != k && x.valid && x.lidar == fld p 8 5 && x.camera == fld p 16 5) y.lock.opn.pairs,
          0x00D2)]
    (∀ st, firstOf (checks s) = some st → exec (.fusionPairSet c) s = .next (answered opPair c st noResult s))
    ∧ (firstOf (checks s) = none → a.readable c.berth va 64 = false →
        exec (.fusionPairSet c) s = .next (answered opPair c 0x00D6 noResult s))
    ∧ (∀ s1, firstOf (checks s) = none → a.readable c.berth va 64 = true → readVirt t.src c.berth va 64 a = (s1, .uncorrectable) →
        exec (.fusionPairSet c) s = .next (writeRecord t 0x000B noResult s1))
    ∧ (∀ s1, firstOf (checks s) = none → a.readable c.berth va 64 = true → readVirt t.src c.berth va 64 a = (s1, .addressFault) →
        exec (.fusionPairSet c) s = .next (writeRecord t 0x00D6 noResult s1))
    ∧ (∀ s1 d, firstOf (checks s) = none → a.readable c.berth va 64 = true → readVirt t.src c.berth va 64 a = (s1, .ok d) →
        firstOf (checks s1) = none →
        exec (.fusionPairSet c) s = .next (enter { t with data := d }
          { s1.lock.opn with pairs := tabPut {} s1.lock.opn.pairs k (pair d) } s1)))

/-- FUSION_PUBLISH, FUSION_ASSOC and GET_FUSION_STATUS (R361 to R367): checks in order and the effect. -/
def Obligations.FusionOutputAndAssociation : Prop :=
  (∀ c s, Admits opGetFusion c s = true →
    let g := fldN c.params 0 2
    let owned : Bool := c.path == .supervisor || c.berth == (s.snap.cfg.group g).berth
    exec (.getFusionStatus c) s = .next (replied opGetFusion c [(!owned, 0x00D1)]
      (fusionRecord (s.snap.cfg.group g) (t16 s.snap.time.wc) (tabGet {} s.snap.fusion.groups g)) s))
  ∧ (∀ c s, Admits opPublish c s = true →
    let p := c.params
    let t := ticketOf opPublish c s
    let a := admitted c s
    let g := fldN p 6 2
    let span := (fldN p 128 40, fldN p 168 32)
    let owned : Bool := c.path == .supervisor || c.berth == (s.dyn.cfg.group g).berth
    let checks := [(!owned, 0x00D1), (fldN p 0 6 < 4 || !(fldN p 8 2 == 1 || fldN p 8 2 == 2) || fldN p 128 40 % 64 != 0, 0x00D0),
      (!a.spansOk c.berth [span] false, 0x00D6)]
    let waits : Bool := match pathQueue? c.path with
      | some q => a.mustWait q [span] s.dyn.work.nextJob
      | none => false
    (∀ st, firstOf checks = some st → exec (.fusionPublish c) s = .next (answered opPublish c st noResult s))
    ∧ (firstOf checks = none → waits = true → exec (.fusionPublish c) s = .next s)
    ∧ (firstOf checks = none → waits = false → (s.group g).stampOf (fld p 32 32) = none →
        exec (.fusionPublish c) s = .next (answered opPublish c 0x00D3 noResult s))
    ∧ (∀ x, firstOf checks = none → waits = false → (s.group g).stampOf (fld p 32 32) = some x →
        exec (.fusionPublish c) s = .next (writeRecord t 0 noResult (publishLevel p x a))))
  ∧ (∀ c s, Admits opAssoc c s = true →
    let p := c.params
    let t := ticketOf opAssoc c s
    let a := admitted c s
    let g := fldN p 0 2
    let list := fldN p 64 40
    let n := fldN p 128 16
    let owned : Bool := c.path == .supervisor || c.berth == (s.dyn.cfg.group g).berth
    (∀ st, firstOf [(!owned, 0x00D1), (list % 16 != 0 || n == 0 || 4096 < n, 0x00D0),
          (!a.readable c.berth list (16 * n), 0x00D6)] = some st →
        exec (.fusionAssoc c) s = .next (answered opAssoc c st noResult s))
    ∧ (∀ s1, owned = true → list % 16 = 0 → n ≠ 0 → n ≤ 4096 → a.readable c.berth list (16 * n) = true →
        (readVirt t.src c.berth list (16 * n) a = (s1, .uncorrectable) → exec (.fusionAssoc c) s = .next (writeRecord t 0x000B noResult s1))
        ∧ (readVirt t.src c.berth list (16 * n) a = (s1, .addressFault) →
          exec (.fusionAssoc c) s = .next (writeRecord t 0x00D6 noResult s1)))
    ∧ (∀ s1 b, owned = true → list % 16 = 0 → n ≠ 0 → n ≤ 4096 → a.readable c.berth list (16 * n) = true →
        readVirt t.src c.berth list (16 * n) a = (s1, .ok b) →
        let os := (upFrom 0 n).map fun i => BitVec.ofNat 128 (ofBytes ((b.drop (16 * i)).take 16))
        let y := s1.group g
        let d := s.dyn.cfg.group g
        let known := (y.stampOf (fld p 32 32)).isSome
        let stale := fun (i : Stamp) => match y.lastAssoc with
          | some l => decide (i.number ≤ l)
          | none => false
        (∀ st, firstOf [(!os.all assocDefined, 0x00D0), (!s1.writable d.berth d.tableAddr.toNat 0x20000, 0x00D6),
              (!known, 0x00D3)] = some st →
            exec (.fusionAssoc c) s = .next (writeRecord t st noResult s1))
        ∧ (∀ i, os.all assocDefined = true → s1.writable d.berth d.tableAddr.toNat 0x20000 = true →
            y.stampOf (fld p 32 32) = some i →
            (∀ st, firstOf [(stale i, 0x00D4), (!y.assocOk os, 0x00D5)] = some st →
              exec (.fusionAssoc c) s = .next (writeRecord t st noResult s1))
            ∧ (stale i = false → y.assocOk os = true → exec (.fusionAssoc c) s = .next (associate t g i os s1)))))


/-! Time -/

/-- The commands of the time block (R304 to R307, R311, R319, R320). -/
def Obligations.TimeCommandsFollowTheirChecks : Prop :=
  (∀ c s, Admits opTimeDomain c s = true →
    let p := c.params
    let g : DomainCfg :=
      { enable := bitAt p 1, source := fld p 2 2, peer := fld p 4 2, domainNumber := fld p 8 8, logSync := fld p 16 4,
        syncLoss := fld p 20 4, kp := fld p 32 16, ki := fld p 48 16, stepNs := fld p 64 32, lockNs := fld p 96 16,
        lockCount := fld p 112 8, freqLimit := fld p 128 16, holdMs := fld p 144 16 }
    let cfg' := if fldN p 0 1 = 0 then { s.lock.opn with domainA := g } else { s.lock.opn with domainB := g }
    exec (.timeDomainConfig c) s = .next (settled opTimeDomain c
      [(!(c.path == .supervisor), 0x00E2), (!domainOk g, 0x00E0), (timeConflict (admitted c s) s.lock.opn cfg', 0x00E1)] cfg' s))
  ∧ (∀ c s, Admits opTimePort c s = true →
    let p := c.params
    let cfg' := { s.lock.opn with
      timePorts :=
        tabPut {} s.lock.opn.timePorts (fldN p 0 3)
          { roleA := fld p 4 2, roleB := fld p 6 2, logPdelay := fld p 8 4, nbrThresh := fld p 16 16, asym := fld p 32 32,
            txPhy := fld p 64 32, rxPhy := fld p 96 32 } }
    exec (.timePortConfig c) s = .next (settled opTimePort c
      [(!(c.path == .supervisor), 0x00E2), (!((fld p 8 4).toNat ≤ 3 || 13 ≤ (fld p 8 4).toNat), 0x00E0),
        (timeConflict (admitted c s) s.lock.opn cfg', 0x00E1)] cfg' s))
  ∧ (∀ c s, Admits opTimeSelect c s = true →
    let cfg' := { s.lock.opn with selected := bitAt c.params 0, auto := bitAt c.params 1 }
    exec (.timeSelect c) s = .next (settled opTimeSelect c
      [(!(c.path == .supervisor), 0x00E2), (timeConflict (admitted c s) s.lock.opn cfg', 0x00E1)] cfg' s))
  ∧ (∀ c s, Admits opTimeMeasure c s = true →
    let t := ticketOf opTimeMeasure c s
    let p := fldN c.params 0 3
    (c.path ≠ .supervisor → exec (.timePortMeasure c) s = .next (answered opTimeMeasure c 0x00E2 noResult s))
    ∧ (c.path = .supervisor → s.inService = true → exec (.timePortMeasure c) s = .next (measurePort t p (admitted c s)))
    ∧ (c.path = .supervisor → s.inService = false → s.dyn.safety.roomForRequest = true →
        exec (.timePortMeasure c) s = .next
          (((admitted c s).modTime fun x => x.modPort p fun y => { y with measurePending := true }).modSafety fun f =>
            { f with requests := f.requests ++ [.measure t p] }))
    ∧ (c.path = .supervisor → s.inService = false → s.dyn.safety.roomForRequest = false →
        exec (.timePortMeasure c) s = .next (answered opTimeMeasure c 0x00F8 noResult s)))
  ∧ (∀ c s, Admits opGetTime c s = true →
    exec (.getTimeStatus c) s = .next (answered opGetTime c 0 (timeRecord s.snap (fldN c.params 0 4)) s))

/-- The events of the ports of the time block (R304 to R308): what each writes, and that an unusable Sync, a port that is no
master or a port whose link is down leaves the state as it was. -/
def Obligations.SyncEventsSteerTheDomains : Prop :=
  (∀ (port : Fin 8) number origin correction ingress rate s,
    (syncDomain s port number = none → exec (.syncReceive port number origin ⟨correction, rate⟩ ingress) s = .next s)
    ∧ (∀ d, syncDomain s port number = some d →
        let g := s.dyn.cfg.domain d
        g.enable = true ∧ g.source = 0 ∧ g.domainNumber = number ∧ (s.dyn.cfg.timePort port).role d = 1
        ∧ (s.dyn.time.port port).asCapable = true
        ∧ exec (.syncReceive port number origin ⟨correction, rate⟩ ingress) s = .next (timeDoubtCheck (s.modTime fun t =>
            t.modDom d fun x => { servo g (syncOffset s port d origin correction ingress (sInt rate)) t.wc x with stratum := 0 }))))
  ∧ (∀ (port : Fin 8) (d : Fin 2) s,
    let g := s.dyn.cfg.timePort port
    let y := s.dyn.time.port port
    let now := s.dyn.time.wc
    let may := (s.dyn.cfg.domain d).enable = true ∧ g.role d = 2 ∧ y.linkUp = true
      ∧ (y.sent d = 0 ∨ y.sent d + log2Period (s.dyn.cfg.domain d).logSync ≤ now + 1)
    (may → exec (.syncSend port d) s = .next (s.modTime fun t => t.modPort port fun q =>
        { q with
          syncs := { domain := d, origin := some ((s.egressStamp port).dom d) }
            :: { domain := d, stamp := s.egressStamp port } :: q.syncs,
          sentA := if d = 0 then now + 1 else q.sentA, sentB := if d = 0 then q.sentB else now + 1 }))
    ∧ (¬may → exec (.syncSend port d) s = .next s))
  ∧ (∀ (port : Fin 8) t1 t2 t3 t4 ratio s,
    let g := s.dyn.cfg.timePort port
    let y := s.dyn.time.port port
    let own := (t4 - ps16 g.rxPhy.toNat - ps16 y.rxPath.toNat) - (t1 + ps16 g.txPhy.toNat + ps16 y.txPath.toNat)
    let delay := (own + own * sInt ratio / (2 ^ 8 * 10 ^ 9) - (t3 - t2)) / 2
    let may := y.linkUp = true ∧ (y.lastPdelay = 0 ∨ y.lastPdelay + log2Period g.logPdelay ≤ s.dyn.time.wc + 1)
    (may → exec (.pdelayExchange port t1 t2 t3 t4 ratio) s = .next (s.modTime fun t => t.modPort port fun y =>
        { y with
          linkDelay := delay, rateRatio := sInt ratio, lastPdelay := s.dyn.time.wc + 1,
          asCapable := decide (delay ≤ (g.nbrThresh.toNat : Int) * 2 ^ 16) }))
    ∧ (¬may → exec (.pdelayExchange port t1 t2 t3 t4 ratio) s = .next s))
  ∧ (∀ (port : Fin 8) tx rx s, exec (.portLinkUp port tx rx) s = .next
      ((s.modTime fun t => t.modPort port fun y => { y with linkUp := true, newPaths := some (tx, rx) }).modGateway fun g =>
        { g with channels := tabMod {} g.channels (8 + port) fun x => { x with linkUp := true } }))
  ∧ (∀ (port : Fin 8) s, exec (.portLinkDown port) s = .next
      ((s.modTime fun t => t.modPort port fun y => { y with linkUp := false, asCapable := false }).modGateway fun g =>
        { g with channels := tabMod {} g.channels (8 + port) fun x => { x with linkUp := false } }))

/-- The time losses of R309, R313, R315 and R316: what each does when it is due, and that it does nothing before. -/
def Obligations.TimeLossAndHoldover : Prop :=
  (∀ (d : Fin 2) s,
    let g := s.dyn.cfg.domain d
    let x := s.dyn.time.dom d
    let due := x.lastSync + g.syncLoss.toNat * g.interval ≤ s.dyn.time.wc
    (due → x.state = .locked → exec (.syncLoss d) s = .next (timeDoubtCheck (s.modTime fun t =>
        t.modDom d fun x => { x with state := .holdover, f := -x.integ, heldSince := s.dyn.time.wc })))
    ∧ (due → x.state = .acquiring → exec (.syncLoss d) s = .next (timeDoubtCheck (s.modTime fun t =>
        t.modDom d fun x => { x with state := .lost })))
    ∧ ((¬due ∨ (x.state ≠ .locked ∧ x.state ≠ .acquiring)) → exec (.syncLoss d) s = .next s))
  ∧ (∀ (d : Fin 2) s,
    let x := s.dyn.time.dom d
    let due := x.state = .holdover ∧ x.heldSince + (s.dyn.cfg.domain d).holdMs.toNat * 1000 * us48 ≤ s.dyn.time.wc
    (due → exec (.holdoverExpiry d) s = .next (timeDoubtCheck (s.modTime fun t =>
        t.modDom d fun x => { x with state := .lost })))
    ∧ (¬due → exec (.holdoverExpiry d) s = .next s))
  ∧ (∀ s,
    (s.dyn.time.lastSlew + 100 * us48 ≤ s.dyn.time.wc →
        exec .workingClockSlew s = .next (s.modTime fun t => slew (if s.dyn.cfg.selected then 1 else 0) t))
    ∧ (s.dyn.time.wc < s.dyn.time.lastSlew + 100 * us48 → exec .workingClockSlew s = .next s))
  ∧ (∀ (ppm : Int) s,
    (ppm.natAbs ≤ 500 → exec (.tcxoCheck ppm) s = .next (s.modTime fun t => { t with tcxoRun := 0 }))
    ∧ (500 < ppm.natAbs → s.dyn.time.tcxoRun = 0 → exec (.tcxoCheck ppm) s = .next (s.modTime fun t => { t with tcxoRun := 1 }))
    ∧ (500 < ppm.natAbs → 1 ≤ s.dyn.time.tcxoRun → exec (.tcxoCheck ppm) s = .next
        (raiseDoubt 7 ((s.modTime fun t =>
          { t with tcxoRun := t.tcxoRun + 1, tcxoFault := true, timeDoubt := true }).modIsland fun i => { i with disciplined := false }))))

/-- The beacons of R317 and R318: the one sent, and what a received one steers. -/
def Obligations.BeaconsCarryTimeAcrossIsgal : Prop :=
  (∀ (peer : BitVec 2) s,
    let b := tabGet (0, 0) s.dyn.time.beacons peer.toNat
    let may := (b.1 = 0 ∨ b.1 + 1000 * us48 ≤ s.dyn.time.wc) ∧ s.peerUp peer = true
    (may → exec (.beaconSend peer) s = .next
      (sendPeer peer { kind := 0xA, addr := 0, data := bytesOf 16 (layout80 s.now16 + ownStratum s * 2 ^ 80) } none
        (s.modTime fun t => { t with beacons := tabPut (0, 0) t.beacons peer.toNat (t.wc, b.2) })))
    ∧ (¬may → exec (.beaconSend peer) s = .next s))
  ∧ (∀ (peer : BitVec 2) (wc : Int) (stratum : BitVec 4) (delay : Int) s,
    let follows := fun (d : Nat) => (s.dyn.cfg.domain d).enable = true ∧ (s.dyn.cfg.domain d).source = 1
      ∧ (s.dyn.cfg.domain d).peer = peer ∧ stratum.toNat < 3
    let heard := s.modTime fun t => { t with beacons := tabMod (0, 0) t.beacons peer.toNat fun b => (b.1, delay) }
    let steer := fun (d : Nat) (t : TimeState) => t.modDom d fun x =>
      { servo (s.dyn.cfg.domain d) ((t16 x.clock : Int) - (wc + delay)) t.wc x with stratum := stratum }
    (¬follows 0 → ¬follows 1 → exec (.beaconReceive peer wc stratum delay) s = .next (timeDoubtCheck heard))
    ∧ (follows 0 → ¬follows 1 → exec (.beaconReceive peer wc stratum delay) s = .next (timeDoubtCheck (heard.modTime (steer 0))))
    ∧ (¬follows 0 → follows 1 → exec (.beaconReceive peer wc stratum delay) s = .next (timeDoubtCheck (heard.modTime (steer 1))))
    ∧ (follows 0 → follows 1 → exec (.beaconReceive peer wc stratum delay) s = .next
        (timeDoubtCheck (heard.modTime fun t => steer 1 (steer 0 t)))))

/-- The servo of R308 and the states of R309: only an ACQUIRING or LOST domain may step, and the frequency is bounded. -/
def Obligations.ALockedDomainNeverSteps : Prop :=
  ∀ (g : DomainCfg) (theta : Int) (now : Nat) (d : DomainDyn), 0 ≤ g.limit →
    let r := servo g theta now d
    let big := (g.stepNs.toNat : Int) * 2 ^ 16 < theta.natAbs
    (¬((d.state = .acquiring ∨ d.state = .lost) ∧ big) → r.clock = d.clock)
    ∧ ((d.state = .acquiring ∨ d.state = .lost) → big →
        r.clock = ((d.clock : Int) - theta * 2 ^ 32).toNat ∧ r.integ = 0 ∧ r.good = 0 ∧ r.state = .acquiring)
    ∧ (r.f = d.f ∨ (-g.limit ≤ r.f ∧ r.f ≤ g.limit))
    ∧ (r.state = .locked → d.state = .locked ∨ d.state = .holdover ∨ g.lockCount.toNat ≤ r.good)
    ∧ r.lastSync = now ∧ r.theta = theta


/-! Packets, mailboxes, doorbells, queues and the I3C target port -/

/-- The checks on every packet (R373, R374, R382): `carry` is what every packet command runs, and `act` its own effect. -/
def Obligations.PacketsAreCheckedInOrder : Prop :=
  (∀ (op : OpInfo) (c : Cmd) (act : Ticket → State → State) (s : State), s.takes c = true →
    let t := ticketOf op c s
    (∀ e, s.expected c.path = some e → c.seq ≠ e →
      carry op c act s = .next (writeRecord t 0x0006 (shortResult [(0, 32, e.toNat)]) (s.taken c)))
    ∧ (∀ st r, s.inTurn c = true → firstFailure op c (s.taken c) = some (st, r) →
      carry op c act s = .next (writeRecord t st r (admitted c s)))
    ∧ (Admits op c s = true → carry op c act s = .next (act t (admitted c s))))
  ∧ (∀ (op : OpInfo) (c : Cmd) (s : State),
    firstFailure op c s =
      if berthSuits c s = false then some (0x0004, noResult)
      else if c.gen ≠ s.genOf c then some (0x0005, shortResult [(0, 16, c.gen.toNat), (16, 16, (s.genOf c).toNat)])
      else if exempt op c = false ∧ s.hasNegotiated c = false then some (0x0008, noResult)
      else if pathPermits op c s = false then some (0x0003, noResult)
      else if featuresHeld c s = false then some (0x0009, noResult)
      else if op.wellFormed c.params = false then some (0x0001, noResult)
      else if areaOk op c s = false then some (0x000A, noResult)
      else if op.needsBerth = true ∧ c.device = true then some (0x0004, noResult)
      else none)
  ∧ (∀ (c : Cmd) (s : State), s.takes c = true →
    (∀ e, s.expected c.path = some e → c.seq ≠ e → exec (.echo c) s = .next
      (writeRecord (ticketOf opEcho c s) 0x0006 (shortResult [(0, 32, e.toNat)]) (s.taken c)))
    ∧ (∀ st r, s.inTurn c = true → firstFailure opEcho c (s.taken c) = some (st, r) →
      exec (.echo c) s = .next (writeRecord (ticketOf opEcho c s) st r (admitted c s))))
  ∧ (∀ (c : Cmd) (s : State),
    (admitted c s).expected c.path = some (c.seq + 1) ∧ (admitted c s).dyn.cfg = s.dyn.cfg ∧ (admitted c s).lock = s.lock
    ∧ (admitted c s).mem = s.mem ∧ (admitted c s).snap = s.snap
    ∧ (∀ m, c.path ≠ .supervisor ∧ c.path ≠ .mailbox m → (admitted c s).mailbox m.toNat = s.mailbox m.toNat))
  ∧ (∀ (c : Cmd) (q : BitVec 18) (s : State), c.path = .queue q → s.takes c = false → exec (.echo c) s = .next s)

/-- The layout of a completion record (R375), and when one is written (R377, R380). -/
def Obligations.RecordsHaveTheirFields : Prop :=
  (∀ (t : Ticket) (st : Nat) (r : Result) (written : Bool) (block : Nat), st < 2 ^ 16 →
    let d := recordBytes t st r written block
    let w : BitVec 256 := BitVec.ofNat 256 (ofBytes d)
    d.length = 32 ∧ fld w 0 32 = t.cmd.seq ∧ fld w 32 16 = t.opcode ∧ fldN w 48 16 = st ∧ fld w 64 6 = t.cmd.berth
    ∧ fldN w 70 2 = (match t.cmd.path with
        | .queue _ => 0
        | .mailbox _ => 1
        | .supervisor => 2)
    ∧ bitAt w 72 = decide (16 < r.len) ∧ bitAt w 73 = written ∧ fldN w 74 6 = 0 ∧ fld w 80 16 = t.gen
    ∧ fldN w 96 8 = block % 256 ∧ fldN w 104 24 = 0 ∧ fldN w 128 128 = r.bits % 2 ^ 128)
  ∧ (∀ (t : Ticket) (st : Nat) (r : Result) (s : State),
    (t.cmd.device = false → (s.dyn.cfg.berth t.cmd.berth).gen ≠ t.gen → writeRecord t st r s = s)
    ∧ (∀ q, s.stale t = false → t.cmd.path = .queue q → t.cmd.silent = true →
        writeRecord t 0 r s = s.modQueue t.cq.toNat fun y => { y with reserved := y.reserved - 1 })
    ∧ (∀ m, s.stale t = false → t.cmd.path = .mailbox m → (s.mailbox m.toNat).state ≠ .taken → writeRecord t st r s = s)
    ∧ (s.stale t = false → t.cmd.path = .supervisor → (s.mailbox 64).state = .taken → r.len ≤ 16 →
        writeRecord t st r s =
          requestIbi 0x01 (s.modMailbox 64 fun x =>
            { x with state := .replied, outb := outMessage 1 (recordBytes t st r false 0) })))

/-- R386 whole, with the limits of R165 spelled out: what a doorbell write does to a queue in use, and where the word is. -/
def Obligations.DoorbellsMoveTheirIndex : Prop :=
  (∀ (q : BitVec 18) (data : List Byte) (s : State), data.length = 8 →
    exec (.registerWrite (BitVec.ofNat 32 (q.toNat * 0x1000)) data) s
      = exec (.doorbellWrite q (BitVec.ofNat 64 (ofBytes data))) s)
  ∧ (∀ (q : BitVec 18) (v : BitVec 64) (s : State),
    let d := s.dyn.cfg.queueDesc q.toNat
    let y := s.queue q.toNat
    let i := fld v 0 21
    let ring := 2 ^ d.ringLog2.toNat
    let counted := s.modQueue q.toNat fun y => { y with overrun := satInc y.overrun }
    let producer := (i - y.cons).toNat ≤ ring ∧ (i - y.prod).toNat ≤ ring
    let consumer := (y.prod - i).toNat ≤ ring ∧ (i - y.cons).toNat ≤ ring
    d.valid = true →
      (fldN v 21 43 ≠ 0 → exec (.doorbellWrite q v) s = .next counted)
      ∧ (fldN v 21 43 = 0 → d.kind = 0 → producer →
          exec (.doorbellWrite q v) s = .next (s.modQueue q.toNat fun y =>
            { y with prod := i, headSince := if y.prod = y.cons then s.now16 else y.headSince }))
      ∧ (fldN v 21 43 = 0 → d.kind = 0 → ¬producer → exec (.doorbellWrite q v) s = .next counted)
      ∧ (fldN v 21 43 = 0 → d.kind ≠ 0 → consumer →
          exec (.doorbellWrite q v) s = .next (freeConsumed q.toNat i (s.modQueue q.toNat fun y => { y with cons := i })))
      ∧ (fldN v 21 43 = 0 → d.kind ≠ 0 → ¬consumer → exec (.doorbellWrite q v) s = .next counted))

/-- The mailbox events of R388: POST, ACK, the inbound slot, and Veldon's taking of a message (R374, R389, R390). -/
def Obligations.MailboxesMoveBetweenTheirStates : Prop :=
  (∀ (m : Fin 65) (s : State),
    let x := s.mailbox m
    (x.state = .empty → exec (.mailboxPost m false) s = .next (s.modMailbox m fun x => { x with state := .posted }))
    ∧ (x.state ≠ .empty → exec (.mailboxPost m false) s = .next (s.modMailbox m fun x => { x with overrun := satAdd x.overrun 1 }))
    ∧ (x.state = .replied → exec (.mailboxAck m false) s = .next (s.modMailbox m fun x => { x with state := .empty, outb := [] }))
    ∧ (x.state ≠ .replied → exec (.mailboxAck m false) s = .next (s.modMailbox m fun x => { x with overrun := satAdd x.overrun 1 }))
    ∧ exec (.mailboxPost m true) s = exec (.mailboxAck m true) s
    ∧ (x.state = .empty → exec (.mailboxPost m true) s =
        .next (s.modMailbox m fun x => { x with state := .posted, overrun := satAdd x.overrun 1 }))
    ∧ (x.state = .replied → exec (.mailboxPost m true) s =
        .next (s.modMailbox m fun x => { x with state := .empty, outb := [], overrun := satAdd x.overrun 1 }))
    ∧ ((x.state = .posted ∨ x.state = .taken) → exec (.mailboxPost m true) s =
        .next (s.modMailbox m fun x => { x with overrun := satAdd x.overrun 2 })))
  ∧ (∀ (m : Fin 65) (data : List Byte) (s : State), data.length = 8 →
    let v : BitVec 64 := BitVec.ofNat 64 (ofBytes data)
    exec (.registerWrite (BitVec.ofNat 32 (0x40000000 + m * 0x10000 + 0x100)) data) s
      = .next (s.modMailbox m (Mailbox.control (bitAt v 0) (bitAt v 1))))
  ∧ (∀ (m : Fin 65) (off : Nat) (data : List Byte) (s : State), off < 0x80 →
    let addr : BitVec 32 := BitVec.ofNat 32 (0x40000000 + m * 0x10000 + off)
    ((s.mailbox m).state ≠ .empty → exec (.registerWrite addr data) s = .next (s.modMailbox m id))
    ∧ ((s.mailbox m).state = .empty → exec (.registerWrite addr data) s =
        .next (s.modMailbox m fun x => { x with inb := putBytes x.inb off (data.take (128 - off)) })))
  ∧ (∀ (addr : BitVec 32) (data : List Byte) (s : State),
    let a := addr.toNat
    ((a < 0x40000000 ∧ a % 0x1000 ≠ 0) ∨ 0x40410000 ≤ a
      ∨ (0x40000000 ≤ a ∧ a < 0x40410000 ∧ 0x80 ≤ a % 0x10000 ∧ a % 0x10000 ≠ 0x100)) →
    exec (.registerWrite addr data) s = .next s)
  ∧ (∀ (m : Fin 65) (s : State),
    let x := s.mailbox m
    let path : Path := if m.val = 64 then .supervisor else .mailbox (BitVec.ofNat 6 m)
    let packet := (upFrom 16 64).map (tabGet (0 : Byte) x.inb)
    let p : BitVec 512 := BitVec.ofNat 512 (ofBytes packet)
    ((s.serves path = false ∨ x.state ≠ .posted) → exec (.mailboxTake m) s = .next s)
    ∧ (∀ st, s.serves path = true → x.state = .posted → messageFailure x.inb = some st →
        exec (.mailboxTake m) s = .next (refuseMessage m packet st s))
    ∧ (s.serves path = true → x.state = .posted → messageFailure x.inb = none →
        takePacket path p (s.modMailbox m fun x => { x with state := .taken }) = none → exec (.mailboxTake m) s = .next s)
    ∧ (∀ t, s.serves path = true → x.state = .posted → messageFailure x.inb = none →
        takePacket path p (s.modMailbox m fun x => { x with state := .taken }) = some t → exec (.mailboxTake m) s = .next t))

/-- The taking and the cancelling of a queue's oldest untaken entry (R166 to R168, R558). -/
def Obligations.QueueEntriesStartInOrder : Prop :=
  (∀ (q : BitVec 18) (s : State),
    let h := resolveHead q.toNat s
    ((tryHead q s).bind (startedOn s) = none → h = s)
    ∧ (takeEntry q h = none → exec (.queueEntryTake q) s = .next h)
    ∧ (∀ t, takeEntry q h = some t → startedOn h t = none → exec (.queueEntryTake q) s = .next t)
    ∧ (∀ t n u, takeEntry q h = some t → startedOn h t = some n → nextJobOf n h = some (q.toNat, u) →
        exec (.queueEntryTake q) s = .next u)
    ∧ (∀ t n, takeEntry q h = some t → startedOn h t = some n → (∀ u, nextJobOf n h ≠ some (q.toNat, u)) →
        exec (.queueEntryTake q) s = .next h))
  ∧ (∀ (q : BitVec 18) (s : State),
    let n := q.toNat
    let y := s.queue n
    let may := s.serves (.queue q) = true ∧ y.toCancel ≠ 0 ∧ y.present ≠ 0 ∧ s.slotFree (s.dyn.cfg.queueDesc n).cq.toNat = true
    let passed := fun (u : State) => (passHead n u).modQueue n fun y => { y with toCancel := y.toCancel - 1 }
    (¬may → exec (.commandCancel q) s = .next s)
    ∧ (∀ u, may → readHead n s = (u, .addressFault) → exec (.commandCancel q) s = .next (ringFault n 0x000D (passed u)))
    ∧ (∀ u, may → readHead n s = (u, .uncorrectable) → exec (.commandCancel q) s = .next (ringFault n 0x000B (passed u)))
    ∧ (∀ u d, may → readHead n s = (u, .ok d) →
        let p : BitVec 512 := BitVec.ofNat 512 (ofBytes d)
        let c := { packetCmd (.queue q) p with silent := false }
        let v := setExpected (.queue q) (c.seq + 1) (passed u)
        exec (.commandCancel q) s = .next (writeRecord
          { opcode := fld p 0 16, cmd := c, gen := v.genOf c, cq := v.cqOf (.queue q) } 0x0092 noResult v)))

/-- R392 whole: the private writes and reads of the I3C target port. -/
def Obligations.PrivateWritesSelectByTheirIndex : Prop :=
  (∀ (bytes : List Byte) (s : State),
    let u := s.modI3c fun x => { x with index := none }
    ((s.mailbox 64).state ≠ .empty → exec (.i3cPrivateWrite (0x00 :: bytes)) s =
        .next (u.modMailbox 64 fun x => { x with overrun := satInc x.overrun }))
    ∧ ((s.mailbox 64).state = .empty → bytes.length = 80 → exec (.i3cPrivateWrite (0x00 :: bytes)) s =
        .next (u.modMailbox 64 fun x => { x with inb := putBytes x.inb 0 bytes, state := .posted }))
    ∧ ((s.mailbox 64).state = .empty → bytes.length ≠ 80 →
        let p : BitVec 512 := BitVec.ofNat 512 (ofBytes (takeBytes 64 (bytes.drop 16)))
        let c : Cmd := { path := .supervisor, berth := fld p 16 6, seq := fld p 64 32 }
        exec (.i3cPrivateWrite (0x00 :: bytes)) s = .next (mailboxReply 64
          (outMessage 2 (recordBytes { opcode := fld p 0 16, cmd := c, gen := 0 } 0x0001 noResult false 0)) u))
    ∧ exec (.i3cPrivateWrite (0x01 :: bytes)) s = .next (s.modI3c fun x => { x with index := some 0x01 })
    ∧ exec (.i3cPrivateWrite (0x10 :: bytes)) s = .next (s.modI3c fun x => { x with index := some 0x10 })
    ∧ (∀ i : Byte, i ≠ 0x00 → i ≠ 0x01 → i ≠ 0x10 →
        exec (.i3cPrivateWrite (i :: bytes)) s = .next (s.modI3c fun x => { x with reply := none })))
  ∧ (∀ (len : Nat) (s : State),
    let x := s.mailbox 64
    (s.i3c.index = some 0x10 → exec (.i3cReplyRead len) s = .next (s.modI3c fun i =>
        { i with reply := some ((bytesOf 16 (layout80 s.now16 + b2n s.dyn.time.acquired * 2 ^ 80)).take len) }))
    ∧ (s.i3c.index = some 0x01 → x.state = .replied → x.outb.length ≤ len → exec (.i3cReplyRead len) s =
        .next ((s.modI3c fun i => { i with reply := some (x.outb.take len) }).modMailbox 64 fun x =>
          { x with state := .empty, outb := [] }))
    ∧ (s.i3c.index = some 0x01 → x.state = .replied → len < x.outb.length → exec (.i3cReplyRead len) s =
        .next (s.modI3c fun i => { i with reply := some (x.outb.take len) }))
    ∧ ((s.i3c.index ≠ some 0x10 → s.i3c.index ≠ some 0x01 ∨ x.state ≠ .replied → exec (.i3cReplyRead len) s =
        .next (s.modI3c fun i => { i with reply := none }))))

/-- The common command codes of R391 and R393. The identity registers are constants of Config. -/
def Obligations.CommonCommandCodesAnswer : Prop :=
  (∀ (a : BitVec 7) (s : State),
    (s.i3c.dynAddr = none →
      exec (.entdaa a) s = .next (s.modI3c fun i => { i with dynAddr := some a })
      ∧ exec (.setdasa a) s = .next (s.modI3c fun i => { i with dynAddr := some a }) ∧ exec (.setnewda a) s = .next s)
    ∧ (s.i3c.dynAddr ≠ none →
      exec (.entdaa a) s = .next s ∧ exec (.setdasa a) s = .next s
      ∧ exec (.setnewda a) s = .next (s.modI3c fun i => { i with dynAddr := some a })))
  ∧ (∀ s : State,
    let said := fun (bs : List Byte) => s.modI3c fun i => { i with reply := some bs }
    exec .rstdaa s = .next (s.modI3c fun i => { i with dynAddr := none })
    ∧ exec .getpid s = .next (said (bytesOf 6 Config.i3cPid.toNat).reverse)
    ∧ exec .getbcr s = .next (said [Config.i3cBcr])
    ∧ exec .getdcr s = .next (said [Config.i3cDcr])
    ∧ exec .getstatus s = .next (said (bytesOf 2 (mailboxStatus s 64)).reverse)
    ∧ exec .getmrl s = .next (said [0, 113]) ∧ exec .getmwl s = .next (said [0, 81]))
  ∧ (∀ (e : Byte) (s : State),
    (bitAt e 0 = true →
      exec (.enec e) s = .next (s.modI3c fun i => { i with ibiOn := true })
      ∧ exec (.disec e) s = .next (s.modI3c fun i => { i with ibiOn := false }))
    ∧ (bitAt e 0 = false → exec (.enec e) s = .next s ∧ exec (.disec e) s = .next s))


/-! Memory, lock cycles, tiles and power -/

/-- The memory accesses (R54, R142, R191, R194, R202, R206, R529, R532): what each comes to, and when it faults. -/
def Obligations.MemoryAccessesReachTheirHome : Prop :=
  (∀ (r : Requester) (addr : BitVec 40) (len : Nat) (flips : BitVec 544) (lr : Bool) (s : State),
    let n := addr.toNat
    let cycle := s.lock.number.toNat
    let unit := s.requesterUnit r
    let again := Instr.memoryRead r addr len flips lr
    (s.dyn.bring.ready = false → exec again s = .next s)
    ∧ (s.dyn.bring.ready = true → exec again s = .next (memRead cycle r n len flips lr (serveHeld s)))
    ∧ (s.dyn.bring.ready = true → s.dyn.isgal.held = [] → s.actorAt cycle r = none → exec again s = .next s)
    ∧ (∀ a at', s.dyn.bring.ready = true → s.dyn.isgal.held = [] → s.actorAt cycle r = some a →
        s.deviceMisuse cycle a.berth n len = some at' → exec again s = .next (faultAccess r at' .addressFault s))
    ∧ (∀ a, s.dyn.bring.ready = true → s.dyn.isgal.held = [] → s.actorAt cycle r = some a →
        s.deviceMisuse cycle a.berth n len = none → 0 < len → n % 64 + len ≤ 64 →
        (s.lookupAt cycle a.berth n = none → exec again s = .next (faultAccess r n .addressFault s))
        ∧ (∀ e, s.lookupAt cycle a.berth n = some e → e.permits .read n len = false →
            exec again s = .next (faultAccess r n .addressFault s))
        ∧ (∀ e s1, s.lookupAt cycle a.berth n = some e → e.permits .read n len = true →
            walk (some unit) ((s.cfgAt cycle).entryNo a.berth n) s = (s1, false) →
            exec again s = .next (faultAccess r n .uncorrectable s1))
        ∧ (∀ e s1, s.lookupAt cycle a.berth n = some e → e.permits .read n len = true →
            walk (some unit) ((s.cfgAt cycle).entryNo a.berth n) s = (s1, true) →
            let x : Acc := { r := r, a := a, stamp := cycle, e := e, va := n, instr := again }
            (lr = true → e.device1 = true → exec again s = .next (faultAccess r n .addressFault s1))
            ∧ (∀ s2 y, (lr = false ∨ e.device1 = false) → useBuffer a cycle (e.lineKey n) s1 = (s2, some y) →
                exec again s = .next (if y.arrived
                  then prefetchAfter a cycle e n (respond r n (.data (bufferedBytes e y n len s2)) s2) else x.hold .request s2))
            ∧ (∀ s2, (lr = false ∨ e.device1 = false) → useBuffer a cycle (e.lineKey n) s1 = (s2, none) →
              let credits := takeCredits (s2.requesterUnit r) (s2.unitOf e n) .request a.src.onSafety s2
              let waits : Bool := (e.target == 1 && lr && s2.locksFull e.device) || s2.mustHold x .request || credits.isNone
              (e.target = 1 → s2.peerUp e.device = false → exec again s = .next (faultAccess r n .addressFault s2))
              ∧ ((e.target = 1 → s2.peerUp e.device = true) → waits = true → exec again s = .next (x.hold .request s2))
              ∧ (∀ s3, (e.target = 1 → s2.peerUp e.device = true) → waits = false → credits = some s3 →
                (e.target = 1 → exec again s = .next (readPeer x lr len s3))
                ∧ (e.target ≠ 0 → e.target ≠ 1 → exec again s = .next (readHost x len s3))
                ∧ (∀ s4, e.target = 0 → readDram a.src (e.addr n) len (flipLine (e.addr n / 64) flips s3) = (s4, none) →
                    exec again s = .next (faultAccess r n .uncorrectable s4))
                ∧ (∀ s4 d, e.target = 0 → readDram a.src (e.addr n) len (flipLine (e.addr n / 64) flips s3) = (s4, some d) →
                    let reserved := match r with
                      | .hart h => if lr then s4.modCores fun c =>
                          { c with reservations := tabPut 0 c.reservations h (e.addr n / 64 + 1) } else s4
                      | _ => s4
                    exec again s = .next (prefetchAfter a cycle e n (respond r n (.data d) reserved))))))))
  ∧ (∀ (r : Requester) (addr : BitVec 40) (d : List Byte) (sc : Bool) (s : State),
    let n := addr.toNat
    let cycle := s.lock.number.toNat
    let unit := s.requesterUnit r
    let again := Instr.memoryWrite r addr d sc
    (s.dyn.bring.ready = false → exec again s = .next s)
    ∧ (s.dyn.bring.ready = true → exec again s = .next (memWrite cycle r n d sc (serveHeld s)))
    ∧ (s.dyn.bring.ready = true → s.dyn.isgal.held = [] → s.actorAt cycle r = none → exec again s = .next s)
    ∧ (∀ a at', s.dyn.bring.ready = true → s.dyn.isgal.held = [] → s.actorAt cycle r = some a →
        s.deviceMisuse cycle a.berth n d.length = some at' → exec again s = .next (faultAccess r at' .addressFault s))
    ∧ (∀ a, s.dyn.bring.ready = true → s.dyn.isgal.held = [] → s.actorAt cycle r = some a →
        s.deviceMisuse cycle a.berth n d.length = none → 0 < d.length → n % 64 + d.length ≤ 64 →
        (s.lookupAt cycle a.berth n = none → exec again s = .next (faultAccess r n .addressFault s))
        ∧ (∀ e, s.lookupAt cycle a.berth n = some e → e.permits .write n d.length = false →
            exec again s = .next (faultAccess r n .addressFault s))
        ∧ (∀ e s1, s.lookupAt cycle a.berth n = some e → e.permits .write n d.length = true →
            walk (some unit) ((s.cfgAt cycle).entryNo a.berth n) s = (s1, false) →
            exec again s = .next (faultAccess r n .uncorrectable s1))
        ∧ (∀ e s1, s.lookupAt cycle a.berth n = some e → e.permits .write n d.length = true →
            walk (some unit) ((s.cfgAt cycle).entryNo a.berth n) s = (s1, true) →
            let x : Acc := { r := r, a := a, stamp := cycle, e := e, va := n, instr := again }
            let here : Bool := e.target == 0
            let k : PoundKind := if e.device1 || sc || !(here || e.target == 1) then .request else .posted
            let lost : Bool := here && sc && !s1.mustHold x k && !s1.reserves r (e.addr n / 64)
            let credits := takeCredits (s1.requesterUnit r) (s1.unitOf e n) k a.src.onSafety s1
            let waits : Bool := s1.mustHold x k || credits.isNone
            (sc = true → e.device1 = true → exec again s = .next (faultAccess r n .addressFault s1))
            ∧ ((sc = false ∨ e.device1 = false) → e.target = 1 → s1.peerUp e.device = false →
                exec again s = .next (faultAccess r n .addressFault s1))
            ∧ ((sc = false ∨ e.device1 = false) → lost = true →
                exec again s = .next (scDone r n false (clearReservation r s1)))
            ∧ (sc = true → e.device1 = false → e.target = 1 → s1.peerUp e.device = true →
                exec again s = .next (conditionalPeer x d s1))
            ∧ ((sc = false ∨ (e.device1 = false ∧ e.target ≠ 1)) → (e.target = 1 → s1.peerUp e.device = true) → lost = false →
              (waits = true → exec again s = .next (x.hold k s1))
              ∧ (∀ s2, waits = false → credits = some s2 →
                (e.target = 1 → e.device1 = true → exec again s = .next (requestPeer x d.length
                  { peerTx a e n s2 with data := d, size := sizeCode d.length, kind := 2 } false s2))
                ∧ (e.target = 1 → e.device1 = false → exec again s = .next (postPeer x d s2))
                ∧ (e.target ≠ 0 → e.target ≠ 1 → exec again s = .next (writeHost x d s2))
                ∧ (∀ s3, e.target = 0 → writeDram a.src (e.addr n) d
                      (if k = .posted then countWrite a (columnOf (e.addr n)) s2 else s2) = (s3, false) →
                    exec again s = .next (writeLost r a n s3))
                ∧ (∀ s3, e.target = 0 → writeDram a.src (e.addr n) d
                      (if k = .posted then countWrite a (columnOf (e.addr n)) s2 else s2) = (s3, true) →
                    exec again s = .next (if sc then scDone r n true s3 else if k = .posted then s3 else respond r n .done s3)))))))
  ∧ (∀ (r : Requester) (addr : BitVec 40) (op : AtomicOp) (size8 : Bool) (v w : BitVec 64) (s : State),
    let n := addr.toNat
    let cycle := s.lock.number.toNat
    let unit := s.requesterUnit r
    let len := if size8 then 8 else 4
    let again := Instr.memoryAtomic r addr op size8 v w
    (s.dyn.bring.ready = false → exec again s = .next s)
    ∧ (s.dyn.bring.ready = true → exec again s = .next (memAtomic cycle r n op size8 v w (serveHeld s)))
    ∧ (s.dyn.bring.ready = true → s.dyn.isgal.held = [] → s.actorAt cycle r = none → exec again s = .next s)
    ∧ (∀ a, s.dyn.bring.ready = true → s.dyn.isgal.held = [] → s.actorAt cycle r = some a →
        ((n % len ≠ 0 ∨ s.lookupAt cycle a.berth n = none) → exec again s = .next (faultAccess r n .addressFault s))
        ∧ (∀ e, s.lookupAt cycle a.berth n = some e → e.permits .atomic n len = false →
            exec again s = .next (faultAccess r n .addressFault s))
        ∧ (∀ e s1, s.lookupAt cycle a.berth n = some e → e.permits .atomic n len = true → n % len = 0 →
            walk (some unit) ((s.cfgAt cycle).entryNo a.berth n) s = (s1, true) →
            let x : Acc := { r := r, a := a, stamp := cycle, e := e, va := n, instr := again }
            let credits := takeCredits (s1.requesterUnit r) (s1.unitOf e n) .request a.src.onSafety s1
            let waits : Bool := s1.mustHold x .request || credits.isNone
            let reaches := e.target = 0 ∨ (e.target = 1 ∧ s1.peerUp e.device = true)
            (¬reaches → exec again s = .next (faultAccess r n .addressFault s1))
            ∧ (reaches → waits = true → exec again s = .next (x.hold .request s1))
            ∧ (∀ s2, reaches → waits = false → credits = some s2 →
              (e.target = 1 → exec again s = .next (requestPeer x len
                { peerTx a e n s2 with kind := 3, size := sizeCode len, aop := atomicCode op, data := atomicData v w } false s2))
              ∧ (∀ s3, e.target = 0 → readDram a.src (e.addr n) len s2 = (s3, none) →
                  exec again s = .next (faultAccess r n .uncorrectable s3))
              ∧ (∀ s3 old, e.target = 0 → readDram a.src (e.addr n) len s2 = (s3, some old) →
                exec again s = .next
                  (respond r n (.data old) (writeDram a.src (e.addr n) (atomicBytes op size8 old v w) s3).1))))))
  ∧ (∀ (t : Fin 36) (job : Nat) (s : State),
    ((s.actor (.context t job) = none ∨ s.dyn.cfg.physOf t = none) → exec (.releaseFence t job) s = .next s)
    ∧ (∀ a p, s.actor (.context t job) = some a → s.dyn.cfg.physOf t = some p → s.dyn.bring.ready = true →
        exec (.releaseFence t job) s = .next (fenceWrites
          { a.src with berth := a.berth, gen := (s.dyn.cfg.berth a.berth).gen } p t job (serveHeld s))))
  ∧ (∀ (pa : BitVec 48) (flips : BitVec 544) (s : State),
    let l := pa.toNat / 64
    let c := columnOf pa.toNat
    let may := pa.toNat < 36 * 0x80000000 ∧ s.dyn.bring.ready = true ∧ s.columnHolds c .request = false
    (36 * 0x80000000 ≤ pa.toNat → exec (.patrolRead pa flips) s = .fault (.outsideDram pa.toNat))
    ∧ (pa.toNat < 36 * 0x80000000 → s.dyn.bring.ready = false → exec (.patrolRead pa flips) s = .next s)
    ∧ (pa.toNat < 36 * 0x80000000 → s.dyn.bring.ready = true → s.columnHolds c .request = true →
        exec (.patrolRead pa flips) s = .next (startWake c s))
    ∧ (may → (berthFrame (l / 1024) = true ∨ otherCopy l = none) →
        exec (.patrolRead pa flips) s = .next (readDramLine { source := 5 } l (flipLine l flips s)).1)
    ∧ (∀ u o, may → berthFrame (l / 1024) = false → otherCopy l = some (u, o) →
        exec (.patrolRead pa flips) s = .next (readDoubled { source := 5 } u l o (flipLine l flips s)).1))
  ∧ (∀ (unit : Nat) (k : PoundKind) (safety : Bool) (s : State),
    let t := s.modWork fun w => { w with slots := tabMod 0 w.slots (poundKey unit k safety) (· - 1) }
    (s.dyn.bring.ready = true → exec (.creditReturn unit k safety) s = .next (serveHeld t))
    ∧ (s.dyn.bring.ready = false → exec (.creditReturn unit k safety) s = .next t))
  ∧ (∀ (h : Fin 24) (v : BitVec 64) (s : State),
    let allowed := bitAt (tabGet 0 s.dyn.cores.allow h) (fldN v 0 6)
    exec (.kberthWrite h v true) s = .next (s.modCores fun c => { c with traps := tabPut 0 c.traps h 1 })
    ∧ (allowed = false → exec (.kberthWrite h v false) s = .next (s.modCores fun c => { c with traps := tabPut 0 c.traps h 2 }))
    ∧ (allowed = true → exec (.kberthWrite h v false) s =
        .next (s.modCores fun c => { c with kberth := tabPut 0 c.kberth h (fld v 0 6), traps := tabPut 0 c.traps h 0 })))

/-- The frame of a DRAM write, and that a read after it gives what was written (R190, R191, R193). -/
def Obligations.AWriteChangesItsBytesAlone : Prop :=
  ∀ (a : Src) (pa : Nat) (bs : List Byte) (s : State), s.Inv → s.mem.errs = [] → s.dyn.errors.badFrames = [] →
    let t := (writeDram a pa bs s).1
    (writeDram a pa bs s).2 = true ∧ t.mem.errs = []
    ∧ (∀ x, tabGet 0 t.mem.bytes x = if pa ≤ x ∧ x < pa + bs.length then bs.getD (x - pa) 0 else tabGet 0 s.mem.bytes x)
    ∧ readDram a pa bs.length t = (t, some bs)

/-- The events of a lock cycle (R69 to R74), the clearing of void ranges and freed frames (R200, R220), and the end of a
handover (R62, R63). -/
def Obligations.LockCyclesCloseCommitAndFree : Prop :=
  (∀ s : State,
    let idle := s.locks = true ∧ s.lock.phase = .idle
    let closed := s.locks = true ∧ s.lock.phase = .closed ∧ s.dyn.time.onEdge = true
    let ended := s.lock.phase = .committed ∧ s.oldTraffic = false
    (idle → exec .shadowClose s = .next (closeShadow s)) ∧ (¬idle → exec .shadowClose s = .next s)
    ∧ (closed → exec .commitEdge s = .next (commitEdge s)) ∧ (¬closed → exec .commitEdge s = .next s)
    ∧ (ended → exec .configFree s = .next (serveHeld (s.modLock fun k => { k with phase := .idle, prev := none })))
    ∧ (¬ended → exec .configFree s = .next s))
  ∧ (∀ (b : BitVec 6) (s : State),
    (tabGet none s.lock.voids b.toNat = some false → exec (.voidRangeClear b) s = .next
      ((s.modAllCfg fun c => { c with xlat := c.xlat.filter fun x => x.2.owner != b }).modLock fun k =>
        { k with voids := tabPut none k.voids b.toNat (some true) }))
    ∧ (tabGet none s.lock.voids b.toNat ≠ some false → exec (.voidRangeClear b) s = .next s))
  ∧ (∀ (frame : Nat) (s : State),
    (berthFrame frame = false → exec (.frameZero frame) s = .fault (.outsideDram (frame * 0x10000)))
    ∧ (∀ b cycle, berthFrame frame = true → tabGet .free s.dyn.cfg.frames frame = .freed b cycle →
        let due := cycle < s.lock.number.toNat ∨ (cycle = s.lock.number.toNat ∧ s.lock.prev = none)
        let held := s.columnHolds (columnOf (frame * 0x10000)) .posted
        (due → held = false → exec (.frameZero frame) s = .next ((zeroFrame frame s).modAllCfg (Shadow.poolFrame frame b)))
        ∧ (due → held = true → exec (.frameZero frame) s = .next (startWake (columnOf (frame * 0x10000)) s))
        ∧ (¬due → exec (.frameZero frame) s = .next s))
    ∧ (berthFrame frame = true → (∀ b cycle, tabGet .free s.dyn.cfg.frames frame ≠ .freed b cycle) →
        exec (.frameZero frame) s = .next s))
  ∧ (∀ (t : Fin 36) (s : State),
    let p := t.val
    ((s.tile p).handover = none → exec (.handoverComplete t) s = .next s)
    ∧ (s.tasksOver p = false → exec (.handoverComplete t) s = .next s)
    ∧ (s.tasksOver p = true → (s.tile p).handover ≠ none →
        ((s.tile p).power = .nap ∨ (s.tile p).power = .doze ∨ (s.tile p).power = .deep) →
        exec (.handoverComplete t) s = .next (startWake p s))
    ∧ (∀ h, (s.tile p).handover = some h → s.tasksOver p = true →
        ((s.tile p).power = .idle ∨ (s.tile p).power = .active ∨ (s.tile p).power = .off) →
        let z := if h.zero then zeroTile p s else s
        let l := if h.reload then loadSafety p z else z
        exec (.handoverComplete t) s = .next (recordLoads (l.modTile p fun d =>
          { d with
            handover := none, power := if d.power == .off then .idle else d.power, idleSince := l.dyn.time.wc }))))

/-- The weather windows, the governor's samples and the tiles' power states (R29, R34, R38, R41, R42, R44, R547, R551). -/
def Obligations.PowerFollowsItsSamples : Prop :=
  (∀ (t : Fin 36) (pace tj v : BitVec 16) (s : State),
    let p := t.val
    let safety : Bool := match s.dyn.cfg.logicalOf p with
      | some l => s.dyn.cfg.safetyTile l
      | none => false
    let heard := s.fabricUp = true ∧ s.dyn.cfg.logicalOf p ≠ none ∧ (s.tile p).measures = true
    let s1 := applySteps (s.modTile p (TileDyn.window pace tj v))
    let low := safety = true ∧ 2 ≤ (s1.tile p).lowRun
    let s2 := if safety && 2 ≤ (s1.tile p).lowRun then raiseDoubt 9 s1 else settle s1
    (¬heard → exec (.weatherWindow t pace tj v) s = .next s)
    ∧ (heard → (s2.tile p).hotRun < 2 → ¬low → exec (.weatherWindow t pace tj v) s = .next (settle s1))
    ∧ (heard → (s2.tile p).hotRun < 2 → low → exec (.weatherWindow t pace tj v) s = .next (raiseDoubt 9 s1))
    ∧ (heard → 2 ≤ (s2.tile p).hotRun → exec (.weatherWindow t pace tj v) s =
        .next (holdFabric (s2.modPower fun w => { w with thermTrip := true }))))
  ∧ (∀ (ma : Option Nat) (ec em ei es : Nat) (s : State),
    let s1 := if ma.isSome then busAnswers s else s
    let vcore := match ma with
      | some i => i * s1.dyn.power.railMv
      | none => ec * 110 / 100
    (s.fabricUp = false → exec (.governorSample ma ec em ei es) s = .next s)
    ∧ (s.fabricUp = true → exec (.governorSample ma ec em ei es) s = .next
        (applySteps (s1.modPower (Power.sample s1.dyn.cfg.policy ((vcore + em + ei + es) * 103))))))
  ∧ (∀ s : State,
    let p := s.dyn.power
    let due := p.wanted ≠ none ∧ p.held = false ∧ p.sentAt + 50 * us16 ≤ s.now16
    (¬due → exec .regulatorRetry s = .next s)
    ∧ (due → p.retries < 3 → exec .regulatorRetry s =
        .next (s.modPower fun p => { p with retries := p.retries + 1, sentAt := s.now16 }))
    ∧ (due → 3 ≤ p.retries → exec .regulatorRetry s = .next (s.modPower fun p => { p with held := true })))
  ∧ (∀ (t : Fin 36) (s : State),
    let p := t.val
    let d := s.tile p
    let may := s.dyn.bring.ready = true ∧ s.dyn.cfg.logicalOf p ≠ none ∧ d.wakeEnds = none ∧ d.handover = none ∧ d.testDrain = false
    (¬may → exec (.tileStateEnter t) s = .next s)
    ∧ (may → s.dyn.tileIdle p = false → exec (.tileStateEnter t) s = .next (s.modTile p fun d => { d with idleSince := s.dyn.time.wc }))
    ∧ (may → s.dyn.tileIdle p = true → s.nextSleep p = none → exec (.tileStateEnter t) s = .next s)
    ∧ (∀ x, may → s.dyn.tileIdle p = true → s.nextSleep p = some x →
        exec (.tileStateEnter t) s = .next (s.modTile p fun d => { d with power := x, pace := 0 })))
  ∧ (∀ (t : Fin 36) (s : State),
    let d := s.tile t
    let sleeps := s.dyn.bring.ready = true ∧ (d.power = .nap ∨ d.power = .doze ∨ d.power = .deep) ∧ d.wakeEnds = none
    (sleeps → exec (.tileWake t) s = .next (s.modTile t fun d => { d with wakeEnds := some (s.dyn.time.wc + wakeTime s t) }))
    ∧ (¬sleeps → exec (.tileWake t) s = .next s))
  ∧ (∀ (t : Fin 36) (s : State),
    (∀ e, (s.tile t).wakeEnds = some e → e ≤ s.dyn.time.wc → exec (.tileWakeDone t) s = .next
      (serveHeld (s.modTile t fun d => { d with power := .idle, wakeEnds := none, idleSince := s.dyn.time.wc })))
    ∧ (∀ e, (s.tile t).wakeEnds = some e → s.dyn.time.wc < e → exec (.tileWakeDone t) s = .next s)
    ∧ ((s.tile t).wakeEnds = none → exec (.tileWakeDone t) s = .next s))


/-! Jobs, lanes, passes and displays -/

/-- The events of jobs (R105, R107, R150, R168, R169, R172, R178, R179): when each acts, and that it does nothing otherwise. -/
def Obligations.JobsAreChosenRunAndCompleted : Prop :=
  (∀ (basin : BitVec 10) (s : State),
    let n := basin.toNat
    let runs := s.dyn.bring.ready = true ∧ s.dyn.errors.veldonHalted = false
    let s1 := s.dyn.cfg.takenQueues.foldl (fun s q => resolveHead q s) s
    (¬runs → exec (.jobChoose basin) s = .next s)
    ∧ (∀ q t, runs → nextJobOf n s1 = some (q, t) → exec (.jobChoose basin) s = .next t)
    ∧ (runs → nextJobOf n s1 = none → exec (.jobChoose basin) s = .next s1))
  ∧ (∀ (job : Nat) (t : Fin 36) (s : State),
    ((s.job job = none ∨ s.dyn.cfg.logicalOf t = none) → exec (.jobBorrow (.job job) t) s = .next s)
    ∧ (∀ b l, s.job job = some b → s.dyn.cfg.logicalOf t = some l →
        (mayBorrow s b b.since l t = false → exec (.jobBorrow (.job job) t) s = .next s)
        ∧ (mayBorrow s b b.since l t = true → borrowPlace b l s = none → exec (.jobBorrow (.job job) t) s = .next s)
        ∧ (∀ x b', mayBorrow s b b.since l t = true → borrowPlace b l s = some (x, b') →
            exec (.jobBorrow (.job job) t) s = .next (setPlaced job b' x))))
  ∧ (∀ (q : BitVec 18) (t : Fin 36) (s : State),
    let j := s.dyn.work.nextJob
    let since := (s.queue q.toNat).headSince
    ((tryHead q s = none ∨ s.dyn.cfg.logicalOf t = none) → exec (.jobBorrow (.head q) t) s = .next s)
    ∧ (∀ s' b l, tryHead q s = some s' → s'.job j = some b → s.dyn.cfg.logicalOf t = some l →
        ((s'.mustWait q b.ins j = true ∨ mayBorrow s' b since l t = false) → exec (.jobBorrow (.head q) t) s = .next s)
        ∧ (∀ x b', s'.mustWait q b.ins j = false → mayBorrow s' b since l t = true → borrowPlace b l s' = some (x, b') →
            exec (.jobBorrow (.head q) t) s = .next (setPlaced j b' x))))
  ∧ (∀ (job : Nat) (shard : BitVec 5) (sram : SramWord) (s : State),
    (s.job job = none → exec (.shardSwitch job shard) s = .next s ∧ (∀ step, exec (.modelStepStart job ⟨shard, sram⟩ step) s = .next s)
      ∧ exec (.arrayLoad job ⟨shard, sram⟩) s = .next s ∧ ∀ f, exec (.jobComplete job f) s = .next s)
    ∧ (∀ b, s.job job = some b →
        let run := b.shards.find? fun (x : ShardRun) => x.shard == shard.toNat
        (run = none → exec (.shardSwitch job shard) s = .next s ∧ ∀ step, exec (.modelStepStart job ⟨shard, sram⟩ step) s = .next s)
        ∧ (∀ x, run = some x → (b.placed = false ∨ x.switched = true) → exec (.shardSwitch job shard) s = .next s)
        ∧ (∀ x, run = some x → b.placed = true → x.switched = false → s.placeHolds b x = false →
            exec (.shardSwitch job shard) s = .next (moveShard job b x s))
        ∧ (∀ x p, run = some x → b.placed = true → x.switched = false → s.placeHolds b x = true → s.dyn.cfg.physOf x.tile = some p →
            (s.tileAwake p = true →
              exec (.shardSwitch job shard) s = .next (unlessHeld (switchShard job shard.toNat p b) s))
            ∧ (s.tileAwake p = false → exec (.shardSwitch job shard) s = .next (startWake p s)))
        ∧ (∀ x step, run = some x →
            let e := b.model.steps.getD step {}
            let ready := b.kind ≠ .preload ∧ stepReady s job b x step = true ∧ sendReady b e = true
            (ready → exec (.modelStepStart job ⟨shard, sram⟩ step) s = .next (onTile x.tile (fun p s =>
              withSram sram p (s.jobSrc job x.tile) (failJob job .uncorrectable shard.toNat step)
                (startStep job shard.toNat step b x e) s) s))
            ∧ (¬ready → exec (.modelStepStart job ⟨shard, sram⟩ step) s = .next s))
        ∧ (b.placed = false → exec (.arrayLoad job ⟨shard, sram⟩) s = .next s)
        ∧ (∀ r, b.placed = true → b.array = some r → r.finished = false →
            exec (.arrayLoad job ⟨shard, sram⟩) s = .next (arrayTurn sram r.nextTile job none 0 (loadTensor job b r) s))
        ∧ (∀ r, b.array = some r → r.finished = true → exec (.arrayLoad job ⟨shard, sram⟩) s = .next s)
        ∧ (∀ x n r, b.placed = true → b.array = none → run = some x → x.array = some (n, r) →
            exec (.arrayLoad job ⟨shard, sram⟩) s = .next
              (arrayTurn sram x.tile job (some shard.toNat) n (loadStep job shard.toNat n b x r) s))
        ∧ (∀ x, b.array = none → run = some x → x.array = none → exec (.arrayLoad job ⟨shard, sram⟩) s = .next s)
        ∧ (b.array = none → run = none → exec (.arrayLoad job ⟨shard, sram⟩) s = .next s)
        ∧ (∀ f sh st, b.kind ≠ .pass →
            exec (.jobComplete job (some (f, sh, st))) s = .next (failJob job f sh.toNat st.toNat s))
        ∧ (∀ f, b.kind = .pass → exec (.jobComplete job (some f)) s = .next s)
        ∧ (b.finished = true → s.jobWaits job = false → exec (.jobComplete job none) s = .next (completeJob job s))
        ∧ ((b.finished = false ∨ s.jobWaits job = true) → exec (.jobComplete job none) s = .next s)))

/-- The events of the lanes (R120, R126, R135 to R140, R145, R146). -/
def Obligations.WorkgroupsRunAndEnd : Prop :=
  (∀ (job : Nat) (s : State),
    (s.job job = none → exec (.workgroupPlace job) s = .next s)
    ∧ (∀ b, s.job job = some b →
        (b.placed = false → exec (.workgroupPlace job) s = .next s)
        ∧ (b.placed = true → b.kind ≠ .pass → exec (.workgroupPlace job) s = .next (placeGrid job b s))
        ∧ (∀ n v k, b.placed = true → b.kind = .pass → s.passOf job = some n → s.nextVertices n = some (v, k) →
            exec (.workgroupPlace job) s = .next (placeVertices n k v s))
        ∧ (b.kind = .pass → (∀ n, s.passOf job = some n → s.nextVertices n = none) →
            exec (.workgroupPlace job) s = .next s)))
  ∧ (∀ (t : Fin 36) (group : Fin 64) (op : LaneOp) (sram : SramWord) (s : State),
    let x := s.tileWork t.val
    (pickBundle s t.val group.val = none → exec (.bundleIssue t group op sram) s = .next s)
    ∧ (∀ a, pickBundle s t.val group.val = some a →
        (s.tileAwake t.val = false → exec (.bundleIssue t group op sram) s = .next (startWake t.val s))
        ∧ (s.tileAwake t.val = true → s.issues t.val = false → exec (.bundleIssue t group op sram) s = .next s)
        ∧ (∀ w b, s.tileAwake t.val = true → s.issues t.val = true → x.workgroups[a.wg]? = some w → w.bundles[a.bundle]? = some b →
            exec (.bundleIssue t group op sram) s = .next (unlessHeld (issueOn a w b op sram) s))))
  ∧ (∀ (t : Fin 36) (group : Fin 64) (wg : Nat) (s : State),
    (groupAt (s.tileWork t.val) group.val wg = none →
      exec (.barrierRelease t group wg) s = .next s ∧ exec (.workgroupEnd t group wg) s = .next s)
    ∧ (∀ i w, groupAt (s.tileWork t.val) group.val wg = some (i, w) →
        let met := (∃ b ∈ w.bundles, b.atBarrier = true) ∧ ∀ b ∈ w.bundles, b.atBarrier = true ∨ b.ended = true
        let finished := ∀ b ∈ w.bundles, b.ended = true
        (met → exec (.barrierRelease t group wg) s = .next (modGroup t.val i (fun w =>
            { w with bundles := w.bundles.map fun b => { b with atBarrier := false } }) s))
        ∧ (¬met → exec (.barrierRelease t group wg) s = .next s)
        ∧ (finished → exec (.workgroupEnd t group wg) s = .next (unlessHeld (fun s => touchTile t.val (endGroup w
            (s.modTileWork t.val fun x => { x with workgroups := x.workgroups.eraseIdx i }))) s))
        ∧ (¬finished → exec (.workgroupEnd t group wg) s = .next s)))
  ∧ (∀ (job : Nat) (s : State),
    (overLimit s job = none → exec (.timeLimitExpiry job) s = .next s)
    ∧ (∀ w, overLimit s job = some w → exec (.timeLimitExpiry job) s = .next (laneFault w .timeLimit s))
    ∧ (∀ b r t, s.job job = some b → b.lanes = some r → b.kind = .dispatch → r.finished = true → s.jobWaits job = false →
        (settleWrites job s = (t, true) → exec (.dispatchComplete job) s = .next (completeJob job t))
        ∧ (settleWrites job s = (t, false) → exec (.dispatchComplete job) s = .next t))
    ∧ ((∀ b r, s.job job = some b → b.lanes = some r → b.kind ≠ .dispatch ∨ r.finished = false ∨ s.jobWaits job = true) →
        exec (.dispatchComplete job) s = .next s))

/-- The binning events of a pass (R247, R248, R254, R257, R288). -/
def Obligations.BatchesBinAndPublish : Prop :=
  (∀ (ctx : BitVec 9) (t : Fin 36) (sram : SramWord) (s : State),
    let n := ctx.toNat
    let s1 := joinTiles n (tryResume n s)
    (s1.dyn.cfg.logicalOf t.val = none → exec (.batchDeal ctx t sram) s = .next s)
    ∧ (∀ l, s1.dyn.cfg.logicalOf t.val = some l → s1.mayDeal n l = none → exec (.batchDeal ctx t sram) s = .next s1)
    ∧ (∀ l place, s1.dyn.cfg.logicalOf t.val = some l → s1.mayDeal n l = some place → s1.tileAwake t.val = false →
        exec (.batchDeal ctx t sram) s = .next (startWake t.val s1))
    ∧ (∀ l place, s1.dyn.cfg.logicalOf t.val = some l → s1.mayDeal n l = some place → s1.tileAwake t.val = true →
        s1.issues t.val = false → exec (.batchDeal ctx t sram) s = .next s1)
    ∧ (∀ l place, s1.dyn.cfg.logicalOf t.val = some l → s1.mayDeal n l = some place → s1.tileAwake t.val = true →
        s1.issues t.val = true → exec (.batchDeal ctx t sram) s = .next (unlessHeld (sliceSram n l t.val sram (dealNext n l place)) s1)))
  ∧ (∀ (ctx : BitVec 9) (batch : Nat) (s : State),
    let n := ctx.toNat
    let p := s.pass n
    let x := s.dyn.cfg.context n
    (p.batch batch = none → exec (.chunkRequest ctx batch) s = .next s ∧ exec (.batchPublish ctx batch) s = .next s)
    ∧ (∀ b, p.batch batch = some b →
        let behind : Bool := x.compositor && p.batches.any fun c => c.wants && c.at_.number < batch
        let asks := p.phase = .binning ∧ b.wants = true ∧ behind = false
        let done := p.phase = .binning ∧ b.published = false ∧ p.publishedTo = batch ∧ b.whole = true
        (¬asks → exec (.chunkRequest ctx batch) s = .next s)
        ∧ (∀ c, asks → p.freeChunk x.binPages.toNat = some c →
            let b' := { b with chunks := b.chunks ++ [c] }
            exec (.chunkRequest ctx batch) s =
              .next (unlessHeld (fun s => runBatch n b' (s.modPass n fun p => { p with batches := putBatch b' p.batches }.notePeak)) s))
        ∧ (asks → p.freeChunk x.binPages.toNat = none → x.compositor = true →
            exec (.chunkRequest ctx batch) s = .next (unlessHeld (flush n) s))
        ∧ (asks → p.freeChunk x.binPages.toNat = none → x.compositor = false →
            exec (.chunkRequest ctx batch) s = .next (raiseWeir n s))
        ∧ (¬done → exec (.batchPublish ctx batch) s = .next s)
        ∧ (done → exec (.batchPublish ctx batch) s = .next (unlessHeld (fun s => passAccess n (publish n b s) fun _ s =>
            settlePass n (s.modPass n fun p =>
              { p with
                batches := putBatch { b with published := true, binned := [], chains := [] } p.batches,
                publishedTo := batch + 1 })) s))))
  ∧ (∀ (ctx : BitVec 9) (s : State),
    let n := ctx.toNat
    let p := s.pass n
    let ms := (s.dyn.cfg.context n).weirTimeout.toNat
    let due := p.phase = .weir ∧ p.resumeDue = false ∧ ms ≠ 0 ∧ p.weirAt + ms * 1000 * us16 ≤ s.now16
    (due → exec (.weirTimeout ctx) s = .next (endPass n 0x00B8 6 s)) ∧ (¬due → exec (.weirTimeout ctx) s = .next s))

/-- The drawing events of a pass (R258 to R264). -/
def Obligations.ScreenTilesAreDrawnAndWritten : Prop :=
  (∀ (ctx : BitVec 9) (t : Fin 36) (s : State),
    let n := ctx.toNat
    let s1 := joinTiles n s
    ((s1.dyn.cfg.logicalOf t.val = none ∨ (s1.pass n).nextTile = none) → exec (.screenTileBind ctx t) s = .next s1)
    ∧ (∀ l k, s1.dyn.cfg.logicalOf t.val = some l → (s1.pass n).nextTile = some k →
        (s1.mayBind n l = false → exec (.screenTileBind ctx t) s = .next s1)
        ∧ (s1.mayBind n l = true → s1.tileAwake t.val = false → exec (.screenTileBind ctx t) s = .next (startWake t.val s1))
        ∧ (s1.mayBind n l = true → s1.tileAwake t.val = true → s1.issues t.val = false →
            exec (.screenTileBind ctx t) s = .next s1)
        ∧ (s1.mayBind n l = true → s1.tileAwake t.val = true → s1.issues t.val = true →
            exec (.screenTileBind ctx t) s = .next (unlessHeld (bindTile n l k) s1))))
  ∧ (∀ (ctx : BitVec 9) (screenTile : Nat) (sram : SramWord) (s : State),
    let n := ctx.toNat
    let p := s.pass n
    let list := tabGet [] p.lists screenTile
    (tabGet none p.bound screenTile = none →
      exec (.fragmentBundle ctx screenTile sram) s = .next s ∧ exec (.writeOut ctx ⟨screenTile, sram⟩) s = .next s)
    ∧ (∀ m q, tabGet none p.bound screenTile = some m → s.dyn.cfg.physOf m.tile = some q →
        (s.tileAwake q = true → exec (.fragmentBundle ctx screenTile sram) s = .next
          (unlessHeld (sliceSram n m.tile q sram (drawNext n screenTile m)) s))
        ∧ (s.tileAwake q = false → exec (.fragmentBundle ctx screenTile sram) s = .next (startWake q s))
        ∧ (m.drawn list = false → exec (.writeOut ctx ⟨screenTile, sram⟩) s = .next s)
        ∧ (m.drawn list = true → s.tileAwake q = true → exec (.writeOut ctx ⟨screenTile, sram⟩) s = .next
          (unlessHeld (sliceSram n m.tile q sram (writeNext n screenTile m)) s))
        ∧ (m.drawn list = true → s.tileAwake q = false → exec (.writeOut ctx ⟨screenTile, sram⟩) s = .next (startWake q s))))
  ∧ (∀ (ctx : BitVec 9) (s : State),
    let n := ctx.toNat
    let p := s.pass n
    let finished := p.phase = .rendering ∧ p.flushing = false ∧ p.rendered = true ∧ s.jobWaits p.jobNo = false
    (finished → exec (.passComplete ctx none) s = .next (endPass n 0 0 s)
        ∧ ∀ g, exec (.passComplete ctx (some g)) s = .next (endPass n 0 0 (passSignal n g s)))
    ∧ (¬finished → ∀ g, exec (.passComplete ctx g) s = .next s))

/-- The events of a display output (R292 to R295). -/
def Obligations.FramesAreLatchedStartedAndSent : Prop :=
  (∀ (o : Fin 4) (s : State),
    let d := s.dyn.cfg.output o.val
    let y := s.display o.val
    let n := d.nextFrame y
    let due := d.enable = true ∧ d.latchPoint n ≤ s.now16
    (¬due → exec (.displayLatchPoint o) s = .next s)
    ∧ (∀ t, due → d.taken y n = some t → exec (.displayLatchPoint o) s = .next
        (fillBuffer o.val (writeRecord t 0 (shortResult [(0, 32, (satInc y.frame).toNat)]) (s.modDisplay o.val fun y =>
          { y with latched := n + 1, pending := none, image := some (t.cmd.berth, fld t.cmd.params 64 40) }))))
    ∧ (due → d.taken y n = none → exec (.displayLatchPoint o) s = .next (fillBuffer o.val (s.modDisplay o.val fun y =>
        { y with latched := n + 1, repeats := if y.image.isSome then satInc y.repeats else y.repeats }))))
  ∧ (∀ (o : Fin 4) (s : State),
    let d := s.dyn.cfg.output o.val
    let y := s.display o.val
    let due := d.enable = true ∧ y.started < y.latched ∧ d.frameStart (y.latched - 1) ≤ s.now16
    (due → exec (.displayFrameStart o) s = .next (fillBuffer o.val (s.modDisplay o.val fun y =>
        { y with
          started := y.latched, frame := satInc y.frame, active := true, lines := 0, sent := [],
          buffer := y.buffer.filter fun l => l.1 == y.latched,
          readImage := if y.readFrame = y.latched then y.readImage else none })))
    ∧ (¬due → exec (.displayFrameStart o) s = .next s))
  ∧ (∀ (o : Fin 4) (line arrived : Nat) (s : State),
    let d := s.dyn.cfg.output o.val
    let y := s.display o.val
    let width := d.hActive.toNat
    let held := match y.buffer.find? fun l => l.1 == y.started && l.2.1 == line with
      | some (_, _, some px) => px.take arrived
      | _ => []
    let due := d.enable = true ∧ y.active = true ∧ line = y.lines ∧ line < d.vActive.toNat
    (¬due → exec (.scanOutLine o line arrived) s = .next s)
    ∧ (due → exec (.scanOutLine o line arrived) s = .next (fillBuffer o.val (s.modDisplay o.val fun y =>
        { y with
          lines := y.lines + 1, sent := (held.take width ++ List.replicate (width - held.length) 0) :: y.sent,
          underruns := if held.length < width then satInc y.underruns else y.underruns,
          buffer := y.buffer.filter fun l => !(l.1 == y.started && l.2.1 == line),
          readLine := if y.readFrame = y.started then max y.readLine (line + 1) else y.readLine }))))


/-! Events of Ingest and Confluence -/

/-- The arrival of frames and scans (R324 to R337). -/
def Obligations.FramesAndScansArrive : Prop :=
  (∀ (o : Fin 32) (s : State),
    let d := s.dyn.cfg.trigger o.val
    let y := tabGet {} s.dyn.ingest.triggers o.val
    let n := max y.seq (d.after y.since)
    let due := d.enable = true ∧ d.time n ≤ s.now16
    (due → exec (.triggerPulse o) s = .next (s.modIngest fun g =>
      { g with triggers := tabMod {} g.triggers o.val fun y =>
          { y with seq := n + 1, time := d.time n, count := y.count + 1, ends := d.time n + d.width.toNat * us16 } }))
    ∧ (¬due → exec (.triggerPulse o) s = .next s))
  ∧ (∀ (port : Fin 12) (vc : BitVec 5) (fn : BitVec 16) (s : State),
    let u := mirror port.val { kind := 0, vc := vc, fn := fn } s
    (u.dyn.cfg.cameraOf port.val vc = none → exec (.frameStart port vc fn) s = .next u)
    ∧ (∀ n, u.dyn.cfg.cameraOf port.val vc = some n → (fn = 0 ∨ (u.stream n).inFrame = true) →
        exec (.frameStart port vc fn) s = .next (u.modStream n (StreamDyn.countDrop .error)))
    ∧ (∀ n, u.dyn.cfg.cameraOf port.val vc = some n → fn ≠ 0 → (u.stream n).inFrame = false →
        exec (.frameStart port vc fn) s = .next (startFrame n fn u)))
  ∧ (∀ (port : Fin 12) (vc : BitVec 5) (dt : BitVec 6) (payload : List Byte) (s : State),
    let u := mirror port.val { kind := 1, vc := vc, dt := dt, payload := payload } s
    (∀ err, u.dyn.cfg.cameraOf port.val vc = none → exec (.longPacket port vc dt payload err) s = .next u)
    ∧ (∀ n, u.dyn.cfg.cameraOf port.val vc = some n →
        (∀ err, (u.stream n).sample = none → exec (.longPacket port vc dt payload err) s = .next u)
        ∧ (∀ p, (u.stream n).sample = some p →
            exec (.longPacket port vc dt payload .headerUncorrectable) s = .next (dropSample n .error u)
            ∧ exec (.longPacket port vc dt payload .payloadCrc) s = .next (dropSample n .error u)
            ∧ (dt = 0x12 → exec (.longPacket port vc dt payload .none) s =
                .next (storeLine n (u.dyn.cfg.stream n) p true payload u))
            ∧ (dt ≠ 0x12 → dt = (u.dyn.cfg.stream n).dt → exec (.longPacket port vc dt payload .none) s =
                .next (storeLine n (u.dyn.cfg.stream n) p false payload u))
            ∧ (dt ≠ 0x12 → dt ≠ (u.dyn.cfg.stream n).dt → exec (.longPacket port vc dt payload .none) s = .next u))))
  ∧ (∀ (stream : BitVec 5) (s : State),
    let n := stream.toNat
    let c := s.dyn.cfg.stream n
    let camera := c.enable = true ∧ c.lidar = false
    let u := mirror c.port.toNat { kind := 2, vc := c.vc } s
    (¬camera → exec (.frameEnd stream) s = .next s)
    ∧ (camera → (u.stream n).inFrame = false → exec (.frameEnd stream) s = .next u)
    ∧ (camera → (u.stream n).inFrame = true → exec (.frameEnd stream) s =
        .next (deliverSample n (u.modStream n fun y => { y with inFrame := false })))
    ∧ (c.enable = false ∨ (s.dyn.cfg.trigger c.trigger.toNat).enable = false → exec (.missing stream) s = .next s)
    ∧ (c.enable = true → (s.dyn.cfg.trigger c.trigger.toNat).enable = true → exec (.missing stream) s =
        .next (s.modStream n (StreamDyn.passMissing c (s.dyn.cfg.trigger c.trigger.toNat) s.now16))))
  ∧ (∀ (mac : Fin 8) (udp : BitVec 16) (payload : List Byte) (s : State),
    (s.dyn.cfg.lidarOf mac.val udp = none → ∀ fragmented,
      exec (.startPacket mac udp payload fragmented) s = .next s ∧ exec (.lidarPacket mac udp payload fragmented) s = .next s)
    ∧ (∀ n, s.dyn.cfg.lidarOf mac.val udp = some n →
        exec (.startPacket mac udp payload true) s = .next (s.modStream n fun y => { y with error := satInc y.error })
        ∧ exec (.lidarPacket mac udp payload true) s = .next (s.modStream n fun y => { y with error := satInc y.error })
        ∧ ((s.dyn.cfg.stream n).isStart payload = false → exec (.startPacket mac udp payload false) s = .next s)
        ∧ ((s.dyn.cfg.stream n).isStart payload = true → exec (.startPacket mac udp payload false) s = .next (startScan n payload s))
        ∧ ((s.stream n).scan = none → exec (.lidarPacket mac udp payload false) s = .next s)
        ∧ (∀ x, (s.stream n).scan = some x → x.packets = 0 →
            exec (.lidarPacket mac udp payload false) s = .next (storePacket n payload (startSegment n x s)))
        ∧ (∀ x, (s.stream n).scan = some x → x.packets ≠ 0 →
            exec (.lidarPacket mac udp payload false) s = .next (storePacket n payload s))))

/-- The events of Confluence and of the ends of transfers (R342, R350 to R361, R559). -/
def Obligations.SamplesReachTheirInstant : Prop :=
  (∀ (stream : BitVec 5) (s : State),
    let found := s.dyn.fusion.arriving.find? fun (x : Contribution) => x.stream == stream.toNat
    (found = none → exec (.sampleArrive stream) s = .next s)
    ∧ (∀ c, found = some c →
        let u := s.modFusion fun f => { f with arriving := f.arriving.erase c }
        let f := s.dyn.cfg.fusionStream c.stream
        let g := f.group.toNat
        let d := s.dyn.cfg.group g
        let js := windowInstants f d c.time
        let pending := (s.group g).pendingAt d s.now16
        let closed := fun (j : Nat) => decide (j < (s.group g).next) || decide (d.closes j ≤ s.now16)
        let place := js.find? fun (j : Nat) => pending.contains j
        ((f.join = false ∨ d.enable = false) → exec (.sampleArrive stream) s = .next (excludeSample c u))
        ∧ (f.join = true → d.enable = true → c.lock = false → exec (.sampleArrive stream) s = .next (excludeFrom g .unlocked c u))
        ∧ (f.join = true → d.enable = true → c.lock = true →
            (∀ i, place = some i → exec (.sampleArrive stream) s =
              .next (assignSample g i { c with carried := js.any fun (j : Nat) => decide (j < i) && closed j } u))
            ∧ (place = none → js = [] → exec (.sampleArrive stream) s = .next (excludeFrom g .outside c u))
            ∧ (place = none → js ≠ [] → js.any closed = true → exec (.sampleArrive stream) s = .next (excludeFrom g .late c u))
            ∧ (place = none → js ≠ [] → js.any closed = false → exec (.sampleArrive stream) s = .next (excludeFrom g .early c u)))))
  ∧ (∀ (g : Fin 4) (s : State),
    let d := s.dyn.cfg.group g.val
    let i := (s.group g.val).next
    let due := d.enable = true ∧ d.closes i ≤ s.now16
    (due → exec (.instantClose g) s = .next (closeInstant g.val i d false s)) ∧ (¬due → exec (.instantClose g) s = .next s)
    ∧ (s.dyn.fusion.runs = [] → exec (.level0Publish g) s = .next s)
    ∧ (∀ r t, s.dyn.fusion.runs = r :: t → r.group = g.val →
        exec (.level0Publish g) s = .next (publishRun r (s.modFusion fun f => { f with runs := t })).bump)
    ∧ (∀ r t, s.dyn.fusion.runs = r :: t → r.group ≠ g.val → exec (.level0Publish g) s = .next s))
  ∧ (∀ (port : Fin 4) (s : State),
    (tabGet none s.dyn.ingest.tx port.val = none → exec (.csiTxFrameEnd port) s = .next s)
    ∧ (∀ t lines, tabGet none s.dyn.ingest.tx port.val = some (t, lines) →
        let p := t.cmd.params
        let packets : List TxPacket := [{ kind := 0, vc := fld p 2 5, fn := fld p 16 16 }]
          ++ (lines.map fun d => { kind := 1, vc := fld p 2 5, dt := fld p 7 6, payload := d })
          ++ [{ kind := 2, vc := fld p 2 5, fn := fld p 16 16 }]
        exec (.csiTxFrameEnd port) s = .next (writeRecord t 0 noResult (s.modIngest fun g =>
          { g with tx := tabPut none g.tx port.val none, txSent := tabMod [] g.txSent port.val (packets.reverse ++ ·) }))))
  ∧ (∀ (bus : Fin 4) (done : Nat) (result : Option Bool) (data : List (List Byte)) (s : State),
    (tabGet none s.dyn.ingest.xfer bus.val = none → exec (.i3cTransferEnd bus done result data) s = .next s)
    ∧ (∀ x, tabGet none s.dyn.ingest.xfer bus.val = some x →
        let t := x.ticket
        let reads := (x.entries.take done).filter fun e => bitAt e 7
        let fits := (if result = none then done = x.entries.length else done < x.entries.length)
          ∧ reads.length = data.length ∧ ∀ r ∈ reads.zip data, r.2.length ≤ (xferSpan r.1).2
        let u := s.modIngest fun g => { g with xfer := tabPut none g.xfer bus.val none }
        let put := fun (r : BitVec 128 × List Byte) (y : State) =>
          writeVirt { source := 3, berth := t.cmd.berth, gen := t.gen } t.cmd.berth (xferSpan r.1).1 r.2 y
        (¬fits → exec (.i3cTransferEnd bus done result data) s = .next s)
        ∧ (∀ y, fits → eachA put (reads.zip data) u = (y, .uncorrectable) →
            exec (.i3cTransferEnd bus done result data) s = .next (writeRecord t 0x000B noResult y))
        ∧ (∀ y, fits → eachA put (reads.zip data) u = (y, .addressFault) →
            exec (.i3cTransferEnd bus done result data) s = .next (writeRecord t 0x00C3 noResult y))
        ∧ (∀ y v, fits → eachA put (reads.zip data) u = (y, .ok v) →
            exec (.i3cTransferEnd bus done result data) s = .next (match result with
              | none => writeRecord t 0 noResult y
              | some b => writeRecord t (if b then 0x00C5 else 0x00C4) (shortResult [(0, 8, done)]) y))))
  ∧ (∀ (bus : Fin 4) (addr : BitVec 7) (payload : BitVec 64) (s : State),
    let c := s.dyn.cfg.bus bus.val
    let q := c.ibiQueue.toNat
    let k := tabGet 0 s.dyn.ingest.ibiCount bus.val
    (c.owner = none → exec (.i3cIbi bus addr payload) s = .next s)
    ∧ (∀ o, c.owner = some o →
        let t : Ticket := { opcode := 0x4040, cmd := o, gen := c.gen }
        ((s.stale t = true ∨ s.slotFree q = false) → exec (.i3cIbi bus addr payload) s = .next s)
        ∧ (s.stale t = false → s.slotFree q = true → exec (.i3cIbi bus addr payload) s = .next
            (moreRecord q t 0x00C7 (longResult 32 [(0, 7, addr.toNat), (64, 64, payload.toNat), (128, 80, layout80 s.now16)]) (k % 256)
              (reserveSlot q (s.modIngest fun g => { g with ibiCount := tabPut 0 g.ibiCount bus.val (k + 1) }))))))


/-! Gauges, soundings, the heartbeat, the doubt latch and the mooring store -/

/-- The commands of the safety class (R444 to R446, R451, R452, R458, R460 to R463). -/
def Obligations.SafetyCommandsFollowTheirChecks : Prop :=
  (∀ c s, Admits opGaugeSet c s = true →
    let p := c.params
    let cfg := s.lock.opn
    let g : GaugeCfg := { valid := true, mooring := bitAt p 65, cls := fld p 80 16, deadline := fld p 96 32,
                          stampVa := fld p 128 40, made := s.lock.number.toNat + 1 }
    let bad : Bool := g.deadline.toNat < 1000 || 10000000 < g.deadline.toNat
      || (if g.mooring then g.cls ≠ 0 || g.stampVa ≠ 0 else g.stampVa.toNat % 64 ≠ 0)
    let pa := if g.mooring then 0 else (cfg.stampAddr g.stampVa.toNat).getD 0
    let cfg' := { cfg with gauges := tabPut {} cfg.gauges (fldN p 0 12) { g with stampPa := BitVec.ofNat 48 pa } }
    exec (.gaugeSet c) s = .next (settled opGaugeSet c
      [(!(c.path == .supervisor), 0x00F0), (bad, 0x00F1), (!g.mooring && (cfg.stampAddr g.stampVa.toNat).isNone, 0x00F2),
        (!cfg'.fttiOk, 0x00F3)] cfg' s))
  ∧ (∀ c s, Admits opGaugeClear c s = true →
    let n := fldN c.params 0 12
    exec (.gaugeClear c) s = .next (settled opGaugeClear c
      [(!(c.path == .supervisor), 0x00F0), (!(tabGet {} s.lock.opn.gauges n).valid, 0x00F1)]
      { s.lock.opn with gauges := tabPut {} s.lock.opn.gauges n {} } s))
  ∧ (∀ c s, Admits opGetGauge c s = true →
    exec (.getGauge c) s = .next (answered opGetGauge c 0
      (gaugeRecord (tabGet {} s.snap.cfg.gauges (fldN c.params 0 12)) (s.snap.safety.gaugeOf (fldN c.params 0 12))) s))
  ∧ (∀ c s, Admits opGetSafety c s = true →
    exec (.getSafetyStatus c) s = .next (answered opGetSafety c 0 (safetyView s.snap (fldN c.params 0 4)) s))
  ∧ (∀ c s, Admits opSoundingSet c s = true →
    let x := soundingOfParams c.params
    let cfg' := { s.lock.opn with sounding := x }
    exec (.soundingSet c) s = .next (settled opSoundingSet c
      [(!(c.path == .supervisor), 0x00F0), (!soundingOk s.lock.opn x, 0x00F4), (!cfg'.fttiOk, 0x00F3)] cfg' s))
  ∧ (∀ c s, Admits opSelfTest c s = true →
    let t := ticketOf opSelfTest c s
    let a := admitted c s
    let n := fldN c.params 0 8
    (c.path ≠ .supervisor → exec (.selfTest c) s = .next (answered opSelfTest c 0x00F0 noResult s))
    ∧ (c.path = .supervisor → s.inService = false → n = 0xFF → exec (.selfTest c) s = .next (answered opSelfTest c 0x0053 noResult s))
    ∧ (c.path = .supervisor → s.inService = true → s.dyn.safety.slice = none → exec (.selfTest c) s = .next (beginSelfTest t n a))
    ∧ (c.path = .supervisor → s.inService = true → s.dyn.safety.slice ≠ none → exec (.selfTest c) s =
        .next (a.modSafety fun f => { f with serviceTests := f.serviceTests ++ [(t, n)] }))
    ∧ (c.path = .supervisor → s.inService = false → n ≠ 0xFF → s.dyn.safety.roomForRequest = true → exec (.selfTest c) s =
        .next (a.modSafety fun f => { f with requests := f.requests ++ [.selfTest t n] }))
    ∧ (c.path = .supervisor → s.inService = false → n ≠ 0xFF → s.dyn.safety.roomForRequest = false →
        exec (.selfTest c) s = .next (answered opSelfTest c 0x00F8 noResult s)))
  ∧ (∀ c s, Admits opHeartbeat c s = true →
    let counter := fld c.params 0 32
    let timeout := fldN c.params 32 32
    let now := s.island16
    let inTurn := s.dyn.safety.hbCounter = none ∨ s.dyn.safety.hbCounter = some (counter - 1)
    let ok := 1000 ≤ timeout ∧ timeout ≤ s.dyn.cfg.sounding.fttiMs.toNat * 1000 - 2000 ∧ inTurn
    let kept := ∃ d, s.dyn.safety.hbDeadline = some d ∧ now ≤ d
    let after := fun (k : Nat) => settle ((admitted c s).modSafety fun f =>
      { f with hbArmed := true, hbCounter := some counter, hbDeadline := some (now + timeout * us16), hbInTurn := k })
    let done := fun (u : State) => writeRecord (ticketOf opHeartbeat c s) 0 (shortResult [(0, 32, counter.toNat),
      (32, 1, b2n u.dyn.safety.latch), (48, 10, u.dyn.safety.sources.toNat)]) u
    (c.path ≠ .supervisor → exec (.supervisorHeartbeat c) s = .next (answered opHeartbeat c 0x00F0 noResult s))
    ∧ (c.path = .supervisor → ¬ok → exec (.supervisorHeartbeat c) s = .next (answered opHeartbeat c 0x00FA noResult s))
    ∧ (c.path = .supervisor → ok → kept → exec (.supervisorHeartbeat c) s = .next (done (after (s.dyn.safety.hbInTurn + 1))))
    ∧ (c.path = .supervisor → ok → ¬kept → exec (.supervisorHeartbeat c) s = .next (done (after 1))))
  ∧ (∀ c s, Admits opDoubtRelease c s = true →
    let t := ticketOf opDoubtRelease c s
    let a := settle (admitted c s)
    (c.path ≠ .supervisor → exec (.doubtRelease c) s = .next (answered opDoubtRelease c 0x00F0 noResult s))
    ∧ (c.path = .supervisor → unmet a.dyn.safety ≠ 0 → exec (.doubtRelease c) s =
        .next (writeRecord t 0x00FB (shortResult [(0, 16, unmet a.dyn.safety)]) a))
    ∧ (c.path = .supervisor → unmet a.dyn.safety = 0 → (a.modSafety Safety.release).ibiDoubt = false →
        exec (.doubtRelease c) s = .next (writeRecord t 0 noResult (a.modSafety Safety.release)))
    ∧ (c.path = .supervisor → unmet a.dyn.safety = 0 → (a.modSafety Safety.release).ibiDoubt = true →
        exec (.doubtRelease c) s = .next (writeRecord t 0 noResult (requestIbi 0x02 (a.modSafety Safety.release)))))
  ∧ (∀ c s, Admits opMooringStore c s = true →
    let t := ticketOf opMooringStore c s
    let va := fldN c.params 0 40
    ((∀ q, c.path = .queue q → s.dyn.cfg.safetyQueue q.toNat = false) →
        exec (.mooringStore c) s = .next (answered opMooringStore c 0x00F0 noResult s))
    ∧ (∀ q, c.path = .queue q → s.dyn.cfg.safetyQueue q.toNat = true → va % 64 ≠ 0 →
        exec (.mooringStore c) s = .next (answered opMooringStore c 0x00F6 noResult s))
    ∧ (∀ q s1, c.path = .queue q → s.dyn.cfg.safetyQueue q.toNat = true → va % 64 = 0 →
        readPlan c.berth [(va, 64)] (admitted c s) = (s1, none) → exec (.mooringStore c) s = .next (writeRecord t 0x00F6 noResult s1))
    ∧ (∀ q s1 head, c.path = .queue q → s.dyn.cfg.safetyQueue q.toNat = true → va % 64 = 0 →
        readPlan c.berth [(va, 64)] (admitted c s) = (s1, some head) →
        let n := fldN (BitVec.ofNat 512 (ofBytes head)) 16 13
        ((n = 0 ∨ 4096 < n) → exec (.mooringStore c) s = .next (writeRecord t 0x00F6 noResult s1))
        ∧ (∀ s2, 1 ≤ n → n ≤ 4096 → readPlan c.berth (pageParts 16 (va + 64) (128 * n)) s1 = (s2, none) →
            exec (.mooringStore c) s = .next (writeRecord t 0x00F6 noResult s2))
        ∧ (∀ s2 body, 1 ≤ n → n ≤ 4096 → readPlan c.berth (pageParts 16 (va + 64) (128 * n)) s1 = (s2, some body) →
            (∀ st, judgePlan (head ++ body) s2.dyn.safety.newestPlan s2.island16 = .error st →
              exec (.mooringStore c) s = .next (writeRecord t st noResult s2))
            ∧ (∀ p, judgePlan (head ++ body) s2.dyn.safety.newestPlan s2.island16 = .ok p →
              exec (.mooringStore c) s = .next (writeRecord t 0 noResult (storePlan p s2))))))

/-- The doubt latch (R443 to R445): what raising a doubt leaves, and what a release does. -/
def Obligations.TheLatchSetsAndReleases : Prop :=
  (∀ (i : Nat) (s : State), i < 10 →
    let t := raiseDoubt i s
    t.dyn.safety.latch = true ∧ bitAt t.dyn.safety.sources i = true
    ∧ (∀ k, bitAt s.dyn.safety.sources k = true → bitAt t.dyn.safety.sources k = true)
    ∧ t.dyn.cfg = s.dyn.cfg ∧ t.mem = s.mem ∧ t.lock = s.lock ∧ t.mailboxes = s.mailboxes ∧ t.dyn.time = s.dyn.time
    ∧ (s.dyn.safety.latch = false → s.ibiDoubt = true → t.i3c = (requestIbi 0x02 s).i3c)
    ∧ (s.dyn.safety.latch = true → t.i3c = s.i3c))
  ∧ (∀ f : Safety, (Safety.release f).latch = false)
  ∧ State.reset.dyn.safety.latch = true


/-! The island: pairs, tokens, setpoints, Gauges, soundings, drizzle and playout -/

/-- The pairs of the island (R420 to R438). What a debug write may do to the watchdog is a constant of Config. -/
def Obligations.PairsCompareAndAreFenced : Prop :=
  (∀ (pair copy : Fin 2) (tok : Token) (bad : Bool) (s : State),
    let one := s.copyRuns pair copy = true
    let runs := s.pairRuns pair = true
    ((¬one ∨ 4 < tok.channel.toNat) → exec (.tokenProduce pair copy tok bad) s = .next s)
    ∧ (one → tok.channel.toNat ≤ 4 → s.dyn.island.split = true →
        exec (.tokenProduce pair copy tok bad) s = .next (releaseToken pair tok bad s))
    ∧ (one → tok.channel.toNat ≤ 4 → s.dyn.island.split = false →
        exec (.tokenProduce pair copy tok bad) s = .next (compareToken pair copy tok bad s))
    ∧ (∀ ch since, (s.pair pair).oldest = some (ch, since) →
        let late := runs ∧ s.dyn.island.split = false ∧ (s.pair pair).halted = none ∧ since + 2 * us16 < s.island16
        (late → exec (.skewTime pair) s = .next (fence pair 3 (BitVec.ofNat 3 ch) (s.modIsland fun i =>
            { i with maxWait := bvMax i.maxWait (satOf 16 (waitNs s.island16 since)) })))
        ∧ (¬late → exec (.skewTime pair) s = .next s))
    ∧ ((s.pair pair).oldest = none → exec (.skewTime pair) s = .next s)
    ∧ (runs → exec (.beatWrite pair) s = .next (s.modPair pair fun y => { y with beat := !y.beat, lastBeat := s.island16 }))
    ∧ (¬runs → exec (.beatWrite pair) s = .next s)
    ∧ (let silent := runs ∧ s.dyn.island.watchdogOff = false ∧ (s.pair pair).lastBeat + 1000 * us16 ≤ s.island16
      (silent → exec (.beatWatchdog pair) s = .next (fence pair 5 0 s)) ∧ (¬silent → exec (.beatWatchdog pair) s = .next s)))
  ∧ (∀ s : State,
    let p : Fin 2 := if s.dyn.island.pair0.state = .healthy then 0 else 1
    (s.dyn.island.takeover = false → exec .roleTakeover s = .next s)
    ∧ (s.dyn.island.takeover = true → s.pairRuns p = true → exec .roleTakeover s =
        .next (s.modIsland fun i => { i with takeover := false, roleMonitor := p, rolePlayout := p }))
    ∧ (s.dyn.island.takeover = true → s.pairRuns p = false → exec .roleTakeover s =
        .next (s.modIsland fun i => { i with takeover := false })))
  ∧ (∀ (pair : Fin 2) (kind : IslandInput) (a b : BitVec 64) (s : State),
    let runs := s.someCopyRuns pair = true
    (¬runs → exec (.inputToken pair kind a b) s = .next s)
    ∧ (runs → a ≠ b → exec (.inputToken pair kind a b) s = .next (fence pair 4 0 s))
    ∧ (runs → exec (.inputToken pair .readPort a a) s =
        .next (deliver pair (some (bytesOf 8 a.toNat)) s))
    ∧ (runs → kind ≠ .readPort → exec (.inputToken pair kind a a) s = .next (s.modPair pair fun y =>
        { y with events := y.events ++ [{ kind := kind, payload := a, takeAt := max y.retiredA y.retiredB + 4096 }] }))
    ∧ (((s.pair pair).events = [] ∨ ¬runs) → exec (.asyncEventTake pair) s = .next s)
    ∧ (∀ e rest, runs → (s.pair pair).events = e :: rest → exec (.asyncEventTake pair) s = .next (s.modPair pair fun y =>
        { y with
          events := rest, inputs := some (bytesOf 8 e.payload.toNat) :: y.inputs,
          retiredA := max y.retiredA (e.takeAt - 1), retiredB := max y.retiredB (e.takeAt - 1) })))
  ∧ (∀ (pair : Fin 2) (pa : BitVec 48) (flips : BitVec 544) (s : State),
    ((s.someCopyRuns pair = false ∨ (s.pair pair).reads.head? ≠ some pa) → exec (.readPortRead pair pa flips) s = .next s)
    ∧ (∀ rest, s.someCopyRuns pair = true → (s.pair pair).reads = pa :: rest →
        let u := s.modPair pair fun y => { y with reads := rest }
        let v := if inDram pa.toNat then flipLine (pa.toNat / 64) flips u else u
        exec (.readPortRead pair pa flips) s = .next (deliver pair (readPort pa.toNat false v).2 (readPort pa.toNat false v).1)))
  ∧ (∀ (pair : Fin 2) (ca cb : BitVec 48) (s : State),
    let may := s.debugOpen = true ∧ s.pairRuns pair = true
    (may → (s.pair pair).halted = none → exec (.debugHalt pair ca cb) s = .next (debugCounts pair ca cb s))
    ∧ ((¬may ∨ (s.pair pair).halted ≠ none) → exec (.debugHalt pair ca cb) s = .next s)
    ∧ (may → (s.pair pair).halted ≠ none → exec (.debugStep pair ca cb) s = .next (debugCounts pair ca cb s))
    ∧ ((¬may ∨ (s.pair pair).halted = none) → exec (.debugStep pair ca cb) s = .next s)
    ∧ ((¬may ∨ (s.pair pair).halted = none) → exec (.debugResume pair) s = .next s)
    ∧ (∀ t0, may → (s.pair pair).halted = some t0 → exec (.debugResume pair) s = .next (s.modPair pair fun y =>
        { y with
          halted := none,
          chans := tabMap {} (fun (_ : Nat) (q : TokenQueue) =>
            { q with toks := q.toks.map fun x => (x.1, if x.2 ≤ t0 then x.2 + (s.island16 - t0) else s.island16) }) y.chans })))
  ∧ (∀ (pair : Fin 2) (addr : BitVec 32) (a b : BitVec 64) (s : State),
    let may := s.debugOpen = true ∧ s.pairRuns pair = true
    (∀ w, ¬may → exec (.debugAccess pair w addr a b) s = .next s)
    ∧ (may → exec (.debugAccess pair true addr a b) s = .next (deliver pair (some (bytesOf 8 a.toNat))
        (s.modIsland fun i => { i with watchdogOff := Config.debugWatchdog addr a i.watchdogOff })))
    ∧ (may → (a = b ∨ s.dyn.island.split = true) → exec (.debugAccess pair false addr a b) s =
        .next (s.modPair pair fun y => { y with debugRead := some (some a) }))
    ∧ (may → a ≠ b → s.dyn.island.split = false → exec (.debugAccess pair false addr a b) s =
        .next (fence pair 1 4 (s.modPair pair fun y => { y with debugRead := some none }))))

/-- The start and reset of the island, the playout of the mooring plan and the setpoints (R436 to R441, R461, R462, R537,
R540). -/
def Obligations.TheIslandStartsPlaysAndSends : Prop :=
  (∀ (facts : IslandFacts) (s : State),
    let b := s.dyn.bring
    let lic := if s.dyn.power.corePwrgd then b.islandLicence else takeToken b.fuses.uid b.islandToken0 b.islandToken1
    let split := match lic with
      | some l => l.grade.toNat == gradeD
      | none => false
    let u := clearGauges ((s.modBring fun b => { b with islandLicence := lic }).modSafety Safety.restart)
    let time := if s.dyn.time.tcxoFault then s.dyn.island.time else s.dyn.time.wc
    let ok0 := (testedPair split facts.pair0Fails (t16 time)).state = .healthy
    let ok1 := (testedPair split facts.pair1Fails (t16 time)).state = .healthy
    (s.dyn.island.operational = true → exec (.islandStart facts) s = .next s)
    ∧ (s.dyn.island.operational = false → takeImage b.islandSlot0 b.islandSlot1 0 = none → exec (.islandStart facts) s =
        .next (u.modIsland fun _ => { powered := true, split := split, time := time, disciplined := !s.dyn.time.tcxoFault }))
    ∧ (∀ one, s.dyn.island.operational = false → takeImage b.islandSlot0 b.islandSlot1 0 = some one →
        NextIs (exec (.islandStart facts) s) fun t =>
          (t.dyn.island.operational = true ↔ (ok0 ∨ ok1)) ∧ t.dyn.island.powered = true ∧ t.dyn.island.split = split
          ∧ t.dyn.island.time = time ∧ t.dyn.island.imageSlot = one
          ∧ t.dyn.island.roleMonitor = (if ok0 then 0 else 1) ∧ t.dyn.island.rolePlayout = (if ok1 then 1 else 0)
          ∧ t = u.modIsland fun _ => t.dyn.island)
    ∧ (s.dyn.island.powered = false → exec .islReset s = .next s)
    ∧ (s.dyn.island.powered = true → exec .islReset s = .next (stopIsland true s)))
  ∧ (∀ (pace tj : BitVec 16) (s : State),
    let low := pace.toNat < 500
    let u := s.modIsland fun i =>
      { i with pace := pace, tj := tj, lowRun := if low then i.lowRun + 1 else 0, okRun := if low then 0 else i.okRun + 1 }
    (s.dyn.island.powered = false → exec (.islandWeatherWindow pace tj) s = .next s)
    ∧ (s.dyn.island.powered = true → low → 1 ≤ s.dyn.island.lowRun → exec (.islandWeatherWindow pace tj) s =
        .next (raiseDoubt 9 (u.modIsland fun i => { i with paceLow := true })))
    ∧ (s.dyn.island.powered = true → (¬low ∨ s.dyn.island.lowRun = 0) → exec (.islandWeatherWindow pace tj) s = .next (settle u)))
  ∧ (∀ s : State,
    (∀ d, s.dyn.safety.hbDeadline = some d → d < s.island16 → exec .heartbeatDeadline s =
        .next (raiseDoubt 8 (s.modSafety fun f => { f with hbDeadline := none, hbInTurn := 0 })))
    ∧ ((∀ d, s.dyn.safety.hbDeadline = some d → s.island16 ≤ d) → exec .heartbeatDeadline s = .next s))
  ∧ (∀ s : State,
    let f := s.dyn.safety
    let starts := f.latch = true ∧ f.playing = false ∧ f.noPlan = false ∧ s.canPlay = true
    let dry := s.modSafety fun f => { f with noPlan := true }
    (¬starts → exec .playoutStart s = .next s)
    ∧ (starts → f.activePlan = none → exec .playoutStart s = .next dry)
    ∧ (∀ p, starts → f.activePlan = some p → p.validity + p.horizon.toNat * us16 ≤ f.setAt → exec .playoutStart s = .next dry)
    ∧ (∀ p, starts → f.activePlan = some p → f.setAt < p.validity + p.horizon.toNat * us16 →
        let past := (upFrom 0 p.entries.length).filter fun i => match p.entries[i]? with
          | some e => decide (p.at e ≤ f.setAt)
          | none => false
        exec .playoutStart s = .next ((past.filter fun i => p.latest f.setAt i).foldl (fun s i => playEntry p i s)
          (s.modSafety fun f =>
            { f with
              playing := true, playPlan := some p, playFrom := f.setAt, finals := [],
              playSent := past.filter fun i => !p.latest f.setAt i }))))
  ∧ (∀ (i : Nat) (s : State),
    (∀ p e, s.dyn.safety.playPlan = some p → p.entries[i]? = some e →
        let due := s.dyn.safety.playing = true ∧ s.canPlay = true ∧ p.at e ≤ s.island16 ∧ i ∉ s.dyn.safety.playSent
        (due → exec (.planEntrySend i) s = .next (playEntry p i s)) ∧ (¬due → exec (.planEntrySend i) s = .next s))
    ∧ ((∀ p, s.dyn.safety.playPlan = some p → p.entries[i]? = none) → exec (.planEntrySend i) s = .next s))
  ∧ (∀ (channel : BitVec 2) (stream : BitVec 5) (s : State),
    let k := channel.toNat * 32 + stream.toNat
    ((s.dyn.safety.playPlan = none ∨ tabGet none s.dyn.safety.finals k = none) → exec (.finalRepeat channel stream) s = .next s)
    ∧ (∀ p last, s.dyn.safety.playPlan = some p → tabGet none s.dyn.safety.finals k = some last →
        let entry := p.entries.find? fun e => e.final && e.channel == channel && e.stream == stream
        (entry = none → exec (.finalRepeat channel stream) s = .next s)
        ∧ (∀ e, entry = some e →
            let due := s.dyn.safety.playing = true ∧ s.canPlay = true ∧ last + e.repeatMs.toNat * 1000 * us16 ≤ s.island16
            (due → exec (.finalRepeat channel stream) s =
              .next ((sendEntry e s).modSafety fun f => { f with finals := tabPut none f.finals k (some s.island16) }))
            ∧ (¬due → exec (.finalRepeat channel stream) s = .next s))))
  ∧ (∀ (cls : Fin 16) (s : State),
    let c := s.spClass cls
    let slot := s.nowUs + 200
    let due := s.fabricUp = true ∧ c.valid = true ∧ c.period ≠ 0 ∧ slot % c.period = c.phase ∧ c.readFor ≠ some slot
    let u := s.modClass cls fun c => { c with readFor := some slot, built := none }
    (¬due → exec (.setpointReadPoint cls) s = .next s)
    ∧ (∀ v, due → readTrajectory c u = (v, none) →
        exec (.setpointReadPoint cls) s = .next (v.modClass cls fun c => { c with faults := satInc c.faults }))
    ∧ (∀ v head es, due → readTrajectory c u = (v, some (head, es)) →
        exec (.setpointReadPoint cls) s = .next (match judgePoint c (slot * us16) head es with
          | .fault => v.modClass cls fun c => { c with faults := satInc c.faults }
          | .stale => v.modClass cls fun c => { c with stale := satInc c.stale }
          | .noPoint => v.modClass cls fun c => { c with noPoint := satInc c.noPoint }
          | .frame e age => v.modClass cls fun c =>
              { c with built := some (c.frameOf e age, age), count := if c.insert then c.count + 1 else c.count }))
    ∧ (∀ frame age, c.built = some (frame, age) →
        let leaves := s.fabricUp = true ∧ c.valid = true ∧ c.readFor = some s.nowUs
        let w := s.modClass cls fun c => { c with built := none }
        (¬leaves → exec (.setpointSlot cls) s = .next s)
        ∧ (leaves → w.gateClosed = true → exec (.setpointSlot cls) s =
            .next (w.modClass cls fun c => { c with gated := satInc c.gated }))
        ∧ (leaves → w.gateClosed = false → (w.channel c.channel).dead c.channel = true → exec (.setpointSlot cls) s =
            .next (w.modClass cls fun c => { c with faults := satInc c.faults }))
        ∧ (leaves → w.gateClosed = false → (w.channel c.channel).dead c.channel = false → exec (.setpointSlot cls) s =
            .next ((w.modGateway fun g => { g with sent := (c.channel, frame, s.now16) :: g.sent }).modClass cls fun c =>
              { c with sent := satInc c.sent, lastAge := BitVec.ofNat 32 age, lastPin := s.now16 })))
    ∧ (c.built = none → exec (.setpointSlot cls) s = .next s))

/-- The Gauges, the soundings, drizzle, tile self-tests and the counts of a second (R447 to R458, R477, R502). -/
def Obligations.GaugesSoundingsAndDrizzleRun : Prop :=
  (∀ (g : BitVec 12) (s : State),
    let cfg := tabGet {} s.dyn.cfg.gauges g.toNat
    let y := s.dyn.safety.gaugeOf g.toNat
    let due := cfg.valid = true ∧ y.state = .watching ∧ y.expireAt ≤ s.island16 ∧ y.readSince = none
      ∧ s.dyn.time.onEdge = true
    let polls := cfg.valid = true ∧ cfg.mooring = false ∧ y.state = .expired ∧ y.readSince = none
      ∧ y.lastPoll + 1000 * us16 ≤ s.island16 ∧ s.dyn.time.onEdge = true
    (due → cfg.mooring = true → exec (.gaugeDeadline g) s = .next (settle (expireGauge g.toNat s)))
    ∧ (due → cfg.mooring = false → exec (.gaugeDeadline g) s =
        .next (s.modGauge g.toNat fun y => { y with readSince := some s.island16 }))
    ∧ (¬due → exec (.gaugeDeadline g) s = .next s)
    ∧ (polls → exec (.expiredGaugePoll g) s =
        .next (s.modGauge g.toNat fun y => { y with readSince := some s.island16, lastPoll := s.island16 }))
    ∧ (¬polls → exec (.expiredGaugePoll g) s = .next s)
    ∧ (∀ flips, (cfg.valid = false ∨ y.readSince = none) → exec (.stampReadResponse g flips) s = .next s)
    ∧ (∀ flips, cfg.valid = true → y.readSince ≠ none →
        let u := readPort cfg.stampPa.toNat true (flipLine (cfg.stampPa.toNat / 64) flips s)
        exec (.stampReadResponse g flips) s =
          .next (settle (applyStamp g.toNat (judgeStamp cfg y.lastValidity u.1.island16 u.2) u.1)))
    ∧ (∀ t, y.readSince = some t → t + 10 * us16 ≤ s.island16 → s.dyn.time.onEdge = true → exec (.stampReadTimeout g) s =
        .next (settle (applyStamp g.toNat .bad s)))
    ∧ ((∀ t, y.readSince = some t → s.island16 < t + 10 * us16 ∨ s.dyn.time.onEdge = false) → exec (.stampReadTimeout g) s = .next s))
  ∧ (∀ (i : Nat) (s : State),
    let c := s.dyn.cfg
    let fresh := ∀ l, s.dyn.safety.soundingLast = some l → l < i
    let due := c.sounding.enable = true ∧ c.soundingRelease i ≤ s.now16 ∧ fresh
    let u := match s.dyn.safety.sounding with
      | some r => missSounding r s
      | none => s
    (¬due → exec (.soundingRelease i) s = .next s)
    ∧ (due → c.soundingPick i = none → exec (.soundingRelease i) s = .next u)
    ∧ (∀ t h, due → c.soundingPick i = some (t, h) →
        exec (.soundingRelease i) s = .next (startSounding i t h (c.soundingRelease i) false u)))
  ∧ (∀ s : State,
    (s.dyn.safety.sounding = none → exec .soundingWindowEnd s = .next s ∧ ∀ outs f, exec (.soundingComplete outs f) s = .next s)
    ∧ (∀ r, s.dyn.safety.sounding = some r →
        let missed := r.started = false ∧ r.rerun = false ∧ r.release + s.dyn.cfg.sounding.window.toNat * us16 ≤ s.now16
        let p := (s.dyn.cfg.physOf r.tile).getD 0
        let m := (s.dyn.cfg.safetyOwner.getD 0).toNat * 1024 + r.handle.toNat
        let bands := match (tabGet {} s.dyn.cfg.models m).calibration with
          | some k => k.bands
          | none => []
        let u := releaseJob r.job s
        let gone := s.job r.job = none ∨ m ∈ u.dyn.errors.lostBands
        (missed → exec .soundingWindowEnd s = .next (missSounding r s))
        ∧ (¬missed → exec .soundingWindowEnd s = .next s)
        ∧ (∀ outs f, r.started = false → exec (.soundingComplete outs f) s = .next s)
        ∧ (∀ outs f, r.started = true → (f = true ∨ gone) → exec (.soundingComplete outs f) s = .next (failSounding r p 0 u))
        ∧ (∀ outs k, r.started = true → ¬gone → firstOutside 0 outs bands = some k →
            exec (.soundingComplete outs false) s = .next (failSounding r p k u))
        ∧ (∀ outs, r.started = true → ¬gone → firstOutside 0 outs bands = none →
            exec (.soundingComplete outs false) s = .next (passSounding r p u))))
  ∧ (∀ s : State,
    let slot := s.now16 / (250 * us16) * (250 * us16)
    let f := s.dyn.safety
    let req := f.requests.head?
    let c := match req with
      | some r => r.checker
      | none => oldestChecker s.dyn
    let near := ∃ r ∈ safetyReleases s.dyn.cfg slot, r < slot + sliceTime c req + 20 * us16
    let due := f.lastSlot < slot ∧ s.dyn.bring.ready = true
    (¬due → exec .drizzleSlot s = .next s)
    ∧ (due → near → exec .drizzleSlot s = .next (lapseCheck slot (s.modSafety fun f =>
        { f with lastSlot := slot, deferrals := satInc f.deferrals })))
    ∧ (due → ¬near → f.slice ≠ none → exec .drizzleSlot s = .next (lapseCheck slot (s.modSafety fun f => { f with lastSlot := slot })))
    ∧ (due → ¬near → f.slice = none → exec .drizzleSlot s = .next (lapseCheck slot (s.modSafety fun f => refillRequests
        { f with
          lastSlot := slot, slice := some { checker := c, req := req, at16 := slot }, requests := f.requests.drop 1 })))
    ∧ (∀ failed, f.slice = none → exec (.drizzleSliceEnd failed) s = .next s)
    ∧ (∀ x, f.slice = some x →
        (∀ failed, x.checker = 116 → exec (.drizzleSliceEnd failed) s = .next (finishSlice x none s))
        ∧ (x.checker ≠ 116 → exec (.drizzleSliceEnd true) s =
            .next (finishSlice x (some (x.bad.getD x.checker)) (noteFitness x true (checkerFails x.checker s))))
        ∧ (x.checker ≠ 116 → exec (.drizzleSliceEnd false) s =
            .next (settle (finishSlice x x.bad (noteFitness x false (checkerPasses x.checker x.at16 s)))))))
  ∧ (∀ (t : Fin 36) (bad : Option Byte) (s : State),
    let p := t.val
    (((s.tile p).tests = [] ∨ (s.tile p).testDrain = false ∨ s.tasksOver p = false) → exec (.tileSelfTestEnd t bad) s = .next s)
    ∧ (∀ k rest, (s.tile p).tests = k :: rest → (s.tile p).testDrain = true → s.tasksOver p = true →
        let u := (loadSafety p (zeroTile p s)).modTile p fun d =>
          { d with tests := rest, testDrain := !rest.isEmpty, idleSince := (loadSafety p (zeroTile p s)).dyn.time.wc }
        exec (.tileSelfTestEnd t none) s = .next (recordLoads (writeRecord k 0 noResult u))
        ∧ (∀ b, exec (.tileSelfTestEnd t (some b)) s = .next
            (recordLoads (tileFailure p { source := 7 } (writeRecord k 0x0108 (shortResult [(0, 8, b.toNat)]) u))))))
  ∧ (∀ s : State,
    let sec := s.now16 / (10 ^ 9 * 2 ^ 16)
    let old := fun (c : SecCount) => decide (c.second < sec)
    let rec1 := (s.dyn.errors.lineSecs.filter fun c => old c.2).foldl (fun u c => enterError (secondRecord 0 (c.1 * 64) c.2) u) s
    let rec2 := (s.dyn.errors.laneSecs.filter fun c => old c.2).foldl (fun u c => enterError (secondRecord 6 0 c.2) u) rec1
    exec .errorRecordSecond s = .next (rec2.modErrors fun e =>
      { e with
        lineSecs := tabMap {} (fun _ c => if old c then {} else c) e.lineSecs,
        laneSecs := tabMap {} (fun _ c => if old c then {} else c) e.laneSecs }))


/-! Service, maintenance, updates and resets -/

/-- Service, maintenance and updates (R478 to R480, R493, R499, R501, R502, R506 to R508, R527). -/
def Obligations.ServiceCommandsFollowTheirChecks : Prop :=
  (∀ c s, Admits opServiceEnter c s = true →
    exec (.serviceEnter c) s = .next (settled opServiceEnter c
      [(!(c.path == .supervisor), 0x0100), (!s.lock.opn.running, 0x0109), (!s.dyn.safety.latch, 0x0102)]
      { s.lock.opn with running := false } s))
  ∧ (∀ c s, Admits opServiceLeave c s = true →
    let cfg := s.lock.opn
    let sick : Bool := decide (s.dyn.island.pair0.state ≠ .healthy ∧ s.dyn.island.pair1.state ≠ .healthy)
    (licenceHeld s.dyn.bring = none → exec (.serviceLeave c) s = .next (settled opServiceLeave c
      [(!(c.path == .supervisor), 0x0100), (!s.dyn.bring.ready, 0x0103), (true, 0x0107)] cfg s))
    ∧ (∀ l, licenceHeld s.dyn.bring = some l → exec (.serviceLeave c) s = .next (settled opServiceLeave c
      [(!(c.path == .supervisor), 0x0100), (!s.dyn.bring.ready, 0x0103), (!s.dyn.safety.checkersFit, 0x0105), (sick, 0x0106),
        ((cfg.tilesUnder 0).length < l.safetyMin, 0x0104)] { cfg with running := true } s)))
  ∧ (∀ c s, Admits opGetBringup c s = true → exec (.getBringupStatus c) s =
      .next (replied opGetBringup c [(!(c.path == .supervisor), 0x0100)] (bringupRecord s.bringView) s))
  ∧ (∀ c s, Admits opGetTileMap c s = true → exec (.getTileMap c) s =
      .next (replied opGetTileMap c [(!(c.path == .supervisor), 0x0100)] (tileMapRecord s.snap) s))
  ∧ (∀ c s, Admits opGetErrorLog c s = true →
    let found := s.snap.errors.ring.find? fun e => fldN c.params 0 32 ≤ e.1
    (c.path ≠ .supervisor → exec (.getErrorLog c) s = .next (answered opGetErrorLog c 0x0100 noResult s))
    ∧ (∀ n r, c.path = .supervisor → found = some (n, some r) →
        exec (.getErrorLog c) s = .next (answered opGetErrorLog c 0 (errorRecord n r) s))
    ∧ (c.path = .supervisor → (found = none ∨ ∃ n, found = some (n, none)) →
        exec (.getErrorLog c) s = .next (answered opGetErrorLog c 0x0101 noResult s)))
  ∧ (∀ c s, Admits opGetDefectLog c s = true →
    let n := fldN c.params 0 16
    (c.path ≠ .supervisor → exec (.getDefectLog c) s = .next (answered opGetDefectLog c 0x0100 noResult s))
    ∧ (∀ e, c.path = .supervisor → s.snap.errors.defects[n]? = some e →
        exec (.getDefectLog c) s = .next (answered opGetDefectLog c 0 (defectRecord n e) s))
    ∧ (c.path = .supervisor → s.snap.errors.defects[n]? = none →
        exec (.getDefectLog c) s = .next (answered opGetDefectLog c 0x0101 noResult s)))
  ∧ (∀ c s, Admits opGetIdentity c s = true →
      exec (.getDeviceIdentity c) s = .next (answered opGetIdentity c 0 (identityRecord s.bringView.bring) s))
  ∧ (∀ c s, Admits opGetLicence c s = true →
      exec (.getLicence c) s = .next (answered opGetLicence c 0 (licenceRecord s.bringView.bring) s))
  ∧ (∀ c s p, Admits opGetLink c s = true → p = fldN c.params 0 3 →
      exec (.getLinkStatus c) s = .next (replied opGetLink c [(!(c.path == .supervisor), 0x0100)]
        (linkRecord s.snap.bring s.snap.isgal.pollUs p (tabGet {} s.snap.isgal.ports p)) s))
  ∧ (∀ c s p, Admits opTileTest c s = true → p = tileOfXY c.params →
    let k := tabGet TileKind.spare s.dyn.cfg.tiles p
    (c.path ≠ .supervisor → exec (.tileTest c) s = .next (answered opTileTest c 0x0100 noResult s))
    ∧ (c.path = .supervisor → k.isRetired = true → exec (.tileTest c) s = .next (answered opTileTest c 0x0056 noResult s))
    ∧ (c.path = .supervisor → k.isRetired = false → exec (.tileTest c) s = .next ((admitted c s).modTile p fun d =>
        { d with tests := d.tests ++ [ticketOf opTileTest c s], testDrain := d.testDrain || k == .spare })))
  ∧ (∀ c s, Admits opTileRetire c s = true →
    (c.path ≠ .supervisor → exec (.tileRetire c) s = .next (answered opTileRetire c 0x0100 noResult s))
    ∧ (c.path = .supervisor → s.lock.opn.retireTile (tileOfXY c.params) = none →
        exec (.tileRetire c) s = .next (answered opTileRetire c 0x0056 noResult s))
    ∧ (∀ cfg x, c.path = .supervisor → s.lock.opn.retireTile (tileOfXY c.params) = some (cfg, x) →
        exec (.tileRetire c) s = .next (entered opTileRetire c cfg s)))
  ∧ (∀ c s, Admits opLicenceInstall c s = true →
    let t := ticketOf opLicenceInstall c s
    let a := admitted c s
    let src := fldN c.params 0 40
    let len := fldN c.params 64 32
    let checks := [(!(c.path == .supervisor), 0x0120), (c.device, 0x0004), (!a.readable c.berth src len, 0x0127),
      (!(len == 3152), 0x0126)]
    (∀ st, firstOf checks = some st → exec (.licenceInstall c) s = .next (answered opLicenceInstall c st noResult s))
    ∧ (∀ u bs, firstOf checks = none → readVirt t.src c.berth src len a = (u, .ok bs) →
        let l := tokenOf bs u.dyn.bring.fuses.licKey
        (tokenStatus u.dyn.bring l ≠ 0 →
            exec (.licenceInstall c) s = .next (writeRecord t (tokenStatus u.dyn.bring l) noResult u))
        ∧ (tokenStatus u.dyn.bring l = 0 →
            exec (.licenceInstall c) s = .next (u.modBring fun b => { b with flash := b.flash ++ [.licence t l] })))
    ∧ (∀ u, firstOf checks = none → readVirt t.src c.berth src len a = (u, .uncorrectable) →
        exec (.licenceInstall c) s = .next (writeRecord t 0x000B noResult u))
    ∧ (∀ u, firstOf checks = none → readVirt t.src c.berth src len a = (u, .addressFault) →
        exec (.licenceInstall c) s = .next (writeRecord t 0x0127 noResult u)))
  ∧ (∀ c s, s.halted = false → Admits (opFwUpdate false) c s = true →
    let t := ticketOf (opFwUpdate false) c s
    let a := admitted c s
    let src := fldN c.params 0 40
    let len := fldN c.params 64 32
    let checks := [(!(c.path == .supervisor), 0x0120), (c.device, 0x0004), (!a.readable c.berth src len, 0x0127),
      (!decide (len ≤ imageMax), 0x0126)]
    (∀ st, firstOf checks = some st → exec (.fwUpdate c) s = .next (answered (opFwUpdate false) c st noResult s))
    ∧ (∀ u bs, firstOf checks = none → readVirt t.src c.berth src len a = (u, .ok bs) →
        let x := imageOf bs u.dyn.bring.fuses.fwKey
        (imageStatus u.dyn.bring x ≠ 0 → exec (.fwUpdate c) s = .next (writeRecord t (imageStatus u.dyn.bring x) noResult u))
        ∧ (imageStatus u.dyn.bring x = 0 → exec (.fwUpdate c) s =
            .next (u.modBring fun b => { b with flash := b.flash ++ [.firmware t x (bitAt c.params 96)] })))
    ∧ (∀ u, firstOf checks = none → readVirt t.src c.berth src len a = (u, .uncorrectable) →
        exec (.fwUpdate c) s = .next (writeRecord t 0x000B noResult u))
    ∧ (∀ u, firstOf checks = none → readVirt t.src c.berth src len a = (u, .addressFault) →
        exec (.fwUpdate c) s = .next (writeRecord t 0x0127 noResult u)))
  ∧ (∀ c s, s.halted = true → Admits (opFwUpdate true) c s = true →
    let t := ticketOf (opFwUpdate true) c s
    let p := c.params
    let off := fldN p 0 23
    let len := fldN p 32 32
    let inTurn : Bool := off == 0 || s.dyn.bring.lastChunk == some (off - 32) && 32 ≤ off
    let checks := [(decide (s.dyn.bring.haltCause = 1), 0x0003), (!inTurn, 0x0129),
      (imageMax < off + 32 || (bitAt p 23 && (len ≤ off || off + 32 < len)), 0x0126)]
    (∀ st, firstOf checks = some st → exec (.fwUpdateRecovery c) s = .next (answered (opFwUpdate true) c st noResult s))
    ∧ (firstOf checks = none → off ≠ 0 → exec (.fwUpdateRecovery c) s =
        .next ((admitted c s).modBring fun b => { b with flash := b.flash ++ [.chunk t] }))
    ∧ (firstOf checks = none → off = 0 → exec (.fwUpdateRecovery c) s =
        .next (((admitted c s).modBring fun b => b.putSpareSlot {}).modBring fun b => { b with flash := b.flash ++ [.chunk t] })))
  ∧ (∀ (ok : Bool) (s : State),
    (s.dyn.bring.flash = [] → exec (.flashWriteEnd ok) s = .next s)
    ∧ (∀ t rest, s.dyn.bring.flash = .chunk t :: rest →
        let u := s.modBring fun b => { b with flash := rest }
        exec (.flashWriteEnd true) s = .next (chunkWritten t u)
        ∧ exec (.flashWriteEnd false) s = .next (writeRecord t 0x0128 noResult u))
    ∧ (∀ t x raise rest, s.dyn.bring.flash = .firmware t x raise :: rest →
        let u := s.modBring fun b => { b with flash := rest }
        exec (.flashWriteEnd true) s = .next (writeRecord t 0 noResult
          ((u.modBring fun b => b.putSpareSlot { x with signed := x.signed && true }).modBring fun b =>
            b.prefer (fldN x.header 32 6) raise))
        ∧ exec (.flashWriteEnd false) s = .next (writeRecord t 0x0128 noResult
          (u.modBring fun b => b.putSpareSlot { x with signed := false })))
    ∧ (∀ t l rest, s.dyn.bring.flash = .licence t l :: rest → NextIs (exec (.flashWriteEnd ok) s) fun v =>
        ∃ u, v = writeRecord t (if ok then 0 else 0x0128) noResult u ∧ u.dyn.bring.flash = rest
          ∧ (u.dyn.bring.token0, u.dyn.bring.token1)
              = putToken s.dyn.bring.token0 s.dyn.bring.token1 { l with signed := l.signed && ok }
          ∧ (ok = false → u.dyn.bring.islandToken0 = s.dyn.bring.islandToken0 ∧ u.dyn.bring.islandToken1 = s.dyn.bring.islandToken1)
          ∧ (ok = true → (u.dyn.bring.islandToken0, u.dyn.bring.islandToken1)
              = putToken s.dyn.bring.islandToken0 s.dyn.bring.islandToken1 l)))

/-- The resets and power events (R388, R484 to R487, R496, R549, R551), and what a stopped fabric is. -/
def Obligations.ResetsStopTheFabric : Prop :=
  (∀ (facts : StartFacts) (s : State),
    let starts := s.dyn.power.corePwrgd = false ∧ s.dyn.island.operational = true
    (starts → exec (.coldStart facts) s = .next (runStart 0 none facts
      ((((stopFabric s).modTime fun _ => {}).modIsland fun i => { i with disciplined := true }).modBring fun b =>
        { b with islandLicence := takeToken b.fuses.uid b.islandToken0 b.islandToken1 })))
    ∧ (¬starts → exec (.coldStart facts) s = .next s))
  ∧ (∀ (facts : StartFacts) (s : State),
    let p := s.dyn.power
    let due := p.warmReset = true ∧ p.corePwrgd = true ∧ p.thermTrip = false ∧ s.dyn.island.operational = true
      ∧ p.heldSince + 100 * us48 ≤ s.dyn.time.wc
    let record := if s.dyn.bring.refreshKept then bestRecord facts s.dyn.bring else none
    (due → record ≠ none → exec (.warmResetRelease facts) s = .next (runStart 1 record facts s))
    ∧ (due → record = none → exec (.warmResetRelease facts) s = .next (runStart 2 none facts s))
    ∧ (¬due → exec (.warmResetRelease facts) s = .next s))
  ∧ (∀ s : State,
    let p := s.dyn.power
    let held := fun (u : State) => (stopFabric u).modPower fun p => { p with warmReset := true, heldSince := u.dyn.time.wc }
    (p.corePwrgd = true → p.warmReset = false → exec .warmResetAssert s = .next (held s))
    ∧ ((p.corePwrgd = false ∨ p.warmReset = true) → exec .warmResetAssert s = .next s)
    ∧ (p.corePwrgd = true → exec .corePwrgdFall s =
        .next ((stopFabric s).modPower fun p => { p with corePwrgd := false, warmReset := false }))
    ∧ (p.corePwrgd = false → exec .corePwrgdFall s = .next s)
    ∧ exec .vmemOutOfRange s = .next (s.modBring fun b => { b with refreshKept := false })
    ∧ (s.dyn.island.powered = false → exec .islPwrgdFall s = .next s)
    ∧ (s.dyn.island.powered = true → p.corePwrgd = true → p.warmReset = false →
        exec .islPwrgdFall s = .next (holdFabric (stopIsland false s)))
    ∧ (s.dyn.island.powered = true → (p.corePwrgd = false ∨ p.warmReset = true) →
        exec .islPwrgdFall s = .next (stopIsland false s)))
  ∧ (∀ s : State,
    let t := stopFabric s
    t.dyn.bring.ready = false ∧ (∀ m, (t.mailbox m).state = .empty ∧ (t.mailbox m).negotiated = false)
    ∧ t.dyn.work = {} ∧ t.dyn.queues = [] ∧ t.dyn.raster = {} ∧ t.dyn.cfg = s.dyn.cfg ∧ t.lock.opn = s.dyn.cfg
    ∧ t.lock.number = s.lock.number ∧ t.mem = s.mem ∧ t.dyn.errors = s.dyn.errors ∧ t.dyn.island = s.dyn.island
    ∧ t.dyn.safety.latch = s.dyn.safety.latch)


/-! Isgal, locks and the gateway -/

/-- The ports of Isgal, what they deliver, and the side band (R488, R514, R516, R520, R524, R525). -/
def Obligations.IsgalPortsTrainAndDeliver : Prop :=
  (∀ (port : Fin 6) (id : PeerIdentity) (s : State),
    let p := port.val
    let b := s.dyn.bring
    let cause := refuseCause b p id
    let down := fun (k : Nat) (u : State) => u.modPort p fun d =>
      { d with state := .down, cause := BitVec.ofNat 3 k, peer := id.devId, peerPort := id.port }
    let good := ~~~(b.fusedBad p)
    let lanes := id.lanes &&& good
    let noted := ((setBits good 8).filter fun l => !bitAt lanes l).foldl (fun u l => addDefect 2 0 (p + 8 * l) u) s
    ((s.port p).state ≠ .training → exec (.portTrainingDone port id) s = .next s)
    ∧ ((s.port p).state = .training → cause = 4 → exec (.portTrainingDone port id) s = .next (down 4 s))
    ∧ ((s.port p).state = .training → cause ≠ 0 → cause ≠ 4 → exec (.portTrainingDone port id) s = .next (down cause
        (s.modBring fun b =>
          { b with
            isgalRefused := b.isgalRefused ||| BitVec.ofNat 6 (2 ^ p),
            refuseCause := if b.isgalRefused = 0 then BitVec.ofNat 2 cause else b.refuseCause })))
    ∧ ((s.port p).state = .training → cause = 0 → popCount lanes 8 < 6 → exec (.portTrainingDone port id) s = .next (down 5 noted))
    ∧ ((s.port p).state = .training → cause = 0 → 6 ≤ popCount lanes 8 → exec (.portTrainingDone port id) s =
        .next (noted.modPort p fun d =>
          { d with
            state := .up, cause := 0, peer := id.devId, peerPort := id.port, lanes := lanes, rxSeq := 0, txSeq := 0,
            replay := [], slots := [], laneFails := [], replayRun := 0, nak := false, received := [], heard := noted.now16 })))
  ∧ (∀ (port : Fin 6) (seq ack : BitVec 16) (nak : Bool) (laneBad : BitVec 8) (txs : List IsgalTx) (credits : List Nat) (s : State),
    let p := port.val
    let heard := s.modPort p fun d => { d with heard := s.now16 }
    let bad := setBits (laneBad &&& (heard.port p).lanes) 8
    let u := bad.foldl (fun u l => laneFailed p l u) heard
    let next := seq = (u.port p).rxSeq + 1
    let v := takeAck p ack nak (if next then takeFlitCredits p credits u else u)
    let d := v.port p
    (∀ ok, (s.port p).state ≠ .up → exec (.flitReceive port seq ack nak ok laneBad ⟨txs, credits⟩) s = .next s)
    ∧ ((s.port p).state = .up → exec (.flitReceive port seq ack nak false laneBad ⟨txs, credits⟩) s =
        .next (bad.foldl (fun u l => retireLane p l u) (u.modPort p fun d => { d with nak := true })))
    ∧ ((s.port p).state = .up → d.state ≠ .up → exec (.flitReceive port seq ack nak true laneBad ⟨txs, credits⟩) s = .next v)
    ∧ ((s.port p).state = .up → d.state = .up → next → exec (.flitReceive port seq ack nak true laneBad ⟨txs, credits⟩) s =
        .next (afterFlit (takeTransactions p txs (v.modPort p fun d => { d with rxSeq := seq, nak := false }))))
    ∧ ((s.port p).state = .up → d.state = .up → ¬next → seqUpTo seq d.rxSeq = true →
        exec (.flitReceive port seq ack nak true laneBad ⟨txs, credits⟩) s = .next v)
    ∧ ((s.port p).state = .up → d.state = .up → ¬next → seqUpTo seq d.rxSeq = false →
        exec (.flitReceive port seq ack nak true laneBad ⟨txs, credits⟩) s = .next (v.modPort p fun d => { d with nak := true })))
  ∧ (∀ (port : Fin 6) (tx : IsgalTx) (s : State),
    let d := s.port port.val
    let silent := d.state = .up ∧ d.heard + 10 * us16 ≤ s.now16
    (silent → exec (.peerSilent port) s = .next (portDown port.val 7 true s)) ∧ (¬silent → exec (.peerSilent port) s = .next s)
    ∧ (takeReceived port.val tx [0, 1, 2, 3, 8, 9] s = none → exec (.inboundTransaction port tx) s = .next s)
    ∧ (∀ u, takeReceived port.val tx [0, 1, 2, 3, 8, 9] s = some u →
        exec (.inboundTransaction port tx) s = .next (serveInbound u.lock.number.toNat port tx (serveHeld u))))
  ∧ (∀ (peer : BitVec 2) (s : State),
    let g := s.dyn.isgal
    let n := peer.toNat
    let y := tabGet (0, false) g.polled n
    let due := (y.1 = 0 ∨ (y.1 - 1) + g.pollUs.toNat * us16 ≤ s.now16) ∧ s.peerUp peer = true
    (¬due → exec (.sideBandPoll peer) s = .next s)
    ∧ (due → exec (.sideBandPoll peer) s = .next (sendPeer peer
        { kind := 9, cls := 2, safety := true, addr := BitVec.ofNat 50 (n * 2 ^ 48), tag := g.nextTag } none
        (s.modIsgal fun g =>
          { g with polled := tabPut (0, false) g.polled n (s.now16 + 1, true), nextTag := g.nextTag + 1 })))
    ∧ (∀ cycle running latch live notify, y.2 = false → exec (.sideBandRecord peer cycle running latch live notify) s = .next s)
    ∧ (∀ cycle running latch live notify, y.2 = true → exec (.sideBandRecord peer cycle running latch live notify) s =
        .next ((setBits notify 64).foldl (fun u b => raiseBerth b 1 u) (s.modIsgal fun g =>
          { g with
            polled := tabPut (0, false) g.polled n (y.1, false), peerLock := tabPut 0 g.peerLock n cycle,
            peerRunning := tabPut false g.peerRunning n running, peerLatch := tabPut false g.peerLatch n latch,
            peerLive := tabPut 0 g.peerLive n live }))))
  ∧ (∀ (cut : BitVec 12) (berth : BitVec 6) (record : List Byte) (s : State),
    let e := tabGet {} s.dyn.cfg.cuts cut.toNat
    let dev : BitVec 2 := fld e.src 16 2
    let q := e.destQueue.toNat
    let copies := e.valid = true ∧ e.srcKind = 3 ∧ e.gen = (s.dyn.cfg.berth e.berth).gen ∧ s.peerUp dev = true
    let fits := berth = e.berth ∧ s.slotFree q = true
    let port := (upFrom 0 6).find? fun p => (s.port p).state == .up && (s.port p).peer == dev
    (¬copies → exec (.peerCutCopy cut berth record) s = .next s)
    ∧ (copies → fits → exec (.peerCutCopy cut berth record) s = .next (ringWrite (s.dyn.cfg.safetyQueue q) q record (reserveSlot q s)).1)
    ∧ (∀ p, copies → ¬fits → port = some p → exec (.peerCutCopy cut berth record) s =
        .next (s.modPort p fun d => { d with peerDrops := satInc d.peerDrops }))
    ∧ (copies → ¬fits → port = none → exec (.peerCutCopy cut berth record) s = .next s))

/-- The locks across Isgal (R522, R523). -/
def Obligations.LocksAreTakenRetriedAndReleased : Prop :=
  (∀ (port : Fin 6) (tx : IsgalTx) (s : State),
    (takeReceived port.val tx [5] s = none → exec (.lockRead port tx) s = .next s)
    ∧ (∀ u, takeReceived port.val tx [5] s = some u → exec (.lockRead port tx) s = .next (serveLockRead u.lock.number.toNat port tx (serveHeld u)))
    ∧ (takeReceived port.val tx [6] s = none → exec (.lockWrite port tx) s = .next s)
    ∧ (∀ u, takeReceived port.val tx [6] s = some u → exec (.lockWrite port tx) s = .next (serveHeld (serveLockWrite port tx u))))
  ∧ (∀ (column : Fin 36) (s : State),
    let lock := tabGet none s.dyn.isgal.colLocks column.val
    (∀ k, lock = some k → k.expiry ≤ s.now16 → exec (.lockTimeout column) s = .next (serveHeld
      ((s.modIsgal fun g => { g with colLocks := tabPut none g.colLocks column.val none }).modPort k.port fun d =>
        { d with lockTimeouts := satInc d.lockTimeouts })))
    ∧ ((∀ k, lock = some k → s.now16 < k.expiry) → exec (.lockTimeout column) s = .next s))
  ∧ (∀ (port : Fin 6) (tag : BitVec 16) (s : State),
    let p := port.val
    let got := (s.port p).received.find? fun (tx : IsgalTx) => tx.kind == 7 && tx.tag == tag
    (got = none → exec (.lockRetryReceive port tag) s = .next s)
    ∧ (∀ tx, got = some tx →
        let u := s.modPort p fun d => { d with received := d.received.erase tx, lockRetries := satInc d.lockRetries }
        let lock := s.dyn.isgal.outLocks.find? fun (k : OutLock) => k.tag == tag && !k.granted
        (lock = none → exec (.lockRetryReceive port tag) s = .next u)
        ∧ (∀ k, lock = some k → 7 ≤ k.retries → exec (.lockRetryReceive port tag) s = .next (readUnlocked k u))
        ∧ (∀ k, lock = some k → k.retries < 7 → exec (.lockRetryReceive port tag) s = .next (modOutLock tag (fun x =>
            { x with retries := k.retries + 1, resendAt := some (s.now16 + (k.retries + 1) * us16) }) u))))
  ∧ (∀ (tag : BitVec 16) (s : State),
    let lock := s.dyn.isgal.outLocks.find? fun (k : OutLock) => k.tag == tag
    (∀ k time, lock = some k → k.resendAt = some time → time ≤ s.now16 → exec (.lockResend tag) s =
        .next (sendStamped { dev := k.peer, tx := k.tx, owner := some (.hart k.hart), stamp := k.stamp } (modOutLock tag (fun k => { k with resendAt := none }) s)))
    ∧ ((∀ k time, lock = some k → k.resendAt = some time → s.now16 < time) → exec (.lockResend tag) s = .next s))

/-- The gateway's rings, channels and PCIe port (R529, R534, R535, R540, R542, R543). -/
def Obligations.TheGatewayMovesFrames : Prop :=
  (∀ (ch : Fin 16) (s : State),
    let c := s.channel ch
    let runs := s.fabricUp = true ∧ c.valid = true
    (¬runs → exec (.txRingPoll ch) s = .next s)
    ∧ (∀ u w, runs → readVirt (edgeSrc s .gateway c.owner) c.owner (c.txVa + 64 * c.txSlots) 8 s = (u, .ok w) →
        exec (.txRingPoll ch) s = .next (pollRing ch (fldN (BitVec.ofNat 64 (ofBytes w)) 0 12) 4096 u))
    ∧ (∀ u e, runs → readVirt (edgeSrc s .gateway c.owner) c.owner (c.txVa + 64 * c.txSlots) 8 s = (u, e) → (∀ w, e ≠ .ok w) →
        exec (.txRingPoll ch) s = .next u))
  ∧ (∀ (ch : Fin 16) (sent : Bool) (s : State),
    let c := s.channel ch
    let va := c.txVa + 64 * (c.txCons % c.txSlots)
    (c.sending = none → exec (.txFrameDone ch sent) s = .next s)
    ∧ (∀ frame pin u e, c.sending = some (frame, pin) → readVirt (edgeSrc s .gateway c.owner) c.owner va 64 s = (u, e) → (∀ b, e ≠ .ok b) →
        exec (.txFrameDone ch sent) s = .next (u.modChannel ch fun c => { c with sending := none }))
    ∧ (∀ frame pin u bs, c.sending = some (frame, pin) → readVirt (edgeSrc s .gateway c.owner) c.owner va 64 s = (u, .ok bs) →
        let d : BitVec 512 := BitVec.ofNat 512 (ofBytes bs)
        let done := fun (code : Nat) => putDescriptor ch va (doneDescriptor d code (layout80 pin)) u
        exec (.txFrameDone ch true) s = .next (((done 0).modChannel ch fun c =>
            { c with sending := none, txCons := (c.txCons + 1) % 4096, sentCount := satInc c.sentCount }).modGateway fun g =>
          { g with sent := (ch.val, frame, pin) :: g.sent })
        ∧ exec (.txFrameDone ch false) s = .next ((done 4).modChannel ch fun c =>
            { c with sending := none, txCons := (c.txCons + 1) % 4096, notSent := satInc c.notSent })))
  ∧ (∀ (ch : Fin 16) (format : BitVec 2) (pcp : BitVec 3) (frame : List Byte) (s : State),
    let c := s.channel ch
    let takes := s.fabricUp = true ∧ c.valid = true ∧ isGptp ch frame = false ∧ s.isLidar ch frame = false
    let drop := fun (u : State) => u.modChannel ch fun c => { c with rxDrops := satInc c.rxDrops }
    let va := c.rxVa + 64 * (c.rxNext % c.rxSlots)
    (¬takes → exec (.rxFrame ch format pcp frame) s = .next s)
    ∧ (∀ u e, takes → readVirt (edgeSrc s .gateway c.owner) c.owner va 64 s = (u, e) → (∀ b, e ≠ .ok b) →
        exec (.rxFrame ch format pcp frame) s = .next (drop u))
    ∧ (∀ u bs, takes → readVirt (edgeSrc s .gateway c.owner) c.owner va 64 s = (u, .ok bs) →
        let d : BitVec 512 := BitVec.ofNat 512 (ofBytes bs)
        let fits := bitAt d 0 = true ∧ frame ≠ [] ∧ frame.length ≤ 2058
        (¬fits → exec (.rxFrame ch format pcp frame) s = .next (drop u))
        ∧ (∀ v w, fits → writeVirt (edgeSrc u .gateway c.owner) c.owner (fldN d 64 40) frame u = (v, .ok w) →
            let keep := doneDescriptor d 0 (layout80 v.now16) &&& ~~~ (BitVec.ofNat 512 (packFields [(4, 5, 31), (16, 16, 0xFFFF)]))
            let filled := keep ||| BitVec.ofNat 512 (packFields [(4, 3, pcp.toNat), (7, 2, format.toNat), (16, 16, frame.length)])
            exec (.rxFrame ch format pcp frame) s = .next (raiseBerth c.owner.toNat 2
              ((putDescriptor ch va filled v).modChannel ch fun c => { c with rxNext := c.rxNext + 1 })))
        ∧ (∀ v e, fits → writeVirt (edgeSrc u .gateway c.owner) c.owner (fldN d 64 40) frame u = (v, e) → (∀ w, e ≠ .ok w) →
            exec (.rxFrame ch format pcp frame) s = .next (drop
              ((putDescriptor ch va (doneDescriptor d 2 (layout80 v.now16)) v).modChannel ch fun c =>
                { c with rxNext := c.rxNext + 1 })))))
  ∧ (∀ (ch : Fin 8) (entered : Bool) (s : State),
      exec (.busOff ch entered) s = .next (s.modChannel ch fun c => { c with busOff := entered }))
  ∧ (∀ (bus : Byte) (addr : BitVec 40) (write : Option (List Byte)) (len : Nat) (s : State),
    let runs := s.fabricUp = true ∧ s.dyn.gateway.valid = true
    let a := addr.toNat
    (¬runs → exec (.pcieInbound bus addr write len) s = .next s)
    ∧ (runs → s.dyn.gateway.berthOf bus = none → exec (.pcieInbound bus addr write len) s = .next (pcieAnswer none s))
    ∧ (∀ b, runs → s.dyn.gateway.berthOf bus = some b →
        (∀ d, a = 0xFFFFF00000 → d.length = 4 →
          exec (.pcieInbound bus addr (some d) len) s = .next (raiseBerth b.toNat (ofBytes d % 64) s))
        ∧ (∀ d u v, (a ≠ 0xFFFFF00000 ∨ d.length ≠ 4) → writeVirt (edgeSrc s .gateway b) b a d s = (u, .ok v) →
            exec (.pcieInbound bus addr (some d) len) s = .next u)
        ∧ (∀ d u e, (a ≠ 0xFFFFF00000 ∨ d.length ≠ 4) → writeVirt (edgeSrc s .gateway b) b a d s = (u, e) → (∀ v, e ≠ .ok v) →
            exec (.pcieInbound bus addr (some d) len) s = .next (pcieAnswer none u))
        ∧ (∀ u d, readVirt (edgeSrc s .gateway b) b a len s = (u, .ok d) →
            exec (.pcieInbound bus addr none len) s = .next (pcieAnswer (some d) u))
        ∧ (∀ u e, readVirt (edgeSrc s .gateway b) b a len s = (u, e) → (∀ d, e ≠ .ok d) →
            exec (.pcieInbound bus addr none len) s = .next (pcieAnswer none u))))
  ∧ (∀ (tag : Nat) (data : List Byte) (ok : Bool) (s : State),
    let got := s.pcieRequest tag
    let u := fun (r : PcieReq) => dropRequest r.tag s
    ((got = none ∨ s.dyn.gateway.valid = false) → exec (.pcieCompletion tag data ok) s = .next s)
    ∧ (∀ r, got = some r → s.dyn.gateway.valid = true →
        (r.fill = none → r.reader = none → exec (.pcieCompletion tag data ok) s = .next (serveHeld (u r)))
        ∧ (∀ f, r.fill = some f → r.reader = none →
            exec (.pcieCompletion tag data true) s = .next (serveHeld (fillArrived f (takeBytes r.len data) (u r)))
            ∧ exec (.pcieCompletion tag data false) s = .next (serveHeld (fillFailed f (u r))))
        ∧ (∀ q, r.fill = none → r.reader = some q →
            exec (.pcieCompletion tag data false) s = .next (serveHeld (faultAccess q r.va .addressFault (u r))))
        ∧ (∀ q, r.fill = none → r.reader = some q → r.data = [] →
            exec (.pcieCompletion tag data true) s = .next (serveHeld (respond q r.va (.data (takeBytes r.len data)) (u r))))
        ∧ (∀ q, r.fill = none → r.reader = some q → r.data ≠ [] →
            exec (.pcieCompletion tag data true) s = .next (serveHeld (respond q r.va .done (u r)))))
    ∧ ((∀ r, got = some r → s.now16 < r.since + 50000 * us16) → exec (.pcieTimeout tag) s = .next s)
    ∧ (∀ r, got = some r → r.since + 50000 * us16 ≤ s.now16 →
        (r.fill = none → r.reader = none → exec (.pcieTimeout tag) s = .next (serveHeld (u r)))
        ∧ (∀ f, r.fill = some f → r.reader = none → exec (.pcieTimeout tag) s = .next (serveHeld (fillFailed f (u r))))
        ∧ (∀ q, r.fill = none → r.reader = some q →
            exec (.pcieTimeout tag) s = .next (serveHeld (faultAccess q r.va .addressFault (u r))))))
end

