-- ==== Sys2Proof/Laws/Tab.lean ====
section
/-! SUPPORT. Sparse tables: reading after writing, and the canonical form that every update keeps. -/

namespace Sys2Proof.Machine

set_option Elab.async false

variable {α : Type}

theorem tabWfFrom_mono [DecidableEq α] {d : α} {lo lo' : Nat} {t : Tab α} (h : lo ≤ lo') (w : tabWfFrom d lo' t = true) :
    tabWfFrom d lo t = true := by
  cases t with
  | nil => rfl
  | cons kv t => simp only [tabWfFrom, Bool.and_eq_true, decide_eq_true_eq] at w ⊢; exact ⟨⟨by omega, w.1.2⟩, w.2⟩

/-- Below its first key a canonical table reads the default. -/
theorem tabGet_below [DecidableEq α] {d : α} {lo n : Nat} {t : Tab α} (w : tabWfFrom d lo t = true) (h : n < lo) :
    tabGet d t n = d := by
  cases t with
  | nil => rfl
  | cons kv t =>
    obtain ⟨k, v⟩ := kv
    simp only [tabWfFrom, Bool.and_eq_true, decide_eq_true_eq] at w
    have : n < k := by omega
    simp [tabGet, this, Nat.ne_of_gt this]

theorem tabPut_wfFrom [DecidableEq α] {d : α} {lo : Nat} {t : Tab α} (w : tabWfFrom d lo t = true) {n : Nat} (h : lo ≤ n)
    (v : α) : tabWfFrom d lo (tabPut d t n v) = true := by
  induction t generalizing lo with
  | nil => by_cases hv : v = d <;> simp [tabPut, tabWfFrom, hv, h]
  | cons kw t ih =>
    obtain ⟨k, x⟩ := kw
    simp only [tabWfFrom, Bool.and_eq_true, decide_eq_true_eq, Bool.not_eq_true', decide_eq_false_iff_not] at w
    obtain ⟨⟨hk, hx⟩, ht⟩ := w
    unfold tabPut
    split
    · split
      · simp [tabWfFrom, hk, hx, ht]
      · have : n + 1 ≤ k := by omega
        simp [tabWfFrom, *]
    · split
      · split
        · exact tabWfFrom_mono (by omega) ht
        · subst_vars; simp [tabWfFrom, *]
      · have : k + 1 ≤ n := by omega
        simp [tabWfFrom, hk, hx, ih ht this]

/-- Writing an entry keeps the canonical form. -/
theorem tabPut_wf [DecidableEq α] {d : α} {t : Tab α} (w : tabWf d t = true) (n : Nat) (v : α) :
    tabWf d (tabPut d t n v) = true := tabPut_wfFrom w (Nat.zero_le n) v

/-- Updating an entry keeps the canonical form. -/
theorem tabMod_wf [DecidableEq α] {d : α} {t : Tab α} (w : tabWf d t = true) (n : Nat) (f : α → α) :
    tabWf d (tabMod d t n f) = true := tabPut_wf w n _

theorem tabGet_tabPut_from [DecidableEq α] {d : α} {lo : Nat} {t : Tab α} (w : tabWfFrom d lo t = true) (n : Nat) (v : α)
    (m : Nat) : tabGet d (tabPut d t n v) m = if m = n then v else tabGet d t m := by
  induction t generalizing lo with
  | nil =>
    unfold tabPut
    split
    · subst_vars; simp [tabGet]
    · simp only [tabGet]
      by_cases hm : m = n
      · simp [hm]
      · have hm' : ¬ n = m := fun e => hm e.symm
        simp [hm, hm']
  | cons kw t ih =>
    obtain ⟨k, x⟩ := kw
    simp only [tabWfFrom, Bool.and_eq_true, decide_eq_true_eq, Bool.not_eq_true', decide_eq_false_iff_not] at w
    obtain ⟨⟨hk, hx⟩, ht⟩ := w
    unfold tabPut
    split
    · rename_i hn
      split
      · subst_vars
        split
        · subst_vars; simp [tabGet, hn, Nat.ne_of_gt hn]
        · rfl
      · simp only [tabGet]
        by_cases hm : m = n
        · simp [hm]
        · have hm' : ¬ n = m := fun e => hm e.symm
          by_cases hlt : m < n
          · have h1 : ¬ k = m := by omega
            have h2 : m < k := by omega
            simp [hm, hm', hlt, h1, h2]
          · simp [hm, hm', hlt]
    · split
      · rename_i hkn
        subst hkn
        split
        · subst_vars
          by_cases hm : m = k
          · subst hm; simp [tabGet_below ht (Nat.lt_succ_self m)]
          · have hm' : ¬ k = m := fun e => hm e.symm
            simp only [tabGet, hm, hm', if_false]
            split
            · exact tabGet_below ht (by omega)
            · rfl
        · simp only [tabGet]
          by_cases hm : m = k
          · simp [hm]
          · have hm' : ¬ k = m := fun e => hm e.symm
            simp [hm, hm']
      · simp only [tabGet]
        by_cases hkm : k = m
        · subst hkm; rename_i h2; simp [h2]
        · by_cases hlt : m < k
          · have : ¬ m = n := by omega
            simp [hkm, hlt, this]
          · simp [hkm, hlt, ih ht]

/-- Reading an entry after writing one, in a canonical table. -/
theorem tabGet_tabPut [DecidableEq α] {d : α} {t : Tab α} (w : tabWf d t = true) (n : Nat) (v : α) (m : Nat) :
    tabGet d (tabPut d t n v) m = if m = n then v else tabGet d t m := tabGet_tabPut_from w n v m

/-- Reading an entry after updating one, in a canonical table. -/
theorem tabGet_tabMod [DecidableEq α] {d : α} {t : Tab α} (w : tabWf d t = true) (n : Nat) (f : α → α) (m : Nat) :
    tabGet d (tabMod d t n f) m = if m = n then f (tabGet d t n) else tabGet d t m := tabGet_tabPut w n _ m

/-- Reading the entry just written, in any table. -/
@[simp] theorem tabGet_tabPut_same [DecidableEq α] (d : α) (t : Tab α) (n : Nat) (v : α)
    (h : v ≠ d) : tabGet d (tabPut d t n v) n = v := by
  induction t with
  | nil => simp [tabPut, tabGet, h]
  | cons kw t ih =>
    obtain ⟨k, x⟩ := kw
    unfold tabPut
    by_cases h1 : n < k
    · simp [h1, h, tabGet]
    · by_cases h2 : k = n
      · simp [h2, h, tabGet]
      · simp [h1, h2, tabGet, ih]

theorem tabMap_wfFrom [DecidableEq α] {d : α} {f : Nat → α → α} {lo : Nat} {t : Tab α} (w : tabWfFrom d lo t = true) :
    tabWfFrom d lo (tabMap d f t) = true := by
  induction t generalizing lo with
  | nil => rfl
  | cons kw t ih =>
    obtain ⟨k, x⟩ := kw
    simp only [tabWfFrom, Bool.and_eq_true, decide_eq_true_eq] at w
    unfold tabMap
    split
    · exact ih (tabWfFrom_mono (by omega) w.2)
    · simp only [tabWfFrom, Bool.and_eq_true, decide_eq_true_eq]
      refine ⟨⟨w.1.1, ?_⟩, ih w.2⟩
      simpa using by assumption

end Sys2Proof.Machine
end

