-- ==== Sys2Proof/Laws/Admission.lean ====
section
/-! SUPPORT. An admitted packet acts: what `carry` answers once every check of R374 has passed, and what admission
leaves as it was. -/

namespace Sys2Proof.Machine

set_option Elab.async false

/-- Writing an entry that is not the default leaves every other entry, in any table. -/
theorem tabGet_tabPut_other {α : Type} [DecidableEq α] (d : α) (t : Tab α) (n m : Nat) (v : α) (hv : v ≠ d) (h : m ≠ n) :
    tabGet d (tabPut d t n v) m = tabGet d t m := by
  have h' : ¬ n = m := fun e => h e.symm
  induction t with
  | nil => simp [tabPut, tabGet, hv, h']
  | cons kw t ih =>
    obtain ⟨k, x⟩ := kw
    unfold tabPut
    by_cases h1 : n < k
    · by_cases h2 : m < n
      · have : m < k := by omega
        have : ¬ k = m := by omega
        simp [tabGet, *]
      · simp [h1, hv, tabGet, h', h2]
    · by_cases h2 : k = n
      · subst h2; simp [hv, tabGet, h']
      · simp [h1, h2, tabGet, ih]

/-! What taking a packet leaves -/

@[simp] theorem taken_dyn_cfg (c : Cmd) (s : State) : (s.taken c).dyn.cfg = s.dyn.cfg := by
  unfold State.taken; split <;> rfl

@[simp] theorem taken_lock (c : Cmd) (s : State) : (s.taken c).lock = s.lock := by
  unfold State.taken; split <;> rfl

@[simp] theorem taken_expected (c : Cmd) (s : State) : (s.taken c).expected c.path = s.expected c.path := by
  unfold State.taken
  split <;> rename_i p <;> rw [p] <;> simp only [State.expected]
  · rename_i q
    simp only [State.queue, reserveSlot, State.modQueue, State.modQueues, tabMod]
    by_cases e : q.toNat = (s.dyn.cfg.queueDesc q.toNat).cq.toNat
    · rw [← e, tabGet_tabPut_same _ _ _ _ (by intro h; have := congrArg QueueDyn.reserved h; simp at this)]
    · rw [tabGet_tabPut_other _ _ _ _ _ (by intro h; have := congrArg QueueDyn.reserved h; simp at this) e]
  · rename_i m
    simp only [State.mailbox, State.modMailbox, State.modMailboxes, tabMod]
    rw [tabGet_tabPut_same _ _ _ _ (by intro h; have := congrArg Mailbox.state h; simp at this)]
  · simp only [State.mailbox, State.modMailbox, State.modMailboxes, tabMod]
    rw [tabGet_tabPut_same _ _ _ _ (by intro h; have := congrArg Mailbox.state h; simp at this)]

@[simp] theorem ticketOf_taken (op : OpInfo) (c : Cmd) (s : State) : ticketOf op c (s.taken c) = ticketOf op c s := by
  have h := taken_dyn_cfg c s
  simp only [ticketOf, State.genOf, h]
  congr 1
  cases c.path <;> simp only [State.cqOf, h]

theorem arrive_takes {c : Cmd} {s : State} (h : s.takes c = true) : arrive c s = (some (s.taken c), s) := by
  unfold State.takes at h
  rw [Bool.and_eq_true] at h
  obtain ⟨h1, h2⟩ := h
  unfold arrive State.taken
  cases hp : c.path <;> simp_all [pathMailbox?]

/-- An admitted packet reaches its class: the class acts on its ticket in the admitted state. -/
theorem carry_admitted {op : OpInfo} {c : Cmd} {s : State} (h : Admits op c s = true) (act : Ticket → State → State) :
    carry op c act s = .next (act (ticketOf op c s) (admitted c s)) := by
  simp only [Admits, Bool.and_eq_true] at h
  obtain ⟨⟨h1, h2⟩, h3⟩ := h
  have h3' : firstFailure op c (s.taken c) = none := by simpa using h3
  unfold carry
  rw [arrive_takes h1]
  simp only [carryTaken, passChecks5, h3', ticketOf_taken]
  have e : (ticketOf op c s).cmd = c := rfl
  rw [e, taken_expected]
  unfold State.inTurn at h2
  split
  · next t s' e =>
    split at e
    · split at e
      · simp_all
      · cases e; rfl
    · cases e; rfl
  · next s' e =>
    split at e
    · split at e
      · simp_all
      · cases e
    · cases e

/-- The same for a command that may have to wait: `act` answers none while it may not start. -/
theorem carryWait_admitted {op : OpInfo} {c : Cmd} {s : State} (h : Admits op c s = true)
    (act : Ticket → State → Option State) :
    carryWait op c act s = .next ((act (ticketOf op c s) (admitted c s)).getD s) := by
  have e := carry_admitted h fun t x => (act t x).getD s
  unfold carry at e
  unfold carryWait
  exact e

/-- The same for a command that makes a job: it is taken only if no header it names is still written and the job may start. -/
theorem carryJob_admitted {op : OpInfo} {heads : Ticket → State → List (Nat × Nat)} {c : Cmd} {s : State}
    (h : Admits op c s = true) (act : Ticket → State → State) :
    carryJob op heads c act s
      = .next (if s.headersWait heads op c then s else startable c s (act (ticketOf op c s) (admitted c s))) := by
  have e := carry_admitted h act
  unfold carry at e
  unfold carryJob
  have h1 : s.takes c = true := by simp only [Admits, Bool.and_eq_true] at h; exact h.1.1
  rw [arrive_takes h1] at e ⊢
  simp only [Host.Outcome.next.injEq] at e ⊢
  rw [e]
  split <;> rfl

/-- A packet that names no header never waits for one. -/
@[simp] theorem headersWait_nil (s : State) (op : OpInfo) (c : Cmd) : s.headersWait (fun _ _ => []) op c = false := by
  unfold State.headersWait
  split
  · have : ∀ b, anyMeet [] b = false := fun _ => rfl
    simp only [State.mustWait, this, tabAny, Bool.and_false]
    simp only [Bool.and_eq_false_imp, Bool.or_eq_false_iff, List.any_eq_false]
    exact fun _ => ⟨fun x _ => by split <;> simp, fun x _ => by split <;> simp⟩
  · rfl

@[simp] theorem ticketOf_cmd (op : OpInfo) (c : Cmd) (s : State) : (ticketOf op c s).cmd = c := rfl
@[simp] theorem ticketOf_gen (op : OpInfo) (c : Cmd) (s : State) : (ticketOf op c s).gen = s.genOf c := rfl
@[simp] theorem ticketOf_opcode (op : OpInfo) (c : Cmd) (s : State) : (ticketOf op c s).opcode = op.opcode := rfl

end Sys2Proof.Machine
end

