-- ==== Sys2Proof/Laws/Keeps.lean ====
section
/-! SUPPORT. What every meaning keeps: memory in canonical form, and the waiting commands. -/

namespace Sys2Proof.Machine

set_option Elab.async false

/-- Memory is in canonical form and `q` are the waiting commands. -/
def Keeps (q : List Instr) (s : State) : Prop := s.mem.wf = true ∧ s.pending = q

theorem Memory.wf_iff {m : Memory} : m.wf = true ↔ tabWf 0 m.bytes = true ∧ tabWf 0 m.errs = true := by
  simp [Memory.wf]

theorem putBytes_wf {t : Tab Byte} (h : tabWf 0 t = true) (a : Nat) (bs : List Byte) : tabWf 0 (putBytes t a bs) = true := by
  induction bs generalizing t a with
  | nil => exact h
  | cons b bs ih => exact ih (tabPut_wf h a b) (a + 1)

theorem Memory.setLine_wf {m : Memory} (h : m.wf = true) (l : Nat) (bs : List Byte) : (m.setLine l bs).wf = true := by
  rw [Memory.wf_iff] at h ⊢
  exact ⟨putBytes_wf h.1 _ _, tabPut_wf h.2 _ _⟩

variable {q : List Instr} {s : State}

theorem Keeps.modMem {g : Memory → Memory} (h : Keeps q s) (w : s.mem.wf = true → (g s.mem).wf = true) :
    Keeps q (s.modMem g) := ⟨w h.1, h.2⟩

theorem setLine_k (h : Keeps q s) (l : Nat) (bs : List Byte) : Keeps q (s.modMem fun m => m.setLine l bs) :=
  h.modMem fun w => Memory.setLine_wf w l bs

theorem putBytes_k (h : Keeps q s) (a : Nat) (bs : List Byte) :
    Keeps q (s.modMem fun m => { m with bytes := putBytes m.bytes a bs }) :=
  h.modMem fun w => by rw [Memory.wf_iff] at w ⊢; exact ⟨putBytes_wf w.1 _ _, w.2⟩

theorem flips_k (h : Keeps q s) (l : Nat) (f : BitVec 544 → BitVec 544) :
    Keeps q (s.modMem fun m => { m with errs := tabMod 0 m.errs l f }) :=
  h.modMem fun w => by rw [Memory.wf_iff] at w ⊢; exact ⟨w.1, tabMod_wf w.2 _ _⟩

/-- Everything but memory and the waiting commands may change. -/
theorem Keeps.same (h : Keeps q s) (d n : Dyn) (l : Lock) (b : Tab Mailbox) (i : I3cTarget)
    (a : List (Requester × BitVec 40 × Answer)) (f : Nat) (k : List Nat) :
    Keeps q { dyn := d, snap := n, lock := l, mailboxes := b, i3c := i, mem := s.mem, answers := a, free := f,
              blocked := k, pending := s.pending } := h

theorem foldl_k {α : Type} {f : State → α → State} (hf : ∀ s x, Keeps q s → Keeps q (f s x)) (xs : List α) (h : Keeps q s) :
    Keeps q (xs.foldl f s) := by
  induction xs generalizing s with
  | nil => exact h
  | cons x xs ih => exact ih (hf s x h)

end Sys2Proof.Machine
end

