-- ==== Sys2Proof/Laws/KeepsSetters.lean ====
section
/-! SUPPORT. Machine/Setters.lean keeps memory canonical and the waiting commands. -/

namespace Sys2Proof.Machine

set_option Elab.async false

variable {q : List Instr} {s : State}

theorem State.modCfg_keeps (x0) (h : Keeps q s) : Keeps q (State.modCfg x0 s) := by
  exact h

theorem State.modTime_keeps (x0) (h : Keeps q s) : Keeps q (State.modTime x0 s) := by
  exact h

theorem State.modPower_keeps (x0) (h : Keeps q s) : Keeps q (State.modPower x0 s) := by
  exact h

theorem State.modTiles_keeps (x0) (h : Keeps q s) : Keeps q (State.modTiles x0 s) := by
  exact h

theorem State.modQueues_keeps (x0) (h : Keeps q s) : Keeps q (State.modQueues x0 s) := by
  exact h

theorem State.modWork_keeps (x0) (h : Keeps q s) : Keeps q (State.modWork x0 s) := by
  exact h

theorem State.modRaster_keeps (x0) (h : Keeps q s) : Keeps q (State.modRaster x0 s) := by
  exact h

theorem State.modDisplays_keeps (x0) (h : Keeps q s) : Keeps q (State.modDisplays x0 s) := by
  exact h

theorem State.modIngest_keeps (x0) (h : Keeps q s) : Keeps q (State.modIngest x0 s) := by
  exact h

theorem State.modFusion_keeps (x0) (h : Keeps q s) : Keeps q (State.modFusion x0 s) := by
  exact h

theorem State.modIsland_keeps (x0) (h : Keeps q s) : Keeps q (State.modIsland x0 s) := by
  exact h

theorem State.modSafety_keeps (x0) (h : Keeps q s) : Keeps q (State.modSafety x0 s) := by
  exact h

theorem State.modBring_keeps (x0) (h : Keeps q s) : Keeps q (State.modBring x0 s) := by
  exact h

theorem State.modErrors_keeps (x0) (h : Keeps q s) : Keeps q (State.modErrors x0 s) := by
  exact h

theorem State.modIsgal_keeps (x0) (h : Keeps q s) : Keeps q (State.modIsgal x0 s) := by
  exact h

theorem State.modGateway_keeps (x0) (h : Keeps q s) : Keeps q (State.modGateway x0 s) := by
  exact h

theorem State.modCores_keeps (x0) (h : Keeps q s) : Keeps q (State.modCores x0 s) := by
  exact h

theorem State.modLock_keeps (x0) (h : Keeps q s) : Keeps q (State.modLock x0 s) := by
  exact h

theorem State.modMailboxes_keeps (x0) (h : Keeps q s) : Keeps q (State.modMailboxes x0 s) := by
  exact h

theorem State.modI3c_keeps (x0) (h : Keeps q s) : Keeps q (State.modI3c x0 s) := by
  exact h

theorem State.modAllCfg_keeps (x0) (h : Keeps q s) : Keeps q (State.modAllCfg x0 s) := by
  exact h

theorem State.bump_keeps (h : Keeps q s) : Keeps q (State.bump s) := by
  exact h

theorem State.modQueue_keeps (x0 x1) (h : Keeps q s) : Keeps q (State.modQueue x0 x1 s) := by
  exact h

theorem State.modMailbox_keeps (x0 x1) (h : Keeps q s) : Keeps q (State.modMailbox x0 x1 s) := by
  exact h

theorem State.modTile_keeps (x0 x1) (h : Keeps q s) : Keeps q (State.modTile x0 x1 s) := by
  exact h

theorem State.modTileWork_keeps (x0 x1) (h : Keeps q s) : Keeps q (State.modTileWork x0 x1 s) := by
  exact h

theorem State.modJob_keeps (x0 x1) (h : Keeps q s) : Keeps q (State.modJob x0 x1 s) := by
  exact h

end Sys2Proof.Machine
end

