-- ==== Sys2Proof/Laws/KeepsOps.lean ====
section
/-! SUPPORT. Machine/Ops.lean keeps memory canonical and the waiting commands. -/

namespace Sys2Proof.Machine

set_option Elab.async false

variable {q : List Instr} {s : State}

theorem raiseBerth_keeps (x0 x1) (h : Keeps q s) : Keeps q (raiseBerth x0 x1 s) := by
  grind [raiseBerth, State.modCores_keeps, Keeps.same]

theorem requestIbi_keeps (x0) (h : Keeps q s) : Keeps q (requestIbi x0 s) := by
  grind [requestIbi, State.modI3c_keeps, Keeps.same]

theorem raiseDoubt_keeps (x0) (h : Keeps q s) : Keeps q (raiseDoubt x0 s) := by
  grind [raiseDoubt, State.modSafety_keeps, requestIbi_keeps, Keeps.same]

theorem enterError_keeps (x0) (h : Keeps q s) : Keeps q (enterError x0 s) := by
  grind [enterError, State.modErrors_keeps, Keeps.same]

theorem flushSecond_keeps (x0 x1 x2) (h : Keeps q s) : Keeps q (flushSecond x0 x1 x2 s) := by
  grind [flushSecond, enterError_keeps, Keeps.same]

theorem addError_keeps (x0) (h : Keeps q s) : Keeps q (addError x0 s) := by
  grind [addError, enterError_keeps, Keeps.same]

theorem queueFrame_keeps (x0) (h : Keeps q s) : Keeps q (queueFrame x0 s) := by
  grind [queueFrame, State.modLock_keeps, Keeps.same]

theorem copyRow_keeps (x0) (h : Keeps q s) : Keeps q (copyRow x0 s) := by
  induction x0 generalizing s with
  | nil => exact h
  | cons l t ih =>
    unfold copyRow
    split
    · exact ih (setLine_k h _ _)
    · exact ih (by grind [queueFrame_keeps])

theorem spareRow_keeps (x0) (h : Keeps q s) : Keeps q (spareRow x0 s) := by
  grind [spareRow, State.modErrors_keeps, addError_keeps, copyRow_keeps, Keeps.same]

theorem noteCorrection_keeps (x0) (h : Keeps q s) : Keeps q (noteCorrection x0 s) := by
  unfold noteCorrection
  generalize day16 = d
  grind [spareRow_keeps, addError_keeps, State.modErrors_keeps]

theorem countCorrection_keeps (x0 x1 x2) (h : Keeps q s) : Keeps q (countCorrection x0 x1 x2 s) := by
  grind [countCorrection, State.modErrors_keeps, flushSecond_keeps, Keeps.same]

theorem noteUncorrectable_keeps (x0 x1) (h : Keeps q s) : Keeps q (noteUncorrectable x0 x1 s) := by
  grind [noteUncorrectable, State.modSafety_keeps, addError_keeps, queueFrame_keeps, raiseDoubt_keeps, Keeps.same]

theorem readDramLine_keeps (x0 x1) (h : Keeps q s) : Keeps q (readDramLine x0 x1 s).1 := by
  unfold readDramLine
  split
  · exact h
  · split
    · exact h
    · exact noteCorrection_keeps _ (countCorrection_keeps _ _ _ (setLine_k h _ _))
    · exact noteUncorrectable_keeps _ _ h

theorem flipLine_keeps (x0 x1) (h : Keeps q s) : Keeps q (flipLine x0 x1 s) := by
  unfold flipLine
  split
  · exact h
  · exact flips_k h _ _

theorem readDramLines_keeps (x0 x1) (h : Keeps q s) : Keeps q (readDramLines x0 x1 s).1 := by
  induction x1 generalizing s <;> grind [readDramLines, readDramLine_keeps]

theorem readDram_keeps (x0 x1 x2) (h : Keeps q s) : Keeps q (readDram x0 x1 x2 s).1 := by
  grind [readDram, readDramLines_keeps, Keeps.same]

theorem endLockOn_keeps (x0) (h : Keeps q s) : Keeps q (endLockOn x0 s) := by
  grind [endLockOn, State.modCores_keeps, State.modIsgal_keeps, State.modWork_keeps, Keeps.same]

theorem writeDramLine_keeps (x0 x1 x2) (h : Keeps q s) : Keeps q (writeDramLine x0 x1 x2 s).1 := by
  have h0 := endLockOn_keeps (x1 / 64) h
  unfold writeDramLine
  dsimp only
  split
  · exact h0
  · split
    · exact setLine_k h0 _ _
    · have h1 := readDramLine_keeps x0 (x1 / 64) h0
      split
      · next e => rw [e] at h1; exact h1
      · next e => rw [e] at h1; exact setLine_k h1 _ _

theorem writeDramN_keeps (x0 x1 x2 x3) (h : Keeps q s) : Keeps q (writeDramN x0 x1 x2 x3 s).1 := by
  induction x1 generalizing s x2 x3 <;> grind [writeDramN, writeDramLine_keeps]

theorem writeDram_keeps (x0 x1 x2) (h : Keeps q s) : Keeps q (writeDram x0 x1 x2 s).1 := by
  grind [writeDram, writeDramN_keeps, Keeps.same]

theorem loseLine_keeps (x0 x1) (h : Keeps q s) : Keeps q (loseLine x0 x1 s) := by
  grind [loseLine, State.modErrors_keeps, State.modLock_keeps, Keeps.same]

theorem readDoubled_keeps (x0 x1 x2 x3) (h : Keeps q s) : Keeps q (readDoubled x0 x1 x2 x3 s).1 := by
  unfold readDoubled
  split
  · exact readDramLine_keeps _ _ h
  · split
    · exact noteCorrection_keeps _ (addError_keeps _ (setLine_k h _ _))
    · exact loseLine_keeps _ _ (noteUncorrectable_keeps _ _ h)

theorem cacheEntry_keeps (x0 x1) (h : Keeps q s) : Keeps q (cacheEntry x0 x1 s) := by
  grind [cacheEntry, State.modWork_keeps, Keeps.same]

theorem walk_keeps (x0 x1) (h : Keeps q s) : Keeps q (walk x0 x1 s).1 := by
  unfold walk
  dsimp only
  repeat' (first | with_reducible assumption | intro _ _ _ | split | grind [cacheEntry_keeps, readDoubled_keeps, Keeps.same])

theorem State.modPort_keeps (x0 x1) (h : Keeps q s) : Keeps q (State.modPort x0 x1 s) := by
  grind [State.modPort, State.modIsgal_keeps, Keeps.same]

theorem transmit_keeps (x0 x1 x2 x3) (h : Keeps q s) : Keeps q (transmit x0 x1 x2 x3 s) := by
  grind [transmit, State.modIsgal_keeps, State.modPort_keeps, Keeps.same]

theorem sendStamped_keeps (x0) (h : Keeps q s) : Keeps q (sendStamped x0 s) := by
  grind [sendStamped, State.modIsgal_keeps, transmit_keeps, Keeps.same]

theorem sendPeer_keeps (x0 x1 x2) (h : Keeps q s) : Keeps q (sendPeer x0 x1 x2 s) := by
  grind [sendPeer, sendStamped_keeps, Keeps.same]

theorem sendWaiting_keeps (h : Keeps q s) : Keeps q (sendWaiting s) := by
  unfold sendWaiting
  repeat' (first | with_reducible assumption | apply foldl_k | intro _ _ _ | split | grind [State.modIsgal_keeps, sendStamped_keeps, Keeps.same])

theorem putPcie_keeps (x0) (h : Keeps q s) : Keeps q (putPcie x0 s) := by
  grind [putPcie, State.modGateway_keeps, Keeps.same]

theorem respond_keeps (x0 x1 x2) (h : Keeps q s) : Keeps q (respond x0 x1 x2 s) := ⟨h.1, h.2⟩

theorem awaken_keeps (x0) (h : Keeps q s) : Keeps q (awaken x0 s) := by
  grind [awaken, State.modTile_keeps, Keeps.same]

theorem sendUnheard_keeps (x0 x1 x2 x3 x4) (h : Keeps q s) : Keeps q (sendUnheard x0 x1 x2 x3 x4 s) := by
  grind [sendUnheard, State.modIsgal_keeps, sendPeer_keeps, Keeps.same]

theorem readEntry_keeps (x0 x1 x2 x3 x4) (h : Keeps q s) : Keeps q (readEntry x0 x1 x2 x3 x4 s).1 := by
  unfold readEntry
  repeat' (first | with_reducible assumption | apply foldl_k | intro _ _ _ | split | grind [State.bump_keeps, awaken_keeps, putPcie_keeps, readDram_keeps, sendUnheard_keeps, Keeps.same])

theorem readParts_keeps (x0 x1 x2) (h : Keeps q s) : Keeps q (readParts x0 x1 x2 s).1 := by
  revert h
  fun_induction readParts x0 x1 x2 s <;> intro h <;> grind [readParts, readEntry_keeps, walk_keeps, Keeps.same]

theorem readVirt_keeps (x0 x1 x2 x3) (h : Keeps q s) : Keeps q (readVirt x0 x1 x2 x3 s).1 := by
  grind [readVirt, readParts_keeps, Keeps.same]

theorem writeEntry_keeps (x0 x1 x2 x3 x4) (h : Keeps q s) : Keeps q (writeEntry x0 x1 x2 x3 x4 s).1 := by
  unfold writeEntry
  repeat' (first | with_reducible assumption | apply foldl_k | intro _ _ _ | split | grind [awaken_keeps, putPcie_keeps, sendPeer_keeps, sendUnheard_keeps, writeDram_keeps, Keeps.same])

theorem writeParts_keeps (x0 x1 x2 x3) (h : Keeps q s) : Keeps q (writeParts x0 x1 x2 x3 s).1 := by
  revert h
  fun_induction writeParts x0 x1 x2 x3 s <;> intro h <;> grind [writeParts, walk_keeps, writeEntry_keeps, Keeps.same]

theorem writeVirt_keeps (x0 x1 x2 x3) (h : Keeps q s) : Keeps q (writeVirt x0 x1 x2 x3 s).1 := by
  grind [writeVirt, writeParts_keeps, Keeps.same]

theorem writeIndex_keeps (x0 x1) (h : Keeps q s) : Keeps q (writeIndex x0 x1 s) := by
  grind [writeIndex, writeVirt_keeps, Keeps.same]

theorem ringWrite_keeps (x0 x1 x2) (h : Keeps q s) : Keeps q (ringWrite x0 x1 x2 s).1 := by
  grind [ringWrite, State.modQueue_keeps, writeIndex_keeps, writeVirt_keeps, Keeps.same]

theorem reserveSlot_keeps (x0) (h : Keeps q s) : Keeps q (reserveSlot x0 s) := by
  grind [reserveSlot, State.modQueue_keeps, Keeps.same]

theorem releaseSlot_keeps (x0) (h : Keeps q s) : Keeps q (releaseSlot x0 s) := by
  grind [releaseSlot, State.modQueue_keeps, Keeps.same]

theorem mailboxReply_keeps (x0 x1) (h : Keeps q s) : Keeps q (mailboxReply x0 x1 s) := by
  grind [mailboxReply, State.modMailbox_keeps, raiseBerth_keeps, requestIbi_keeps, Keeps.same]

theorem replyMailbox_keeps (x0 x1 x2 x3) (h : Keeps q s) : Keeps q (replyMailbox x0 x1 x2 x3 s) := by
  grind [replyMailbox, mailboxReply_keeps, Keeps.same]

theorem writeBlock_keeps (x0 x1 x2) (h : Keeps q s) : Keeps q (writeBlock x0 x1 x2 s).1 := by
  grind [writeBlock, writeVirt_keeps, Keeps.same]

theorem recordQueue_keeps (x0 x1 x2 x3 x4) (h : Keeps q s) : Keeps q (recordQueue x0 x1 x2 x3 x4 s) := by
  grind [recordQueue, State.modIsgal_keeps, raiseBerth_keeps, ringWrite_keeps, writeBlock_keeps, Keeps.same]

theorem writeRecord_keeps (x0 x1 x2) (h : Keeps q s) : Keeps q (writeRecord x0 x1 x2 s) := by
  grind [writeRecord, recordQueue_keeps, releaseSlot_keeps, replyMailbox_keeps, Keeps.same]

theorem moreRecord_keeps (x0 x1 x2 x3 x4) (h : Keeps q s) : Keeps q (moreRecord x0 x1 x2 x3 x4 s) := by
  grind [moreRecord, recordQueue_keeps, ringWrite_keeps, Keeps.same]

end Sys2Proof.Machine
end

