-- ==== Sys2Proof/Laws/KeepsCarry.lean ====
section
/-! SUPPORT. Machine/Carry.lean keeps memory canonical and the waiting commands. -/

namespace Sys2Proof.Machine

set_option Elab.async false

variable {q : List Instr} {s : State}

theorem setExpected_keeps (x0 x1) (h : Keeps q s) : Keeps q (setExpected x0 x1 s) := by
  unfold setExpected
  grind [State.modMailbox_keeps, State.modQueue_keeps, Keeps.same]

theorem passChecks5_keeps (x0 x1) (h : Keeps q s) : Keeps q (passChecks5 x0 x1 s).1 := by
  grind [passChecks5, setExpected_keeps, writeRecord_keeps, Keeps.same]

theorem carryTaken_keeps {op : OpInfo} {c : Cmd} {act : Ticket → State → State} (ha : ∀ t s, Keeps q s → Keeps q (act t s))
    (h : Keeps q s) : Keeps q (carryTaken op c act s) := by
  unfold carryTaken
  have hp := passChecks5_keeps (ticketOf op c s) (firstFailure op c s) h
  split
  · next e => rw [e] at hp; exact ha _ _ hp
  · next e => rw [e] at hp; exact hp

theorem arrive_keeps (c : Cmd) (h : Keeps q s) : Keeps q (arrive c s).2 ∧ ∀ t, (arrive c s).1 = some t → Keeps q t := by
  unfold arrive
  grind [State.modMailbox_keeps, reserveSlot_keeps]

theorem carry_keeps {op : OpInfo} {c : Cmd} {act : Ticket → State → State} (ha : ∀ t s, Keeps q s → Keeps q (act t s))
    (h : Keeps q s) : ∀ t, carry op c act s = .next t → Keeps q t := by
  unfold carry
  have hv := arrive_keeps c h
  intro t ht
  split at ht
  · next e => rw [e] at hv; cases ht; exact carryTaken_keeps ha (hv.2 _ rfl)
  · next e => rw [e] at hv; cases ht; exact hv.1

theorem carryWait_keeps {op : OpInfo} {c : Cmd} {act : Ticket → State → Option State}
    (ha : ∀ t s, Keeps q s → ∀ u, act t s = some u → Keeps q u) (h : Keeps q s) :
    ∀ t, carryWait op c act s = .next t → Keeps q t := by
  unfold carryWait
  have hv := arrive_keeps c h
  intro t ht
  split at ht
  · next e =>
    rw [e] at hv; cases ht
    refine carryTaken_keeps (fun t x hx => ?_) (hv.2 _ rfl)
    cases hact : act t x with
    | none => exact h
    | some u => exact ha _ _ hx _ hact
  · next e => rw [e] at hv; cases ht; exact hv.1

theorem acceptConfig_keeps (x0 x1) (h : Keeps q s) : Keeps q (acceptConfig x0 x1 s) := by
  grind [acceptConfig, State.bump_keeps, State.modLock_keeps, writeRecord_keeps, Keeps.same]

theorem answer_keeps (x0 x1 x2) (h : Keeps q s) : Keeps q (answer x0 x1 x2 s) := by
  grind [answer, writeRecord_keeps, Keeps.same]

theorem refuseMessage_keeps (x0 x1 x2) (h : Keeps q s) : Keeps q (refuseMessage x0 x1 x2 s) := by
  grind [refuseMessage, mailboxReply_keeps, Keeps.same]

end Sys2Proof.Machine
end

