-- ==== Sys2Proof/Laws/KeepsBasins.lean ====
section
/-! SUPPORT. Machine/Basins.lean keeps memory canonical and the waiting commands. -/

namespace Sys2Proof.Machine

set_option Elab.async false

variable {q : List Instr} {s : State}

theorem execBasinCreate_keeps (x0) (h : Keeps q s) : ∀ t, execBasinCreate x0 s = .next t → Keeps q t := by
  unfold execBasinCreate
  exact carry_keeps (fun t s h => by grind [acceptConfig_keeps]) h

theorem execBasinModify_keeps (x0) (h : Keeps q s) : ∀ t, execBasinModify x0 s = .next t → Keeps q t := by
  unfold execBasinModify
  exact carry_keeps (fun t s h => by grind [acceptConfig_keeps]) h

theorem execBasinDestroy_keeps (x0) (h : Keeps q s) : ∀ t, execBasinDestroy x0 s = .next t → Keeps q t := by
  unfold execBasinDestroy
  exact carry_keeps (fun t s h => by grind [acceptConfig_keeps]) h

theorem actGetBasin_keeps (x0) (h : Keeps q s) : Keeps q (actGetBasin x0 s) := by
  grind [actGetBasin, writeRecord_keeps, Keeps.same]

theorem execGetBasin_keeps (x0) (h : Keeps q s) : ∀ t, execGetBasin x0 s = .next t → Keeps q t := by
  unfold execGetBasin
  exact carry_keeps (fun t s h => by grind [actGetBasin_keeps]) h

theorem execCutSet_keeps (x0) (h : Keeps q s) : ∀ t, execCutSet x0 s = .next t → Keeps q t := by
  unfold execCutSet
  exact carry_keeps (fun t s h => by grind [acceptConfig_keeps]) h

theorem execCutClear_keeps (x0) (h : Keeps q s) : ∀ t, execCutClear x0 s = .next t → Keeps q t := by
  unfold execCutClear
  exact carry_keeps (fun t s h => by grind [acceptConfig_keeps]) h

end Sys2Proof.Machine
end

