-- ==== Sys2Proof/Laws/KeepsBerths.lean ====
section
/-! SUPPORT. Machine/Berths.lean keeps memory canonical and the waiting commands. -/

namespace Sys2Proof.Machine

set_option Elab.async false

variable {q : List Instr} {s : State}

theorem execBerthCreate_keeps (x0) (h : Keeps q s) : ∀ t, execBerthCreate x0 s = .next t → Keeps q t := by
  unfold execBerthCreate
  exact carry_keeps (fun t s h => by grind [acceptConfig_keeps]) h

theorem execBerthModify_keeps (x0) (h : Keeps q s) : ∀ t, execBerthModify x0 s = .next t → Keeps q t := by
  unfold execBerthModify
  exact carry_keeps (fun t s h => by grind [acceptConfig_keeps]) h

theorem execBerthReset_keeps (x0) (h : Keeps q s) : ∀ t, execBerthReset x0 s = .next t → Keeps q t := by
  unfold execBerthReset
  exact carry_keeps (fun t s h => by grind [acceptConfig_keeps]) h

theorem execBerthDestroy_keeps (x0) (h : Keeps q s) : ∀ t, execBerthDestroy x0 s = .next t → Keeps q t := by
  unfold execBerthDestroy
  exact carry_keeps (fun t s h => by grind [acceptConfig_keeps]) h

theorem execBerthGrant_keeps (x0) (h : Keeps q s) : ∀ t, execBerthGrant x0 s = .next t → Keeps q t := by
  unfold execBerthGrant
  exact carry_keeps (fun t s h => by grind [acceptConfig_keeps]) h

theorem actGetBerth_keeps (x0) (h : Keeps q s) : Keeps q (actGetBerth x0 s) := by
  grind [actGetBerth, writeRecord_keeps, Keeps.same]

theorem execGetBerth_keeps (x0) (h : Keeps q s) : ∀ t, execGetBerth x0 s = .next t → Keeps q t := by
  unfold execGetBerth
  exact carry_keeps (fun t s h => by grind [actGetBerth_keeps]) h

end Sys2Proof.Machine
end

