-- ==== Sys2Proof/Laws/KeepsJobs.lean ====
section
/-! SUPPORT. Machine/Jobs.lean keeps memory canonical and the waiting commands. -/

namespace Sys2Proof.Machine

set_option Elab.async false

variable {q : List Instr} {s : State}

theorem flushPeer_keeps (x0 x1 x2 x3 x4) (h : Keeps q s) : Keeps q (flushPeer x0 x1 x2 x3 x4 s) := by
  grind [flushPeer, State.modIsgal_keeps, sendPeer_keeps, Keeps.same]

theorem fenceWrites_keeps (x0 x1 x2 x3) (h : Keeps q s) : Keeps q (fenceWrites x0 x1 x2 x3 s) := by
  unfold fenceWrites
  repeat' (first | with_reducible assumption | apply foldl_k | intro _ _ _ | split | grind [State.modTileWork_keeps, flushPeer_keeps, Keeps.same])

theorem touchTile_keeps (x0) (h : Keeps q s) : Keeps q (touchTile x0 s) := by
  grind [touchTile, State.modTile_keeps, Keeps.same]

theorem releaseJob_keeps (x0) (h : Keeps q s) : Keeps q (releaseJob x0 s) := by
  unfold releaseJob
  repeat' (first | with_reducible assumption | apply foldl_k | intro _ _ _ | split | grind [State.modWork_keeps, touchTile_keeps, Keeps.same])

theorem completeJob_keeps (x0) (h : Keeps q s) : Keeps q (completeJob x0 s) := by
  grind [completeJob, State.bump_keeps, releaseJob_keeps, writeRecord_keeps, Keeps.same]

theorem faultQueue_keeps (x0 x1) (h : Keeps q s) : Keeps q (faultQueue x0 x1 s) := by
  unfold faultQueue
  grind [State.modQueue_keeps, Keeps.same]

theorem failJob_keeps (x0 x1 x2 x3) (h : Keeps q s) : Keeps q (failJob x0 x1 x2 x3 s) := by
  grind [failJob, State.bump_keeps, State.modSafety_keeps, faultQueue_keeps, releaseJob_keeps, writeRecord_keeps, Keeps.same]

theorem failOn_keeps (x0 x1 x2) (h : Keeps q s) : Keeps q (failOn x0 x1 x2 s) := by
  grind [failOn, failJob_keeps, Keeps.same]

theorem accessFailed_keeps {α : Type} (x0 : ℕ) (x1 : Access α) (x2 : ℕ) (x3 : ℕ) (h : Keeps q s) : Keeps q (accessFailed x0 x1 x2 x3 s) := by
  unfold accessFailed
  grind [failJob_keeps, Keeps.same]

theorem addJob_keeps (x0) (h : Keeps q s) : Keeps q (addJob x0 s) := by
  grind [addJob, State.modWork_keeps, Keeps.same]

theorem setPlaced_keeps (x0 x1) (h : Keeps q s) : Keeps q (setPlaced x0 x1 s) := by
  grind [setPlaced, State.modWork_keeps, Keeps.same]

theorem keepLeaf_keeps (x0 x1 s') (h : Keeps q s) : Keeps q (keepLeaf x0 x1 s s') := by
  unfold keepLeaf
  split
  · exact h
  · exact State.modWork_keeps _ (State.modQueue_keeps _ _ h)

theorem startable_keeps (x0) {s' : State} (h : Keeps q s) (h' : Keeps q s') : Keeps q (startable x0 s s') := by
  unfold startable
  repeat' (first | exact h' | exact keepLeaf_keeps _ _ _ h | split)

theorem carryJob_keeps {op : OpInfo} {heads : Ticket → State → List (Nat × Nat)} {c : Cmd} {act : Ticket → State → State}
    (ha : ∀ t s, Keeps q s → Keeps q (act t s)) (h : Keeps q s) : ∀ t, carryJob op heads c act s = .next t → Keeps q t := by
  unfold carryJob
  have hv := arrive_keeps c h
  intro t ht
  split at ht
  · next e =>
    rw [e] at hv
    split at ht
    · cases ht; exact h
    · cases ht; exact startable_keeps _ h (carryTaken_keeps ha (hv.2 _ rfl))
  · next e => rw [e] at hv; cases ht; exact hv.1

end Sys2Proof.Machine
end

