-- ==== Sys2Proof/Laws/KeepsGranules.lean ====
section
/-! SUPPORT. Machine/Granules.lean keeps memory canonical and the waiting commands. -/

namespace Sys2Proof.Machine

set_option Elab.async false

variable {q : List Instr} {s : State}

theorem regrant_keeps (x0) (h : Keeps q s) : Keeps q (regrant x0 s) := by
  unfold regrant
  dsimp only
  split
  · exact h
  · exact ⟨h.1, h.2⟩

end Sys2Proof.Machine
end

