-- ==== Sys2Proof/Laws/KeepsQueues.lean ====
section
/-! SUPPORT. Machine/Queues.lean keeps memory canonical and the waiting commands. -/

namespace Sys2Proof.Machine

set_option Elab.async false

variable {q : List Instr} {s : State}

theorem execQueueCreate_keeps (x0) (h : Keeps q s) : ∀ t, execQueueCreate x0 s = .next t → Keeps q t := by
  unfold execQueueCreate
  exact carry_keeps (fun t s h => by grind [acceptConfig_keeps]) h

theorem execQueueModify_keeps (x0) (h : Keeps q s) : ∀ t, execQueueModify x0 s = .next t → Keeps q t := by
  unfold execQueueModify
  exact carry_keeps (fun t s h => by grind [acceptConfig_keeps]) h

theorem execQueueDestroy_keeps (x0) (h : Keeps q s) : ∀ t, execQueueDestroy x0 s = .next t → Keeps q t := by
  unfold execQueueDestroy
  exact carry_keeps (fun t s h => by grind [acceptConfig_keeps]) h

theorem execQueueResume_keeps (x0) (h : Keeps q s) : ∀ t, execQueueResume x0 s = .next t → Keeps q t := by
  unfold execQueueResume
  exact carry_keeps (fun t s h => by grind [acceptConfig_keeps]) h

theorem actGetQueue_keeps (x0) (h : Keeps q s) : Keeps q (actGetQueue x0 s) := by
  grind [actGetQueue, writeRecord_keeps, Keeps.same]

theorem execGetQueue_keeps (x0) (h : Keeps q s) : ∀ t, execGetQueue x0 s = .next t → Keeps q t := by
  unfold execGetQueue
  exact carry_keeps (fun t s h => by grind [actGetQueue_keeps]) h

theorem freeConsumed_keeps (x0 x1) (h : Keeps q s) : Keeps q (freeConsumed x0 x1 s) := by
  grind [freeConsumed, State.modIngest_keeps, Keeps.same]

theorem doorbell_keeps (x0 x1) (h : Keeps q s) : Keeps q (doorbell x0 x1 s) := by
  grind [doorbell, State.modQueue_keeps, freeConsumed_keeps, Keeps.same]

theorem execDoorbellWrite_keeps (x0 x1) (h : Keeps q s) : ∀ t, execDoorbellWrite x0 x1 s = .next t → Keeps q t := by
  grind [execDoorbellWrite, doorbell_keeps, Keeps.same]

end Sys2Proof.Machine
end

