-- ==== Sys2Proof/Laws/KeepsMailboxes.lean ====
section
/-! SUPPORT. Machine/Mailboxes.lean keeps memory canonical and the waiting commands. -/

namespace Sys2Proof.Machine

set_option Elab.async false

variable {q : List Instr} {s : State}

theorem controlWrite_keeps (x0 x1 x2) (h : Keeps q s) : Keeps q (controlWrite x0 x1 x2 s) := by
  grind [controlWrite, State.modMailbox_keeps, Keeps.same]

theorem execMailboxPost_keeps (x0 x1) (h : Keeps q s) : ∀ t, execMailboxPost x0 x1 s = .next t → Keeps q t := by
  grind [execMailboxPost, controlWrite_keeps, Keeps.same]

theorem execMailboxAck_keeps (x0 x1) (h : Keeps q s) : ∀ t, execMailboxAck x0 x1 s = .next t → Keeps q t := by
  grind [execMailboxAck, controlWrite_keeps, Keeps.same]

theorem registerWrite_keeps (x0 x1) (h : Keeps q s) : Keeps q (registerWrite x0 x1 s) := by
  grind [registerWrite, State.modMailbox_keeps, controlWrite_keeps, doorbell_keeps, Keeps.same]

theorem execRegisterWrite_keeps (x0 x1) (h : Keeps q s) : ∀ t, execRegisterWrite x0 x1 s = .next t → Keeps q t := by
  grind [execRegisterWrite, registerWrite_keeps, Keeps.same]

theorem i3cAnswer_keeps (x0) (h : Keeps q s) : Keeps q (i3cAnswer x0 s) := by
  grind [i3cAnswer, State.modI3c_keeps, Keeps.same]

theorem i3cPost_keeps (x0) (h : Keeps q s) : Keeps q (i3cPost x0 s) := by
  grind [i3cPost, State.modMailbox_keeps, refuseMessage_keeps, Keeps.same]

theorem execI3cPrivateWrite_keeps (x0) (h : Keeps q s) : ∀ t, execI3cPrivateWrite x0 s = .next t → Keeps q t := by
  unfold execI3cPrivateWrite
  grind [State.modI3c_keeps, i3cPost_keeps, Keeps.same]

theorem execI3cReplyRead_keeps (x0) (h : Keeps q s) : ∀ t, execI3cReplyRead x0 s = .next t → Keeps q t := by
  grind [execI3cReplyRead, State.modI3c_keeps, State.modMailbox_keeps, i3cAnswer_keeps, Keeps.same]

theorem execEntdaa_keeps (x0) (h : Keeps q s) : ∀ t, execEntdaa x0 s = .next t → Keeps q t := by
  grind [execEntdaa, State.modI3c_keeps, Keeps.same]

theorem execSetdasa_keeps (x0) (h : Keeps q s) : ∀ t, execSetdasa x0 s = .next t → Keeps q t := by
  grind [execSetdasa, State.modI3c_keeps, Keeps.same]

theorem execSetnewda_keeps (x0) (h : Keeps q s) : ∀ t, execSetnewda x0 s = .next t → Keeps q t := by
  grind [execSetnewda, State.modI3c_keeps, Keeps.same]

theorem execRstdaa_keeps (h : Keeps q s) : ∀ t, execRstdaa s = .next t → Keeps q t := by
  grind [execRstdaa, State.modI3c_keeps, Keeps.same]

theorem execGetpid_keeps (h : Keeps q s) : ∀ t, execGetpid s = .next t → Keeps q t := by
  grind [execGetpid, i3cAnswer_keeps, Keeps.same]

theorem execGetbcr_keeps (h : Keeps q s) : ∀ t, execGetbcr s = .next t → Keeps q t := by
  grind [execGetbcr, i3cAnswer_keeps, Keeps.same]

theorem execGetdcr_keeps (h : Keeps q s) : ∀ t, execGetdcr s = .next t → Keeps q t := by
  grind [execGetdcr, i3cAnswer_keeps, Keeps.same]

theorem execGetstatus_keeps (h : Keeps q s) : ∀ t, execGetstatus s = .next t → Keeps q t := by
  grind [execGetstatus, i3cAnswer_keeps, Keeps.same]

theorem execGetmrl_keeps (h : Keeps q s) : ∀ t, execGetmrl s = .next t → Keeps q t := by
  grind [execGetmrl, i3cAnswer_keeps, Keeps.same]

theorem execGetmwl_keeps (h : Keeps q s) : ∀ t, execGetmwl s = .next t → Keeps q t := by
  grind [execGetmwl, i3cAnswer_keeps, Keeps.same]

theorem execEnec_keeps (x0) (h : Keeps q s) : ∀ t, execEnec x0 s = .next t → Keeps q t := by
  grind [execEnec, State.modI3c_keeps, Keeps.same]

theorem execDisec_keeps (x0) (h : Keeps q s) : ∀ t, execDisec x0 s = .next t → Keeps q t := by
  grind [execDisec, State.modI3c_keeps, Keeps.same]

end Sys2Proof.Machine
end

