-- ==== Sys2Proof/Laws/KeepsMapping.lean ====
section
/-! SUPPORT. Machine/Mapping.lean keeps memory canonical and the waiting commands. -/

namespace Sys2Proof.Machine

set_option Elab.async false

variable {q : List Instr} {s : State}

theorem execMemAlloc_keeps (x0) (h : Keeps q s) : ∀ t, execMemAlloc x0 s = .next t → Keeps q t := by
  unfold execMemAlloc
  exact carry_keeps (fun t s h => by grind [acceptConfig_keeps]) h

theorem execMemMapWindow_keeps (x0) (h : Keeps q s) : ∀ t, execMemMapWindow x0 s = .next t → Keeps q t := by
  unfold execMemMapWindow
  exact carry_keeps (fun t s h => by grind [acceptConfig_keeps]) h

theorem execMemFree_keeps (x0) (h : Keeps q s) : ∀ t, execMemFree x0 s = .next t → Keeps q t := by
  unfold execMemFree
  exact carry_keeps (fun t s h => by grind [acceptConfig_keeps]) h

theorem execMemProtect_keeps (x0) (h : Keeps q s) : ∀ t, execMemProtect x0 s = .next t → Keeps q t := by
  unfold execMemProtect
  exact carry_keeps (fun t s h => by grind [acceptConfig_keeps]) h

theorem actGetMapping_keeps (x0) (h : Keeps q s) : Keeps q (actGetMapping x0 s) := by
  grind [actGetMapping, writeRecord_keeps, Keeps.same]

theorem execGetMapping_keeps (x0) (h : Keeps q s) : ∀ t, execGetMapping x0 s = .next t → Keeps q t := by
  unfold execGetMapping
  exact carry_keeps (fun t s h => by grind [actGetMapping_keeps]) h

end Sys2Proof.Machine
end

