-- ==== Sys2Proof/Laws/KeepsTime.lean ====
section
/-! SUPPORT. Machine/Time.lean keeps memory canonical and the waiting commands. -/

namespace Sys2Proof.Machine

set_option Elab.async false

variable {q : List Instr} {s : State}

theorem clockTick_keeps (h : Keeps q s) : Keeps q (clockTick s) := by
  grind [clockTick, State.modIsland_keeps, State.modTime_keeps, Keeps.same]

theorem timeDoubtCheck_keeps (h : Keeps q s) : Keeps q (timeDoubtCheck s) := by
  grind [timeDoubtCheck, State.modTime_keeps, raiseDoubt_keeps, Keeps.same]

theorem execSyncReceive_keeps (x0 x1 x2 x3 x4) (h : Keeps q s) : ∀ t, execSyncReceive x0 x1 x2 x3 x4 s = .next t → Keeps q t := by
  grind [execSyncReceive, State.modTime_keeps, timeDoubtCheck_keeps, Keeps.same]

theorem execSyncSend_keeps (x0 x1) (h : Keeps q s) : ∀ t, execSyncSend x0 x1 s = .next t → Keeps q t := by
  grind [execSyncSend, State.modTime_keeps, Keeps.same]

theorem execPdelayExchange_keeps (x0 x1 x2 x3 x4 x5) (h : Keeps q s) : ∀ t, execPdelayExchange x0 x1 x2 x3 x4 x5 s = .next t → Keeps q t := by
  grind [execPdelayExchange, State.modTime_keeps, Keeps.same]

theorem execPortLinkUp_keeps (x0 x1 x2) (h : Keeps q s) : ∀ t, execPortLinkUp x0 x1 x2 s = .next t → Keeps q t := by
  grind [execPortLinkUp, State.modGateway_keeps, State.modTime_keeps, Keeps.same]

theorem execSyncLoss_keeps (x0) (h : Keeps q s) : ∀ t, execSyncLoss x0 s = .next t → Keeps q t := by
  grind [execSyncLoss, State.modTime_keeps, timeDoubtCheck_keeps, Keeps.same]

theorem execHoldoverExpiry_keeps (x0) (h : Keeps q s) : ∀ t, execHoldoverExpiry x0 s = .next t → Keeps q t := by
  grind [execHoldoverExpiry, State.modTime_keeps, timeDoubtCheck_keeps, Keeps.same]

theorem execWorkingClockSlew_keeps (h : Keeps q s) : ∀ t, execWorkingClockSlew s = .next t → Keeps q t := by
  grind [execWorkingClockSlew, State.modTime_keeps, Keeps.same]

theorem execTcxoCheck_keeps (x0) (h : Keeps q s) : ∀ t, execTcxoCheck x0 s = .next t → Keeps q t := by
  grind [execTcxoCheck, State.modIsland_keeps, State.modTime_keeps, raiseDoubt_keeps, Keeps.same]

theorem execBeaconSend_keeps (x0) (h : Keeps q s) : ∀ t, execBeaconSend x0 s = .next t → Keeps q t := by
  grind [execBeaconSend, State.modTime_keeps, sendPeer_keeps, Keeps.same]

theorem execBeaconReceive_keeps (x0 x1 x2 x3) (h : Keeps q s) : ∀ t, execBeaconReceive x0 x1 x2 x3 s = .next t → Keeps q t := by
  grind [execBeaconReceive, State.modTime_keeps, timeDoubtCheck_keeps, Keeps.same]

theorem execTimeDomainConfig_keeps (x0) (h : Keeps q s) : ∀ t, execTimeDomainConfig x0 s = .next t → Keeps q t := by
  unfold execTimeDomainConfig
  exact carry_keeps (fun t s h => by grind [acceptConfig_keeps]) h

theorem execTimePortConfig_keeps (x0) (h : Keeps q s) : ∀ t, execTimePortConfig x0 s = .next t → Keeps q t := by
  unfold execTimePortConfig
  exact carry_keeps (fun t s h => by grind [acceptConfig_keeps]) h

theorem execTimeSelect_keeps (x0) (h : Keeps q s) : ∀ t, execTimeSelect x0 s = .next t → Keeps q t := by
  unfold execTimeSelect
  exact carry_keeps (fun t s h => by grind [acceptConfig_keeps]) h

theorem measurePort_keeps (x0 x1) (h : Keeps q s) : Keeps q (measurePort x0 x1 s) := by
  grind [measurePort, State.bump_keeps, State.modTime_keeps, Keeps.same]

theorem actTimeMeasure_keeps (x0) (h : Keeps q s) : Keeps q (actTimeMeasure x0 s) := by
  grind [actTimeMeasure, State.modSafety_keeps, State.modTime_keeps, measurePort_keeps, writeRecord_keeps, Keeps.same]

theorem execTimePortMeasure_keeps (x0) (h : Keeps q s) : ∀ t, execTimePortMeasure x0 s = .next t → Keeps q t := by
  unfold execTimePortMeasure
  exact carry_keeps (fun t s h => by grind [actTimeMeasure_keeps]) h

theorem execGetTimeStatus_keeps (x0) (h : Keeps q s) : ∀ t, execGetTimeStatus x0 s = .next t → Keeps q t := by
  unfold execGetTimeStatus
  exact carry_keeps (fun t s h => by grind [answer_keeps]) h

theorem autoSelect_keeps (h : Keeps q s) : Keeps q (autoSelect s) := by
  grind [autoSelect, State.modAllCfg_keeps, Keeps.same]

theorem shiftTimers_keeps (x0) (h : Keeps q s) : Keeps q (shiftTimers x0 s) := ⟨h.1, h.2⟩

theorem acquire_keeps (h : Keeps q s) : Keeps q (acquire s) := by
  grind [acquire, State.modIsland_keeps, State.modSafety_keeps, State.modTime_keeps, shiftTimers_keeps, Keeps.same]

theorem timeAtEdge_keeps (x0) (h : Keeps q s) : Keeps q (timeAtEdge x0 s) := by
  unfold timeAtEdge
  repeat' (first | with_reducible assumption | apply foldl_k | intro _ _ _ | split | grind [State.modTime_keeps, acquire_keeps, autoSelect_keeps, timeDoubtCheck_keeps, writeRecord_keeps, Keeps.same])

end Sys2Proof.Machine
end

