-- ==== Sys2Proof/Laws/KeepsSafety.lean ====
section
/-! SUPPORT. Machine/Safety.lean keeps memory canonical and the waiting commands. -/

namespace Sys2Proof.Machine

set_option Elab.async false

variable {q : List Instr} {s : State}

theorem tileFailure_keeps (x0 x1) (h : Keeps q s) : Keeps q (tileFailure x0 x1 s) := by
  grind [tileFailure, State.modLock_keeps, State.modSafety_keeps, State.modTile_keeps, addError_keeps, Keeps.same]

theorem settle_keeps (h : Keeps q s) : Keeps q (settle s) := by
  grind [settle, State.modSafety_keeps, State.modTime_keeps, Keeps.same]

theorem State.modGauge_keeps (x0 x1) (h : Keeps q s) : Keeps q (State.modGauge x0 x1 s) := by
  grind [State.modGauge, State.modSafety_keeps, Keeps.same]

theorem expireGauge_keeps (x0) (h : Keeps q s) : Keeps q (expireGauge x0 s) := by
  grind [expireGauge, State.modGauge_keeps, State.modSafety_keeps, raiseDoubt_keeps, Keeps.same]

theorem applyStamp_keeps (x0 x1) (h : Keeps q s) : Keeps q (applyStamp x0 x1 s) := by
  unfold applyStamp
  grind [State.modGauge_keeps, expireGauge_keeps, Keeps.same]

theorem execGaugeDeadline_keeps (x0) (h : Keeps q s) : ∀ t, execGaugeDeadline x0 s = .next t → Keeps q t := by
  grind [execGaugeDeadline, State.modGauge_keeps, expireGauge_keeps, settle_keeps, Keeps.same]

theorem readPort_keeps (x0 x1) (h : Keeps q s) : Keeps q (readPort x0 x1 s).1 := by
  grind [readPort, awaken_keeps, readDram_keeps, Keeps.same]

theorem execStampReadResponse_keeps (x0 x1) (h : Keeps q s) : ∀ t, execStampReadResponse x0 x1 s = .next t → Keeps q t := by
  grind [execStampReadResponse, applyStamp_keeps, flipLine_keeps, readPort_keeps, settle_keeps, Keeps.same]

theorem execStampReadTimeout_keeps (x0) (h : Keeps q s) : ∀ t, execStampReadTimeout x0 s = .next t → Keeps q t := by
  unfold execStampReadTimeout
  intro t ht
  repeat' (first | with_reducible assumption | split at ht | cases ht | intro _ _ _ | split | grind [applyStamp_keeps, settle_keeps, Keeps.same])

theorem execExpiredGaugePoll_keeps (x0) (h : Keeps q s) : ∀ t, execExpiredGaugePoll x0 s = .next t → Keeps q t := by
  grind [execExpiredGaugePoll, State.modGauge_keeps, Keeps.same]

theorem execGaugeSet_keeps (x0) (h : Keeps q s) : ∀ t, execGaugeSet x0 s = .next t → Keeps q t := by
  unfold execGaugeSet
  exact carry_keeps (fun t s h => by grind [acceptConfig_keeps]) h

theorem execGaugeClear_keeps (x0) (h : Keeps q s) : ∀ t, execGaugeClear x0 s = .next t → Keeps q t := by
  unfold execGaugeClear
  exact carry_keeps (fun t s h => by grind [acceptConfig_keeps]) h

theorem execGetGauge_keeps (x0) (h : Keeps q s) : ∀ t, execGetGauge x0 s = .next t → Keeps q t := by
  unfold execGetGauge
  exact carry_keeps (fun t s h => by grind [answer_keeps]) h

theorem gaugesAtEdge_keeps (h : Keeps q s) : Keeps q (gaugesAtEdge s) := by
  unfold gaugesAtEdge
  repeat' (first | with_reducible assumption | apply foldl_k | intro _ _ _ | split | grind [State.modSafety_keeps, Keeps.same])

theorem execSoundingSet_keeps (x0) (h : Keeps q s) : ∀ t, execSoundingSet x0 s = .next t → Keeps q t := by
  unfold execSoundingSet
  exact carry_keeps (fun t s h => by grind [acceptConfig_keeps]) h

theorem startSounding_keeps (x0 x1 x2 x3 x4) (h : Keeps q s) : Keeps q (startSounding x0 x1 x2 x3 x4 s) := by
  grind [startSounding, State.modSafety_keeps, State.modWork_keeps, Keeps.same]

theorem missSounding_keeps (x0) (h : Keeps q s) : Keeps q (missSounding x0 s) := by
  grind [missSounding, State.modSafety_keeps, raiseDoubt_keeps, releaseJob_keeps, Keeps.same]

theorem execSoundingRelease_keeps (x0) (h : Keeps q s) : ∀ t, execSoundingRelease x0 s = .next t → Keeps q t := by
  grind [execSoundingRelease, missSounding_keeps, startSounding_keeps, Keeps.same]

theorem execSoundingWindowEnd_keeps (h : Keeps q s) : ∀ t, execSoundingWindowEnd s = .next t → Keeps q t := by
  grind [execSoundingWindowEnd, missSounding_keeps, Keeps.same]

theorem passSounding_keeps (x0 x1) (h : Keeps q s) : Keeps q (passSounding x0 x1 s) := by
  grind [passSounding, State.modSafety_keeps, settle_keeps, Keeps.same]

theorem failSounding_keeps (x0 x1 x2) (h : Keeps q s) : Keeps q (failSounding x0 x1 x2 s) := by
  grind [failSounding, State.modSafety_keeps, raiseDoubt_keeps, startSounding_keeps, tileFailure_keeps, Keeps.same]

theorem execSoundingComplete_keeps (x0 x1) (h : Keeps q s) : ∀ t, execSoundingComplete x0 x1 s = .next t → Keeps q t := by
  grind [execSoundingComplete, failSounding_keeps, passSounding_keeps, releaseJob_keeps, Keeps.same]

theorem lapseCheck_keeps (x0) (h : Keeps q s) : Keeps q (lapseCheck x0 s) := by
  grind [lapseCheck, raiseDoubt_keeps, Keeps.same]

theorem execDrizzleSlot_keeps (h : Keeps q s) : ∀ t, execDrizzleSlot s = .next t → Keeps q t := by
  unfold execDrizzleSlot
  dsimp only
  intro t ht
  repeat' (first | with_reducible assumption | split at ht | cases ht | intro _ _ _ | split | grind [State.modSafety_keeps, lapseCheck_keeps, Keeps.same])

theorem checkerFails_keeps (x0) (h : Keeps q s) : Keeps q (checkerFails x0 s) := by
  grind [checkerFails, State.modSafety_keeps, addError_keeps, raiseDoubt_keeps, tileFailure_keeps, Keeps.same]

theorem checkerPasses_keeps (x0 x1) (h : Keeps q s) : Keeps q (checkerPasses x0 x1 s) := by
  grind [checkerPasses, State.modSafety_keeps, Keeps.same]

theorem noteFitness_keeps (x0 x1) (h : Keeps q s) : Keeps q (noteFitness x0 x1 s) := by
  grind [noteFitness, State.modSafety_keeps, Keeps.same]

theorem selfTestRecord_keeps (x0 x1) (h : Keeps q s) : Keeps q (selfTestRecord x0 x1 s) := by
  unfold selfTestRecord
  grind [writeRecord_keeps, Keeps.same]

theorem beginSelfTest_keeps (x0 x1) (h : Keeps q s) : Keeps q (beginSelfTest x0 x1 s) := by
  grind [beginSelfTest, State.modSafety_keeps, Keeps.same]

theorem nextSelfTest_keeps (h : Keeps q s) : Keeps q (nextSelfTest s) := by
  grind [nextSelfTest, State.modSafety_keeps, beginSelfTest_keeps, Keeps.same]

theorem finishSlice_keeps (x0 x1) (h : Keeps q s) : Keeps q (finishSlice x0 x1 s) := by
  grind [finishSlice, State.modSafety_keeps, measurePort_keeps, nextSelfTest_keeps, selfTestRecord_keeps, Keeps.same]

theorem execDrizzleSliceEnd_keeps (x0) (h : Keeps q s) : ∀ t, execDrizzleSliceEnd x0 s = .next t → Keeps q t := by
  grind [execDrizzleSliceEnd, checkerFails_keeps, checkerPasses_keeps, finishSlice_keeps, noteFitness_keeps, settle_keeps, Keeps.same]

theorem actSelfTest_keeps (x0) (h : Keeps q s) : Keeps q (actSelfTest x0 s) := by
  grind [actSelfTest, State.modSafety_keeps, beginSelfTest_keeps, writeRecord_keeps, Keeps.same]

theorem execSelfTest_keeps (x0) (h : Keeps q s) : ∀ t, execSelfTest x0 s = .next t → Keeps q t := by
  unfold execSelfTest
  exact carry_keeps (fun t s h => by grind [actSelfTest_keeps]) h

theorem storePlan_keeps (x0) (h : Keeps q s) : Keeps q (storePlan x0 s) := by
  grind [storePlan, State.modSafety_keeps, settle_keeps, Keeps.same]

theorem readPlan_keeps (x0 x1) (h : Keeps q s) : Keeps q (readPlan x0 x1 s).1 := by
  revert h
  fun_induction readPlan x0 x1 s <;> intro h <;> grind [readPlan, awaken_keeps, readDram_keeps, Keeps.same]

theorem actMooringStore_keeps (x0) (h : Keeps q s) : Keeps q (actMooringStore x0 s) := by
  unfold actMooringStore
  dsimp only
  repeat' (first | with_reducible assumption | intro _ _ _ | split | grind [readPlan_keeps, storePlan_keeps, writeRecord_keeps, Keeps.same])

theorem execMooringStore_keeps (x0) (h : Keeps q s) : ∀ t, execMooringStore x0 s = .next t → Keeps q t := by
  unfold execMooringStore
  exact carry_keeps (fun t s h => by grind [actMooringStore_keeps]) h

theorem sendEntry_keeps (x0) (h : Keeps q s) : Keeps q (sendEntry x0 s) := by
  grind [sendEntry, State.modIsland_keeps, Keeps.same]

theorem playEntry_keeps (x0 x1) (h : Keeps q s) : Keeps q (playEntry x0 x1 s) := by
  grind [playEntry, State.modSafety_keeps, sendEntry_keeps, Keeps.same]

theorem execPlayoutStart_keeps (h : Keeps q s) : ∀ t, execPlayoutStart s = .next t → Keeps q t := by
  unfold execPlayoutStart
  dsimp only
  intro t ht
  repeat' (first | with_reducible assumption | split at ht | cases ht | apply foldl_k | intro _ _ _ | split | grind [State.modSafety_keeps, playEntry_keeps, Keeps.same])

theorem execPlanEntrySend_keeps (x0) (h : Keeps q s) : ∀ t, execPlanEntrySend x0 s = .next t → Keeps q t := by
  grind [execPlanEntrySend, playEntry_keeps, Keeps.same]

theorem execFinalRepeat_keeps (x0 x1) (h : Keeps q s) : ∀ t, execFinalRepeat x0 x1 s = .next t → Keeps q t := by
  grind [execFinalRepeat, State.modSafety_keeps, sendEntry_keeps, Keeps.same]

theorem actHeartbeat_keeps (x0) (h : Keeps q s) : Keeps q (actHeartbeat x0 s) := by
  grind [actHeartbeat, State.modSafety_keeps, settle_keeps, writeRecord_keeps, Keeps.same]

theorem execSupervisorHeartbeat_keeps (x0) (h : Keeps q s) : ∀ t, execSupervisorHeartbeat x0 s = .next t → Keeps q t := by
  unfold execSupervisorHeartbeat
  exact carry_keeps (fun t s h => by grind [actHeartbeat_keeps]) h

theorem execHeartbeatDeadline_keeps (h : Keeps q s) : ∀ t, execHeartbeatDeadline s = .next t → Keeps q t := by
  grind [execHeartbeatDeadline, State.modSafety_keeps, raiseDoubt_keeps, Keeps.same]

theorem actDoubtRelease_keeps (x0) (h : Keeps q s) : Keeps q (actDoubtRelease x0 s) := by
  grind [actDoubtRelease, State.modSafety_keeps, requestIbi_keeps, settle_keeps, writeRecord_keeps, Keeps.same]

theorem execDoubtRelease_keeps (x0) (h : Keeps q s) : ∀ t, execDoubtRelease x0 s = .next t → Keeps q t := by
  unfold execDoubtRelease
  exact carry_keeps (fun t s h => by grind [actDoubtRelease_keeps]) h

end Sys2Proof.Machine
end

