-- ==== Sys2Proof/Laws/KeepsGateway.lean ====
section
/-! SUPPORT. Machine/Gateway.lean keeps memory canonical and the waiting commands. -/

namespace Sys2Proof.Machine

set_option Elab.async false

variable {q : List Instr} {s : State}

theorem readPlatform_keeps (x0) (h : Keeps q s) : Keeps q (readPlatform x0 s) := by
  unfold readPlatform
  repeat' (first | with_reducible assumption | apply foldl_k | intro _ _ _ | split | grind [State.modCores_keeps, State.modGateway_keeps, Keeps.same])

theorem execKberthWrite_keeps (x0 x1 x2) (h : Keeps q s) : ∀ t, execKberthWrite x0 x1 x2 s = .next t → Keeps q t := by
  grind [execKberthWrite, State.modCores_keeps, Keeps.same]

theorem State.modChannel_keeps (x0 x1) (h : Keeps q s) : Keeps q (State.modChannel x0 x1 s) := by
  grind [State.modChannel, State.modGateway_keeps, Keeps.same]

theorem State.modClass_keeps (x0 x1) (h : Keeps q s) : Keeps q (State.modClass x0 x1 s) := by
  grind [State.modClass, State.modGateway_keeps, Keeps.same]

theorem readTrajectory_keeps (x0) (h : Keeps q s) : Keeps q (readTrajectory x0 s).1 := by
  grind [readTrajectory, readVirt_keeps, Keeps.same]

theorem execSetpointReadPoint_keeps (x0) (h : Keeps q s) : ∀ t, execSetpointReadPoint x0 s = .next t → Keeps q t := by
  grind [execSetpointReadPoint, State.modClass_keeps, readTrajectory_keeps, Keeps.same]

theorem execSetpointSlot_keeps (x0) (h : Keeps q s) : ∀ t, execSetpointSlot x0 s = .next t → Keeps q t := by
  grind [execSetpointSlot, State.modClass_keeps, State.modGateway_keeps, Keeps.same]

theorem putDescriptor_keeps (x0 x1 x2) (h : Keeps q s) : Keeps q (putDescriptor x0 x1 x2 s) := by
  grind [putDescriptor, writeVirt_keeps, Keeps.same]

theorem refuseDescriptor_keeps (x0 x1 x2 x3) (h : Keeps q s) : Keeps q (refuseDescriptor x0 x1 x2 x3 s) := by
  grind [refuseDescriptor, State.modChannel_keeps, putDescriptor_keeps, Keeps.same]

theorem pollRing_keeps (x0 x1 x2) (h : Keeps q s) : Keeps q (pollRing x0 x1 x2 s) := by
  revert h
  fun_induction pollRing x0 x1 x2 s <;> intro h <;> grind [pollRing, State.modChannel_keeps, readVirt_keeps, refuseDescriptor_keeps, Keeps.same]

theorem execTxRingPoll_keeps (x0) (h : Keeps q s) : ∀ t, execTxRingPoll x0 s = .next t → Keeps q t := by
  grind [execTxRingPoll, pollRing_keeps, readVirt_keeps, Keeps.same]

theorem execTxFrameDone_keeps (x0 x1) (h : Keeps q s) : ∀ t, execTxFrameDone x0 x1 s = .next t → Keeps q t := by
  unfold execTxFrameDone
  grind [State.modChannel_keeps, State.modGateway_keeps, putDescriptor_keeps, readVirt_keeps, Keeps.same]

theorem execRxFrame_keeps (x0 x1 x2 x3) (h : Keeps q s) : ∀ t, execRxFrame x0 x1 x2 x3 s = .next t → Keeps q t := by
  unfold execRxFrame
  dsimp only
  intro t ht
  repeat' (first | with_reducible assumption | split at ht | cases ht | intro _ _ _ | split | grind [State.modChannel_keeps, putDescriptor_keeps, raiseBerth_keeps, readVirt_keeps, writeVirt_keeps, Keeps.same])

theorem execBusOff_keeps (x0 x1) (h : Keeps q s) : ∀ t, execBusOff x0 x1 s = .next t → Keeps q t := by
  grind [execBusOff, State.modChannel_keeps, Keeps.same]

theorem execPortLinkDown_keeps (x0) (h : Keeps q s) : ∀ t, execPortLinkDown x0 s = .next t → Keeps q t := by
  grind [execPortLinkDown, State.modChannel_keeps, State.modTime_keeps, Keeps.same]

theorem writeStatusLines_keeps (h : Keeps q s) : Keeps q (writeStatusLines s) := by
  unfold writeStatusLines
  repeat' (first | with_reducible assumption | apply foldl_k | intro _ _ _ | split | grind [writeVirt_keeps, Keeps.same])

theorem pcieAnswer_keeps (x0) (h : Keeps q s) : Keeps q (pcieAnswer x0 s) := by
  grind [pcieAnswer, State.modGateway_keeps, Keeps.same]

theorem execPcieInbound_keeps (x0 x1 x2 x3) (h : Keeps q s) : ∀ t, execPcieInbound x0 x1 x2 x3 s = .next t → Keeps q t := by
  grind [execPcieInbound, pcieAnswer_keeps, raiseBerth_keeps, readVirt_keeps, writeVirt_keeps, Keeps.same]

end Sys2Proof.Machine
end

