-- ==== Sys2Proof/Laws/KeepsIsland.lean ====
section
/-! SUPPORT. Machine/Island.lean keeps memory canonical and the waiting commands. -/

namespace Sys2Proof.Machine

set_option Elab.async false

variable {q : List Instr} {s : State}

theorem State.modPair_keeps (x0 x1) (h : Keeps q s) : Keeps q (State.modPair x0 x1 s) := by
  grind [State.modPair, State.modIsland_keeps, Keeps.same]

theorem fence_keeps (x0 x1 x2) (h : Keeps q s) : Keeps q (fence x0 x1 x2 s) := by
  grind [fence, State.modIsland_keeps, State.modPair_keeps, raiseDoubt_keeps, Keeps.same]

theorem execRoleTakeover_keeps (h : Keeps q s) : ∀ t, execRoleTakeover s = .next t → Keeps q t := by
  grind [execRoleTakeover, State.modIsland_keeps, Keeps.same]

theorem deliver_keeps (x0 x1) (h : Keeps q s) : Keeps q (deliver x0 x1 s) := by
  grind [deliver, State.modPair_keeps, Keeps.same]

theorem releaseToken_keeps (x0 x1 x2) (h : Keeps q s) : Keeps q (releaseToken x0 x1 x2 s) := by
  grind [releaseToken, State.bump_keeps, State.modIsland_keeps, State.modPair_keeps, deliver_keeps, fence_keeps, Keeps.same]

theorem compareToken_keeps (x0 x1 x2 x3) (h : Keeps q s) : Keeps q (compareToken x0 x1 x2 x3 s) := by
  grind [compareToken, State.modIsland_keeps, State.modPair_keeps, fence_keeps, releaseToken_keeps, Keeps.same]

theorem execTokenProduce_keeps (x0 x1 x2 x3) (h : Keeps q s) : ∀ t, execTokenProduce x0 x1 x2 x3 s = .next t → Keeps q t := by
  grind [execTokenProduce, compareToken_keeps, releaseToken_keeps, Keeps.same]

theorem execSkewTime_keeps (x0) (h : Keeps q s) : ∀ t, execSkewTime x0 s = .next t → Keeps q t := by
  grind [execSkewTime, State.modIsland_keeps, fence_keeps, Keeps.same]

theorem execBeatWrite_keeps (x0) (h : Keeps q s) : ∀ t, execBeatWrite x0 s = .next t → Keeps q t := by
  grind [execBeatWrite, State.modPair_keeps, Keeps.same]

theorem execBeatWatchdog_keeps (x0) (h : Keeps q s) : ∀ t, execBeatWatchdog x0 s = .next t → Keeps q t := by
  grind [execBeatWatchdog, fence_keeps, Keeps.same]

theorem execInputToken_keeps (x0 x1 x2 x3) (h : Keeps q s) : ∀ t, execInputToken x0 x1 x2 x3 s = .next t → Keeps q t := by
  grind [execInputToken, State.modPair_keeps, deliver_keeps, fence_keeps, Keeps.same]

theorem execAsyncEventTake_keeps (x0) (h : Keeps q s) : ∀ t, execAsyncEventTake x0 s = .next t → Keeps q t := by
  grind [execAsyncEventTake, State.modPair_keeps, Keeps.same]

theorem execReadPortRead_keeps (x0 x1 x2) (h : Keeps q s) : ∀ t, execReadPortRead x0 x1 x2 s = .next t → Keeps q t := by
  grind [execReadPortRead, State.modPair_keeps, deliver_keeps, flipLine_keeps, readPort_keeps, Keeps.same]

theorem debugCounts_keeps (x0 x1 x2) (h : Keeps q s) : Keeps q (debugCounts x0 x1 x2 s) := by
  grind [debugCounts, State.modPair_keeps, fence_keeps, Keeps.same]

theorem execDebugHalt_keeps (x0 x1 x2) (h : Keeps q s) : ∀ t, execDebugHalt x0 x1 x2 s = .next t → Keeps q t := by
  grind [execDebugHalt, debugCounts_keeps, Keeps.same]

theorem execDebugStep_keeps (x0 x1 x2) (h : Keeps q s) : ∀ t, execDebugStep x0 x1 x2 s = .next t → Keeps q t := by
  grind [execDebugStep, debugCounts_keeps, Keeps.same]

theorem execDebugAccess_keeps (x0 x1 x2 x3 x4) (h : Keeps q s) : ∀ t, execDebugAccess x0 x1 x2 x3 x4 s = .next t → Keeps q t := by
  grind [execDebugAccess, State.modIsland_keeps, State.modPair_keeps, deliver_keeps, fence_keeps, Keeps.same]

theorem execDebugResume_keeps (x0) (h : Keeps q s) : ∀ t, execDebugResume x0 s = .next t → Keeps q t := by
  grind [execDebugResume, State.modPair_keeps, Keeps.same]

theorem execIslandWeatherWindow_keeps (x0 x1) (h : Keeps q s) : ∀ t, execIslandWeatherWindow x0 x1 s = .next t → Keeps q t := by
  grind [execIslandWeatherWindow, State.modIsland_keeps, raiseDoubt_keeps, settle_keeps, Keeps.same]

theorem clearGauges_keeps (h : Keeps q s) : Keeps q (clearGauges s) := by
  grind [clearGauges, State.modAllCfg_keeps, Keeps.same]

theorem execIslandStart_keeps (x0) (h : Keeps q s) : ∀ t, execIslandStart x0 s = .next t → Keeps q t := by
  grind [execIslandStart, State.modBring_keeps, State.modIsland_keeps, State.modSafety_keeps, clearGauges_keeps, Keeps.same]

theorem stopIsland_keeps (x0) (h : Keeps q s) : Keeps q (stopIsland x0 s) := by
  grind [stopIsland, State.modIsland_keeps, State.modSafety_keeps, clearGauges_keeps, Keeps.same]

theorem execIslReset_keeps (h : Keeps q s) : ∀ t, execIslReset s = .next t → Keeps q t := by
  grind [execIslReset, stopIsland_keeps, Keeps.same]

theorem execGetSafetyStatus_keeps (x0) (h : Keeps q s) : ∀ t, execGetSafetyStatus x0 s = .next t → Keeps q t := by
  unfold execGetSafetyStatus
  exact carry_keeps (fun t s h => by grind [answer_keeps]) h

end Sys2Proof.Machine
end

