-- ==== Sys2Proof/Laws/KeepsBring.lean ====
section
/-! SUPPORT. Machine/Bring.lean keeps memory canonical and the waiting commands. -/

namespace Sys2Proof.Machine

set_option Elab.async false

variable {q : List Instr} {s : State}

theorem addDefect_keeps (x0 x1 x2) (h : Keeps q s) : Keeps q (addDefect x0 x1 x2 s) := by
  grind [addDefect, State.modBring_keeps, State.modErrors_keeps, Keeps.same]

theorem startRow_keeps (x0 x1) (h : Keeps q s) : Keeps q (startRow x0 x1 s) := by
  grind [startRow, State.modAllCfg_keeps, State.modBring_keeps, State.modErrors_keeps, addDefect_keeps, Keeps.same]

theorem startRows_keeps (x0) (h : Keeps q s) : Keeps q (startRows x0 s) := by
  unfold startRows
  repeat' (first | with_reducible assumption | apply foldl_k | intro _ _ _ | split | grind [startRow_keeps, Keeps.same])

theorem installMap_keeps (x0) (h : Keeps q s) : Keeps q (installMap x0 s) := by
  unfold installMap
  repeat' (first | with_reducible assumption | apply foldl_k | intro _ _ _ | split | grind [State.modAllCfg_keeps, State.modBring_keeps, State.modTiles_keeps, Keeps.same])

theorem startUnion_keeps (x0) (h : Keeps q s) : Keeps q (startUnion x0 s) := by
  unfold startUnion
  repeat' (first | with_reducible assumption | apply foldl_k | intro _ _ _ | split | grind [State.modBring_keeps, addDefect_keeps, installMap_keeps, Keeps.same])

theorem fastSquall_keeps (x0) (h : Keeps q s) : Keeps q (fastSquall x0 s) := by
  unfold fastSquall
  dsimp only
  repeat' (first | with_reducible assumption | apply foldl_k | intro _ _ _ | split | grind [State.modBring_keeps, addDefect_keeps, installMap_keeps, Keeps.same])

theorem squallCheck_keeps (x0) (h : Keeps q s) : Keeps q (squallCheck x0 s) := by
  unfold squallCheck
  repeat' (first | with_reducible assumption | apply foldl_k | intro _ _ _ | split | grind [State.modBring_keeps, State.modSafety_keeps, addError_keeps, Keeps.same])

theorem writeWarm_keeps (h : Keeps q s) : Keeps q (writeWarm s) := by
  grind [writeWarm, State.modBring_keeps, Keeps.same]

theorem refreshWarm_keeps (h : Keeps q s) : Keeps q (refreshWarm s) := by
  grind [refreshWarm, writeWarm_keeps, Keeps.same]

theorem restoreRecord_keeps (x0) (h : Keeps q s) : Keeps q (restoreRecord x0 s) := by
  unfold restoreRecord
  repeat' (first | with_reducible assumption | apply foldl_k | intro _ _ _ | split | grind [State.modAllCfg_keeps, State.modErrors_keeps, State.modTiles_keeps, Keeps.same])

theorem stopFabric_keeps (h : Keeps q s) : Keeps q (stopFabric s) := ⟨h.1, h.2⟩

theorem holdFabric_keeps (h : Keeps q s) : Keeps q (holdFabric s) := by
  grind [holdFabric, State.modPower_keeps, stopFabric_keeps, Keeps.same]

theorem beginStart_keeps (x0 x1) (h : Keeps q s) : Keeps q (beginStart x0 x1 s) := by
  unfold beginStart
  extract_lets
  apply readPlatform_keeps
  exact ⟨rfl, h.2⟩

theorem haltStart_keeps (x0 x1) (h : Keeps q s) : Keeps q (haltStart x0 x1 s) := by
  grind [haltStart, State.modBring_keeps, Keeps.same]

theorem finishStart_keeps (x0) (h : Keeps q s) : Keeps q (finishStart x0 s) := by
  have h1 := writeWarm_keeps (State.modBring_keeps (fun b =>
    { b with step := 11, ready := true, refreshKept := true, readyMs := satOf 16 x0.readyMs }) (squallCheck_keeps x0 h))
  exact ⟨h1.1, h1.2⟩

theorem runStart_keeps (x0 x1 x2) (h : Keeps q s) : Keeps q (runStart x0 x1 x2 s) := by
  unfold runStart
  repeat' (first | with_reducible assumption | intro _ _ _ | split | grind [State.modBring_keeps, beginStart_keeps, fastSquall_keeps, finishStart_keeps, haltStart_keeps, restoreRecord_keeps, startRows_keeps, startUnion_keeps, Keeps.same])

theorem execColdStart_keeps (x0) (h : Keeps q s) : ∀ t, execColdStart x0 s = .next t → Keeps q t := by
  grind [execColdStart, State.modBring_keeps, State.modIsland_keeps, State.modTime_keeps, runStart_keeps, stopFabric_keeps, Keeps.same]

theorem execWarmResetAssert_keeps (h : Keeps q s) : ∀ t, execWarmResetAssert s = .next t → Keeps q t := by
  grind [execWarmResetAssert, holdFabric_keeps, Keeps.same]

theorem execWarmResetRelease_keeps (x0) (h : Keeps q s) : ∀ t, execWarmResetRelease x0 s = .next t → Keeps q t := by
  grind [execWarmResetRelease, runStart_keeps, Keeps.same]

theorem execCorePwrgdFall_keeps (h : Keeps q s) : ∀ t, execCorePwrgdFall s = .next t → Keeps q t := by
  grind [execCorePwrgdFall, State.modPower_keeps, stopFabric_keeps, Keeps.same]

theorem execVmemOutOfRange_keeps (h : Keeps q s) : ∀ t, execVmemOutOfRange s = .next t → Keeps q t := by
  grind [execVmemOutOfRange, State.modBring_keeps, Keeps.same]

theorem execIslPwrgdFall_keeps (h : Keeps q s) : ∀ t, execIslPwrgdFall s = .next t → Keeps q t := by
  grind [execIslPwrgdFall, holdFabric_keeps, stopIsland_keeps, Keeps.same]

end Sys2Proof.Machine
end

