-- ==== Sys2Proof/Laws/KeepsPower.lean ====
section
/-! SUPPORT. Machine/Power.lean keeps memory canonical and the waiting commands. -/

namespace Sys2Proof.Machine

set_option Elab.async false

variable {q : List Instr} {s : State}

theorem applySteps_keeps (h : Keeps q s) : Keeps q (applySteps s) := by
  unfold applySteps
  dsimp only
  repeat' (first | with_reducible assumption | apply foldl_k | intro _ _ _ | split | grind [State.modPower_keeps, State.modTile_keeps, Keeps.same])

theorem busAnswers_keeps (h : Keeps q s) : Keeps q (busAnswers s) := by
  grind [busAnswers, State.modPower_keeps, applySteps_keeps, Keeps.same]

theorem execRegulatorRetry_keeps (h : Keeps q s) : ∀ t, execRegulatorRetry s = .next t → Keeps q t := by
  grind [execRegulatorRetry, State.modPower_keeps, Keeps.same]

theorem execGovernorSample_keeps (x0 x1 x2 x3 x4) (h : Keeps q s) : ∀ t, execGovernorSample x0 x1 x2 x3 x4 s = .next t → Keeps q t := by
  grind [execGovernorSample, State.modPower_keeps, applySteps_keeps, busAnswers_keeps, Keeps.same]

theorem execWeatherWindow_keeps (x0 x1 x2 x3) (h : Keeps q s) : ∀ t, execWeatherWindow x0 x1 x2 x3 s = .next t → Keeps q t := by
  grind [execWeatherWindow, State.modPower_keeps, State.modTile_keeps, applySteps_keeps, holdFabric_keeps, raiseDoubt_keeps, settle_keeps, Keeps.same]

end Sys2Proof.Machine
end

