-- ==== Sys2Proof/Laws/KeepsMemory.lean ====
section
/-! SUPPORT. Machine/Memory.lean keeps memory canonical and the waiting commands. -/

namespace Sys2Proof.Machine

set_option Elab.async false

variable {q : List Instr} {s : State}

theorem faultAccess_keeps (x0 x1 x2) (h : Keeps q s) : Keeps q (faultAccess x0 x1 x2 s) := by
  have h1 := respond_keeps x0 x1 x2 h
  unfold faultAccess
  cases x0
  · exact failOn_keeps _ _ _ h1
  · exact State.modCores_keeps _ h1
  · exact h1

theorem takeCredits_keeps (x0 x1 x2 x3) (h : Keeps q s) : ∀ t, takeCredits x0 x1 x2 x3 s = some t → Keeps q t := by
  intro t ht
  unfold takeCredits at ht
  obtain ⟨w, _, rfl⟩ := Option.map_eq_some_iff.mp ht
  exact h

theorem startWake_keeps (x0) (h : Keeps q s) : Keeps q (startWake x0 s) := by
  grind [startWake, State.modTile_keeps, Keeps.same]

theorem holdReq_keeps (x0) (h : Keeps q s) : Keeps q (holdReq x0 s) := by
  grind [holdReq, State.modIsgal_keeps, startWake_keeps, Keeps.same]

theorem Acc.hold_keeps (x0 x1) (h : Keeps q s) : Keeps q (Acc.hold x0 x1 s) := by
  grind [Acc.hold, holdReq_keeps, Keeps.same]

theorem Acc.issue_keeps (x0 x1) {f : State → State} (hf : ∀ s, Keeps q s → Keeps q (f s)) (h : Keeps q s) :
    Keeps q (Acc.issue x0 x1 f s) := by
  unfold Acc.issue
  split
  · exact Acc.hold_keeps _ _ h
  · split
    · exact Acc.hold_keeps _ _ h
    · next t e => exact hf _ (takeCredits_keeps _ _ _ _ h _ e)

theorem translated_keeps (x0 x1 x2 x3 x4 x5 x6) {f : Acc → State → State} (hf : ∀ x s, Keeps q s → Keeps q (f x s))
    (h : Keeps q s) : Keeps q (translated x0 x1 x2 x3 x4 x5 x6 f s) := by
  unfold translated
  split
  · exact faultAccess_keeps _ _ _ h
  · split
    · exact faultAccess_keeps _ _ _ h
    · have hw := walk_keeps (some (s.requesterUnit x1)) ((s.cfgAt x0).entryNo x2.berth x4) h
      split
      · next e => rw [e] at hw; exact faultAccess_keeps _ _ _ hw
      · next e => rw [e] at hw; exact hf _ _ hw

theorem requestPeer_keeps (x0 x1 x2 x3) (h : Keeps q s) : Keeps q (requestPeer x0 x1 x2 x3 s) := by
  grind [requestPeer, State.modIsgal_keeps, sendPeer_keeps, Keeps.same]

theorem lockPeer_keeps (x0 x1 x2 x3) (h : Keeps q s) : Keeps q (lockPeer x0 x1 x2 x3 s) := by
  grind [lockPeer, State.modIsgal_keeps, sendPeer_keeps, Keeps.same]

theorem fillNi_keeps (x0 x1) (h : Keeps q s) : Keeps q (fillNi x0 x1 s) := by
  grind [fillNi, State.modTileWork_keeps, Keeps.same]

theorem fillFromPeer_keeps (x0 x1 x2 x3) (h : Keeps q s) : Keeps q (fillFromPeer x0 x1 x2 x3 s) := by
  grind [fillFromPeer, State.modIsgal_keeps, sendPeer_keeps, Keeps.same]

theorem prefetchLine_keeps (x0 x1 x2 x3 x4 x5) (h : Keeps q s) : Keeps q (prefetchLine x0 x1 x2 x3 x4 x5 s) := by
  grind [prefetchLine, fillFromPeer_keeps, fillNi_keeps, putPcie_keeps, readDramLine_keeps, startWake_keeps, Keeps.same]

theorem bridgeLine_keeps (x0 x1 x2 x3 x4) (h : Keeps q s) : Keeps q (bridgeLine x0 x1 x2 x3 x4 s) := by
  grind [bridgeLine, State.modIsgal_keeps, fillFromPeer_keeps, Keeps.same]

theorem prefetchAfter_keeps (x0 x1 x2 x3) (h : Keeps q s) : Keeps q (prefetchAfter x0 x1 x2 x3 s) := by
  unfold prefetchAfter
  dsimp only
  repeat' (first | with_reducible assumption | apply foldl_k | intro _ _ _ | split | grind [State.modTileWork_keeps, bridgeLine_keeps, prefetchLine_keeps, Keeps.same])

theorem useBuffer_keeps (x0 x1 x2) (h : Keeps q s) : Keeps q (useBuffer x0 x1 x2 s).1 := by
  grind [useBuffer, State.modTileWork_keeps, fillNi_keeps, Keeps.same]

theorem fillArrived_keeps (x0 x1) (h : Keeps q s) : Keeps q (fillArrived x0 x1 s) := by
  grind [fillArrived, State.modIsgal_keeps, State.modTileWork_keeps, Keeps.same]

theorem fillFailed_keeps (x0) (h : Keeps q s) : Keeps q (fillFailed x0 s) := by
  grind [fillFailed, State.modIsgal_keeps, State.modTileWork_keeps, Keeps.same]

theorem readHome_keeps (x0 x1 x2 x3) (h : Keeps q s) : Keeps q (readHome x0 x1 x2 x3 s) := by
  grind [readHome, State.modCores_keeps, faultAccess_keeps, flipLine_keeps, prefetchAfter_keeps, readDram_keeps, respond_keeps, Keeps.same]

theorem readPeer_keeps (x0 x1 x2) (h : Keeps q s) : Keeps q (readPeer x0 x1 x2 s) := by
  grind [readPeer, lockPeer_keeps, prefetchAfter_keeps, requestPeer_keeps, Keeps.same]

theorem readHost_keeps (x0 x1) (h : Keeps q s) : Keeps q (readHost x0 x1 s) := by
  grind [readHost, prefetchAfter_keeps, putPcie_keeps, respond_keeps, Keeps.same]

theorem readPart_keeps (x0 x1 x2 x3 x4 x5 x6) (h : Keeps q s) : Keeps q (readPart x0 x1 x2 x3 x4 x5 x6 s) := by
  unfold readPart
  refine translated_keeps _ _ _ _ _ _ _ (fun x s h => ?_) h
  dsimp only
  split
  · exact faultAccess_keeps x1 x5 .addressFault h
  · have hu := useBuffer_keeps x2 x0 (x.e.lineKey x5) h
    revert hu
    generalize useBuffer x2 x0 (x.e.lineKey x5) s = y
    obtain ⟨u, hit⟩ := y
    intro hu
    dsimp only at hu ⊢
    repeat' (first
      | with_reducible apply faultAccess_keeps
      | with_reducible apply Acc.hold_keeps
      | with_reducible apply prefetchAfter_keeps
      | with_reducible apply respond_keeps
      | (with_reducible apply Acc.issue_keeps _ _ (fun _ h => readHome_keeps _ _ _ _ h))
      | (with_reducible apply Acc.issue_keeps _ _ (fun _ h => readPeer_keeps _ _ _ h))
      | (with_reducible apply Acc.issue_keeps _ _ (fun _ h => readHost_keeps _ _ h))
      | with_reducible exact hu
      | split)

theorem memRead_keeps (x0 x1 x2 x3 x4 x5) (h : Keeps q s) : Keeps q (memRead x0 x1 x2 x3 x4 x5 s) := by
  unfold memRead
  repeat' (first | with_reducible assumption | apply foldl_k | intro _ _ _ | split | grind [faultAccess_keeps, readPart_keeps, Keeps.same])

theorem countWrite_keeps (x0 x1) (h : Keeps q s) : Keeps q (countWrite x0 x1 s) := by
  grind [countWrite, State.modTileWork_keeps, Keeps.same]

theorem writeLost_keeps (x0 x1 x2) (h : Keeps q s) : Keeps q (writeLost x0 x1 x2 s) := by
  unfold writeLost
  grind [faultAccess_keeps, raiseBerth_keeps, Keeps.same]

theorem scDone_keeps (x0 x1 x2) (h : Keeps q s) : Keeps q (scDone x0 x1 x2 s) := by
  grind [scDone, respond_keeps, Keeps.same]

theorem clearReservation_keeps (x0) (h : Keeps q s) : Keeps q (clearReservation x0 s) := by
  unfold clearReservation
  grind [State.modCores_keeps, Keeps.same]

theorem writeHome_keeps (x0 x1 x2 x3) (h : Keeps q s) : Keeps q (writeHome x0 x1 x2 x3 s) := by
  grind [writeHome, countWrite_keeps, respond_keeps, scDone_keeps, writeDram_keeps, writeLost_keeps, Keeps.same]

theorem postPeer_keeps (x0 x1) (h : Keeps q s) : Keeps q (postPeer x0 x1 s) := by
  grind [postPeer, countWrite_keeps, sendPeer_keeps, Keeps.same]

theorem conditionalPeer_keeps (x0 x1) (h : Keeps q s) : Keeps q (conditionalPeer x0 x1 s) := by
  unfold conditionalPeer
  repeat' (first | with_reducible assumption | apply Acc.issue_keeps | intro _ _ _ | split | grind [State.modIsgal_keeps, requestPeer_keeps, scDone_keeps, Keeps.same])

theorem writeHost_keeps (x0 x1) (h : Keeps q s) : Keeps q (writeHost x0 x1 s) := by
  grind [writeHost, putPcie_keeps, registerWrite_keeps, respond_keeps, Keeps.same]

theorem writePart_keeps (x0 x1 x2 x3 x4 x5) (h : Keeps q s) : Keeps q (writePart x0 x1 x2 x3 x4 x5 s) := by
  unfold writePart
  refine translated_keeps _ _ _ _ _ _ _ (fun x s h => ?_) h
  dsimp only
  repeat' (first
    | with_reducible apply faultAccess_keeps
    | with_reducible apply scDone_keeps
    | with_reducible apply clearReservation_keeps
    | with_reducible apply conditionalPeer_keeps
    | (with_reducible apply Acc.issue_keeps _ _ (fun _ h => writeHome_keeps _ _ _ _ h))
    | (with_reducible apply Acc.issue_keeps _ _ (fun _ h => requestPeer_keeps _ _ _ _ h))
    | (with_reducible apply Acc.issue_keeps _ _ (fun _ h => postPeer_keeps _ _ h))
    | (with_reducible apply Acc.issue_keeps _ _ (fun _ h => writeHost_keeps _ _ h))
    | with_reducible exact h
    | split)

theorem memWrite_keeps (x0 x1 x2 x3 x4) (h : Keeps q s) : Keeps q (memWrite x0 x1 x2 x3 x4 s) := by
  unfold memWrite
  split
  · exact h
  · split
    · exact faultAccess_keeps _ _ _ h
    · exact foldl_k (fun _ _ h => writePart_keeps _ _ _ _ _ _ h) _ h

theorem atomicHome_keeps (x0 x1 x2 x3 x4 x5) (h : Keeps q s) : Keeps q (atomicHome x0 x1 x2 x3 x4 x5 s).1 := by
  grind [atomicHome, readDram_keeps, writeDram_keeps, Keeps.same]

theorem memAtomic_keeps (x0 x1 x2 x3 x4 x5 x6) (h : Keeps q s) : Keeps q (memAtomic x0 x1 x2 x3 x4 x5 x6 s) := by
  unfold memAtomic
  extract_lets len
  clear_value len
  split
  · exact h
  next a _ =>
    split
    · exact faultAccess_keeps _ _ _ h
    · refine translated_keeps _ _ _ _ _ _ _ (fun x s h => ?_) h
      split
      · refine Acc.issue_keeps _ _ (fun s h => ?_) h
        have h1 := atomicHome_keeps a.src (x.e.addr x2) x3 x4 x5 x6 h
        split
        · next e => rw [e] at h1; exact faultAccess_keeps _ _ _ h1
        · next e => rw [e] at h1; exact respond_keeps _ _ _ h1
      · split
        · split
          · exact faultAccess_keeps _ _ _ h
          · exact Acc.issue_keeps _ _ (fun _ h => requestPeer_keeps _ _ _ _ h) h
        · exact faultAccess_keeps _ _ _ h

theorem blockAt_keeps (x0) (h : Keeps q s) : Keeps q (blockAt x0 s) := ⟨h.1, h.2⟩

theorem unlessHeld_keeps {f : State → State} (hf : ∀ s, Keeps q s → Keeps q (f s)) (h : Keeps q s) :
    Keeps q (unlessHeld f s) := by
  unfold unlessHeld
  dsimp only
  split
  · exact hf _ h
  · exact foldl_k (fun _ _ h => startWake_keeps _ h) _ h

theorem engineAccess_keeps {α : Type} (x0 x1 x2 x3 x4) {f : Acc → State → State × Access α}
    (hf : ∀ x s, Keeps q s → Keeps q (f x s).1) (h : Keeps q s) : Keeps q (engineAccess x0 x1 x2 x3 x4 f s).1 := by
  unfold engineAccess
  dsimp only
  split
  · exact h
  · split
    · exact h
    · next e _ =>
      have hw := walk_keeps x0.tile (s.dyn.cfg.entryNo x0.berth x2) h
      split
      · next e => rw [e] at hw; exact hw
      · next e =>
        rw [e] at hw
        repeat' (first | exact hf _ _ hw | exact blockAt_keeps _ hw | split)

theorem enginePart_keeps (x0 x1 x2) (h : Keeps q s) : Keeps q (enginePart x0 x1 x2 s).1 := by
  unfold enginePart
  repeat' (first | with_reducible assumption | apply engineAccess_keeps | intro _ _ _ | split | grind [State.bump_keeps, blockAt_keeps, prefetchAfter_keeps, putPcie_keeps, readDram_keeps, sendUnheard_keeps, useBuffer_keeps, Keeps.same])

theorem thenA_keeps {α β : Type} {x : State × Access α} {f : α → State → State × Access β} (hx : Keeps q x.1)
    (hf : ∀ v s, Keeps q s → Keeps q (f v s).1) : Keeps q (thenA x f).1 := by
  obtain ⟨s, a⟩ := x
  cases a with
  | ok v => exact hf v s hx
  | addressFault => exact hx
  | uncorrectable => exact hx

theorem eachA_keeps {α β : Type} {f : α → State → State × Access β} (hf : ∀ v s, Keeps q s → Keeps q (f v s).1) (l : List α)
    (h : Keeps q s) : Keeps q (eachA f l s).1 := by
  induction l generalizing s with
  | nil => exact h
  | cons a t ih => exact thenA_keeps (hf a s h) fun v s hs => thenA_keeps (ih hs) fun vs s hs => hs

theorem contextRead_keeps (x0 x1 x2) (h : Keeps q s) : Keeps q (contextRead x0 x1 x2 s).1 := by
  unfold contextRead
  repeat' (first | with_reducible assumption | apply eachA_keeps | apply thenA_keeps | intro _ _ _ | split | grind [enginePart_keeps, Keeps.same])

theorem engineStore_keeps (x0 x1 x2) (h : Keeps q s) : Keeps q (engineStore x0 x1 x2 s).1 := by
  unfold engineStore
  repeat' (first | with_reducible assumption | apply engineAccess_keeps | intro _ _ _ | split | grind [countWrite_keeps, postPeer_keeps, putPcie_keeps, registerWrite_keeps, sendUnheard_keeps, writeDram_keeps, Keeps.same])

theorem contextWrite_keeps (x0 x1 x2) (h : Keeps q s) : Keeps q (contextWrite x0 x1 x2 s).1 := by
  unfold contextWrite
  repeat' (first | with_reducible assumption | apply eachA_keeps | apply thenA_keeps | intro _ _ _ | split | grind [engineStore_keeps, Keeps.same])

theorem contextAtomic_keeps (x0 x1 x2 x3 x4 x5) (h : Keeps q s) : Keeps q (contextAtomic x0 x1 x2 x3 x4 x5 s).1 := by
  unfold contextAtomic
  dsimp only
  repeat' (first | with_reducible assumption | apply engineAccess_keeps | intro _ _ _ | split | grind [State.bump_keeps, atomicHome_keeps, sendUnheard_keeps, Keeps.same])

end Sys2Proof.Machine
end

