-- ==== Sys2Proof/Laws/KeepsBridge.lean ====
section
/-! SUPPORT. Machine/Bridge.lean keeps memory canonical and the waiting commands. -/

namespace Sys2Proof.Machine

set_option Elab.async false

variable {q : List Instr} {s : State}

theorem answerPeer_keeps (x0 x1 x2 x3) (h : Keeps q s) : Keeps q (answerPeer x0 x1 x2 x3 s) := by
  grind [answerPeer, sendPeer_keeps, Keeps.same]

theorem serveAccess_keeps (x0 x1) (h : Keeps q s) : Keeps q (serveAccess x0 x1 s) := by
  grind [serveAccess, answerPeer_keeps, atomicHome_keeps, readDram_keeps, registerWrite_keeps, writeDram_keeps, Keeps.same]

theorem servePoll_keeps (x0 x1) (h : Keeps q s) : Keeps q (servePoll x0 x1 s) := by
  grind [servePoll, State.modIsgal_keeps, answerPeer_keeps, Keeps.same]

theorem noteCommitted_keeps (x0 x1) (h : Keeps q s) : Keeps q (noteCommitted x0 x1 s) := by
  grind [noteCommitted, State.modIsgal_keeps, Keeps.same]

theorem holdTx_keeps (x0 x1 x2 x3) (h : Keeps q s) : Keeps q (holdTx x0 x1 x2 x3 s) := by
  grind [holdTx, holdReq_keeps, Keeps.same]

theorem serveInbound_keeps (x0 x1 x2) (h : Keeps q s) : Keeps q (serveInbound x0 x1 x2 s) := by
  grind [serveInbound, answerPeer_keeps, holdTx_keeps, noteCommitted_keeps, serveAccess_keeps, servePoll_keeps, takeCredits_keeps, Keeps.same]

theorem retryPeer_keeps (x0 x1) (h : Keeps q s) : Keeps q (retryPeer x0 x1 s) := by
  grind [retryPeer, sendPeer_keeps, Keeps.same]

theorem serveLockRead_keeps (x0 x1 x2) (h : Keeps q s) : Keeps q (serveLockRead x0 x1 x2 s) := by
  grind [serveLockRead, State.modIsgal_keeps, answerPeer_keeps, holdTx_keeps, readDram_keeps, retryPeer_keeps, Keeps.same]

theorem serveLockWrite_keeps (x0 x1) (h : Keeps q s) : Keeps q (serveLockWrite x0 x1 s) := by
  grind [serveLockWrite, State.modIsgal_keeps, answerPeer_keeps, writeDram_keeps, Keeps.same]

theorem serve_keeps (x0) (h : Keeps q s) : Keeps q (serve x0 s) := by
  unfold serve
  grind [memAtomic_keeps, memRead_keeps, memWrite_keeps, serveInbound_keeps, serveLockRead_keeps, Keeps.same]

theorem serveHeld_keeps (h : Keeps q s) : Keeps q (serveHeld s) := by
  unfold serveHeld
  repeat' (first | with_reducible assumption | apply foldl_k | intro _ _ _ | split | grind [State.modIsgal_keeps, serve_keeps, Keeps.same])

theorem access_keeps {f : Nat → State → State} (hf : ∀ n s, Keeps q s → Keeps q (f n s)) (h : Keeps q s) :
    ∀ t, access f s = .next t → Keeps q t := by
  unfold access
  intro t ht
  split at ht
  · cases ht; exact hf _ _ (serveHeld_keeps h)
  · cases ht; exact h

theorem execMemoryRead_keeps (x0 x1 x2 x3 x4) (h : Keeps q s) :
    ∀ t, execMemoryRead x0 x1 x2 x3 x4 s = .next t → Keeps q t :=
  access_keeps (fun _ _ h => memRead_keeps _ _ _ _ _ _ h) h

theorem execMemoryWrite_keeps (x0 x1 x2 x3) (h : Keeps q s) : ∀ t, execMemoryWrite x0 x1 x2 x3 s = .next t → Keeps q t :=
  access_keeps (fun _ _ h => memWrite_keeps _ _ _ _ _ h) h

theorem execMemoryAtomic_keeps (x0 x1 x2 x3 x4 x5) (h : Keeps q s) :
    ∀ t, execMemoryAtomic x0 x1 x2 x3 x4 x5 s = .next t → Keeps q t :=
  access_keeps (fun _ _ h => memAtomic_keeps _ _ _ _ _ _ _ h) h

theorem execCreditReturn_keeps (x0 x1 x2) (h : Keeps q s) : ∀ t, execCreditReturn x0 x1 x2 s = .next t → Keeps q t := by
  grind [execCreditReturn, State.modWork_keeps, serveHeld_keeps, Keeps.same]

theorem execReleaseFence_keeps (x0 x1) (h : Keeps q s) : ∀ t, execReleaseFence x0 x1 s = .next t → Keeps q t := by
  unfold execReleaseFence
  intro t ht
  split at ht
  · exact access_keeps (fun _ _ h => fenceWrites_keeps _ _ _ _ h) h t ht
  · cases ht; exact h

theorem execPatrolRead_keeps (x0 x1) (h : Keeps q s) : ∀ t, execPatrolRead x0 x1 s = .next t → Keeps q t := by
  grind [execPatrolRead, flipLine_keeps, readDoubled_keeps, readDramLine_keeps, startWake_keeps, Keeps.same]

theorem zeroFrame_keeps (x0) (h : Keeps q s) : Keeps q (zeroFrame x0 s) := by
  unfold zeroFrame
  exact foldl_k (fun s x h => endLockOn_keeps _ (setLine_k h _ _)) _ h

theorem execFrameZero_keeps (x0) (h : Keeps q s) : ∀ t, execFrameZero x0 s = .next t → Keeps q t := by
  grind [execFrameZero, State.modAllCfg_keeps, startWake_keeps, zeroFrame_keeps, Keeps.same]

theorem execVoidRangeClear_keeps (x0) (h : Keeps q s) : ∀ t, execVoidRangeClear x0 s = .next t → Keeps q t := by
  grind [execVoidRangeClear, State.modAllCfg_keeps, State.modLock_keeps, Keeps.same]

theorem dropRequest_keeps (x0) (h : Keeps q s) : Keeps q (dropRequest x0 s) := by
  grind [dropRequest, State.modGateway_keeps, Keeps.same]

theorem endPcie_keeps (x0 x1) (h : Keeps q s) : Keeps q (endPcie x0 x1 s) := by
  unfold endPcie
  grind [dropRequest_keeps, faultAccess_keeps, fillArrived_keeps, fillFailed_keeps, respond_keeps, serveHeld_keeps, Keeps.same]

theorem execPcieTimeout_keeps (x0) (h : Keeps q s) : ∀ t, execPcieTimeout x0 s = .next t → Keeps q t := by
  grind [execPcieTimeout, endPcie_keeps, Keeps.same]

theorem execPcieCompletion_keeps (x0 x1 x2) (h : Keeps q s) : ∀ t, execPcieCompletion x0 x1 x2 s = .next t → Keeps q t := by
  grind [execPcieCompletion, endPcie_keeps, Keeps.same]

end Sys2Proof.Machine
end

