-- ==== Sys2Proof/Laws/KeepsService.lean ====
section
/-! SUPPORT. Machine/Service.lean keeps memory canonical and the waiting commands. -/

namespace Sys2Proof.Machine

set_option Elab.async false

variable {q : List Instr} {s : State}

theorem maintenance_keeps {act : Ticket → State → State} (ha : ∀ t s, Keeps q s → Keeps q (act t s)) (t : Ticket)
    (h : Keeps q s) : Keeps q (maintenance act t s) := by
  unfold maintenance
  split
  · exact ha _ _ h
  · exact writeRecord_keeps _ _ _ h

theorem execServiceEnter_keeps (x0) (h : Keeps q s) : ∀ t, execServiceEnter x0 s = .next t → Keeps q t := by
  unfold execServiceEnter
  exact carry_keeps (fun t s h => by grind [acceptConfig_keeps]) h

theorem execServiceLeave_keeps (x0) (h : Keeps q s) : ∀ t, execServiceLeave x0 s = .next t → Keeps q t := by
  unfold execServiceLeave
  exact carry_keeps (fun t s h => by grind [acceptConfig_keeps]) h

theorem execGetBringupStatus_keeps (x0) (h : Keeps q s) : ∀ t, execGetBringupStatus x0 s = .next t → Keeps q t := by
  unfold execGetBringupStatus
  exact carry_keeps (fun t s h => by grind [answer_keeps, maintenance_keeps]) h

theorem execGetTileMap_keeps (x0) (h : Keeps q s) : ∀ t, execGetTileMap x0 s = .next t → Keeps q t := by
  unfold execGetTileMap
  exact carry_keeps (fun t s h => by grind [answer_keeps, maintenance_keeps]) h

theorem execGetDeviceIdentity_keeps (x0) (h : Keeps q s) : ∀ t, execGetDeviceIdentity x0 s = .next t → Keeps q t := by
  unfold execGetDeviceIdentity
  exact carry_keeps (fun t s h => by grind [answer_keeps]) h

theorem execGetLicence_keeps (x0) (h : Keeps q s) : ∀ t, execGetLicence x0 s = .next t → Keeps q t := by
  unfold execGetLicence
  exact carry_keeps (fun t s h => by grind [answer_keeps]) h

theorem actGetErrorLog_keeps (x0) (h : Keeps q s) : Keeps q (actGetErrorLog x0 s) := by
  grind [actGetErrorLog, writeRecord_keeps, Keeps.same]

theorem execGetErrorLog_keeps (x0) (h : Keeps q s) : ∀ t, execGetErrorLog x0 s = .next t → Keeps q t := by
  unfold execGetErrorLog
  exact carry_keeps (fun t s h => by grind [actGetErrorLog_keeps, maintenance_keeps]) h

theorem actGetDefectLog_keeps (x0) (h : Keeps q s) : Keeps q (actGetDefectLog x0 s) := by
  grind [actGetDefectLog, writeRecord_keeps, Keeps.same]

theorem execGetDefectLog_keeps (x0) (h : Keeps q s) : ∀ t, execGetDefectLog x0 s = .next t → Keeps q t := by
  unfold execGetDefectLog
  exact carry_keeps (fun t s h => by grind [actGetDefectLog_keeps, maintenance_keeps]) h

theorem execErrorRecordSecond_keeps (h : Keeps q s) : ∀ t, execErrorRecordSecond s = .next t → Keeps q t := by
  unfold execErrorRecordSecond
  intro t ht
  repeat' (first | with_reducible assumption | split at ht | cases ht | apply foldl_k | intro _ _ _ | split | grind [State.modErrors_keeps, enterError_keeps, Keeps.same])

theorem withSource_keeps {size : Nat → Bool} {t : Ticket} {act : List Byte → State → State}
    (ha : ∀ v s, Keeps q s → Keeps q (act v s)) (h : Keeps q s) : Keeps q (withSource size t act s) := by
  unfold withSource
  grind [readVirt_keeps, writeRecord_keeps]

theorem queueFlash_keeps (x0) (h : Keeps q s) : Keeps q (queueFlash x0 s) := by
  grind [queueFlash, State.modBring_keeps, Keeps.same]

theorem actLicenceInstall_keeps (x0) (h : Keeps q s) : Keeps q (actLicenceInstall x0 s) := by
  unfold actLicenceInstall
  repeat' (first | with_reducible assumption | apply withSource_keeps | intro _ _ _ | split | grind [queueFlash_keeps, writeRecord_keeps, Keeps.same])

theorem execLicenceInstall_keeps (x0) (h : Keeps q s) : ∀ t, execLicenceInstall x0 s = .next t → Keeps q t := by
  unfold execLicenceInstall
  exact carry_keeps (fun t s h => by grind [actLicenceInstall_keeps]) h

theorem actUpdate_keeps (x0) (h : Keeps q s) : Keeps q (actUpdate x0 s) := by
  unfold actUpdate
  repeat' (first | with_reducible assumption | apply withSource_keeps | intro _ _ _ | split | grind [queueFlash_keeps, writeRecord_keeps, Keeps.same])

theorem actRecovery_keeps (x0) (h : Keeps q s) : Keeps q (actRecovery x0 s) := by
  grind [actRecovery, State.modBring_keeps, queueFlash_keeps, writeRecord_keeps, Keeps.same]

theorem carryUpdate_keeps (x0) (h : Keeps q s) : ∀ t, carryUpdate x0 s = .next t → Keeps q t := by
  unfold carryUpdate
  exact carry_keeps (fun t s h => by split <;> grind [actRecovery_keeps, actUpdate_keeps]) h

theorem execFwUpdate_keeps (x0) (h : Keeps q s) : ∀ t, execFwUpdate x0 s = .next t → Keeps q t := carryUpdate_keeps x0 h

theorem execFwUpdateRecovery_keeps (x0) (h : Keeps q s) : ∀ t, execFwUpdateRecovery x0 s = .next t → Keeps q t := carryUpdate_keeps x0 h

theorem chunkWritten_keeps (x0) (h : Keeps q s) : Keeps q (chunkWritten x0 s) := by
  grind [chunkWritten, State.modBring_keeps, writeRecord_keeps, Keeps.same]

theorem execFlashWriteEnd_keeps (x0) (h : Keeps q s) : ∀ t, execFlashWriteEnd x0 s = .next t → Keeps q t := by
  unfold execFlashWriteEnd
  grind [State.modBring_keeps, chunkWritten_keeps, writeRecord_keeps, Keeps.same]

end Sys2Proof.Machine
end

