-- ==== Sys2Proof/Laws/KeepsTiles.lean ====
section
/-! SUPPORT. Machine/Tiles.lean keeps memory canonical and the waiting commands. -/

namespace Sys2Proof.Machine

set_option Elab.async false

variable {q : List Instr} {s : State}

theorem tileWordBad_keeps (x0 x1) (h : Keeps q s) : Keeps q (tileWordBad x0 x1 s) := by
  grind [tileWordBad, addError_keeps, raiseDoubt_keeps, tileFailure_keeps, Keeps.same]

theorem sramWord_keeps (x0 x1 x2) (h : Keeps q s) : Keeps q (sramWord x0 x1 x2 s).1 := by
  unfold sramWord
  grind [addError_keeps, tileFailure_keeps, tileWordBad_keeps, Keeps.same]

theorem readCopy_keeps (x0 x1 x2) (h : Keeps q s) : Keeps q (readCopy x0 x1 x2 s).1 := by
  unfold readCopy
  suffices ∀ (l : List (Nat × Nat)) (y : State × Option (List Byte)), Keeps q y.1 → Keeps q (l.foldl (fun x f => match x with
      | (s, none) => (s, none)
      | (s, some d) =>
        match readDram x0 (f.1 * 0x10000) (min 0x10000 (x2 - f.2 * 0x10000)) s with
        | (s, some e) => (s, some (d ++ e))
        | (s, none) => (s, none)) y).1 from this _ _ h
  intro l
  induction l with
  | nil => exact fun y h => h
  | cons f l ih =>
    intro y hy
    refine ih _ ?_
    obtain ⟨s, a⟩ := y
    cases a with
    | none => exact hy
    | some d =>
      have h1 := readDram_keeps x0 (f.1 * 0x10000) (min 0x10000 (x2 - f.2 * 0x10000)) hy
      dsimp only at h1 ⊢
      split
      · next e => rw [e] at h1; exact h1
      · next e => rw [e] at h1; exact h1

theorem loadShard_keeps (x0 x1) (h : Keeps q s) : Keeps q (loadShard x0 x1 s) := by
  grind [loadShard, State.modTileWork_keeps, readCopy_keeps, Keeps.same]

theorem loadSafety_keeps (x0) (h : Keeps q s) : Keeps q (loadSafety x0 s) := by
  unfold loadSafety
  split
  · exact h
  · exact regrant_keeps _ (foldl_k (fun _ _ h => loadShard_keeps _ _ h) _ (State.modTileWork_keeps _ _ h))

theorem recordLoads_keeps (h : Keeps q s) : Keeps q (recordLoads s) := by
  unfold recordLoads
  repeat' (first | with_reducible assumption | apply foldl_k | intro _ _ _ | split | grind [State.modLock_keeps, writeRecord_keeps, Keeps.same])

theorem zeroTile_keeps (x0) (h : Keeps q s) : Keeps q (zeroTile x0 s) := by
  grind [zeroTile, State.modTileWork_keeps, Keeps.same]

theorem execTileStateEnter_keeps (x0) (h : Keeps q s) : ∀ t, execTileStateEnter x0 s = .next t → Keeps q t := by
  grind [execTileStateEnter, State.modTile_keeps, touchTile_keeps, Keeps.same]

theorem execTileWake_keeps (x0) (h : Keeps q s) : ∀ t, execTileWake x0 s = .next t → Keeps q t := by
  grind [execTileWake, startWake_keeps, Keeps.same]

theorem execTileWakeDone_keeps (x0) (h : Keeps q s) : ∀ t, execTileWakeDone x0 s = .next t → Keeps q t := by
  grind [execTileWakeDone, State.modTile_keeps, serveHeld_keeps, Keeps.same]

theorem execHandoverComplete_keeps (x0) (h : Keeps q s) : ∀ t, execHandoverComplete x0 s = .next t → Keeps q t := by
  grind [execHandoverComplete, State.modTile_keeps, loadSafety_keeps, recordLoads_keeps, startWake_keeps, zeroTile_keeps, Keeps.same]

theorem actTileTest_keeps (x0) (h : Keeps q s) : Keeps q (actTileTest x0 s) := by
  grind [actTileTest, State.modTile_keeps, writeRecord_keeps, Keeps.same]

theorem execTileTest_keeps (x0) (h : Keeps q s) : ∀ t, execTileTest x0 s = .next t → Keeps q t := by
  unfold execTileTest
  exact carry_keeps (fun t s h => by grind [actTileTest_keeps, maintenance_keeps]) h

theorem execTileSelfTestEnd_keeps (x0 x1) (h : Keeps q s) : ∀ t, execTileSelfTestEnd x0 x1 s = .next t → Keeps q t := by
  unfold execTileSelfTestEnd
  dsimp only
  intro t ht
  have h1 := loadSafety_keeps x0.val (zeroTile_keeps x0.val h)
  split at ht
  · cases ht; exact h
  · split at ht
    · cases ht; exact h
    · split at ht
      · cases ht
        exact recordLoads_keeps (writeRecord_keeps _ _ _ (State.modTile_keeps _ _ h1))
      · cases ht
        exact recordLoads_keeps (tileFailure_keeps _ _ (writeRecord_keeps _ _ _ (State.modTile_keeps _ _ h1)))

end Sys2Proof.Machine
end

