-- ==== Sys2Proof/Laws/KeepsSched.lean ====
section
/-! SUPPORT. Machine/Sched.lean keeps memory canonical and the waiting commands. -/

namespace Sys2Proof.Machine

set_option Elab.async false

variable {q : List Instr} {s : State}

theorem noteChosen_keeps (x0 x1) (h : Keeps q s) : Keeps q (noteChosen x0 x1 s) := by
  grind [noteChosen, State.modWork_keeps, Keeps.same]

theorem resolveLeaf_keeps (x0 x1 x2) (h : Keeps q s) : Keeps q (resolveLeaf x0 x1 x2 s).1 := by
  revert h
  fun_induction resolveLeaf x0 x1 x2 s <;> intro h <;> grind [resolveLeaf, noteChosen_keeps, Keeps.same]

theorem leafUnder_keeps (x0 x1) (h : Keeps q s) : Keeps q (leafUnder x0 x1 s).1 := by
  grind [leafUnder, resolveLeaf_keeps, Keeps.same]

theorem leafFor_keeps (x0 x1 x2) (h : Keeps q s) : Keeps q (leafFor x0 x1 x2 s).1 := by
  grind [leafFor, leafUnder_keeps, Keeps.same]

theorem placeFrom_keeps (n : Nat) (j : Job) (k i : Nat) (ts : List Nat) (acc : List ShardRun) (h : Keeps q s) :
    ∀ r, placeFrom n j k i ts acc s = some r → Keeps q r.1 := by
  induction k generalizing i ts acc s with
  | zero => intro r hr; cases hr; exact h
  | succ k ih =>
    intro r hr
    unfold placeFrom at hr
    split at hr
    · cases hr
    · exact ih _ _ _ (noteChosen_keeps _ _ h) _ hr

theorem placeModel_keeps (x0 x1) (h : Keeps q s) : Keeps q (placeModel x0 x1 s).1 := by
  unfold placeModel
  dsimp only
  split
  · split <;> exact h
  · split
    · exact h
    · next e => exact placeFrom_keeps _ _ _ _ _ _ h _ e

end Sys2Proof.Machine
end

