-- ==== Sys2Proof/Laws/KeepsHeaders.lean ====
section
/-! SUPPORT. Machine/Headers.lean keeps memory canonical and the waiting commands. -/

namespace Sys2Proof.Machine

set_option Elab.async false

variable {q : List Instr} {s : State}

theorem modShard_keeps (x0 x1 x2) (h : Keeps q s) : Keeps q (modShard x0 x1 x2 s) := by
  grind [modShard, State.modJob_keeps, Keeps.same]

theorem engineRead_keeps (x0 x1 x2) (h : Keeps q s) : Keeps q (engineRead x0 x1 x2 s).1 := by
  grind [engineRead, contextRead_keeps, Keeps.same]

theorem engineWrite_keeps (x0 x1 x2) (h : Keeps q s) : Keeps q (engineWrite x0 x1 x2 s).1 := by
  grind [engineWrite, State.modTileWork_keeps, contextWrite_keeps, modShard_keeps, Keeps.same]

theorem engineAtomic_keeps (x0 x1 x2 x3 x4) (h : Keeps q s) : Keeps q (engineAtomic x0 x1 x2 x3 x4 s).1 := by
  unfold engineAtomic
  repeat' (first | with_reducible assumption | apply thenA_keeps | intro _ _ _ | split | grind [contextAtomic_keeps, engineRead_keeps, engineWrite_keeps, Keeps.same])

theorem readBits_keeps (x0 x1 x2) (h : Keeps q s) : Keeps q (readBits x0 x1 x2 s).1 := by
  unfold readBits
  repeat' (first | with_reducible assumption | apply thenA_keeps | intro _ _ _ | split | grind [engineRead_keeps, Keeps.same])

theorem readElem_keeps (x0 x1 x2 x3 x4) (h : Keeps q s) : Keeps q (readElem x0 x1 x2 x3 x4 s).1 := by
  unfold readElem
  repeat' (first | with_reducible assumption | apply thenA_keeps | intro _ _ _ | split | grind [engineRead_keeps, readBits_keeps, Keeps.same])

theorem readRow_keeps (x0 x1 x2 x3 x4 x5) (h : Keeps q s) : Keeps q (readRow x0 x1 x2 x3 x4 x5 s).1 := by
  unfold readRow
  repeat' (first | with_reducible assumption | apply eachA_keeps | intro _ _ _ | split | grind [readElem_keeps, Keeps.same])

theorem writeBits_keeps (x0 x1 x2 x3) (h : Keeps q s) : Keeps q (writeBits x0 x1 x2 x3 s).1 := by
  unfold writeBits
  repeat' (first | with_reducible assumption | apply thenA_keeps | intro _ _ _ | split | grind [engineRead_keeps, engineWrite_keeps, Keeps.same])

theorem writeGroup_keeps (x0 x1 x2 x3 x4 x5 x6) (h : Keeps q s) : Keeps q (writeGroup x0 x1 x2 x3 x4 x5 x6 s).1 := by
  unfold writeGroup
  dsimp only
  repeat' (first | with_reducible assumption | apply thenA_keeps | intro _ _ _ | split | grind [engineRead_keeps, engineWrite_keeps, writeBits_keeps, Keeps.same])

end Sys2Proof.Machine
end

