-- ==== Sys2Proof/Laws/KeepsImages.lean ====
section
/-! SUPPORT. Machine/Images.lean keeps memory canonical and the waiting commands. -/

namespace Sys2Proof.Machine

set_option Elab.async false

variable {q : List Instr} {s : State}

/-- A way to read keeps what `Keeps` says. -/
def ReaderKeeps (q : List Instr) (rd : Reader) : Prop := ∀ a n s, Keeps q s → Keeps q (rd a n s).1

/-- A way to write keeps what `Keeps` says. -/
def WriterKeeps (q : List Instr) (wr : Writer) : Prop := ∀ a d s, Keeps q s → Keeps q (wr a d s).1

theorem berthReader_keeps (a : Src) (b : BitVec 6) : ReaderKeeps q (berthReader a b) := fun _ _ _ h => readVirt_keeps _ _ _ _ h

theorem berthWriter_keeps (a : Src) (b : BitVec 6) : WriterKeeps q (berthWriter a b) := fun _ _ _ h => writeVirt_keeps _ _ _ _ h

theorem engineReader_keeps (g : Engine) : ReaderKeeps q (fun va n s => engineRead g va n s) :=
  fun _ _ _ h => engineRead_keeps _ _ _ h

theorem readTag_keeps {x0 x1 x2 x3} (hr : ReaderKeeps q x0) (h : Keeps q s) : Keeps q (readTag x0 x1 x2 x3 s).1 := by
  unfold readTag
  have hr' := hr
  unfold ReaderKeeps at hr'
  repeat' (first | with_reducible assumption | with_reducible apply hr' | with_reducible apply thenA_keeps | with_reducible apply eachA_keeps | (with_reducible intro _ _ _) | split | exact h | grind [Keeps.same])

theorem writeTag_keeps {x0 x1 x2 x3 x4 x5} (hr : ReaderKeeps q x0) (hw : WriterKeeps q x1) (h : Keeps q s) : Keeps q (writeTag x0 x1 x2 x3 x4 x5 s).1 := by
  unfold writeTag
  have hr' := hr
  unfold ReaderKeeps at hr'
  have hw' := hw
  unfold WriterKeeps at hw'
  repeat' (first | with_reducible assumption | with_reducible apply hr' | with_reducible apply hw' | with_reducible apply thenA_keeps | with_reducible apply eachA_keeps | (with_reducible intro _ _ _) | split | exact h | grind [Keeps.same])

theorem readTexel_keeps {x0 x1 x2 x3 x4 x5 x6} (hr : ReaderKeeps q x0) (h : Keeps q s) : Keeps q (readTexel x0 x1 x2 x3 x4 x5 x6 s).1 := by
  unfold readTexel
  have hr' := hr
  unfold ReaderKeeps at hr'
  repeat' (first | with_reducible assumption | with_reducible apply hr' | with_reducible apply readTag_keeps | with_reducible apply thenA_keeps | with_reducible apply eachA_keeps | (with_reducible intro _ _ _) | split | exact h | grind [readTag_keeps, Keeps.same])

theorem fetchTexel_keeps {x0 x1 x2 x3 x4 x5} (hr : ReaderKeeps q x0) (h : Keeps q s) : Keeps q (fetchTexel x0 x1 x2 x3 x4 x5 s).1 := by
  grind [fetchTexel, readTexel_keeps, thenA_keeps, Keeps.same]

theorem filterTexel_keeps {x0 x1 x2 x3 x4 x5 x6 x7} (hr : ReaderKeeps q x0) (h : Keeps q s) : Keeps q (filterTexel x0 x1 x2 x3 x4 x5 x6 x7 s).1 := by
  grind [filterTexel, fetchTexel_keeps, thenA_keeps, Keeps.same]

theorem sampleLevel_keeps {x0 x1 x2 x3 x4 x5 x6 x7 x8} (hr : ReaderKeeps q x0) (h : Keeps q s) : Keeps q (sampleLevel x0 x1 x2 x3 x4 x5 x6 x7 x8 s).1 := by
  unfold sampleLevel
  have hr' := hr
  unfold ReaderKeeps at hr'
  repeat' (first | with_reducible assumption | with_reducible apply hr' | with_reducible apply filterTexel_keeps | with_reducible apply thenA_keeps | with_reducible apply eachA_keeps | (with_reducible intro _ _ _) | split | exact h | grind [filterTexel_keeps, Keeps.same])

theorem sampleImage_keeps {x0 x1 x2 x3 x4 x5 x6 x7} (hr : ReaderKeeps q x0) (h : Keeps q s) : Keeps q (sampleImage x0 x1 x2 x3 x4 x5 x6 x7 s).1 := by
  unfold sampleImage
  have hr' := hr
  unfold ReaderKeeps at hr'
  dsimp only
  repeat' (first | with_reducible assumption | with_reducible apply hr' | with_reducible apply sampleLevel_keeps | with_reducible apply thenA_keeps | with_reducible apply eachA_keeps | (with_reducible intro _ _ _) | split | exact h | grind [sampleLevel_keeps, Keeps.same])

theorem writeTexel_keeps {x0 x1 x2 x3 x4 x5 x6 x7} (hw : WriterKeeps q x0) (h : Keeps q s) : Keeps q (writeTexel x0 x1 x2 x3 x4 x5 x6 x7 s).1 := by
  unfold writeTexel
  have hw' := hw
  unfold WriterKeeps at hw'
  repeat' (first | with_reducible assumption | with_reducible apply hw' | with_reducible apply thenA_keeps | with_reducible apply eachA_keeps | (with_reducible intro _ _ _) | split | exact h | grind [Keeps.same])

end Sys2Proof.Machine
end

