-- ==== Sys2Proof/Laws/KeepsPasses.lean ====
section
/-! SUPPORT. Machine/Passes.lean keeps memory canonical and the waiting commands. -/

namespace Sys2Proof.Machine

set_option Elab.async false

variable {q : List Instr} {s : State}

theorem State.modPass_keeps (x0 x1) (h : Keeps q s) : Keeps q (State.modPass x0 x1 s) := by
  grind [State.modPass, State.modRaster_keeps, Keeps.same]

theorem dropPass_keeps (x0) (h : Keeps q s) : Keeps q (dropPass x0 s) := by
  unfold dropPass
  repeat' (first | with_reducible assumption | apply foldl_k | intro _ _ _ | split | grind [State.modPass_keeps, State.modWork_keeps, releaseJob_keeps, releaseSlot_keeps, touchTile_keeps, Keeps.same])

theorem endPass_keeps (x0 x1 x2) (h : Keeps q s) : Keeps q (endPass x0 x1 x2 s) := by
  grind [endPass, dropPass_keeps, writeRecord_keeps, Keeps.same]

theorem failPass_keeps (x0 x1) (h : Keeps q s) : Keeps q (failPass x0 x1 s) := by
  grind [failPass, endPass_keeps, faultQueue_keeps, Keeps.same]

end Sys2Proof.Machine
end

