-- ==== Sys2Proof/Laws/KeepsTensor.lean ====
section
/-! SUPPORT. Machine/Tensor.lean keeps memory canonical and the waiting commands. -/

namespace Sys2Proof.Machine

set_option Elab.async false

variable {q : List Instr} {s : State}

theorem loadHeaders_keeps (x0 x1) (h : Keeps q s) : Keeps q (loadHeaders x0 x1 s).1 := by
  grind [loadHeaders, eachA_keeps, readVirt_keeps, thenA_keeps, Keeps.same]

theorem setSr_keeps (x0 x1 x2) (h : Keeps q s) : Keeps q (setSr x0 x1 x2 s) := by
  grind [setSr, State.modTileWork_keeps, Keeps.same]

theorem beginRun_keeps (x0 x1) (h : Keeps q s) : Keeps q (beginRun x0 x1 s).1 := by
  unfold beginRun
  repeat' (first | with_reducible assumption | apply foldl_k | intro _ _ _ | split | grind [setSr_keeps, Keeps.same])

theorem startAcc_keeps (x0 x1 x2 x3) (h : Keeps q s) : Keeps q (startAcc x0 x1 x2 x3 s).1 := by
  grind [startAcc, eachA_keeps, readBits_keeps, thenA_keeps, Keeps.same]

theorem writeRow_keeps (x0 x1 x2 x3 x4 x5) (h : Keeps q s) : Keeps q (writeRow x0 x1 x2 x3 x4 x5 s).1 := by
  unfold writeRow
  repeat' (first | with_reducible assumption | apply eachA_keeps | apply thenA_keeps | apply foldl_k | intro _ _ _ | split | grind [writeGroup_keeps, Keeps.same])

theorem closePart_keeps (x0 x1 x2 x3) (h : Keeps q s) : Keeps q (closePart x0 x1 x2 x3 s).1 := by
  grind [closePart, eachA_keeps, readBits_keeps, thenA_keeps, writeRow_keeps, Keeps.same]

theorem loadProduct_keeps (x0 x1 x2) (h : Keeps q s) : Keeps q (loadProduct x0 x1 x2 s).1 := by
  grind [loadProduct, State.modTileWork_keeps, closePart_keeps, eachA_keeps, readRow_keeps, startAcc_keeps, thenA_keeps, Keeps.same]

theorem loadConvert_keeps (x0 x1) (h : Keeps q s) : Keeps q (loadConvert x0 x1 s).1 := by
  grind [loadConvert, readRow_keeps, thenA_keeps, writeRow_keeps, Keeps.same]

theorem runLoad_keeps (x0 x1 x2) (h : Keeps q s) : Keeps q (runLoad x0 x1 x2 s).1 := by
  unfold runLoad
  repeat' (first | with_reducible assumption | intro _ _ _ | split | grind [loadConvert_keeps, loadProduct_keeps, Keeps.same])

theorem dealRun_keeps (x0 x1 x2) (h : Keeps q s) : Keeps q (dealRun x0 x1 x2 s).1 := by
  grind [dealRun, beginRun_keeps, Keeps.same]

theorem startTensor_keeps (x0 x1 x2 x3 x4) (h : Keeps q s) : Keeps q (startTensor x0 x1 x2 x3 x4 s) := by
  grind [startTensor, addJob_keeps, dealRun_keeps, leafFor_keeps, Keeps.same]

theorem actMatmul_keeps (x0) (h : Keeps q s) : Keeps q (actMatmul x0 s) := by
  unfold actMatmul
  grind [loadHeaders_keeps, startTensor_keeps, writeRecord_keeps, Keeps.same]

theorem actConvert_keeps (x0) (h : Keeps q s) : Keeps q (actConvert x0 s) := by
  unfold actConvert
  grind [loadHeaders_keeps, startTensor_keeps, writeRecord_keeps, Keeps.same]

theorem execTensorMatmul_keeps (x0) (h : Keeps q s) : ∀ t, execTensorMatmul x0 s = .next t → Keeps q t := by
  unfold execTensorMatmul
  exact carryJob_keeps (fun t s h => by grind [actMatmul_keeps]) h

theorem execTensorConvert_keeps (x0) (h : Keeps q s) : ∀ t, execTensorConvert x0 s = .next t → Keeps q t := by
  unfold execTensorConvert
  exact carryJob_keeps (fun t s h => by grind [actConvert_keeps]) h

theorem seedTiles_keeps (x0 x1 x2) (h : Keeps q s) : Keeps q (seedTiles x0 x1 x2 s) := by
  unfold seedTiles
  repeat' (first | with_reducible assumption | apply foldl_k | intro _ _ _ | split | grind [State.modWork_keeps, setSr_keeps, Keeps.same])

theorem actSeed_keeps (x0) (h : Keeps q s) : Keeps q (actSeed x0 s) := by
  grind [actSeed, seedTiles_keeps, writeRecord_keeps, Keeps.same]

theorem execTensorSeedSr_keeps (x0) (h : Keeps q s) : ∀ t, execTensorSeedSr x0 s = .next t → Keeps q t := by
  grind [execTensorSeedSr, actSeed_keeps, carry_keeps, Keeps.same]

end Sys2Proof.Machine
end

