-- ==== Sys2Proof/Laws/KeepsLanes.lean ====
section
/-! SUPPORT. Machine/Lanes.lean keeps memory canonical and the waiting commands. -/

namespace Sys2Proof.Machine

set_option Elab.async false

variable {q : List Instr} {s : State}

theorem actProgramLoad_keeps (x0) (h : Keeps q s) : Keeps q (actProgramLoad x0 s) := by
  grind [actProgramLoad, acceptConfig_keeps, readVirt_keeps, writeRecord_keeps, Keeps.same]

theorem execProgramLoad_keeps (x0) (h : Keeps q s) : ∀ t, execProgramLoad x0 s = .next t → Keeps q t := by
  unfold execProgramLoad
  exact carry_keeps (fun t s h => by grind [actProgramLoad_keeps]) h

theorem execProgramUnload_keeps (x0) (h : Keeps q s) : ∀ t, execProgramUnload x0 s = .next t → Keeps q t := by
  unfold execProgramUnload
  exact carry_keeps (fun t s h => by grind [acceptConfig_keeps]) h

theorem actLaneDispatch_keeps (x0) (h : Keeps q s) : Keeps q (actLaneDispatch x0 s) := by
  grind [actLaneDispatch, addJob_keeps, leafFor_keeps, readVirt_keeps, writeRecord_keeps, Keeps.same]

theorem execLaneDispatch_keeps (x0) (h : Keeps q s) : ∀ t, execLaneDispatch x0 s = .next t → Keeps q t := by
  unfold execLaneDispatch
  exact carryJob_keeps (fun t s h => by grind [actLaneDispatch_keeps]) h

theorem launch_keeps (x0 x1 x2 x3) (h : Keeps q s) : Keeps q (launch x0 x1 x2 x3 s) := by
  grind [launch, State.modTileWork_keeps, regrant_keeps, Keeps.same]

theorem putGroup_keeps (x0 x1 x2 x3 x4 x5 x6) (h : Keeps q s) : Keeps q (putGroup x0 x1 x2 x3 x4 x5 x6 s) := by
  grind [putGroup, launch_keeps, Keeps.same]

theorem placeOn_keeps (x0 x1 x2 x3 x4) (h : Keeps q s) : ∀ t, placeOn x0 x1 x2 x3 x4 s = some t → Keeps q t := by
  grind [placeOn, putGroup_keeps, Keeps.same]

theorem setLanes_keeps (x0 x1 x2) (h : Keeps q s) : Keeps q (setLanes x0 x1 x2 s) := by
  unfold setLanes
  grind [State.modJob_keeps, modShard_keeps, Keeps.same]

theorem placeDispatch_keeps (x0 x1 x2) (h : Keeps q s) : Keeps q (placeDispatch x0 x1 x2 s) := by
  unfold placeDispatch
  dsimp only
  repeat' (first | with_reducible assumption | intro _ _ _ | split | grind [State.modJob_keeps, noteChosen_keeps, placeOn_keeps, setLanes_keeps, startWake_keeps, Keeps.same])

theorem placeStep_keeps (x0 x1) (h : Keeps q s) : Keeps q (placeStep x0 x1 s) := by
  unfold placeStep
  extract_lets f
  split
  · next t e =>
    obtain ⟨x, _, hx⟩ := List.exists_of_findSome?_eq_some e
    dsimp only [f] at hx
    split at hx
    · split at hx
      · cases hx
      obtain ⟨w, hw, rfl⟩ := Option.map_eq_some_iff.mp hx
      exact setLanes_keeps _ _ _ (placeOn_keeps _ _ _ _ _ h _ hw)
    · cases hx
  · exact h

theorem placeGrid_keeps (x0 x1) (h : Keeps q s) : Keeps q (placeGrid x0 x1 s) := by
  grind [placeGrid, placeDispatch_keeps, placeStep_keeps, Keeps.same]

theorem modGroup_keeps (x0 x1 x2) (h : Keeps q s) : Keeps q (modGroup x0 x1 x2 s) := by
  grind [modGroup, State.modTileWork_keeps, Keeps.same]

theorem modBundle_keeps (x0 x1) (h : Keeps q s) : Keeps q (modBundle x0 x1 s) := by
  grind [modBundle, modGroup_keeps, Keeps.same]

theorem counterBlock_keeps (p j : Nat) (h : Keeps q s) : ∀ r, counterBlock p j s = some r → Keeps q r.1 := by
  intro r hr
  unfold counterBlock at hr
  extract_lets at hr
  split at hr
  · cases hr; exact h
  · split at hr
    · cases hr
    · cases hr; exact State.modTileWork_keeps _ _ h

theorem signalCounter_keeps (x0 x1 x2 x3) (h : Keeps q s) : ∀ t, signalCounter x0 x1 x2 x3 s = some t → Keeps q t := by
  intro t ht
  unfold signalCounter at ht
  obtain ⟨r, hr, rfl⟩ := Option.map_eq_some_iff.mp ht
  exact State.modTileWork_keeps _ _ (counterBlock_keeps _ _ h _ hr)

theorem loadWord_keeps (x0 x1) (h : Keeps q s) : Keeps q (loadWord x0 x1 s).1 := by
  unfold loadWord
  repeat' (first | with_reducible assumption | apply thenA_keeps | intro _ _ _ | split | grind [engineRead_keeps, Keeps.same])

theorem storeWord_keeps (x0 x1 x2) (h : Keeps q s) : Keeps q (storeWord x0 x1 x2 s).1 := by
  grind [storeWord, engineWrite_keeps, Keeps.same]

theorem loadStore_keeps (x0 x1 x2) (h : Keeps q s) : Keeps q (loadStore x0 x1 x2 s).1 := by
  grind [loadStore, loadWord_keeps, Keeps.same]

theorem putStore_keeps (x0 x1 x2 x3) (h : Keeps q s) : Keeps q (putStore x0 x1 x2 x3 s).1 := by
  grind [putStore, modGroup_keeps, storeWord_keeps, Keeps.same]

theorem swapWord_keeps {op : AtomicOp} {rd : State → State × Access (BitVec 32)}
    {wr : BitVec 32 → State → State × Access Unit} (hr : ∀ s, Keeps q s → Keeps q (rd s).1)
    (hw : ∀ v s, Keeps q s → Keeps q (wr v s).1) (v cmp : BitVec 32) (h : Keeps q s) :
    Keeps q (swapWord op rd wr v cmp s).1 :=
  thenA_keeps (hr s h) fun _ _ h => thenA_keeps (hw _ _ h) fun _ _ h => h

theorem laneSample_keeps (x0 x1 x2 x3 x4 x5 x6 x7) (h : Keeps q s) : Keeps q (laneSample x0 x1 x2 x3 x4 x5 x6 x7 s).1 := by
  unfold laneSample
  have hr : ReaderKeeps q (fun va n s => engineRead x0 va n s) := engineReader_keeps x0
  extract_lets rd
  refine thenA_keeps (hr _ _ _ h) fun _ s h => thenA_keeps (hr _ _ _ h) fun _ s h => ?_
  exact eachA_keeps (fun _ s h => thenA_keeps (sampleImage_keeps hr h) fun _ s h => h) _ h

theorem finishLoad_keeps (x0 x1 x2) (h : Keeps q s) : Keeps q (finishLoad x0 x1 x2 s).1 := by
  grind [finishLoad, modBundle_keeps, Keeps.same]

theorem advance_keeps (x0) (h : Keeps q s) : Keeps q (advance x0 s).1 := by
  grind [advance, modBundle_keeps, Keeps.same]

theorem laneAccess_keeps (x0 x1 x2 x3 x4) (h : Keeps q s) : Keeps q (laneAccess x0 x1 x2 x3 x4 s).1 := by
  unfold laneAccess
  extract_lets order s1
  have h1 : Keeps q s1 := h
  have he : ∀ (f : Nat → State → State × Access (BitVec 32)) (s : State),
      (∀ l s, Keeps q s → Keeps q (f l s).1) → Keeps q s →
      Keeps q (eachA (fun lane s => thenA (f lane s) fun v s => (s, Access.ok (lane, v))) order s).1 :=
    fun f s hf hs => eachA_keeps (fun l s hs => thenA_keeps (hf l s hs) fun _ _ h => h) _ hs
  have hss : ∀ (va : Nat) o v c s, Keeps q s → Keeps q (swapWord o (loadStore x0 x1 va) (putStore x0 x1 va) v c s).1 :=
    fun va o v c s hs => by grind [swapWord_keeps, loadStore_keeps, putStore_keeps]
  split
  · exact thenA_keeps (he _ _ (fun _ _ h => loadStore_keeps _ _ _ h) h1) fun _ _ h => finishLoad_keeps _ _ _ h
  · exact thenA_keeps (eachA_keeps (fun _ _ h => putStore_keeps _ _ _ _ h) _ h1) fun _ _ h => advance_keeps _ h
  · exact thenA_keeps (he _ _ (fun _ _ h => hss _ _ _ _ _ h) h1) fun _ _ h => finishLoad_keeps _ _ _ h
  · exact thenA_keeps (he _ _ (fun _ _ h => loadWord_keeps _ _ h) h1) fun _ _ h => finishLoad_keeps _ _ _ h
  · exact thenA_keeps (he _ _ (fun _ _ h => loadWord_keeps _ _ h) h1) fun _ _ h => finishLoad_keeps _ _ _ h
  · exact thenA_keeps (eachA_keeps (fun l s h => by split <;> [exact h; exact storeWord_keeps _ _ _ h]) _ h1)
      fun _ _ h => advance_keeps _ h
  · exact thenA_keeps (he _ _ (fun l s h => by
      split <;> [exact loadWord_keeps _ _ h; exact engineAtomic_keeps _ _ _ _ _ h]) h1) fun _ _ h => finishLoad_keeps _ _ _ h
  · exact thenA_keeps (laneSample_keeps _ _ _ _ _ _ _ _ h1) fun _ _ h => modBundle_keeps _ _ h
  · exact h1

theorem laneFault_keeps (x0 x1) (h : Keeps q s) : Keeps q (laneFault x0 x1 s) := by
  grind [laneFault, failJob_keeps, failPass_keeps, Keeps.same]

theorem laneOutcome_keeps (w) {x : State × Access Bool} (h : Keeps q x.1) : Keeps q (laneOutcome w x) := by
  obtain ⟨s, a⟩ := x
  rcases a with (v | _ | _)
  · cases v
    · exact laneFault_keeps _ _ h
    · exact h
  · exact laneFault_keeps _ _ h
  · exact laneFault_keeps _ _ h

theorem issueOp_keeps (x0 x1 x2 x3) (h : Keeps q s) : Keeps q (issueOp x0 x1 x2 x3 s) := by
  unfold issueOp
  extract_lets j p go
  have hgo : ∀ f s, Keeps q s → Keeps q (go f s) := fun f s h => modBundle_keeps _ _ h
  have hf : ∀ f, Keeps q (laneFault x1 f s) := fun f => laneFault_keeps _ _ h
  have hl := fun op => laneOutcome_keeps x1 (laneAccess_keeps (groupEngine s p x1) x0 x2 x1.helpers op h)
  split
  · exact hf _
  · cases x3
    case barrier => dsimp only; split <;> [exact hf _; exact hgo _ _ h]
    case convert => dsimp only; split <;> [exact hgo _ _ h; exact hf _]
    case signal =>
      dsimp only
      split
      · exact hgo _ _ h
      · next e => exact hgo _ _ (signalCounter_keeps _ _ _ _ h _ e)
    case wait =>
      dsimp only
      split
      · exact hgo _ _ h
      · next e =>
        have := counterBlock_keeps _ _ h _ e
        split <;> exact hgo _ _ this
    case fence =>
      dsimp only
      split <;> exact hgo _ _ (fenceWrites_keeps _ _ _ _ h)
    case illegal => exact hf _
    case branch => exact hgo _ _ h
    case reconverge => exact hgo _ _ h
    case endThread => exact hgo _ _ h
    all_goals
      dsimp only
      split
      · exact hgo _ _ h
      · split
        · exact modGroup_keeps _ _ _ (hgo _ _ h)
        · exact hl _

theorem fetchCode_keeps (x0 x1 x2) (h : Keeps q s) : Keeps q (fetchCode x0 x1 x2 s).1 := by
  grind [fetchCode, blockAt_keeps, readDramLine_keeps, Keeps.same]

theorem issueOn_keeps (x0 x1 x2 x3 x4) (h : Keeps q s) : Keeps q (issueOn x0 x1 x2 x3 x4 s) := by
  grind [issueOn, fetchCode_keeps, issueOp_keeps, laneFault_keeps, sramWord_keeps, Keeps.same]

theorem execBundleIssue_keeps (x0 x1 x2 x3) (h : Keeps q s) : ∀ t, execBundleIssue x0 x1 x2 x3 s = .next t → Keeps q t := by
  unfold execBundleIssue
  intro t ht
  repeat' (first
    | (cases ht; first | exact h | exact startWake_keeps _ h | exact unlessHeld_keeps (fun _ h => issueOn_keeps _ _ _ _ _ h) h)
    | split at ht)

theorem execBarrierRelease_keeps (x0 x1 x2) (h : Keeps q s) : ∀ t, execBarrierRelease x0 x1 x2 s = .next t → Keeps q t := by
  grind [execBarrierRelease, modGroup_keeps, Keeps.same]

theorem countEnd_keeps (x0 x1) (h : Keeps q s) : Keeps q (countEnd x0 x1 s) := by
  unfold countEnd
  grind [State.modJob_keeps, modShard_keeps, Keeps.same]

theorem finishStep_keeps (x0 x1 x2) (h : Keeps q s) : Keeps q (finishStep x0 x1 x2 s) := by
  unfold finishStep
  split
  · exact h
  · extract_lets x s1 target tile
    have hm : Keeps q s1 := modShard_keeps x0 x1 _ h
    clear_value s1
    split
    · next p _ _ =>
      cases e : signalCounter p x0 x.signalCtr x.signalValue s1 with
      | none => exact hm
      | some t => exact signalCounter_keeps _ _ _ _ hm _ e
    · exact hm

theorem endLanes_keeps (x0 x1) (h : Keeps q s) : Keeps q (endLanes x0 x1 s) := by
  unfold endLanes
  grind [finishStep_keeps, Keeps.same]

theorem execTimeLimitExpiry_keeps (x0) (h : Keeps q s) : ∀ t, execTimeLimitExpiry x0 s = .next t → Keeps q t := by
  grind [execTimeLimitExpiry, laneFault_keeps, Keeps.same]

theorem settleWrites_keeps (x0) (h : Keeps q s) : Keeps q (settleWrites x0 s).1 := by
  unfold settleWrites
  exact foldl_k (fun _ _ h => fenceWrites_keeps _ _ _ _ h) _ h

theorem execDispatchComplete_keeps (x0) (h : Keeps q s) : ∀ t, execDispatchComplete x0 s = .next t → Keeps q t := by
  grind [execDispatchComplete, completeJob_keeps, settleWrites_keeps, Keeps.same]

end Sys2Proof.Machine
end

