-- ==== Sys2Proof/Laws/KeepsRaster.lean ====
section
/-! SUPPORT. Machine/Raster.lean keeps memory canonical and the waiting commands. -/

namespace Sys2Proof.Machine

set_option Elab.async false

variable {q : List Instr} {s : State}

theorem execRasterCtxCreate_keeps (x0) (h : Keeps q s) : ∀ t, execRasterCtxCreate x0 s = .next t → Keeps q t := by
  unfold execRasterCtxCreate
  exact carry_keeps (fun t s h => by grind [acceptConfig_keeps]) h

theorem execRasterCtxDestroy_keeps (x0) (h : Keeps q s) : ∀ t, execRasterCtxDestroy x0 s = .next t → Keeps q t := by
  unfold execRasterCtxDestroy
  exact carry_keeps (fun t s h => by grind [acceptConfig_keeps]) h

theorem execBinGrow_keeps (x0) (h : Keeps q s) : ∀ t, execBinGrow x0 s = .next t → Keeps q t := by
  unfold execBinGrow
  exact carry_keeps (fun t s h => by grind [acceptConfig_keeps]) h

theorem actGetCtx_keeps (x0) (h : Keeps q s) : Keeps q (actGetCtx x0 s) := by
  grind [actGetCtx, writeRecord_keeps, Keeps.same]

theorem execGetRasterCtx_keeps (x0) (h : Keeps q s) : ∀ t, execGetRasterCtx x0 s = .next t → Keeps q t := by
  unfold execGetRasterCtx
  exact carry_keeps (fun t s h => by grind [actGetCtx_keeps]) h

theorem actStateLoad_keeps (x0) (h : Keeps q s) : Keeps q (actStateLoad x0 s) := by
  grind [actStateLoad, acceptConfig_keeps, readVirt_keeps, writeRecord_keeps, Keeps.same]

theorem execRasterStateLoad_keeps (x0) (h : Keeps q s) : ∀ t, execRasterStateLoad x0 s = .next t → Keeps q t := by
  unfold execRasterStateLoad
  exact carry_keeps (fun t s h => by grind [actStateLoad_keeps]) h

theorem execRasterStateFree_keeps (x0) (h : Keeps q s) : ∀ t, execRasterStateFree x0 s = .next t → Keeps q t := by
  unfold execRasterStateFree
  exact carry_keeps (fun t s h => by grind [acceptConfig_keeps]) h

theorem passAccess_keeps {α : Type} {n : Nat} {x : State × Access α} {f : α → State → State} (hx : Keeps q x.1)
    (hf : ∀ v s, Keeps q s → Keeps q (f v s)) : Keeps q (passAccess n x f) := by
  obtain ⟨s, a⟩ := x
  cases a with
  | ok v => exact hf v s hx
  | addressFault => exact failPass_keeps _ _ hx
  | uncorrectable => exact failPass_keeps _ _ hx

theorem passRead_keeps (x0 x1 x2 x3) (h : Keeps q s) : Keeps q (passRead x0 x1 x2 x3 s).1 := by
  grind [passRead, contextRead_keeps, Keeps.same]

theorem writeBin_keeps (x0 x1 x2 x3) (h : Keeps q s) : Keeps q (writeBin x0 x1 x2 x3 s).1 := by
  grind [writeBin, contextWrite_keeps, Keeps.same]

theorem writeDirectory_keeps (x0) (h : Keeps q s) : Keeps q (writeDirectory x0 s).1 := by
  grind [writeDirectory, writeVirt_keeps, Keeps.same]

theorem readHeads_keeps (x0 x1) (h : Keeps q s) : Keeps q (readHeads x0 x1 s).1 := by
  unfold readHeads
  repeat' (first | with_reducible assumption | apply eachA_keeps | apply thenA_keeps | intro _ _ _ | split | grind [readVirt_keeps, Keeps.same])

theorem readTargets_keeps (x0 x1) (h : Keeps q s) : Keeps q (readTargets x0 x1 s).1 := by
  unfold readTargets
  grind [readHeads_keeps, readVirt_keeps, Keeps.same]

theorem holdTiles_keeps (x0 x1 x2) (h : Keeps q s) : Keeps q (holdTiles x0 x1 x2 s) := by
  unfold holdTiles
  repeat' (first | with_reducible assumption | apply foldl_k | intro _ _ _ | split | grind [State.modTileWork_keeps, regrant_keeps, Keeps.same])

theorem startPass_keeps (x0 x1 x2) (h : Keeps q s) : Keeps q (startPass x0 x1 x2 s) := by
  unfold startPass
  extract_lets ts s1 s2 old s3
  have h1 : Keeps q s1 := holdTiles_keeps _ _ _ h
  have h2 : Keeps q s2 := by
    show Keeps q (if _ then _ else _)
    split
    · exact h1
    · exact reserveSlot_keeps _ h1
  exact passAccess_keeps (writeDirectory_keeps _ (State.modPass_keeps _ _ h2)) fun _ _ h => h

theorem waitPass_keeps (x0 x1) (h : Keeps q s) : ∀ t, waitPass x0 x1 s = some t → Keeps q t := by
  intro t ht
  obtain ⟨_, _, rfl⟩ := Option.map_eq_some_iff.mp ht
  exact addJob_keeps _ h

theorem actPass_keeps (x0) (h : Keeps q s) : ∀ t, actPass x0 s = some t → Keeps q t := by
  unfold actPass
  dsimp only
  intro t ht
  split at ht
  · cases ht; exact writeRecord_keeps _ _ _ h
  · have h1 := leafFor_keeps x0 none (s.dyn.cfg.context (fldN x0.cmd.params 0 9)).basin.toNat h
    have h2 := readTargets_keeps x0 (s.dyn.cfg.context (fldN x0.cmd.params 0 9)) h1
    split at ht
    · next e => rw [e] at h2; cases ht; exact writeRecord_keeps _ _ _ h2
    · next e =>
      rw [e] at h2
      split at ht
      · cases ht; exact startPass_keeps _ _ _ (addJob_keeps _ h2)
      · exact waitPass_keeps _ _ h2 t ht

theorem execRasterPass_keeps (x0) (h : Keeps q s) : ∀ t, execRasterPass x0 s = .next t → Keeps q t := by
  unfold execRasterPass
  refine carryWait_keeps (fun t y hy z hz => ?_) h
  obtain ⟨w, hw, rfl⟩ := Option.map_eq_some_iff.mp hz
  exact startable_keeps _ h (actPass_keeps _ hy _ hw)

theorem actAbandon_keeps (x0) (h : Keeps q s) : Keeps q (actAbandon x0 s) := by
  grind [actAbandon, endPass_keeps, writeRecord_keeps, Keeps.same]

theorem execBinAbandon_keeps (x0) (h : Keeps q s) : ∀ t, execBinAbandon x0 s = .next t → Keeps q t := by
  unfold execBinAbandon
  exact carry_keeps (fun t s h => by grind [actAbandon_keeps]) h

end Sys2Proof.Machine
end

