-- ==== Sys2Proof/Laws/KeepsBinning.lean ====
section
/-! SUPPORT. Machine/Binning.lean keeps memory canonical and the waiting commands. -/

namespace Sys2Proof.Machine

set_option Elab.async false

variable {q : List Instr} {s : State}

theorem drawAt_keeps (x0 x1 x2) (h : Keeps q s) : Keeps q (drawAt x0 x1 x2 s).1 := by
  unfold drawAt
  repeat' (first | with_reducible assumption | apply thenA_keeps | intro _ _ _ | split | grind [passRead_keeps, Keeps.same])

theorem seekBatch_keeps (x0 x1 x2 x3) (h : Keeps q s) : Keeps q (seekBatch x0 x1 x2 x3 s).1 := by
  revert h
  fun_induction seekBatch x0 x1 x2 x3 s <;> intro h <;> grind [seekBatch, drawAt_keeps, thenA_keeps, Keeps.same]

theorem rawIndex_keeps (x0 x1 x2 x3) (h : Keeps q s) : Keeps q (rawIndex x0 x1 x2 x3 s).1 := by
  unfold rawIndex
  dsimp only
  repeat' (first | with_reducible assumption | apply thenA_keeps | intro _ _ _ | split | grind [passRead_keeps, Keeps.same])

theorem assemble_keeps (x0 x1 x2 x3 x4) (h : Keeps q s) : Keeps q (assemble x0 x1 x2 x3 x4 s).1 := by
  unfold assemble
  repeat' (first | with_reducible assumption | apply eachA_keeps | apply thenA_keeps | intro _ _ _ | split | grind [rawIndex_keeps, Keeps.same])

theorem readArgs_keeps (x0 x1 x2 x3) (h : Keeps q s) : Keeps q (readArgs x0 x1 x2 x3 s).1 := by
  unfold readArgs
  dsimp only
  repeat' (first | with_reducible assumption | apply thenA_keeps | intro _ _ _ | split | grind [passRead_keeps, Keeps.same])

theorem writePieces_keeps (x0 x1 x2) (h : Keeps q s) : Keeps q (writePieces x0 x1 x2 s).1 := by
  unfold writePieces
  repeat' (first | with_reducible assumption | apply eachA_keeps | apply thenA_keeps | intro _ _ _ | split | grind [writeBin_keeps, Keeps.same])

theorem runBatch_keeps (x0 x1) (h : Keeps q s) : Keeps q (runBatch x0 x1 s) := by
  unfold runBatch
  repeat' (first | with_reducible assumption | apply passAccess_keeps | intro _ _ _ | split | grind [State.modPass_keeps, writePieces_keeps, Keeps.same])

theorem endFlush_keeps (x0) (h : Keeps q s) : Keeps q (endFlush x0 s) := by
  unfold endFlush
  repeat' (first | with_reducible assumption | apply passAccess_keeps | apply foldl_k | intro _ _ _ | split | grind [State.modPass_keeps, writeDirectory_keeps, Keeps.same])

theorem settlePass_keeps (x0) (h : Keeps q s) : Keeps q (settlePass x0 s) := by
  grind [settlePass, State.modPass_keeps, endFlush_keeps, Keeps.same]

theorem linkChain_keeps (x0 x1 x2 x3 x4) (h : Keeps q s) : Keeps q (linkChain x0 x1 x2 x3 x4 s).1 := by
  grind [linkChain, State.modPass_keeps, writePieces_keeps, Keeps.same]

theorem publish_keeps (x0 x1) (h : Keeps q s) : Keeps q (publish x0 x1 s).1 := by
  grind [publish, eachA_keeps, linkChain_keeps, thenA_keeps, Keeps.same]

theorem execBatchPublish_keeps (x0 x1) (h : Keeps q s) : ∀ t, execBatchPublish x0 x1 s = .next t → Keeps q t := by
  grind [execBatchPublish, State.modPass_keeps, passAccess_keeps, publish_keeps, settlePass_keeps, unlessHeld_keeps, Keeps.same]

theorem dropShades_keeps (x0 x1) (h : Keeps q s) : Keeps q (dropShades x0 x1 s) := by
  grind [dropShades, State.modWork_keeps, Keeps.same]

theorem stopBatches_keeps (x0 x1) (h : Keeps q s) : Keeps q (stopBatches x0 x1 s) := by
  grind [stopBatches, State.modPass_keeps, dropShades_keeps, Keeps.same]

theorem raiseWeir_keeps (x0) (h : Keeps q s) : Keeps q (raiseWeir x0 s) := by
  grind [raiseWeir, State.modPass_keeps, moreRecord_keeps, stopBatches_keeps, Keeps.same]

theorem tryResume_keeps (x0) (h : Keeps q s) : Keeps q (tryResume x0 s) := by
  grind [tryResume, State.modPass_keeps, reserveSlot_keeps, Keeps.same]

theorem flush_keeps (x0) (h : Keeps q s) : Keeps q (flush x0 s) := by
  unfold flush
  dsimp only
  repeat' (first | with_reducible assumption | apply passAccess_keeps | intro _ _ _ | split | grind [State.modPass_keeps, publish_keeps, settlePass_keeps, stopBatches_keeps, Keeps.same])

theorem execChunkRequest_keeps (x0 x1) (h : Keeps q s) : ∀ t, execChunkRequest x0 x1 s = .next t → Keeps q t := by
  unfold execChunkRequest
  dsimp only
  intro t ht
  repeat' (first | with_reducible assumption | split at ht | cases ht | apply unlessHeld_keeps | intro _ _ _ | split | grind [State.modPass_keeps, flush_keeps, raiseWeir_keeps, runBatch_keeps, Keeps.same])

theorem execWeirTimeout_keeps (x0) (h : Keeps q s) : ∀ t, execWeirTimeout x0 s = .next t → Keeps q t := by
  grind [execWeirTimeout, endPass_keeps, Keeps.same]

theorem setupBatch_keeps (x0 x1) (h : Keeps q s) : Keeps q (setupBatch x0 x1 s) := by
  grind [setupBatch, runBatch_keeps, Keeps.same]

theorem placeShade_keeps (x0 x1 x2 x3 x4) (h : Keeps q s) : ∀ t, placeShade x0 x1 x2 x3 x4 s = some t → Keeps q t := by
  unfold placeShade
  dsimp only
  intro t ht
  split at ht
  · cases ht
  · obtain ⟨g, _, rfl⟩ := Option.map_eq_some_iff.mp ht
    exact launch_keeps _ _ _ _ h

theorem placeVertices_keeps (x0 x1 x2) (h : Keeps q s) : Keeps q (placeVertices x0 x1 x2 s) := by
  grind [placeVertices, State.modPass_keeps, placeShade_keeps, startWake_keeps, Keeps.same]

theorem endVertices_keeps (x0 x1 x2 x3) (h : Keeps q s) : Keeps q (endVertices x0 x1 x2 x3 s) := by
  unfold endVertices
  repeat' (first | with_reducible assumption | apply foldl_k | intro _ _ _ | split | grind [State.modPass_keeps, setupBatch_keeps, Keeps.same])

theorem dealBatch_keeps (x0 x1 x2 x3 x4 x5 x6) (h : Keeps q s) : Keeps q (dealBatch x0 x1 x2 x3 x4 x5 x6 s).1 := by
  unfold dealBatch
  repeat' (first | with_reducible assumption | apply thenA_keeps | intro _ _ _ | split | grind [State.modPass_keeps, State.modRaster_keeps, assemble_keeps, readArgs_keeps, Keeps.same])

theorem dealNext_keeps (x0 x1 x2) (h : Keeps q s) : Keeps q (dealNext x0 x1 x2 s) := by
  unfold dealNext
  extract_lets p
  split
  extract_lets fuel
  refine passAccess_keeps (seekBatch_keeps _ _ _ _ h) fun r s' h' => ?_
  dsimp only
  split
  · exact settlePass_keeps _ (State.modPass_keeps _ _ h')
  · exact failPass_keeps _ _ h'
  · refine passAccess_keeps (dealBatch_keeps _ _ _ _ _ _ _ h') fun r s'' h'' => ?_
    split
    · exact setupBatch_keeps _ _ (State.modRaster_keeps _ h'')
    · exact State.modPass_keeps _ _ (State.modRaster_keeps _ h'')

theorem joinTiles_keeps (x0) (h : Keeps q s) : Keeps q (joinTiles x0 s) := by
  grind [joinTiles, State.modPass_keeps, holdTiles_keeps, Keeps.same]

theorem sliceSram_keeps (x0 x1 x2 x3) {f : State → State} (hf : ∀ s, Keeps q s → Keeps q (f s)) (h : Keeps q s) :
    Keeps q (sliceSram x0 x1 x2 x3 f s) := by
  unfold sliceSram
  have hw := sramWord_keeps x3 x2 (s.passSrc x0 x1) h
  split
  · next e => rw [e] at hw; exact hf _ hw
  · next e => rw [e] at hw; exact failPass_keeps _ _ hw

theorem execBatchDeal_keeps (x0 x1 x2) (h : Keeps q s) : ∀ t, execBatchDeal x0 x1 x2 s = .next t → Keeps q t := by
  unfold execBatchDeal
  dsimp only
  have h1 := joinTiles_keeps x0.toNat (tryResume_keeps x0.toNat h)
  intro t ht
  split at ht
  · cases ht; exact h
  · split at ht
    · cases ht; exact h1
    · split at ht
      · cases ht; exact startWake_keeps _ h1
      · split at ht
        · cases ht; exact h1
        · cases ht; exact unlessHeld_keeps (fun _ h => sliceSram_keeps _ _ _ _ (fun _ h => dealNext_keeps _ _ _ h) h) h1

end Sys2Proof.Machine
end

