-- ==== Sys2Proof/Laws/KeepsDevice.lean ====
section
/-! SUPPORT. Machine/Device.lean keeps memory canonical and the waiting commands. -/

namespace Sys2Proof.Machine

set_option Elab.async false

variable {q : List Instr} {s : State}

theorem execEcho_keeps (x0) (h : Keeps q s) : ∀ t, execEcho x0 s = .next t → Keeps q t := by
  unfold execEcho
  exact carry_keeps (fun t s h => by grind [answer_keeps]) h

theorem actNegotiate_keeps (x0) (h : Keeps q s) : Keeps q (actNegotiate x0 s) := by
  grind [actNegotiate, State.modMailbox_keeps, writeRecord_keeps, Keeps.same]

theorem execNegotiate_keeps (x0) (h : Keeps q s) : ∀ t, execNegotiate x0 s = .next t → Keeps q t := by
  unfold execNegotiate
  exact carry_keeps (fun t s h => by grind [actNegotiate_keeps]) h

theorem execGetDeviceStatus_keeps (x0) (h : Keeps q s) : ∀ t, execGetDeviceStatus x0 s = .next t → Keeps q t := by
  unfold execGetDeviceStatus
  exact carry_keeps (fun t s h => by grind [answer_keeps]) h

theorem actLockCommit_keeps (x0) (h : Keeps q s) : Keeps q (actLockCommit x0 s) := by
  grind [actLockCommit, State.modLock_keeps, acceptConfig_keeps, Keeps.same]

theorem execLockCommit_keeps (x0) (h : Keeps q s) : ∀ t, execLockCommit x0 s = .next t → Keeps q t := by
  unfold execLockCommit
  exact carry_keeps (fun t s h => by grind [actLockCommit_keeps]) h

theorem actGetWeather_keeps (x0) (h : Keeps q s) : Keeps q (actGetWeather x0 s) := by
  grind [actGetWeather, writeRecord_keeps, Keeps.same]

theorem execGetWeather_keeps (x0) (h : Keeps q s) : ∀ t, execGetWeather x0 s = .next t → Keeps q t := by
  unfold execGetWeather
  exact carry_keeps (fun t s h => by grind [actGetWeather_keeps]) h

theorem execSetPowerPolicy_keeps (x0) (h : Keeps q s) : ∀ t, execSetPowerPolicy x0 s = .next t → Keeps q t := by
  unfold execSetPowerPolicy
  exact carry_keeps (fun t s h => by grind [acceptConfig_keeps]) h

theorem execGetFwIdentity_keeps (x0) (h : Keeps q s) : ∀ t, execGetFwIdentity x0 s = .next t → Keeps q t := by
  unfold execGetFwIdentity
  exact carry_keeps (fun t s h => by grind [answer_keeps]) h

end Sys2Proof.Machine
end

