-- ==== Sys2Proof/Laws/KeepsTargets.lean ====
section
/-! SUPPORT. Machine/Targets.lean keeps memory canonical and the waiting commands. -/

namespace Sys2Proof.Machine

set_option Elab.async false

variable {q : List Instr} {s : State}

theorem readTarget_keeps {x0 x1 x2 x3 x4 x5} (hr : ReaderKeeps q x0) (h : Keeps q s) : Keeps q (readTarget x0 x1 x2 x3 x4 x5 s).1 := by
  unfold readTarget
  have hr' := hr
  unfold ReaderKeeps at hr'
  dsimp only
  repeat' (first | with_reducible assumption | with_reducible apply hr' | with_reducible apply readTexel_keeps | with_reducible apply thenA_keeps | with_reducible apply eachA_keeps | (with_reducible intro _ _ _) | split | exact h | grind [readTexel_keeps, Keeps.same])

theorem loadSample_keeps {x0 x1 x2 x3 x4 x5 x6} (hr : ReaderKeeps q x0) (h : Keeps q s) : Keeps q (loadSample x0 x1 x2 x3 x4 x5 x6 s).1 := by
  unfold loadSample
  have hr' := hr
  unfold ReaderKeeps at hr'
  repeat' (first | with_reducible assumption | with_reducible apply hr' | with_reducible apply readTarget_keeps | with_reducible apply thenA_keeps | with_reducible apply eachA_keeps | (with_reducible intro _ _ _) | split | exact h | grind [readTarget_keeps, Keeps.same])

theorem loadTile_keeps {x0 x1 x2} (hr : ReaderKeeps q x0) (h : Keeps q s) : Keeps q (loadTile x0 x1 x2 s).1 := by
  unfold loadTile
  have hr' := hr
  unfold ReaderKeeps at hr'
  repeat' (first | with_reducible assumption | with_reducible apply hr' | with_reducible apply loadSample_keeps | with_reducible apply thenA_keeps | with_reducible apply eachA_keeps | (with_reducible intro _ _ _) | split | exact h | grind [loadSample_keeps, Keeps.same])

theorem placeQuads_keeps (x0 x1 x2 x3) (h : Keeps q s) : ∀ t, placeQuads x0 x1 x2 x3 s = some t → Keeps q t := by
  intro t ht
  unfold placeQuads at ht
  extract_lets b live inQuad bits mask y place at ht
  have hp : ∀ p, place p = some t → Keeps q t := fun p e => placeShade_keeps _ _ _ _ _ h _ e
  split at ht
  · cases ht
  · split at ht
    · obtain ⟨p, _, e⟩ := Option.bind_eq_some_iff.mp ht
      exact hp p e
    · exact hp _ ht

theorem putTile_keeps (x0 x1 x2) (h : Keeps q s) : Keeps q (putTile x0 x1 x2 s) := by
  grind [putTile, State.modPass_keeps, Keeps.same]

theorem formBundle_keeps (x0 x1 x2 x3) (h : Keeps q s) : ∀ t, formBundle x0 x1 x2 x3 s = some t → Keeps q t := by
  intro t ht
  unfold formBundle at ht
  extract_lets p b list quads pixels early meets at ht
  split at ht
  · cases ht
  · split at ht
    extract_lets live m at ht
    split at ht
    · cases ht; exact putTile_keeps _ _ _ h
    · obtain ⟨u, hu, rfl⟩ := Option.map_eq_some_iff.mp ht
      exact putTile_keeps _ _ _ (placeQuads_keeps _ _ _ _ h _ hu)

theorem drawNext_keeps (x0 x1 x2) (h : Keeps q s) : Keeps q (drawNext x0 x1 x2 s) := by
  unfold drawNext
  extract_lets p
  split
  · next f _ =>
    cases e : placeQuads x0 x1 x2 f s with
    | none => exact h
    | some u => exact placeQuads_keeps _ _ _ _ h _ e
  · split
    · exact h
    · next r _ =>
      refine passAccess_keeps (passRead_keeps _ _ _ _ h) fun _ y hy => ?_
      cases e : formBundle x0 x1 x2 r y with
      | none => exact h
      | some u => exact formBundle_keeps _ _ _ _ hy _ e

theorem execFragmentBundle_keeps (x0 x1 x2) (h : Keeps q s) : ∀ t, execFragmentBundle x0 x1 x2 s = .next t → Keeps q t := by
  intro t ht
  unfold execFragmentBundle at ht
  extract_lets n at ht
  have hu : ∀ m r, Keeps q (unlessHeld (sliceSram n m.tile r x2 (drawNext n x1 m)) s) := fun m _ =>
    unlessHeld_keeps (fun _ h => sliceSram_keeps _ _ _ _ (fun _ h => drawNext_keeps _ _ _ h) h) h
  repeat' (first | (cases ht; first | exact h | exact startWake_keeps _ h | exact hu _ _) | split at ht)

theorem endQuads_keeps (x0 x1 x2 x3) (h : Keeps q s) : Keeps q (endQuads x0 x1 x2 x3 s) := by
  unfold endQuads
  repeat' (first | with_reducible assumption | apply foldl_k | intro _ _ _ | split | grind [putTile_keeps, Keeps.same])

theorem readList_keeps (x0 x1 x2) (h : Keeps q s) : Keeps q (readList x0 x1 x2 s).1 := by
  unfold readList
  exact thenA_keeps (passRead_keeps _ _ _ _ h) fun _ _ h => thenA_keeps (eachA_keeps (fun _ _ h => passRead_keeps _ _ _ _ h) _ h) fun _ _ h => h

theorem bindTile_keeps (x0 x1 x2) (h : Keeps q s) : Keeps q (bindTile x0 x1 x2 s) := by
  unfold bindTile
  extract_lets rd
  have hr : ReaderKeeps q rd := fun _ _ _ h => passRead_keeps _ _ _ _ h
  exact passAccess_keeps (thenA_keeps (readList_keeps _ _ _ h) fun _ _ h => loadTile_keeps hr h) fun _ _ h => putTile_keeps _ _ _ h

theorem execScreenTileBind_keeps (x0 x1) (h : Keeps q s) : ∀ t, execScreenTileBind x0 x1 s = .next t → Keeps q t := by
  intro t ht
  unfold execScreenTileBind at ht
  extract_lets n y at ht
  have hy : Keeps q y := joinTiles_keeps _ h
  clear_value y
  repeat' (first
    | (cases ht; first | exact hy | exact startWake_keeps _ hy | exact unlessHeld_keeps (fun _ h => bindTile_keeps _ _ _ h) hy)
    | split at ht)

theorem storeBlock_keeps {x0 x1 x2 x3 x4 x5 x6 x7} (hr : ReaderKeeps q x0) (hw : WriterKeeps q x1) (h : Keeps q s) : Keeps q (storeBlock x0 x1 x2 x3 x4 x5 x6 x7 s).1 := by
  unfold storeBlock
  have hr' := hr
  unfold ReaderKeeps at hr'
  have hw' := hw
  unfold WriterKeeps at hw'
  repeat' (first | with_reducible assumption | with_reducible apply hr' | with_reducible apply hw' | with_reducible apply writeTag_keeps | with_reducible apply writeTexel_keeps | with_reducible apply thenA_keeps | with_reducible apply eachA_keeps | (with_reducible intro _ _ _) | split | exact h | grind [writeTag_keeps, writeTexel_keeps, Keeps.same])

theorem storeImage_keeps {x0 x1 x2 x3 x4 x5} (hr : ReaderKeeps q x0) (hw : WriterKeeps q x1) (h : Keeps q s) : Keeps q (storeImage x0 x1 x2 x3 x4 x5 s).1 := by
  unfold storeImage
  have hr' := hr
  unfold ReaderKeeps at hr'
  have hw' := hw
  unfold WriterKeeps at hw'
  repeat' (first | with_reducible assumption | with_reducible apply hr' | with_reducible apply hw' | with_reducible apply storeBlock_keeps | with_reducible apply thenA_keeps | with_reducible apply eachA_keeps | (with_reducible intro _ _ _) | split | exact h | grind [storeBlock_keeps, Keeps.same])

theorem storeResolved_keeps {x0 x1 x2 x3 x4 x5} (hr : ReaderKeeps q x0) (hw : WriterKeeps q x1) (h : Keeps q s) : Keeps q (storeResolved x0 x1 x2 x3 x4 x5 s).1 := by
  unfold storeResolved
  have hr' := hr
  unfold ReaderKeeps at hr'
  have hw' := hw
  unfold WriterKeeps at hw'
  repeat' (first | with_reducible assumption | with_reducible apply hr' | with_reducible apply hw' | with_reducible apply readTexel_keeps | with_reducible apply storeBlock_keeps | with_reducible apply thenA_keeps | with_reducible apply eachA_keeps | (with_reducible intro _ _ _) | split | exact h | grind [readTexel_keeps, storeBlock_keeps, Keeps.same])

theorem storeTensor_keeps {x0 x1 x2 x3 x4} (hw : WriterKeeps q x0) (h : Keeps q s) : Keeps q (storeTensor x0 x1 x2 x3 x4 s).1 := by
  unfold storeTensor
  have hw' := hw
  unfold WriterKeeps at hw'
  repeat' (first | with_reducible assumption | with_reducible apply hw' | with_reducible apply thenA_keeps | with_reducible apply eachA_keeps | (with_reducible intro _ _ _) | split | exact h | grind [Keeps.same])

theorem storeTarget_keeps {x0 x1 x2 x3 x4 x5} (hr : ReaderKeeps q x0) (hw : WriterKeeps q x1) (h : Keeps q s) : Keeps q (storeTarget x0 x1 x2 x3 x4 x5 s).1 := by
  unfold storeTarget
  have hr' := hr
  unfold ReaderKeeps at hr'
  have hw' := hw
  unfold WriterKeeps at hw'
  repeat' (first | with_reducible assumption | with_reducible apply hr' | with_reducible apply hw' | with_reducible apply storeImage_keeps | with_reducible apply storeResolved_keeps | with_reducible apply storeTensor_keeps | with_reducible apply thenA_keeps | with_reducible apply eachA_keeps | (with_reducible intro _ _ _) | split | exact h | grind [storeImage_keeps, storeResolved_keeps, storeTensor_keeps, Keeps.same])

theorem writeNext_keeps (x0 x1 x2) (h : Keeps q s) : Keeps q (writeNext x0 x1 x2 s) := by
  unfold writeNext
  extract_lets p rd wr k
  have hr : ReaderKeeps q rd := fun _ _ _ h => passRead_keeps _ _ _ _ h
  have hw : WriterKeeps q wr := fun _ _ _ h => contextWrite_keeps _ _ _ h
  split
  · exact passAccess_keeps (storeTarget_keeps hr hw h) fun _ _ h => putTile_keeps _ _ _ h
  · exact settlePass_keeps _ (State.modPass_keeps _ _ h)

theorem execWriteOut_keeps (x0 x1) (h : Keeps q s) : ∀ t, execWriteOut x0 x1 s = .next t → Keeps q t := by
  intro t ht
  unfold execWriteOut at ht
  extract_lets n p at ht
  have hu : ∀ m r, Keeps q (unlessHeld (sliceSram n m.tile r x1.sram (writeNext n x1.screenTile m)) s) := fun m _ =>
    unlessHeld_keeps (fun _ h => sliceSram_keeps _ _ _ _ (fun _ h => writeNext_keeps _ _ _ h) h) h
  repeat' (first | (cases ht; first | exact h | exact startWake_keeps _ h | exact hu _ _) | split at ht)

theorem passSignal_keeps (x0 x1) (h : Keeps q s) : Keeps q (passSignal x0 x1 s) := by
  unfold passSignal
  repeat' (first | with_reducible assumption | apply foldl_k | intro _ _ _ | split | grind [State.modTileWork_keeps, Keeps.same])

theorem execPassComplete_keeps (x0 x1) (h : Keeps q s) : ∀ t, execPassComplete x0 x1 s = .next t → Keeps q t := by
  unfold execPassComplete
  grind [endPass_keeps, passSignal_keeps, Keeps.same]

theorem imageCommand_keeps (x0) (h : Keeps q s) : Keeps q (imageCommand x0 s).1 := by
  grind [imageCommand, readVirt_keeps, Keeps.same]

theorem setTags_keeps {x0 x1 x2 x3} (hr : ReaderKeeps q x0) (hw : WriterKeeps q x1) (h : Keeps q s) : Keeps q (setTags x0 x1 x2 x3 s).1 := by
  unfold setTags
  have hr' := hr
  unfold ReaderKeeps at hr'
  have hw' := hw
  unfold WriterKeeps at hw'
  repeat' (first | with_reducible assumption | with_reducible apply hr' | with_reducible apply hw' | with_reducible apply thenA_keeps | with_reducible apply eachA_keeps | (with_reducible intro _ _ _) | split | exact h | grind [Keeps.same])

theorem resolveBlocks_keeps {x0 x1 x2} (hr : ReaderKeeps q x0) (hw : WriterKeeps q x1) (h : Keeps q s) : Keeps q (resolveBlocks x0 x1 x2 s).1 := by
  unfold resolveBlocks
  have hr' := hr
  unfold ReaderKeeps at hr'
  have hw' := hw
  unfold WriterKeeps at hw'
  repeat' (first | with_reducible assumption | with_reducible apply hr' | with_reducible apply hw' | with_reducible apply readTag_keeps | with_reducible apply readTexel_keeps | with_reducible apply writeTexel_keeps | with_reducible apply thenA_keeps | with_reducible apply eachA_keeps | (with_reducible intro _ _ _) | split | exact h | grind [readTag_keeps, readTexel_keeps, writeTexel_keeps, Keeps.same])

theorem actImage_keeps (x0 x1) (h : Keeps q s) : ∀ t, actImage x0 x1 s = some t → Keeps q t := by
  intro t ht
  unfold actImage at ht
  have h1 := imageCommand_keeps x1 h
  split at ht <;> rename_i e <;> rw [e] at h1
  · cases ht; exact writeRecord_keeps _ _ _ h1
  · extract_lets ins waits rd wr done at ht
    have hr : ReaderKeeps q rd := berthReader_keeps _ _
    have hw : WriterKeeps q wr := berthWriter_keeps _ _
    have h2 : Keeps q done.1 := by
      show Keeps q (if _ then _ else _ : State × Access Unit).1
      split
      · exact thenA_keeps (resolveBlocks_keeps hr hw h1) fun _ _ h => setTags_keeps hr hw h
      · exact setTags_keeps hr hw h1
    clear_value done
    split at ht
    · cases ht
    · split at ht <;> cases ht <;> exact writeRecord_keeps _ _ _ h2

theorem execImageClear_keeps (x0) (h : Keeps q s) : ∀ t, execImageClear x0 s = .next t → Keeps q t := by
  unfold execImageClear
  exact carryWait_keeps (fun t s h => by grind [actImage_keeps]) h

theorem execImageResolve_keeps (x0) (h : Keeps q s) : ∀ t, execImageResolve x0 s = .next t → Keeps q t := by
  unfold execImageResolve
  exact carryWait_keeps (fun t s h => by grind [actImage_keeps]) h

end Sys2Proof.Machine
end

