-- ==== Sys2Proof/Laws/KeepsDisplay.lean ====
section
/-! SUPPORT. Machine/Display.lean keeps memory canonical and the waiting commands. -/

namespace Sys2Proof.Machine

set_option Elab.async false

variable {q : List Instr} {s : State}

theorem State.modDisplay_keeps (x0 x1) (h : Keeps q s) : Keeps q (State.modDisplay x0 x1 s) := by
  grind [State.modDisplay, State.modDisplays_keeps, Keeps.same]

theorem execDisplayConfigure_keeps (x0) (h : Keeps q s) : ∀ t, execDisplayConfigure x0 s = .next t → Keeps q t := by
  unfold execDisplayConfigure
  exact carry_keeps (fun t s h => by grind [acceptConfig_keeps]) h

theorem startPresent_keeps (x0 x1) (h : Keeps q s) : Keeps q (startPresent x0 x1 s) := by
  grind [startPresent, State.modDisplay_keeps, writeRecord_keeps, Keeps.same]

theorem actPresent_keeps (x0) (h : Keeps q s) : ∀ t, actPresent x0 s = some t → Keeps q t := by
  grind [actPresent, readVirt_keeps, startPresent_keeps, writeRecord_keeps, Keeps.same]

theorem execDisplayPresent_keeps (x0) (h : Keeps q s) : ∀ t, execDisplayPresent x0 s = .next t → Keeps q t := by
  unfold execDisplayPresent
  exact carryWait_keeps (fun t s h => by grind [actPresent_keeps]) h

theorem actGetDisplay_keeps (x0) (h : Keeps q s) : Keeps q (actGetDisplay x0 s) := by
  grind [actGetDisplay, writeRecord_keeps, Keeps.same]

theorem execGetDisplay_keeps (x0) (h : Keeps q s) : ∀ t, execGetDisplay x0 s = .next t → Keeps q t := by
  unfold execGetDisplay
  exact carry_keeps (fun t s h => by grind [actGetDisplay_keeps]) h

theorem scanLine_keeps (x0 x1 x2 x3) (h : Keeps q s) : Keeps q (scanLine x0 x1 x2 x3 s).1 := by
  unfold scanLine
  extract_lets src rd
  have hr : ReaderKeeps q rd := berthReader_keeps _ _
  have h1 := hr x2 64 s h
  split <;> rename_i e <;> rw [e] at h1
  · extract_lets i
    have h2 := eachA_keeps (f := fun x s => readTexel rd i 0 0 x x3 0 s) (fun _ _ h => readTexel_keeps hr h) (upFrom 0 i.width) h1
    split <;> rename_i e2 <;> rw [e2] at h2 <;> exact h2
  · exact h1

theorem readAhead_keeps (x0 x1) (h : Keeps q s) : Keeps q (readAhead x0 x1 s) := by
  induction x1 generalizing s with
  | zero => exact h
  | succ n ih =>
    unfold readAhead
    extract_lets d y
    repeat' (first
      | exact h
      | exact ih (State.modDisplay_keeps _ _ (scanLine_keeps _ _ _ _ h))
      | exact ih (State.modDisplay_keeps _ _ h)
      | split)

theorem fillBuffer_keeps (x0) (h : Keeps q s) : Keeps q (fillBuffer x0 s) := by
  unfold fillBuffer
  repeat' (first | with_reducible assumption | apply unlessHeld_keeps | intro _ _ _ | split | grind [readAhead_keeps, Keeps.same])

theorem execDisplayLatchPoint_keeps (x0) (h : Keeps q s) : ∀ t, execDisplayLatchPoint x0 s = .next t → Keeps q t := by
  grind [execDisplayLatchPoint, State.modDisplay_keeps, fillBuffer_keeps, writeRecord_keeps, Keeps.same]

theorem execDisplayFrameStart_keeps (x0) (h : Keeps q s) : ∀ t, execDisplayFrameStart x0 s = .next t → Keeps q t := by
  grind [execDisplayFrameStart, State.modDisplay_keeps, fillBuffer_keeps, Keeps.same]

theorem sendLine_keeps (x0 x1 x2 x3) (h : Keeps q s) : Keeps q (sendLine x0 x1 x2 x3 s) := by
  grind [sendLine, State.modDisplay_keeps, Keeps.same]

theorem execScanOutLine_keeps (x0 x1 x2) (h : Keeps q s) : ∀ t, execScanOutLine x0 x1 x2 s = .next t → Keeps q t := by
  grind [execScanOutLine, fillBuffer_keeps, sendLine_keeps, Keeps.same]

end Sys2Proof.Machine
end

