-- ==== Sys2Proof/Laws/KeepsIngest.lean ====
section
/-! SUPPORT. Machine/Ingest.lean keeps memory canonical and the waiting commands. -/

namespace Sys2Proof.Machine

set_option Elab.async false

variable {q : List Instr} {s : State}

theorem State.modStream_keeps (x0 x1) (h : Keeps q s) : Keeps q (State.modStream x0 x1 s) := by
  grind [State.modStream, State.modIngest_keeps, Keeps.same]

theorem execStreamConfig_keeps (x0) (h : Keeps q s) : ∀ t, execStreamConfig x0 s = .next t → Keeps q t := by
  unfold execStreamConfig
  exact carry_keeps (fun t s h => by grind [acceptConfig_keeps]) h

theorem execCsiRxConfig_keeps (x0) (h : Keeps q s) : ∀ t, execCsiRxConfig x0 s = .next t → Keeps q t := by
  unfold execCsiRxConfig
  exact carry_keeps (fun t s h => by grind [acceptConfig_keeps]) h

theorem execTriggerConfig_keeps (x0) (h : Keeps q s) : ∀ t, execTriggerConfig x0 s = .next t → Keeps q t := by
  unfold execTriggerConfig
  exact carry_keeps (fun t s h => by grind [acceptConfig_keeps]) h

theorem execCsiTxConfig_keeps (x0) (h : Keeps q s) : ∀ t, execCsiTxConfig x0 s = .next t → Keeps q t := by
  unfold execCsiTxConfig
  exact carry_keeps (fun t s h => by grind [acceptConfig_keeps]) h

theorem execI3cConfig_keeps (x0) (h : Keeps q s) : ∀ t, execI3cConfig x0 s = .next t → Keeps q t := by
  unfold execI3cConfig
  exact carry_keeps (fun t s h => by grind [acceptConfig_keeps]) h

theorem actGetStream_keeps (x0) (h : Keeps q s) : Keeps q (actGetStream x0 s) := by
  grind [actGetStream, writeRecord_keeps, Keeps.same]

theorem execGetStreamStatus_keeps (x0) (h : Keeps q s) : ∀ t, execGetStreamStatus x0 s = .next t → Keeps q t := by
  unfold execGetStreamStatus
  exact carry_keeps (fun t s h => by grind [actGetStream_keeps]) h

theorem execTriggerPulse_keeps (x0) (h : Keeps q s) : ∀ t, execTriggerPulse x0 s = .next t → Keeps q t := by
  grind [execTriggerPulse, State.modIngest_keeps, Keeps.same]

theorem execMissing_keeps (x0) (h : Keeps q s) : ∀ t, execMissing x0 s = .next t → Keeps q t := by
  grind [execMissing, State.modStream_keeps, Keeps.same]

theorem State.cutElastic_keeps (x0) (h : Keeps q s) : Keeps q (State.cutElastic x0 s) := by
  grind [State.cutElastic, State.modIngest_keeps, Keeps.same]

theorem dropSample_keeps (x0 x1) (h : Keeps q s) : Keeps q (dropSample x0 x1 s) := by
  grind [dropSample, State.cutElastic_keeps, State.modStream_keeps, releaseSlot_keeps, Keeps.same]

theorem dropNumber_keeps (x0 x1 x2) (h : Keeps q s) : Keeps q (dropNumber x0 x1 x2 s) := by
  grind [dropNumber, State.cutElastic_keeps, State.modStream_keeps, dropSample_keeps, releaseSlot_keeps, Keeps.same]

theorem startSample_keeps (x0 x1 x2) (h : Keeps q s) : Keeps q (startSample x0 x1 x2 s) := by
  grind [startSample, State.modStream_keeps, reserveSlot_keeps, Keeps.same]

theorem writeHeld_keeps (x0 x1 x2) (h : Keeps q s) : Keeps q (writeHeld x0 x1 x2 s).1 := by
  grind [writeHeld, State.modIngest_keeps, ringWrite_keeps, Keeps.same]

theorem deliverRecord_keeps (x0 x1) (h : Keeps q s) : Keeps q (deliverRecord x0 x1 s) := by
  grind [deliverRecord, State.modFusion_keeps, State.modStream_keeps, writeHeld_keeps, Keeps.same]

theorem drainItem_keeps (x0) (h : Keeps q s) : Keeps q (drainItem x0 s).1 := by
  grind [drainItem, deliverRecord_keeps, dropNumber_keeps, startWake_keeps, writeVirt_keeps, Keeps.same]

theorem drainElastic_keeps (x0 x1) (h : Keeps q s) : Keeps q (drainElastic x0 x1 s) := by
  revert h
  fun_induction drainElastic x0 x1 s <;> intro h <;> grind [drainElastic, State.modIngest_keeps, drainItem_keeps, Keeps.same]

theorem pushElastic_keeps (x0 x1) (h : Keeps q s) : Keeps q (pushElastic x0 x1 s) := by
  grind [pushElastic, State.modIngest_keeps, drainElastic_keeps, Keeps.same]

theorem drainPorts_keeps (h : Keeps q s) : Keeps q (drainPorts s) := by
  unfold drainPorts
  repeat' (first | with_reducible assumption | apply foldl_k | intro _ _ _ | split | grind [drainElastic_keeps, Keeps.same])

theorem deliverSample_keeps (x0) (h : Keeps q s) : Keeps q (deliverSample x0 s) := by
  grind [deliverSample, State.modStream_keeps, pushElastic_keeps, Keeps.same]

theorem storeSample_keeps (x0 x1 x2 x3) (h : Keeps q s) : Keeps q (storeSample x0 x1 x2 x3 s) := by
  grind [storeSample, State.modStream_keeps, dropSample_keeps, pushElastic_keeps, Keeps.same]

theorem mirror_keeps (x0 x1) (h : Keeps q s) : Keeps q (mirror x0 x1 s) := by
  unfold mirror
  repeat' (first | with_reducible assumption | apply foldl_k | intro _ _ _ | split | grind [State.modIngest_keeps, Keeps.same])

theorem startFrame_keeps (x0 x1) (h : Keeps q s) : Keeps q (startFrame x0 x1 s) := by
  grind [startFrame, State.modStream_keeps, startSample_keeps, Keeps.same]

theorem execFrameStart_keeps (x0 x1 x2) (h : Keeps q s) : ∀ t, execFrameStart x0 x1 x2 s = .next t → Keeps q t := by
  grind [execFrameStart, State.modStream_keeps, mirror_keeps, startFrame_keeps, Keeps.same]

theorem storeLine_keeps (x0 x1 x2 x3 x4) (h : Keeps q s) : Keeps q (storeLine x0 x1 x2 x3 x4 s) := by
  grind [storeLine, dropSample_keeps, storeSample_keeps, Keeps.same]

theorem execLongPacket_keeps (x0 x1 x2 x3 x4) (h : Keeps q s) : ∀ t, execLongPacket x0 x1 x2 x3 x4 s = .next t → Keeps q t := by
  grind [execLongPacket, dropSample_keeps, mirror_keeps, storeLine_keeps, Keeps.same]

theorem execFrameEnd_keeps (x0) (h : Keeps q s) : ∀ t, execFrameEnd x0 s = .next t → Keeps q t := by
  grind [execFrameEnd, State.modStream_keeps, deliverSample_keeps, mirror_keeps, Keeps.same]

theorem storePacket_keeps (x0 x1) (h : Keeps q s) : Keeps q (storePacket x0 x1 s) := by
  grind [storePacket, State.modStream_keeps, deliverSample_keeps, dropSample_keeps, storeSample_keeps, Keeps.same]

theorem startSegment_keeps (x0 x1) (h : Keeps q s) : Keeps q (startSegment x0 x1 s) := by
  grind [startSegment, startSample_keeps, Keeps.same]

theorem startScan_keeps (x0 x1) (h : Keeps q s) : Keeps q (startScan x0 x1 s) := by
  grind [startScan, State.modStream_keeps, deliverSample_keeps, startSegment_keeps, storePacket_keeps, Keeps.same]

theorem execStartPacket_keeps (x0 x1 x2 x3) (h : Keeps q s) : ∀ t, execStartPacket x0 x1 x2 x3 s = .next t → Keeps q t := by
  grind [execStartPacket, State.modStream_keeps, startScan_keeps, Keeps.same]

theorem execLidarPacket_keeps (x0 x1 x2 x3) (h : Keeps q s) : ∀ t, execLidarPacket x0 x1 x2 x3 s = .next t → Keeps q t := by
  grind [execLidarPacket, State.modStream_keeps, startSegment_keeps, storePacket_keeps, Keeps.same]

theorem actSend_keeps (x0) (h : Keeps q s) : ∀ t, actSend x0 s = some t → Keeps q t := by
  grind [actSend, State.modIngest_keeps, eachA_keeps, readVirt_keeps, writeRecord_keeps, Keeps.same]

theorem execCsiTxSend_keeps (x0) (h : Keeps q s) : ∀ t, execCsiTxSend x0 s = .next t → Keeps q t := by
  unfold execCsiTxSend
  exact carryWait_keeps (fun t s h => by grind [actSend_keeps]) h

theorem execCsiTxFrameEnd_keeps (x0) (h : Keeps q s) : ∀ t, execCsiTxFrameEnd x0 s = .next t → Keeps q t := by
  grind [execCsiTxFrameEnd, State.modIngest_keeps, writeRecord_keeps, Keeps.same]

theorem actXfer_keeps (x0) (h : Keeps q s) : ∀ t, actXfer x0 s = some t → Keeps q t := by
  grind [actXfer, State.modIngest_keeps, readVirt_keeps, writeRecord_keeps, Keeps.same]

theorem execI3cXfer_keeps (x0) (h : Keeps q s) : ∀ t, execI3cXfer x0 s = .next t → Keeps q t := by
  unfold execI3cXfer
  exact carryWait_keeps (fun t s h => by grind [actXfer_keeps]) h

theorem execI3cTransferEnd_keeps (x0 x1 x2 x3) (h : Keeps q s) : ∀ t, execI3cTransferEnd x0 x1 x2 x3 s = .next t → Keeps q t := by
  intro t ht
  unfold execI3cTransferEnd at ht
  split at ht
  · cases ht; exact h
  · extract_lets reads fits tk s1 w r at ht
    have h1 : Keeps q w.1 := eachA_keeps (fun _ _ h => writeVirt_keeps _ _ _ _ h) _ (State.modIngest_keeps _ h)
    clear_value w
    split at ht
    · cases ht; exact h
    · split at ht
      · cases ht; exact writeRecord_keeps _ _ _ h1
      · cases ht; exact writeRecord_keeps _ _ _ h1
      · split at ht <;> cases ht <;> exact writeRecord_keeps _ _ _ h1

theorem execI3cIbi_keeps (x0 x1 x2) (h : Keeps q s) : ∀ t, execI3cIbi x0 x1 x2 s = .next t → Keeps q t := by
  grind [execI3cIbi, State.modIngest_keeps, moreRecord_keeps, reserveSlot_keeps, Keeps.same]

theorem streamAtEdge_keeps (x0 x1 x2 x3) (h : Keeps q s) : Keeps q (streamAtEdge x0 x1 x2 x3 s) := by
  grind [streamAtEdge, State.modStream_keeps, dropSample_keeps, Keeps.same]

theorem ingestAtEdge_keeps (x0 x1) (h : Keeps q s) : Keeps q (ingestAtEdge x0 x1 s) := by
  unfold ingestAtEdge
  repeat' (first | with_reducible assumption | apply foldl_k | intro _ _ _ | split | grind [State.modIngest_keeps, streamAtEdge_keeps, Keeps.same])

end Sys2Proof.Machine
end

