-- ==== Sys2Proof/Laws/KeepsFusion.lean ====
section
/-! SUPPORT. Machine/Fusion.lean keeps memory canonical and the waiting commands. -/

namespace Sys2Proof.Machine

set_option Elab.async false

variable {q : List Instr} {s : State}

theorem State.modGroup_keeps (x0 x1) (h : Keeps q s) : Keeps q (State.modGroup x0 x1 s) := by
  grind [State.modGroup, State.modFusion_keeps, Keeps.same]

theorem actPair_keeps (x0) (h : Keeps q s) : Keeps q (actPair x0 s) := by
  grind [actPair, acceptConfig_keeps, readVirt_keeps, writeRecord_keeps, Keeps.same]

theorem execFusionGroupConfig_keeps (x0) (h : Keeps q s) : ∀ t, execFusionGroupConfig x0 s = .next t → Keeps q t := by
  unfold execFusionGroupConfig
  exact carry_keeps (fun t s h => by grind [acceptConfig_keeps]) h

theorem execFusionStreamConfig_keeps (x0) (h : Keeps q s) : ∀ t, execFusionStreamConfig x0 s = .next t → Keeps q t := by
  unfold execFusionStreamConfig
  exact carry_keeps (fun t s h => by grind [acceptConfig_keeps]) h

theorem execFusionPairSet_keeps (x0) (h : Keeps q s) : ∀ t, execFusionPairSet x0 s = .next t → Keeps q t := by
  unfold execFusionPairSet
  exact carry_keeps (fun t s h => by grind [actPair_keeps]) h

theorem excludeSample_keeps (x0) (h : Keeps q s) : Keeps q (excludeSample x0 s) := by
  grind [excludeSample, writeHeld_keeps, Keeps.same]

theorem excludeFrom_keeps (x0 x1 x2) (h : Keeps q s) : Keeps q (excludeFrom x0 x1 x2 s) := by
  grind [excludeFrom, State.modGroup_keeps, excludeSample_keeps, Keeps.same]

theorem assignSample_keeps (x0 x1 x2) (h : Keeps q s) : Keeps q (assignSample x0 x1 x2 s) := by
  grind [assignSample, State.modGroup_keeps, excludeFrom_keeps, Keeps.same]

theorem execSampleArrive_keeps (x0) (h : Keeps q s) : ∀ t, execSampleArrive x0 s = .next t → Keeps q t := by
  grind [execSampleArrive, State.modFusion_keeps, assignSample_keeps, excludeFrom_keeps, excludeSample_keeps, Keeps.same]

theorem closeInstant_keeps (x0 x1 x2 x3) (h : Keeps q s) : Keeps q (closeInstant x0 x1 x2 x3 s) := by
  grind [closeInstant, State.modFusion_keeps, State.modGroup_keeps, reserveSlot_keeps, Keeps.same]

theorem execInstantClose_keeps (x0) (h : Keeps q s) : ∀ t, execInstantClose x0 s = .next t → Keeps q t := by
  grind [execInstantClose, closeInstant_keeps, Keeps.same]

theorem bufferPoints_keeps (x0 x1 x2 x3 x4) (h : Keeps q s) : Keeps q (bufferPoints x0 x1 x2 x3 x4 s).1 := by
  revert h
  fun_induction bufferPoints x0 x1 x2 x3 x4 s <;> intro h <;> grind [bufferPoints, readVirt_keeps, Keeps.same]

theorem streamPoints_keeps (x0 x1) (h : Keeps q s) : Keeps q (streamPoints x0 x1 s).1 := by
  revert h
  fun_induction streamPoints x0 x1 s <;> intro h <;> grind [streamPoints, bufferPoints_keeps, Keeps.same]

theorem projectInstant_keeps (x0 x1) (h : Keeps q s) : Keeps q (projectInstant x0 x1 s).1 := by
  unfold projectInstant
  extract_lets pairs
  generalize hp : pairs = ps
  clear hp
  have : ∀ x : State × List (List Byte), Keeps q x.1 → Keeps q (ps.foldl (fun (x : State × List (List Byte)) p =>
      let (s, ps) := streamPoints (x.1.dyn.cfg.fusionStream p.lidar.toNat)
        (x1.filter fun (c : Contribution) => c.stream == p.lidar.toNat) x.1
      (s, x.2 ++ pairEntries p s.free 0 ps)) x).1 := by
    induction ps with
    | nil => exact fun x h => h
    | cons p ps ih => exact fun x h => ih _ (streamPoints_keeps _ _ h)
  exact this _ h

theorem runEntries_keeps (x0 x1) (h : Keeps q s) : Keeps q (runEntries x0 x1 s).1 := by
  grind [runEntries, projectInstant_keeps, Keeps.same]

theorem writeLevel0_keeps (x0 x1 x2) (h : Keeps q s) : Keeps q (writeLevel0 x0 x1 x2 s).1 := by
  grind [writeLevel0, writeHeld_keeps, Keeps.same]

theorem publishRun_keeps (x0) (h : Keeps q s) : Keeps q (publishRun x0 s) := by
  unfold publishRun
  dsimp only
  repeat' (first | with_reducible assumption | apply foldl_k | intro _ _ _ | split | grind [State.modGroup_keeps, releaseSlot_keeps, runEntries_keeps, writeLevel0_keeps, writeVirt_keeps, Keeps.same])

theorem execLevel0Publish_keeps (x0) (h : Keeps q s) : ∀ t, execLevel0Publish x0 s = .next t → Keeps q t := by
  unfold execLevel0Publish
  grind [State.bump_keeps, State.modFusion_keeps, publishRun_keeps, Keeps.same]

theorem publishLevel_keeps (x0 x1) (h : Keeps q s) : Keeps q (publishLevel x0 x1 s) := by
  grind [publishLevel, State.modGroup_keeps, reserveSlot_keeps, ringWrite_keeps, Keeps.same]

theorem actPublish_keeps (x0) (h : Keeps q s) : ∀ t, actPublish x0 s = some t → Keeps q t := by
  grind [actPublish, publishLevel_keeps, writeRecord_keeps, Keeps.same]

theorem execFusionPublish_keeps (x0) (h : Keeps q s) : ∀ t, execFusionPublish x0 s = .next t → Keeps q t := by
  unfold execFusionPublish
  exact carryWait_keeps (fun t s h => by grind [actPublish_keeps]) h

theorem mirrorTracks_keeps (x0 x1) (h : Keeps q s) : Keeps q (mirrorTracks x0 x1 s) := by
  unfold mirrorTracks
  repeat' (first | with_reducible assumption | apply foldl_k | intro _ _ _ | split | grind [writeVirt_keeps, Keeps.same])

theorem associate_keeps (x0 x1 x2 x3) (h : Keeps q s) : Keeps q (associate x0 x1 x2 x3 s) := by
  unfold associate
  repeat' (first | with_reducible assumption | apply foldl_k | intro _ _ _ | split | grind [State.modGroup_keeps, mirrorTracks_keeps, writeRecord_keeps, Keeps.same])

theorem actAssoc_keeps (x0) (h : Keeps q s) : Keeps q (actAssoc x0 s) := by
  grind [actAssoc, associate_keeps, readVirt_keeps, writeRecord_keeps, Keeps.same]

theorem execFusionAssoc_keeps (x0) (h : Keeps q s) : ∀ t, execFusionAssoc x0 s = .next t → Keeps q t := by
  unfold execFusionAssoc
  exact carry_keeps (fun t s h => by grind [actAssoc_keeps]) h

theorem actGetFusion_keeps (x0) (h : Keeps q s) : Keeps q (actGetFusion x0 s) := by
  grind [actGetFusion, writeRecord_keeps, Keeps.same]

theorem execGetFusionStatus_keeps (x0) (h : Keeps q s) : ∀ t, execGetFusionStatus x0 s = .next t → Keeps q t := by
  unfold execGetFusionStatus
  exact carry_keeps (fun t s h => by grind [actGetFusion_keeps]) h

theorem releaseSamples_keeps (x0) (h : Keeps q s) : Keeps q (releaseSamples x0 s) := by
  unfold releaseSamples
  repeat' (first | with_reducible assumption | apply foldl_k | intro _ _ _ | split | grind [releaseSlot_keeps, Keeps.same])

theorem releaseRuns_keeps (x0) (h : Keeps q s) : Keeps q (releaseRuns x0 s) := by
  unfold releaseRuns
  repeat' (first | with_reducible assumption | apply foldl_k | intro _ _ _ | split | grind [releaseSamples_keeps, releaseSlot_keeps, Keeps.same])

theorem dropBerthSamples_keeps (x0) (h : Keeps q s) : Keeps q (dropBerthSamples x0 s) := by
  grind [dropBerthSamples, State.modFusion_keeps, releaseRuns_keeps, Keeps.same]

theorem resetGroup_keeps (x0) (h : Keeps q s) : Keeps q (resetGroup x0 s) := by
  grind [resetGroup, State.modFusion_keeps, State.modGroup_keeps, releaseRuns_keeps, releaseSamples_keeps, Keeps.same]

theorem cutGroup_keeps (x0 x1 x2) (h : Keeps q s) : Keeps q (cutGroup x0 x1 x2 s) := by
  unfold cutGroup
  repeat' (first | with_reducible assumption | apply foldl_k | intro _ _ _ | split | grind [closeInstant_keeps, Keeps.same])

theorem groupAtEdge_keeps (x0 x1 x2 x3) (h : Keeps q s) : Keeps q (groupAtEdge x0 x1 x2 x3 s) := by
  grind [groupAtEdge, State.modGroup_keeps, cutGroup_keeps, mirrorTracks_keeps, Keeps.same]

theorem fusionAtEdge_keeps (x0 x1 x2) (h : Keeps q s) : Keeps q (fusionAtEdge x0 x1 x2 s) := by
  unfold fusionAtEdge
  repeat' (first | with_reducible assumption | apply foldl_k | intro _ _ _ | split | grind [groupAtEdge_keeps, Keeps.same])

end Sys2Proof.Machine
end

