-- ==== Sys2Proof/Laws/KeepsIsgal.lean ====
section
/-! SUPPORT. Machine/Isgal.lean keeps memory canonical and the waiting commands. -/

namespace Sys2Proof.Machine

set_option Elab.async false

variable {q : List Instr} {s : State}

theorem execPortTrainingDone_keeps (x0 x1) (h : Keeps q s) : ∀ t, execPortTrainingDone x0 x1 s = .next t → Keeps q t := by
  unfold execPortTrainingDone
  dsimp only
  intro t ht
  repeat' (first | with_reducible assumption | split at ht | cases ht | apply foldl_k | intro _ _ _ | split | grind [State.modBring_keeps, State.modPort_keeps, addDefect_keeps, Keeps.same])

theorem lostRecord_keeps (x0) (h : Keeps q s) : Keeps q (lostRecord x0 s) := by
  grind [lostRecord, addError_keeps, Keeps.same]

theorem loseWrite_keeps (x0 x1) (h : Keeps q s) : Keeps q (loseWrite x0 x1 s) := by
  unfold loseWrite
  grind [failOn_keeps, lostRecord_keeps, raiseBerth_keeps, Keeps.same]

theorem loseRequest_keeps (x0) (h : Keeps q s) : Keeps q (loseRequest x0 s) := by
  grind [loseRequest, State.modIsgal_keeps, faultAccess_keeps, fillFailed_keeps, lostRecord_keeps, Keeps.same]

theorem loseLock_keeps (x0) (h : Keeps q s) : Keeps q (loseLock x0 s) := by
  grind [loseLock, State.modIsgal_keeps, faultAccess_keeps, lostRecord_keeps, Keeps.same]

theorem loseTraffic_keeps (x0 x1 x2) (h : Keeps q s) : Keeps q (loseTraffic x0 x1 x2 s) := by
  unfold loseTraffic
  repeat' (first | with_reducible assumption | apply foldl_k | intro _ _ _ | split | grind [loseLock_keeps, loseRequest_keeps, loseWrite_keeps, Keeps.same])

theorem portDown_keeps (x0 x1 x2) (h : Keeps q s) : Keeps q (portDown x0 x1 x2 s) := by
  grind [portDown, State.modIsgal_keeps, State.modPort_keeps, loseTraffic_keeps, Keeps.same]

theorem laneFailed_keeps (x0 x1) (h : Keeps q s) : Keeps q (laneFailed x0 x1 s) := by
  grind [laneFailed, State.modErrors_keeps, State.modPort_keeps, flushSecond_keeps, Keeps.same]

theorem retireLane_keeps (x0 x1) (h : Keeps q s) : Keeps q (retireLane x0 x1 s) := by
  grind [retireLane, State.modPort_keeps, addDefect_keeps, addError_keeps, portDown_keeps, Keeps.same]

theorem takeAck_keeps (x0 x1 x2) (h : Keeps q s) : Keeps q (takeAck x0 x1 x2 s) := by
  grind [takeAck, State.modPort_keeps, portDown_keeps, sendWaiting_keeps, Keeps.same]

theorem takeCompletion_keeps (x0 x1) (h : Keeps q s) : Keeps q (takeCompletion x0 x1 s) := by
  unfold takeCompletion
  repeat' (first | with_reducible assumption | intro _ _ _ | split | grind [State.modIsgal_keeps, State.modTileWork_keeps, faultAccess_keeps, fillArrived_keeps, fillFailed_keeps, respond_keeps, scDone_keeps, Keeps.same])

theorem takeTransactions_keeps (x0 x1) (h : Keeps q s) : Keeps q (takeTransactions x0 x1 s) := by
  unfold takeTransactions
  repeat' (first | with_reducible assumption | apply foldl_k | intro _ _ _ | split | grind [State.modPort_keeps, takeCompletion_keeps, Keeps.same])

theorem takeFlitCredits_keeps (x0 x1) (h : Keeps q s) : Keeps q (takeFlitCredits x0 x1 s) := by
  unfold takeFlitCredits
  repeat' (first | with_reducible assumption | apply foldl_k | intro _ _ _ | split | grind [State.modPort_keeps, Keeps.same])

theorem afterFlit_keeps (h : Keeps q s) : Keeps q (afterFlit s) := by
  grind [afterFlit, sendWaiting_keeps, serveHeld_keeps, Keeps.same]

theorem execFlitReceive_keeps (x0 x1 x2 x3 x4 x5 x6) (h : Keeps q s) :
    ∀ t, execFlitReceive x0 x1 x2 x3 x4 x5 x6 s = .next t → Keeps q t := by
  intro t ht
  unfold execFlitReceive at ht
  extract_lets p s1 bad s2 next s3 d at ht
  have h2 : Keeps q s2 := foldl_k (fun s l h => laneFailed_keeps _ _ h) _ (State.modPort_keeps _ _ h)
  have h3 : Keeps q s3 := takeAck_keeps _ _ _ (by split <;> [exact takeFlitCredits_keeps _ _ h2; exact h2])
  clear_value d s3 next
  split at ht
  · cases ht; exact h
  · split at ht
    · cases ht; exact foldl_k (fun s l h => retireLane_keeps _ _ h) _ (State.modPort_keeps _ _ h2)
    · split at ht
      · cases ht; exact h3
      · split at ht
        · cases ht; exact afterFlit_keeps (takeTransactions_keeps _ _ (State.modPort_keeps _ _ h3))
        · split at ht <;> cases ht
          · exact h3
          · exact State.modPort_keeps _ _ h3

theorem execPeerSilent_keeps (x0) (h : Keeps q s) : ∀ t, execPeerSilent x0 s = .next t → Keeps q t := by
  grind [execPeerSilent, portDown_keeps, Keeps.same]

theorem takeReceived_keeps (x0 x1 x2) (h : Keeps q s) : ∀ t, takeReceived x0 x1 x2 s = some t → Keeps q t := by
  grind [takeReceived, State.modPort_keeps, Keeps.same]

theorem execInboundTransaction_keeps (x0 x1) (h : Keeps q s) : ∀ t, execInboundTransaction x0 x1 s = .next t → Keeps q t := by
  grind [execInboundTransaction, serveHeld_keeps, serveInbound_keeps, takeReceived_keeps, Keeps.same]

theorem execLockRead_keeps (x0 x1) (h : Keeps q s) : ∀ t, execLockRead x0 x1 s = .next t → Keeps q t := by
  grind [execLockRead, serveHeld_keeps, serveLockRead_keeps, takeReceived_keeps, Keeps.same]

theorem execLockWrite_keeps (x0 x1) (h : Keeps q s) : ∀ t, execLockWrite x0 x1 s = .next t → Keeps q t := by
  grind [execLockWrite, serveHeld_keeps, serveLockWrite_keeps, takeReceived_keeps, Keeps.same]

theorem execLockTimeout_keeps (x0) (h : Keeps q s) : ∀ t, execLockTimeout x0 s = .next t → Keeps q t := by
  grind [execLockTimeout, State.modIsgal_keeps, State.modPort_keeps, serveHeld_keeps, Keeps.same]

theorem modOutLock_keeps (x0 x1) (h : Keeps q s) : Keeps q (modOutLock x0 x1 s) := by
  grind [modOutLock, State.modIsgal_keeps, Keeps.same]

theorem readUnlocked_keeps (x0) (h : Keeps q s) : Keeps q (readUnlocked x0 s) := by
  grind [readUnlocked, State.modIsgal_keeps, sendStamped_keeps, Keeps.same]

theorem execLockRetryReceive_keeps (x0 x1) (h : Keeps q s) : ∀ t, execLockRetryReceive x0 x1 s = .next t → Keeps q t := by
  grind [execLockRetryReceive, State.modPort_keeps, modOutLock_keeps, readUnlocked_keeps, Keeps.same]

theorem execLockResend_keeps (x0) (h : Keeps q s) : ∀ t, execLockResend x0 s = .next t → Keeps q t := by
  grind [execLockResend, modOutLock_keeps, sendStamped_keeps, Keeps.same]

theorem execSideBandPoll_keeps (x0) (h : Keeps q s) : ∀ t, execSideBandPoll x0 s = .next t → Keeps q t := by
  unfold execSideBandPoll
  dsimp only
  intro t ht
  repeat' (first | with_reducible assumption | split at ht | cases ht | intro _ _ _ | split | grind [State.modIsgal_keeps, sendPeer_keeps, Keeps.same])

theorem execSideBandRecord_keeps (x0 x1 x2 x3 x4 x5) (h : Keeps q s) : ∀ t, execSideBandRecord x0 x1 x2 x3 x4 x5 s = .next t → Keeps q t := by
  unfold execSideBandRecord
  dsimp only
  intro t ht
  repeat' (first | with_reducible assumption | split at ht | cases ht | apply foldl_k | intro _ _ _ | split | grind [State.modIsgal_keeps, raiseBerth_keeps, Keeps.same])

theorem execPeerCutCopy_keeps (x0 x1 x2) (h : Keeps q s) : ∀ t, execPeerCutCopy x0 x1 x2 s = .next t → Keeps q t := by
  grind [execPeerCutCopy, State.modPort_keeps, reserveSlot_keeps, ringWrite_keeps, Keeps.same]

theorem actGetLink_keeps (x0) (h : Keeps q s) : Keeps q (actGetLink x0 s) := by
  grind [actGetLink, writeRecord_keeps, Keeps.same]

theorem execGetLinkStatus_keeps (x0) (h : Keeps q s) : ∀ t, execGetLinkStatus x0 s = .next t → Keeps q t := by
  unfold execGetLinkStatus
  exact carry_keeps (fun t s h => by grind [actGetLink_keeps, maintenance_keeps]) h

theorem isgalAtEdge_keeps (h : Keeps q s) : Keeps q (isgalAtEdge s) := by
  grind [isgalAtEdge, State.modIsgal_keeps, sendWaiting_keeps, serveHeld_keeps, Keeps.same]

theorem dropBerthTraffic_keeps (x0) (h : Keeps q s) : Keeps q (dropBerthTraffic x0 s) := by
  grind [dropBerthTraffic, State.modIsgal_keeps, Keeps.same]

end Sys2Proof.Machine
end

