-- ==== Sys2Proof/Laws/KeepsModels.lean ====
section
/-! SUPPORT. Machine/Models.lean keeps memory canonical and the waiting commands. -/

namespace Sys2Proof.Machine

set_option Elab.async false

variable {q : List Instr} {s : State}

theorem Memory.setLines_wf (n l : Nat) (bs : List Byte) {m : Memory} (h : m.wf = true) : (m.setLines n l bs).wf = true := by
  induction n generalizing l bs m with
  | zero => exact h
  | succ n ih => exact ih _ _ (Memory.setLine_wf h _ _)

theorem Memory.setPieces_wf (ls : List Nat) (bs : List Byte) {m : Memory} (h : m.wf = true) : (m.setPieces ls bs).wf = true := by
  induction ls generalizing bs m with
  | nil => exact h
  | cons l ls ih => exact ih _ (Memory.setLines_wf _ _ _ h)

/-- A fold of memory operations that keep the canonical form keeps it. -/
theorem Memory.foldl_wf {α : Type} {f : Memory → α → Memory} (hf : ∀ m x, m.wf = true → (f m x).wf = true) (xs : List α)
    {m : Memory} (h : m.wf = true) : (xs.foldl f m).wf = true := by
  induction xs generalizing m with
  | nil => exact h
  | cons x xs ih => exact ih (hf m x h)

theorem Memory.storeModel_wf (x : Model) {m : Memory} (h : m.wf = true) : (m.storeModel x).wf = true :=
  Memory.foldl_wf (fun _ _ h => Memory.setPieces_wf _ _ h) _ (Memory.setPieces_wf _ _ h)

theorem Memory.storeProgram_wf (b slot : Nat) (code : List Byte) {m : Memory} (h : m.wf = true) :
    (m.storeProgram b slot code).wf = true := Memory.setPieces_wf _ _ h

theorem readSpans_keeps (x0 x1 x2) (h : Keeps q s) : Keeps q (readSpans x0 x1 x2 s).1 := by
  unfold readSpans
  repeat' (first | with_reducible assumption | apply eachA_keeps | apply thenA_keeps | intro _ _ _ | split | grind [readVirt_keeps, Keeps.same])

theorem registerImage_keeps (x0 x1) (h : Keeps q s) : Keeps q (registerImage x0 x1 s) := by
  unfold registerImage
  dsimp only
  repeat' (first | with_reducible assumption | intro _ _ _ | split | grind [acceptConfig_keeps, readSpans_keeps, writeRecord_keeps, Keeps.same])

theorem actModelRegister_keeps (x0) (h : Keeps q s) : Keeps q (actModelRegister x0 s) := by
  grind [actModelRegister, readVirt_keeps, registerImage_keeps, writeRecord_keeps, Keeps.same]

theorem execModelRegister_keeps (x0) (h : Keeps q s) : ∀ t, execModelRegister x0 s = .next t → Keeps q t := by
  unfold execModelRegister
  exact carry_keeps (fun t s h => by grind [actModelRegister_keeps]) h

theorem execModelUnregister_keeps (x0) (h : Keeps q s) : ∀ t, execModelUnregister x0 s = .next t → Keeps q t := by
  unfold execModelUnregister
  exact carry_keeps (fun t s h => by grind [acceptConfig_keeps]) h

theorem actGetModel_keeps (x0) (h : Keeps q s) : Keeps q (actGetModel x0 s) := by
  grind [actGetModel, writeRecord_keeps, Keeps.same]

theorem execGetModel_keeps (x0) (h : Keeps q s) : ∀ t, execGetModel x0 s = .next t → Keeps q t := by
  unfold execGetModel
  exact carry_keeps (fun t s h => by grind [actGetModel_keeps]) h

theorem execSetResidency_keeps (x0) (h : Keeps q s) : ∀ t, execSetResidency x0 s = .next t → Keeps q t := by
  unfold execSetResidency
  exact carry_keeps (fun t s h => by grind [acceptConfig_keeps]) h

theorem readGiven_keeps (x0 x1) (h : Keeps q s) : Keeps q (readGiven x0 x1 s).1 := by
  unfold readGiven
  repeat' (first | with_reducible assumption | apply eachA_keeps | apply thenA_keeps | intro _ _ _ | split | grind [readVirt_keeps, Keeps.same])

theorem startModel_keeps (x0 x1 x2 x3 x4 x5 x6 x7) (h : Keeps q s) : Keeps q (startModel x0 x1 x2 x3 x4 x5 x6 x7 s) := by
  grind [startModel, State.modWork_keeps, addJob_keeps, leafFor_keeps, placeModel_keeps, Keeps.same]

theorem invokeIo_keeps (x0 x1 x2 x3) (h : Keeps q s) : Keeps q (invokeIo x0 x1 x2 x3 s) := by
  grind [invokeIo, readGiven_keeps, readVirt_keeps, startModel_keeps, writeRecord_keeps, Keeps.same]

theorem actModelInvoke_keeps (x0) (h : Keeps q s) : Keeps q (actModelInvoke x0 s) := by
  grind [actModelInvoke, invokeIo_keeps, writeRecord_keeps, Keeps.same]

theorem execModelInvoke_keeps (x0) (h : Keeps q s) : ∀ t, execModelInvoke x0 s = .next t → Keeps q t := by
  unfold execModelInvoke
  exact carryJob_keeps (fun t s h => by grind [actModelInvoke_keeps]) h

theorem actModelPreload_keeps (x0) (h : Keeps q s) : Keeps q (actModelPreload x0 s) := by
  grind [actModelPreload, startModel_keeps, writeRecord_keeps, Keeps.same]

theorem execModelPreload_keeps (x0) (h : Keeps q s) : ∀ t, execModelPreload x0 s = .next t → Keeps q t := by
  unfold execModelPreload
  exact carryJob_keeps (fun t s h => by grind [actModelPreload_keeps]) h

theorem makeRoom_keeps (x0 x1 x2 x3 x4) (h : Keeps q s) : Keeps q (makeRoom x0 x1 x2 x3 x4 s).1 := by
  revert h
  fun_induction makeRoom x0 x1 x2 x3 x4 s <;> intro h <;> grind [makeRoom, State.modTileWork_keeps, Keeps.same]

theorem planWeights_keeps (x0 x1 x2 x3) (h : Keeps q s) : Keeps q (planWeights x0 x1 x2 x3 s).1 := by
  grind [planWeights, makeRoom_keeps, Keeps.same]

theorem fetchWeights_keeps (x0 x1 x2 x3 x4) (h : Keeps q s) : Keeps q (fetchWeights x0 x1 x2 x3 x4 s).1 := by
  grind [fetchWeights, blockAt_keeps, readCopy_keeps, Keeps.same]

theorem useWeights_keeps (x0 x1 x2 x3 x4 x5) (h : Keeps q s) : Keeps q (useWeights x0 x1 x2 x3 x4 x5 s) := by
  cases x5 with
  | none => exact State.modTileWork_keeps _ _ h
  | some d =>
    unfold useWeights
    dsimp only
    split
    · exact modShard_keeps _ _ _ h
    · exact State.modTileWork_keeps _ _ h

theorem makeSwitch_keeps (x0 x1 x2 x3 x4) (h : Keeps q s) : Keeps q (makeSwitch x0 x1 x2 x3 x4 s) := by
  unfold makeSwitch
  split
  · exact h
  · next e =>
    have h1 := counterBlock_keeps _ _ h _ e
    exact State.modSafety_keeps _ (State.modJob_keeps _ _ (regrant_keeps _ (modShard_keeps _ _ _ h1)))

theorem imageRead_keeps (x0 x1 x2) (h : Keeps q s) : Keeps q (imageRead x0 x1 x2 s).1 := by
  unfold imageRead
  extract_lets lines
  generalize lines.eraseDups = l
  suffices ∀ y : State × Bool, Keeps q y.1 → Keeps q (l.foldl (fun x n =>
      if !x.2 then x
      else
        let col := columnOf (n * 64)
        if x.1.columnHolds col .request then (blockAt col x.1, true)
        else
          match readDramLine x0 n x.1 with
          | (s, d) => (s, d.isSome)) y).1 from this _ h
  induction l with
  | nil => exact fun y h => h
  | cons n l ih =>
    intro y hy
    refine ih _ ?_
    dsimp only
    split
    · exact hy
    · split
      · exact blockAt_keeps _ hy
      · exact readDramLine_keeps _ _ hy

theorem switchShard_keeps (x0 x1 x2 x3) (h : Keeps q s) : Keeps q (switchShard x0 x1 x2 x3 s) := by
  unfold switchShard
  extract_lets x bad
  have hb : ∀ s, Keeps q s → Keeps q (bad s) := fun s h => failJob_keeps _ _ _ _ h
  have h1 := planWeights_keeps x2 x1 x3 x h
  split
  · next e => rw [e] at h1; exact h1
  next u plan _ e =>
    rw [e] at h1
    replace h1 : Keeps q u := h1
    split
    · exact h1
    · have h2 := imageRead_keeps (u.jobSrc x0 ((u.dyn.cfg.logicalOf x2).getD 0)) x3.model (switchSpans x3.model x1) h1
      split
      · next e => rw [e] at h2; exact hb _ h2
      next v e =>
        rw [e] at h2
        replace h2 : Keeps q v := h2
        split
        · split
          · exact hb _ h2
          · exact makeSwitch_keeps _ _ _ _ _ (useWeights_keeps _ _ _ _ _ _ h2)
        · have h3 := fetchWeights_keeps x2 x0 x1 x3 x h2
          split
          · next e => rw [e] at h3; exact hb _ h3
          · next e =>
            rw [e] at h3
            exact makeSwitch_keeps _ _ _ _ _ (useWeights_keeps _ _ _ _ _ _ h3)

theorem moveShard_keeps (x0 x1 x2) (h : Keeps q s) : Keeps q (moveShard x0 x1 x2 s) := by
  grind [moveShard, State.modJob_keeps, modShard_keeps, noteChosen_keeps, Keeps.same]

theorem execShardSwitch_keeps (x0 x1) (h : Keeps q s) : ∀ t, execShardSwitch x0 x1 s = .next t → Keeps q t := by
  unfold execShardSwitch
  intro t ht
  repeat' (first | with_reducible assumption | split at ht | cases ht | apply unlessHeld_keeps | intro _ _ _ | split | grind [moveShard_keeps, startWake_keeps, switchShard_keeps, Keeps.same])

theorem stepHeader_keeps (x0 x1 x2) (h : Keeps q s) : Keeps q (stepHeader x0 x1 x2 s).1 := by
  unfold stepHeader
  repeat' (first | with_reducible assumption | apply thenA_keeps | intro _ _ _ | split | grind [engineRead_keeps, Keeps.same])

theorem stepArray_keeps (x0 x1 x2) (h : Keeps q s) : Keeps q (stepArray x0 x1 x2 s).1 := by
  grind [stepArray, eachA_keeps, stepHeader_keeps, thenA_keeps, Keeps.same]

theorem stepLanes_keeps (x0 x1 x2 x3) (h : Keeps q s) : Keeps q (stepLanes x0 x1 x2 x3 s).1 := by
  unfold stepLanes
  dsimp only
  repeat' (first | with_reducible assumption | apply thenA_keeps | intro _ _ _ | split | grind [engineRead_keeps, Keeps.same])

theorem stepCopy_keeps (x0 x1) (h : Keeps q s) : Keeps q (stepCopy x0 x1 s).1 := by
  unfold stepCopy
  dsimp only
  repeat' (first | with_reducible assumption | apply thenA_keeps | intro _ _ _ | split | grind [engineRead_keeps, engineWrite_keeps, Keeps.same])

theorem stepFault_keeps {α : Type} (x0 : ℕ) (x1 : ℕ) (x2 : ℕ) (x3 : Access α) (h : Keeps q s) : Keeps q (stepFault x0 x1 x2 x3 s) := by
  unfold stepFault
  grind [failJob_keeps, Keeps.same]

theorem startStep_keeps (x0 x1 x2 x3 x4 x5) (h : Keeps q s) : Keeps q (startStep x0 x1 x2 x3 x4 x5 s) := by
  grind [startStep, beginRun_keeps, finishStep_keeps, modShard_keeps, stepArray_keeps, stepCopy_keeps, stepFault_keeps, stepLanes_keeps, Keeps.same]

theorem onTile_keeps (x0) {f : Nat → State → State} (hf : ∀ p s, Keeps q s → Keeps q (f p s)) (h : Keeps q s) :
    Keeps q (onTile x0 f s) := by
  unfold onTile
  split
  · exact h
  · split
    · exact startWake_keeps _ h
    · split
      · exact h
      · exact unlessHeld_keeps (hf _) h

theorem withSram_keeps (x0 x1 x2) {f g : State → State} (hf : ∀ s, Keeps q s → Keeps q (f s))
    (hg : ∀ s, Keeps q s → Keeps q (g s)) (h : Keeps q s) : Keeps q (withSram x0 x1 x2 f g s) := by
  unfold withSram
  have hw := sramWord_keeps x0 x1 x2 h
  split
  · next e => rw [e] at hw; exact hg _ hw
  · next e => rw [e] at hw; exact hf _ hw

theorem execModelStepStart_keeps (x0 x1 x2) (h : Keeps q s) :
    ∀ t, execModelStepStart x0 x1 x2 s = .next t → Keeps q t := by
  intro t ht
  unfold execModelStepStart at ht
  split at ht
  · cases ht; exact h
  · split at ht
    · cases ht; exact h
    · dsimp only at ht
      split at ht
      · cases ht; exact h
      · cases ht
        exact onTile_keeps _ (fun _ _ h => withSram_keeps _ _ _ (fun _ h => failJob_keeps _ _ _ _ h)
          (fun _ h => startStep_keeps _ _ _ _ _ _ h) h) h

theorem loadTensor_keeps (x0 x1 x2) (h : Keeps q s) : Keeps q (loadTensor x0 x1 x2 s) := by
  grind [loadTensor, State.modJob_keeps, accessFailed_keeps, runLoad_keeps, Keeps.same]

theorem loadStep_keeps (x0 x1 x2 x3 x4 x5) (h : Keeps q s) : Keeps q (loadStep x0 x1 x2 x3 x4 x5 s) := by
  grind [loadStep, accessFailed_keeps, finishStep_keeps, modShard_keeps, runLoad_keeps, Keeps.same]

theorem arrayTurn_keeps (x0 x1 x2 x3 x4) {f : State → State} (hf : ∀ s, Keeps q s → Keeps q (f s)) (h : Keeps q s) :
    Keeps q (arrayTurn x0 x1 x2 x3 x4 f s) := by
  unfold arrayTurn
  split
  · exact h
  · exact onTile_keeps _ (fun _ _ h => withSram_keeps _ _ _ (fun _ h => failJob_keeps _ _ _ _ h) hf h) h

theorem execArrayLoad_keeps (x0 x1) (h : Keeps q s) : ∀ t, execArrayLoad x0 x1 s = .next t → Keeps q t := by
  unfold execArrayLoad
  intro t ht
  repeat' (first | with_reducible assumption | split at ht | cases ht | apply arrayTurn_keeps | intro _ _ _ | split | grind [loadStep_keeps, loadTensor_keeps, Keeps.same])

theorem borrowPlace_keeps (x0 x1) (h : Keeps q s) : ∀ t, borrowPlace x0 x1 s = some t → Keeps q t.1 := by
  unfold borrowPlace
  intro t ht
  dsimp only at ht
  split at ht
  · cases ht; exact beginRun_keeps _ _ h
  · split at ht
    · cases ht; exact h
    · split at ht
      · cases ht
      · cases ht; exact h

theorem execJobComplete_keeps (x0 x1) (h : Keeps q s) : ∀ t, execJobComplete x0 x1 s = .next t → Keeps q t := by
  unfold execJobComplete
  grind [completeJob_keeps, failJob_keeps, Keeps.same]

theorem storeCopies_keeps (x0) (h : Keeps q s) : Keeps q (storeCopies x0 s) :=
  h.modMem fun w => Memory.foldl_wf (fun _ _ h => Memory.storeProgram_wf _ _ _ h) _
    (Memory.foldl_wf (fun _ _ h => Memory.storeModel_wf _ h) _ w)

end Sys2Proof.Machine
end

