-- ==== Sys2Proof/Laws/KeepsClose.lean ====
section
/-! SUPPORT. Machine/Close.lean keeps memory canonical and the waiting commands. -/

namespace Sys2Proof.Machine

set_option Elab.async false

variable {q : List Instr} {s : State}

theorem execTileRetire_keeps (x0) (h : Keeps q s) : ∀ t, execTileRetire x0 s = .next t → Keeps q t := by
  unfold execTileRetire
  exact carry_keeps (fun t s h => by grind [acceptConfig_keeps]) h

theorem closeShadow_keeps (h : Keeps q s) : Keeps q (closeShadow s) := by
  unfold closeShadow
  repeat' (first | with_reducible assumption | apply foldl_k | intro _ _ _ | split | grind [State.modLock_keeps, writeRecord_keeps, Keeps.same])

theorem execShadowClose_keeps (h : Keeps q s) : ∀ t, execShadowClose s = .next t → Keeps q t := by
  grind [execShadowClose, closeShadow_keeps, Keeps.same]

end Sys2Proof.Machine
end

