-- ==== Sys2Proof/Laws/KeepsCommit.lean ====
section
/-! SUPPORT. Machine/Commit.lean keeps memory canonical and the waiting commands. -/

namespace Sys2Proof.Machine

set_option Elab.async false

variable {q : List Instr} {s : State}

theorem beginHandover_keeps (x0 x1 x2) (h : Keeps q s) : Keeps q (beginHandover x0 x1 x2 s) := by
  grind [beginHandover, State.modTile_keeps, startWake_keeps, Keeps.same]

theorem stopJobs_keeps (x0) (h : Keeps q s) : Keeps q (stopJobs x0 s) := by
  unfold stopJobs
  extract_lets jobs passes tiles s1 s2
  have h1 : Keeps q s1 := foldl_k (fun s j h => releaseJob_keeps _ h) _ h
  have h2 : Keeps q s2 := foldl_k (fun s j h => dropPass_keeps _ h) _ h1
  exact foldl_k (fun s j h => beginHandover_keeps _ _ _ h) _ h2

theorem stopSensors_keeps (x0) (h : Keeps q s) : Keeps q (stopSensors x0 s) := by
  unfold stopSensors
  extract_lets s1 s2 s3 s4
  have h1 : Keeps q s1 := by
    refine foldl_k (fun s n h => ?_) _ h
    split
    · split
      · exact dropSample_keeps _ _ h
      · exact h
    · exact h
  clear_value s1
  have h2 : Keeps q s2 := foldl_k (fun s n h => dropNumber_keeps _ _ _ h) _ h1
  clear_value s2
  have h3 : Keeps q s3 := dropBerthSamples_keeps _ h2
  clear_value s3
  have h4 : Keeps q s4 := by
    refine foldl_k (fun s n h => ?_) _ h3
    split
    · exact resetGroup_keeps _ h
    · exact h
  exact State.modIngest_keeps _ h4

theorem stopRequests_keeps (x0) (h : Keeps q s) : Keeps q (stopRequests x0 s) := by
  grind [stopRequests, State.modGateway_keeps, State.modIsgal_keeps, Keeps.same]

theorem dropBerthWork_keeps (x0) (h : Keeps q s) : Keeps q (dropBerthWork x0 s) := by
  unfold dropBerthWork
  extract_lets s1 s2 s3 s4 s5
  have h1 : Keeps q s1 := by
    dsimp only [s1]
    split
    · split
      · exact State.modSafety_keeps _ h
      · exact h
    · exact h
  clear_value s1
  have h2 : Keeps q s2 := dropBerthTraffic_keeps _ (stopSensors_keeps _ (stopJobs_keeps _ h1))
  clear_value s2
  have h3 : Keeps q s3 := stopRequests_keeps _ h2
  clear_value s3
  have h5 : Keeps q s5 := State.modWork_keeps _ (State.modDisplays_keeps _ h3)
  clear_value s5
  exact State.modMailbox_keeps _ _ h5

theorem rerunGroups_keeps (x0 x1) (h : Keeps q s) : Keeps q (rerunGroups x0 x1 s) := by
  grind [rerunGroups, State.modJob_keeps, Keeps.same]

theorem restartJob_keeps (x0) (h : Keeps q s) : Keeps q (restartJob x0 s) := by
  grind [restartJob, State.modJob_keeps, State.modWork_keeps, Keeps.same]

theorem evictJob_keeps (x0 x1 x2) (h : Keeps q s) : Keeps q (evictJob x0 x1 x2 s) := by
  grind [evictJob, failJob_keeps, rerunGroups_keeps, restartJob_keeps, Keeps.same]

theorem evictPass_keeps (x0 x1 x2) (h : Keeps q s) : Keeps q (evictPass x0 x1 x2 s) := by
  unfold evictPass
  repeat' (first | with_reducible assumption | apply foldl_k | intro _ _ _ | split | grind [State.modPass_keeps, dropShades_keeps, failPass_keeps, stopBatches_keeps, Keeps.same])

theorem evictTile_keeps (x0 x1 x2) (h : Keeps q s) : Keeps q (evictTile x0 x1 x2 s) := by
  unfold evictTile
  repeat' (first | with_reducible assumption | apply foldl_k | intro _ _ _ | split | grind [State.modTileWork_keeps, evictJob_keeps, evictPass_keeps, Keeps.same])

theorem reseatPasses_keeps (x0) (h : Keeps q s) : Keeps q (reseatPasses x0 s) :=
  foldl_k (fun _ _ h => holdTiles_keeps _ _ _ h) _ h

theorem closeTile_keeps (x0) (h : Keeps q s) : Keeps q (closeTile x0 s) := by
  unfold closeTile
  repeat' (first | with_reducible assumption | apply foldl_k | intro _ _ _ | split | grind [State.modTileWork_keeps, State.modTile_keeps, writeRecord_keeps, Keeps.same])

theorem endRetired_keeps (x0) (h : Keeps q s) : Keeps q (endRetired x0 s) := by
  grind [endRetired, State.modTileWork_keeps, closeTile_keeps, evictTile_keeps, Keeps.same]

theorem recordRetired_keeps (x0) (h : Keeps q s) : Keeps q (recordRetired x0 s) := by
  grind [recordRetired, State.modBring_keeps, addDefect_keeps, addError_keeps, beginHandover_keeps, reseatPasses_keeps, Keeps.same]

theorem moveTile_keeps (x0 x1 x2) (h : Keeps q s) : Keeps q (moveTile x0 x1 x2 s) := by
  grind [moveTile, State.modTileWork_keeps, beginHandover_keeps, Keeps.same]

theorem residentsAtEdge_keeps (x0) (h : Keeps q s) : Keeps q (residentsAtEdge x0 s) := by
  unfold residentsAtEdge
  repeat' (first | with_reducible assumption | apply foldl_k | intro _ _ _ | split | grind [State.modWork_keeps, beginHandover_keeps, loadSafety_keeps, Keeps.same])

theorem tilesAtEdge_keeps (x0) (h : Keeps q s) : Keeps q (tilesAtEdge x0 s) := by
  unfold tilesAtEdge
  extract_lets s1 s2 s3
  have h1 : Keeps q s1 := by
    refine foldl_k (fun s p h => ?_) _ h
    split
    · split
      · exact moveTile_keeps _ _ _ h
      · exact h
    · exact h
  have h2 : Keeps q s2 := residentsAtEdge_keeps _ h1
  have h3 : Keeps q s3 := State.modTiles_keeps _ h2
  refine foldl_k (fun s p h => ?_) _ h3
  dsimp only
  split
  · exact startWake_keeps _ h
  · exact h

theorem queuesAtEdge_keeps (x0 x1) (h : Keeps q s) : Keeps q (queuesAtEdge x0 x1 s) := by
  unfold queuesAtEdge
  repeat' (first | with_reducible assumption | apply foldl_k | intro _ _ _ | split | grind [State.modIngest_keeps, State.modQueue_keeps, State.modQueues_keeps, Keeps.same])

theorem contextsAtEdge_keeps (x0) (h : Keeps q s) : Keeps q (contextsAtEdge x0 s) := by
  unfold contextsAtEdge
  repeat' (first | with_reducible assumption | apply foldl_k | intro _ _ _ | split | grind [State.modPass_keeps, tryResume_keeps, Keeps.same])

theorem displaysAtEdge_keeps (x0) (h : Keeps q s) : Keeps q (displaysAtEdge x0 s) := by
  unfold displaysAtEdge
  repeat' (first | with_reducible assumption | apply foldl_k | intro _ _ _ | split | grind [State.modDisplay_keeps, Keeps.same])

theorem prefetchAtEdge_keeps (x0) (h : Keeps q s) : Keeps q (prefetchAtEdge x0 s) := by
  grind [prefetchAtEdge, State.modWork_keeps, Keeps.same]

theorem recordFrame_keeps (x0) (h : Keeps q s) : Keeps q (recordFrame x0 s) := by
  grind [recordFrame, State.modErrors_keeps, addDefect_keeps, addError_keeps, Keeps.same]

theorem checkersAtEdge_keeps (x0) (h : Keeps q s) : Keeps q (checkersAtEdge x0 s) := by
  unfold checkersAtEdge
  repeat' (first | with_reducible assumption | apply foldl_k | intro _ _ _ | split | grind [State.modSafety_keeps, Keeps.same])

theorem powerAtEdge_keeps (h : Keeps q s) : Keeps q (powerAtEdge s) := by
  grind [powerAtEdge, State.modPower_keeps, applySteps_keeps, Keeps.same]

theorem beforeSwap_keeps (x0) (h : Keeps q s) : Keeps q (beforeSwap x0 s) := by
  unfold beforeSwap
  extract_lets s1
  have h1 : Keeps q s1 := foldl_k (fun s b h => dropBerthWork_keeps _ h) _ h
  exact foldl_k (fun s r h => endRetired_keeps _ h) _ h1

theorem swapIn_keeps (h : Keeps q s) : Keeps q (swapIn s) := by
  grind [swapIn, State.modCfg_keeps, State.modLock_keeps, Keeps.same]

theorem voidsAtEdge_keeps (x0) (h : Keeps q s) : Keeps q (voidsAtEdge x0 s) := by
  unfold voidsAtEdge
  repeat' (first | with_reducible assumption | apply foldl_k | intro _ _ _ | split | grind [State.modLock_keeps, Keeps.same])

theorem afterSwap_keeps (x0 x1) (h : Keeps q s) : Keeps q (afterSwap x0 x1 s) := by
  unfold afterSwap
  extract_lets _ _ _ _ s1 s2 s3 s4 s5 s6 s6' _ s7 s8 s9 s10
  have h1 : Keeps q s1 := foldl_k (fun s r h => recordRetired_keeps _ h) _ (storeCopies_keeps _ h)
  clear_value s1
  have h2 : Keeps q s2 := foldl_k (fun s f h => recordFrame_keeps _ h) _ h1
  clear_value s2
  have h3 : Keeps q s3 := tilesAtEdge_keeps _ h2
  clear_value s3
  have h4 : Keeps q s4 := by
    dsimp only [s4]
    split
    · split
      · split
        · exact failSounding_keeps _ _ _ h3
        · exact h3
      · exact h3
    · exact h3
  clear_value s4
  have h5 : Keeps q s5 := contextsAtEdge_keeps _ (queuesAtEdge_keeps _ _ h4)
  clear_value s5
  have h6 : Keeps q s6 := timeAtEdge_keeps _ (displaysAtEdge_keeps _ h5)
  clear_value s6
  have h6' : Keeps q s6' := State.modLock_keeps _ h6
  clear_value s6'
  have h7 : Keeps q s7 := fusionAtEdge_keeps _ _ _ (ingestAtEdge_keeps _ _ h6')
  clear_value s7
  have h8 : Keeps q s8 := prefetchAtEdge_keeps _ (gaugesAtEdge_keeps h7)
  clear_value s8
  have h9 : Keeps q s9 := powerAtEdge_keeps (checkersAtEdge_keeps _ h8)
  clear_value s9
  have h10 : Keeps q s10 := isgalAtEdge_keeps (State.modBring_keeps _ h9)
  clear_value s10
  exact settle_keeps (refreshWarm_keeps (State.modLock_keeps _ h10))

theorem dropStale_keeps (h : Keeps q s) : Keeps q (dropStale s) := by
  unfold dropStale
  repeat' (first | with_reducible assumption | apply foldl_k | intro _ _ _ | split | grind [State.modLock_keeps, Keeps.same])

theorem commitRecords_keeps (h : Keeps q s) : Keeps q (commitRecords s) := by
  unfold commitRecords
  repeat' (first | with_reducible assumption | apply foldl_k | intro _ _ _ | split | grind [State.modLock_keeps, writeRecord_keeps, Keeps.same])

theorem commitEdge_keeps (h : Keeps q s) : Keeps q (commitEdge s) := by
  unfold commitEdge
  extract_lets _ _ _ _ s1 s2 s3
  have h1 : Keeps q s1 := swapIn_keeps (beforeSwap_keeps _ h)
  clear_value s1
  have h2 : Keeps q s2 := afterSwap_keeps _ _ (voidsAtEdge_keeps _ h1)
  clear_value s2
  have h3 : Keeps q s3 := ⟨h2.1, h2.2⟩
  clear_value s3
  exact commitRecords_keeps (dropStale_keeps (writeStatusLines_keeps h3))

theorem execCommitEdge_keeps (h : Keeps q s) : ∀ t, execCommitEdge s = .next t → Keeps q t := by
  grind [execCommitEdge, commitEdge_keeps, Keeps.same]

theorem freeConfig_keeps (h : Keeps q s) : Keeps q (freeConfig s) := by
  grind [freeConfig, State.modLock_keeps, serveHeld_keeps, Keeps.same]

theorem execConfigFree_keeps (h : Keeps q s) : ∀ t, execConfigFree s = .next t → Keeps q t := by
  grind [execConfigFree, freeConfig_keeps, Keeps.same]

theorem keepCycles_keeps (h : Keeps q s) : Keeps q (keepCycles s) := by
  grind [keepCycles, closeShadow_keeps, commitEdge_keeps, freeConfig_keeps, Keeps.same]

theorem tick_keeps (h : Keeps q s) : Keeps q (tick s) := by
  grind [tick, clockTick_keeps, keepCycles_keeps, Keeps.same]

end Sys2Proof.Machine
end

