-- ==== Sys2Proof/Laws/KeepsPackets.lean ====
section
/-! SUPPORT. Machine/Packets.lean keeps memory canonical and the waiting commands. -/

namespace Sys2Proof.Machine

set_option Elab.async false

variable {q : List Instr} {s : State}

/-- What a handler does keeps what `Keeps` says. -/
def HandlerKeeps (q : List Instr) (x : Handler) : Prop := ∀ t s, Keeps q s → ∀ s', x.act t s = some s' → Keeps q s'

theorem atOnce_keeps (op : OpInfo) {act : Ticket → State → State} (ha : ∀ t s, Keeps q s → Keeps q (act t s)) :
    HandlerKeeps q (atOnce op act) := fun t s h s' e => by cases e; exact ha t s h

theorem afterHeads_keeps (op : OpInfo) (heads : Ticket → State → List (Nat × Nat)) {act : Ticket → State → State}
    (ha : ∀ t s, Keeps q s → Keeps q (act t s)) : HandlerKeeps q (afterHeads op heads act) :=
  fun t s h s' e => by cases e; exact ha t s h

theorem configures_keeps (op : OpInfo) (r : ConfigRule) : HandlerKeeps q (configures op r) :=
  atOnce_keeps op fun _ _ h => acceptConfig_keeps _ _ h

theorem returns_keeps (op : OpInfo) (r : Ticket → State → Result) : HandlerKeeps q (returns op r) :=
  atOnce_keeps op fun _ _ h => answer_keeps _ _ _ h

theorem maintained_keeps (op : OpInfo) {act : Ticket → State → State} (ha : ∀ t s, Keeps q s → Keeps q (act t s)) :
    HandlerKeeps q (atOnce op (maintenance act)) := atOnce_keeps op fun t _ h => maintenance_keeps ha t h

theorem handlers0_keeps : ∀ x ∈ handlers0, HandlerKeeps q x := by
  simp only [handlers0, List.forall_mem_cons]
  refine ⟨returns_keeps _ _, atOnce_keeps _ fun _ _ h => actNegotiate_keeps _ h, returns_keeps _ _,
    atOnce_keeps _ fun _ _ h => actLockCommit_keeps _ h, atOnce_keeps _ fun _ _ h => actGetWeather_keeps _ h,
    configures_keeps _ _, atOnce_keeps _ fun _ _ h => actModelRegister_keeps _ h, configures_keeps _ _,
    afterHeads_keeps _ _ fun _ _ h => actModelInvoke_keeps _ h, atOnce_keeps _ fun _ _ h => actGetModel_keeps _ h,
    configures_keeps _ _, atOnce_keeps _ fun _ _ h => actModelPreload_keeps _ h,
    atOnce_keeps _ fun _ _ h => actProgramLoad_keeps _ h, configures_keeps _ _,
    atOnce_keeps _ fun _ _ h => actLaneDispatch_keeps _ h, afterHeads_keeps _ _ fun _ _ h => actMatmul_keeps _ h,
    afterHeads_keeps _ _ fun _ _ h => actConvert_keeps _ h, ?_, fun _ h => nomatch h⟩
  intro t s h s' e
  dsimp only at e
  split at e
  · split at e <;> cases e
    exact actSeed_keeps _ h
  · cases e; exact actSeed_keeps _ h

theorem handlers3_keeps : ∀ x ∈ handlers3, HandlerKeeps q x := by
  simp only [handlers3, List.forall_mem_cons]
  exact ⟨configures_keeps _ _, configures_keeps _ _, atOnce_keeps _ fun _ _ h => actGetCtx_keeps _ h,
    atOnce_keeps _ fun _ _ h => actStateLoad_keeps _ h, configures_keeps _ _, fun _ _ h => actPass_keeps _ h,
    configures_keeps _ _, atOnce_keeps _ fun _ _ h => actAbandon_keeps _ h, fun _ _ h => actImage_keeps _ _ h,
    fun _ _ h => actImage_keeps _ _ h, configures_keeps _ _, fun _ _ h => actPresent_keeps _ h,
    atOnce_keeps _ fun _ _ h => actGetDisplay_keeps _ h, configures_keeps _ _, configures_keeps _ _, configures_keeps _ _,
    configures_keeps _ _, configures_keeps _ _, configures_keeps _ _, fun _ _ h => actSend_keeps _ h,
    configures_keeps _ _, fun _ _ h => actXfer_keeps _ h, atOnce_keeps _ fun _ _ h => actGetStream_keeps _ h,
    fun _ h => nomatch h⟩

theorem handlers5_keeps : ∀ x ∈ handlers5, HandlerKeeps q x := by
  simp only [handlers5, List.forall_mem_cons]
  exact ⟨configures_keeps _ _, configures_keeps _ _, atOnce_keeps _ fun _ _ h => actPair_keeps _ h,
    fun _ _ h => actPublish_keeps _ h, atOnce_keeps _ fun _ _ h => actAssoc_keeps _ h,
    atOnce_keeps _ fun _ _ h => actGetFusion_keeps _ h, configures_keeps _ _, configures_keeps _ _, configures_keeps _ _,
    atOnce_keeps _ fun _ _ h => actTimeMeasure_keeps _ h, returns_keeps _ _, configures_keeps _ _, configures_keeps _ _,
    returns_keeps _ _, configures_keeps _ _, atOnce_keeps _ fun _ _ h => actMooringStore_keeps _ h,
    atOnce_keeps _ fun _ _ h => actSelfTest_keeps _ h, atOnce_keeps _ fun _ _ h => actHeartbeat_keeps _ h,
    atOnce_keeps _ fun _ _ h => actDoubtRelease_keeps _ h, returns_keeps _ _, fun _ h => nomatch h⟩

theorem handlers8_keeps (s0 : State) : ∀ x ∈ handlers8 s0, HandlerKeeps q x := by
  simp only [handlers8, List.forall_mem_cons]
  refine ⟨configures_keeps _ _, configures_keeps _ _, maintained_keeps _ fun _ _ h => answer_keeps _ _ _ h,
    maintained_keeps _ fun _ _ h => actTileTest_keeps _ h, configures_keeps _ _,
    maintained_keeps _ fun _ _ h => answer_keeps _ _ _ h, maintained_keeps _ fun _ _ h => actGetErrorLog_keeps _ h,
    maintained_keeps _ fun _ _ h => actGetDefectLog_keeps _ h, maintained_keeps _ fun _ _ h => actGetLink_keeps _ h,
    configures_keeps _ _, configures_keeps _ _, configures_keeps _ _, configures_keeps _ _,
    atOnce_keeps _ fun _ _ h => actGetBerth_keeps _ h, configures_keeps _ _, configures_keeps _ _, configures_keeps _ _,
    configures_keeps _ _, atOnce_keeps _ fun _ _ h => actGetBasin_keeps _ h, configures_keeps _ _, configures_keeps _ _,
    configures_keeps _ _, atOnce_keeps _ fun _ _ h => actGetQueue_keeps _ h, configures_keeps _ _, configures_keeps _ _,
    configures_keeps _ _, configures_keeps _ _, configures_keeps _ _, atOnce_keeps _ fun _ _ h => actGetMapping_keeps _ h,
    returns_keeps _ _, returns_keeps _ _, atOnce_keeps _ fun _ _ h => actLicenceInstall_keeps _ h, returns_keeps _ _,
    atOnce_keeps _ fun _ _ h => ?_, fun _ h => nomatch h⟩
  split
  · exact actRecovery_keeps _ h
  · exact actUpdate_keeps _ h

theorem handlerOf_keeps (o : BitVec 16) (s0 : State) : ∀ x, handlerOf o s0 = some x → HandlerKeeps q x := by
  intro x e
  have h := List.mem_of_find?_eq_some e
  simp only [handlers, List.mem_append] at h
  rcases h with ((h | h) | h) | h
  · exact handlers0_keeps _ h
  · exact handlers3_keeps _ h
  · exact handlers5_keeps _ h
  · exact handlers8_keeps _ _ h

theorem takePacket_keeps (x0 x1) (h : Keeps q s) : ∀ t, takePacket x0 x1 s = some t → Keeps q t := by
  intro t ht
  unfold takePacket at ht
  extract_lets c o tk at ht
  split at ht
  · cases ht; exact writeRecord_keeps _ _ _ h
  · split at ht
    · cases ht; exact passChecks5_keeps _ _ h
    · next x e =>
      split at ht
      · cases ht
      · have h1 := passChecks5_keeps tk (firstFailure x.op c s) h
        split at ht <;> rename_i e2 <;> rw [e2] at h1
        · exact handlerOf_keeps _ _ _ e _ _ h1 _ ht
        · cases ht; exact h1

theorem execMailboxTake_keeps (x0) (h : Keeps q s) : ∀ t, execMailboxTake x0 s = .next t → Keeps q t := by
  intro t ht
  unfold execMailboxTake at ht
  extract_lets x packet p at ht
  split at ht
  · cases ht; exact h
  · split at ht
    · cases ht; exact refuseMessage_keeps _ _ _ h
    · cases ht
      have h1 := State.modMailbox_keeps x0.val (fun x => { x with state := .taken }) h
      cases e : takePacket (mailboxPath x0) p (s.modMailbox x0.val fun x => { x with state := .taken }) with
      | none => exact h
      | some t => exact takePacket_keeps _ _ h1 _ e

theorem readHead_keeps (x0) (h : Keeps q s) : Keeps q (readHead x0 s).1 := by
  grind [readHead, readVirt_keeps, Keeps.same]

theorem passHead_keeps (x0) (h : Keeps q s) : Keeps q (passHead x0 s) := by
  unfold passHead
  extract_lets s1 s2 s3
  have h3 : Keeps q s3 := writeIndex_keeps _ _ (State.modQueue_keeps _ _ (reserveSlot_keeps _ h))
  split
  · exact h3
  · refine foldl_k (fun s l h => ?_) _ h3
    split
    · exact touchTile_keeps _ h
    · exact h

theorem ringFault_keeps (x0 x1) (h : Keeps q s) : Keeps q (ringFault x0 x1 s) := by
  grind [ringFault, State.bump_keeps, writeRecord_keeps, Keeps.same]

theorem tryHead_keeps (x0) (h : Keeps q s) : ∀ t, tryHead x0 s = some t → Keeps q t := by
  intro t ht
  unfold tryHead at ht
  have h1 := readHead_keeps x0.toNat h
  split at ht
  · cases ht
  · split at ht <;> rename_i e <;> rw [e] at h1
    · cases ht; exact ringFault_keeps _ _ (passHead_keeps _ h1)
    · cases ht; exact ringFault_keeps _ _ (passHead_keeps _ h1)
    · exact takePacket_keeps _ _ (passHead_keeps _ h1) _ ht

theorem takeEntry_keeps (x0) (h : Keeps q s) : ∀ t, takeEntry x0 s = some t → Keeps q t := by
  intro t ht
  obtain ⟨u, hu, e⟩ := Option.bind_eq_some_iff.mp ht
  split at e <;> cases e
  exact tryHead_keeps _ h _ hu

theorem resolveHead_keeps (x0) (h : Keeps q s) : Keeps q (resolveHead x0 s) := by
  unfold resolveHead
  split
  · exact keepLeaf_keeps _ _ _ h
  · exact h

theorem placeWaiting_keeps (x0 x1 x2) (h : Keeps q s) : ∀ t, placeWaiting x0 x1 x2 s = some t → Keeps q t := by
  intro t ht
  unfold placeWaiting at ht
  split at ht
  · cases ht
  · extract_lets model at ht
    have h1 := leafFor_keeps x2.ticket model x2.basin.toNat h
    generalize leafFor x2.ticket model x2.basin.toNat s = x at ht h1
    obtain ⟨s1, leaf⟩ := x
    dsimp only at ht
    split at ht
    · cases ht
    · split at ht
      · next r _ =>
        have h2 := dealRun_keeps x2.berth x0 r h1
        generalize dealRun x2.berth x0 r s1 = y at ht h2
        obtain ⟨s2, r2⟩ := y
        dsimp only at ht
        split at ht
        · cases ht
        · cases ht; exact setPlaced_keeps _ _ h2
      split at ht
      · split at ht <;> cases ht
        exact setPlaced_keeps _ _ h1
      · split at ht <;> cases ht
        exact setPlaced_keeps _ _ (placeModel_keeps _ _ h1)

theorem waitingJobs_keeps (n : Nat) (h : Keeps q s) : ∀ c ∈ waitingJobs n s, Keeps q c.2.2 := by
  intro c hc
  obtain ⟨kv, _, e⟩ := List.mem_filterMap.mp hc
  obtain ⟨b, _, e⟩ := Option.bind_eq_some_iff.mp e
  obtain ⟨u, hu, rfl⟩ := Option.map_eq_some_iff.mp e
  exact placeWaiting_keeps _ _ _ h _ hu

theorem candidates_keeps (n : Nat) (h : Keeps q s) : ∀ c ∈ candidates n s, Keeps q c.2.2 := by
  intro c hc
  obtain ⟨k, _, e⟩ := List.mem_filterMap.mp hc
  split at e
  · cases e
  · next e2 =>
    have := takeEntry_keeps _ h _ e2
    split at e <;> cases e
    exact this

theorem nextJobOf_keeps (n : Nat) (h : Keeps q s) : ∀ r, nextJobOf n s = some r → Keeps q r.2 := by
  intro r hr
  unfold nextJobOf at hr
  split at hr
  · cases hr
  extract_lets cs level top at hr
  split at hr
  · cases hr
  · obtain ⟨c, hc, rfl⟩ := Option.map_eq_some_iff.mp hr
    have hm := List.mem_append.mp (List.mem_of_mem_filter (List.mem_of_find?_eq_some hc))
    exact State.modWork_keeps _ (hm.elim (waitingJobs_keeps n h c) (candidates_keeps n h c))

theorem execJobChoose_keeps (x0) (h : Keeps q s) : ∀ t, execJobChoose x0 s = .next t → Keeps q t := by
  intro t ht
  unfold execJobChoose at ht
  extract_lets n u at ht
  have hu : Keeps q u := foldl_k (fun _ _ h => resolveHead_keeps _ h) _ h
  clear_value u
  split at ht
  · cases ht; exact h
  · split at ht
    · next e => cases ht; exact nextJobOf_keeps _ hu _ e
    · cases ht; exact hu

theorem execJobBorrow_keeps (x0 x1) (h : Keeps q s) : ∀ t, execJobBorrow x0 x1 s = .next t → Keeps q t := by
  intro t ht
  unfold execJobBorrow at ht
  extract_lets place at ht
  have hp : ∀ j n l b u, Keeps q u → Keeps q (place j n l b u) := by
    intro j n l b u hu
    dsimp only [place]
    split
    · exact h
    · split
      · next e => exact setPlaced_keeps _ _ (borrowPlace_keeps _ _ hu _ e)
      · exact h
  split at ht
  · cases ht; exact h
  · split at ht
    · split at ht
      · cases ht; exact hp _ _ _ _ _ h
      · cases ht; exact h
    · split at ht
      · next e =>
        obtain ⟨u, hu, e⟩ := Option.bind_eq_some_iff.mp e
        obtain ⟨b, _, e⟩ := Option.map_eq_some_iff.mp e
        cases e
        cases ht
        split
        · exact h
        · exact hp _ _ _ _ _ (tryHead_keeps _ h _ hu)
      · cases ht; exact h

theorem execQueueEntryTake_keeps (x0) (h : Keeps q s) : ∀ t, execQueueEntryTake x0 s = .next t → Keeps q t := by
  intro t ht
  unfold execQueueEntryTake at ht
  extract_lets u at ht
  have hu : Keeps q u := resolveHead_keeps _ h
  clear_value u
  split at ht
  · cases ht; exact hu
  · next e =>
    split at ht
    · cases ht; exact takeEntry_keeps _ hu _ e
    · split at ht
      · next e2 =>
        split at ht <;> cases ht
        · exact nextJobOf_keeps _ hu _ e2
        · exact hu
      · cases ht; exact hu

theorem execCommandCancel_keeps (x0) (h : Keeps q s) : ∀ t, execCommandCancel x0 s = .next t → Keeps q t := by
  intro t ht
  unfold execCommandCancel at ht
  extract_lets n y less at ht
  have hl : ∀ s, Keeps q s → Keeps q (less s) := fun s h => State.modQueue_keeps _ _ (passHead_keeps _ h)
  have h1 := readHead_keeps n h
  split at ht
  · cases ht; exact h
  · split at ht <;> rename_i e <;> rw [e] at h1
    · cases ht; exact ringFault_keeps _ _ (hl _ h1)
    · cases ht; exact ringFault_keeps _ _ (hl _ h1)
    · cases ht; exact writeRecord_keeps _ _ _ (setExpected_keeps _ _ (hl _ h1))

end Sys2Proof.Machine
end

