-- ==== Sys2Proof/Laws/KeepsShading.lean ====
section
/-! SUPPORT. Machine/Shading.lean keeps memory canonical and the waiting commands. -/

namespace Sys2Proof.Machine

set_option Elab.async false

variable {q : List Instr} {s : State}

theorem execWorkgroupPlace_keeps (x0) (h : Keeps q s) : ∀ t, execWorkgroupPlace x0 s = .next t → Keeps q t := by
  grind [execWorkgroupPlace, placeGrid_keeps, placeVertices_keeps, Keeps.same]

theorem endGroup_keeps (x0) (h : Keeps q s) : Keeps q (endGroup x0 s) := by
  grind [endGroup, countEnd_keeps, endLanes_keeps, endQuads_keeps, endVertices_keeps, Keeps.same]

theorem execWorkgroupEnd_keeps (x0 x1 x2) (h : Keeps q s) : ∀ t, execWorkgroupEnd x0 x1 x2 s = .next t → Keeps q t := by
  unfold execWorkgroupEnd
  intro t ht
  repeat' (first | with_reducible assumption | split at ht | cases ht | apply unlessHeld_keeps | intro _ _ _ | split | grind [State.modTileWork_keeps, endGroup_keeps, touchTile_keeps, Keeps.same])

end Sys2Proof.Machine
end

