-- ==== Sys2Proof/Laws/KeepsStep.lean ====
section
/-! SUPPORT. Idling keeps memory canonical and the waiting commands. -/

namespace Sys2Proof.Machine

set_option Elab.async false

variable {q : List Instr} {s : State}

theorem idle_keeps (h : Keeps q s) : Keeps q (idle s) := drainPorts_keeps (tick_keeps h)

end Sys2Proof.Machine
end

