-- ==== Sys2Proof/Laws/State.lean ====
section
/-! SUPPORT. Reading a part of the state after an update of another part, and after a packet was admitted. -/

namespace Sys2Proof.Machine

set_option Elab.async false

variable (s : State)

/-! `modCfg` -/

@[simp] theorem modCfg_cfg (g : Shadow → Shadow) : (s.modCfg g).dyn.cfg = g s.dyn.cfg := rfl
@[simp] theorem modCfg_time (g : Shadow → Shadow) : (s.modCfg g).dyn.time = s.dyn.time := rfl
@[simp] theorem modCfg_power (g : Shadow → Shadow) : (s.modCfg g).dyn.power = s.dyn.power := rfl
@[simp] theorem modCfg_tiles (g : Shadow → Shadow) : (s.modCfg g).dyn.tiles = s.dyn.tiles := rfl
@[simp] theorem modCfg_queues (g : Shadow → Shadow) : (s.modCfg g).dyn.queues = s.dyn.queues := rfl
@[simp] theorem modCfg_work (g : Shadow → Shadow) : (s.modCfg g).dyn.work = s.dyn.work := rfl
@[simp] theorem modCfg_raster (g : Shadow → Shadow) : (s.modCfg g).dyn.raster = s.dyn.raster := rfl
@[simp] theorem modCfg_displays (g : Shadow → Shadow) : (s.modCfg g).dyn.displays = s.dyn.displays := rfl
@[simp] theorem modCfg_ingest (g : Shadow → Shadow) : (s.modCfg g).dyn.ingest = s.dyn.ingest := rfl
@[simp] theorem modCfg_fusion (g : Shadow → Shadow) : (s.modCfg g).dyn.fusion = s.dyn.fusion := rfl
@[simp] theorem modCfg_island (g : Shadow → Shadow) : (s.modCfg g).dyn.island = s.dyn.island := rfl
@[simp] theorem modCfg_safety (g : Shadow → Shadow) : (s.modCfg g).dyn.safety = s.dyn.safety := rfl
@[simp] theorem modCfg_bring (g : Shadow → Shadow) : (s.modCfg g).dyn.bring = s.dyn.bring := rfl
@[simp] theorem modCfg_errors (g : Shadow → Shadow) : (s.modCfg g).dyn.errors = s.dyn.errors := rfl
@[simp] theorem modCfg_isgal (g : Shadow → Shadow) : (s.modCfg g).dyn.isgal = s.dyn.isgal := rfl
@[simp] theorem modCfg_gateway (g : Shadow → Shadow) : (s.modCfg g).dyn.gateway = s.dyn.gateway := rfl
@[simp] theorem modCfg_cores (g : Shadow → Shadow) : (s.modCfg g).dyn.cores = s.dyn.cores := rfl
@[simp] theorem modCfg_snap (g : Shadow → Shadow) : (s.modCfg g).snap = s.snap := rfl
@[simp] theorem modCfg_lock (g : Shadow → Shadow) : (s.modCfg g).lock = s.lock := rfl
@[simp] theorem modCfg_mailboxes (g : Shadow → Shadow) : (s.modCfg g).mailboxes = s.mailboxes := rfl
@[simp] theorem modCfg_i3c (g : Shadow → Shadow) : (s.modCfg g).i3c = s.i3c := rfl
@[simp] theorem modCfg_mem (g : Shadow → Shadow) : (s.modCfg g).mem = s.mem := rfl
@[simp] theorem modCfg_answers (g : Shadow → Shadow) : (s.modCfg g).answers = s.answers := rfl
@[simp] theorem modCfg_free (g : Shadow → Shadow) : (s.modCfg g).free = s.free := rfl
@[simp] theorem modCfg_blocked (g : Shadow → Shadow) : (s.modCfg g).blocked = s.blocked := rfl
@[simp] theorem modCfg_pending (g : Shadow → Shadow) : (s.modCfg g).pending = s.pending := rfl

/-! `modTime` -/

@[simp] theorem modTime_cfg (g : TimeState → TimeState) : (s.modTime g).dyn.cfg = s.dyn.cfg := rfl
@[simp] theorem modTime_time (g : TimeState → TimeState) : (s.modTime g).dyn.time = g s.dyn.time := rfl
@[simp] theorem modTime_power (g : TimeState → TimeState) : (s.modTime g).dyn.power = s.dyn.power := rfl
@[simp] theorem modTime_tiles (g : TimeState → TimeState) : (s.modTime g).dyn.tiles = s.dyn.tiles := rfl
@[simp] theorem modTime_queues (g : TimeState → TimeState) : (s.modTime g).dyn.queues = s.dyn.queues := rfl
@[simp] theorem modTime_work (g : TimeState → TimeState) : (s.modTime g).dyn.work = s.dyn.work := rfl
@[simp] theorem modTime_raster (g : TimeState → TimeState) : (s.modTime g).dyn.raster = s.dyn.raster := rfl
@[simp] theorem modTime_displays (g : TimeState → TimeState) : (s.modTime g).dyn.displays = s.dyn.displays := rfl
@[simp] theorem modTime_ingest (g : TimeState → TimeState) : (s.modTime g).dyn.ingest = s.dyn.ingest := rfl
@[simp] theorem modTime_fusion (g : TimeState → TimeState) : (s.modTime g).dyn.fusion = s.dyn.fusion := rfl
@[simp] theorem modTime_island (g : TimeState → TimeState) : (s.modTime g).dyn.island = s.dyn.island := rfl
@[simp] theorem modTime_safety (g : TimeState → TimeState) : (s.modTime g).dyn.safety = s.dyn.safety := rfl
@[simp] theorem modTime_bring (g : TimeState → TimeState) : (s.modTime g).dyn.bring = s.dyn.bring := rfl
@[simp] theorem modTime_errors (g : TimeState → TimeState) : (s.modTime g).dyn.errors = s.dyn.errors := rfl
@[simp] theorem modTime_isgal (g : TimeState → TimeState) : (s.modTime g).dyn.isgal = s.dyn.isgal := rfl
@[simp] theorem modTime_gateway (g : TimeState → TimeState) : (s.modTime g).dyn.gateway = s.dyn.gateway := rfl
@[simp] theorem modTime_cores (g : TimeState → TimeState) : (s.modTime g).dyn.cores = s.dyn.cores := rfl
@[simp] theorem modTime_snap (g : TimeState → TimeState) : (s.modTime g).snap = s.snap := rfl
@[simp] theorem modTime_lock (g : TimeState → TimeState) : (s.modTime g).lock = s.lock := rfl
@[simp] theorem modTime_mailboxes (g : TimeState → TimeState) : (s.modTime g).mailboxes = s.mailboxes := rfl
@[simp] theorem modTime_i3c (g : TimeState → TimeState) : (s.modTime g).i3c = s.i3c := rfl
@[simp] theorem modTime_mem (g : TimeState → TimeState) : (s.modTime g).mem = s.mem := rfl
@[simp] theorem modTime_answers (g : TimeState → TimeState) : (s.modTime g).answers = s.answers := rfl
@[simp] theorem modTime_free (g : TimeState → TimeState) : (s.modTime g).free = s.free := rfl
@[simp] theorem modTime_blocked (g : TimeState → TimeState) : (s.modTime g).blocked = s.blocked := rfl
@[simp] theorem modTime_pending (g : TimeState → TimeState) : (s.modTime g).pending = s.pending := rfl

/-! `modPower` -/

@[simp] theorem modPower_cfg (g : Power → Power) : (s.modPower g).dyn.cfg = s.dyn.cfg := rfl
@[simp] theorem modPower_time (g : Power → Power) : (s.modPower g).dyn.time = s.dyn.time := rfl
@[simp] theorem modPower_power (g : Power → Power) : (s.modPower g).dyn.power = g s.dyn.power := rfl
@[simp] theorem modPower_tiles (g : Power → Power) : (s.modPower g).dyn.tiles = s.dyn.tiles := rfl
@[simp] theorem modPower_queues (g : Power → Power) : (s.modPower g).dyn.queues = s.dyn.queues := rfl
@[simp] theorem modPower_work (g : Power → Power) : (s.modPower g).dyn.work = s.dyn.work := rfl
@[simp] theorem modPower_raster (g : Power → Power) : (s.modPower g).dyn.raster = s.dyn.raster := rfl
@[simp] theorem modPower_displays (g : Power → Power) : (s.modPower g).dyn.displays = s.dyn.displays := rfl
@[simp] theorem modPower_ingest (g : Power → Power) : (s.modPower g).dyn.ingest = s.dyn.ingest := rfl
@[simp] theorem modPower_fusion (g : Power → Power) : (s.modPower g).dyn.fusion = s.dyn.fusion := rfl
@[simp] theorem modPower_island (g : Power → Power) : (s.modPower g).dyn.island = s.dyn.island := rfl
@[simp] theorem modPower_safety (g : Power → Power) : (s.modPower g).dyn.safety = s.dyn.safety := rfl
@[simp] theorem modPower_bring (g : Power → Power) : (s.modPower g).dyn.bring = s.dyn.bring := rfl
@[simp] theorem modPower_errors (g : Power → Power) : (s.modPower g).dyn.errors = s.dyn.errors := rfl
@[simp] theorem modPower_isgal (g : Power → Power) : (s.modPower g).dyn.isgal = s.dyn.isgal := rfl
@[simp] theorem modPower_gateway (g : Power → Power) : (s.modPower g).dyn.gateway = s.dyn.gateway := rfl
@[simp] theorem modPower_cores (g : Power → Power) : (s.modPower g).dyn.cores = s.dyn.cores := rfl
@[simp] theorem modPower_snap (g : Power → Power) : (s.modPower g).snap = s.snap := rfl
@[simp] theorem modPower_lock (g : Power → Power) : (s.modPower g).lock = s.lock := rfl
@[simp] theorem modPower_mailboxes (g : Power → Power) : (s.modPower g).mailboxes = s.mailboxes := rfl
@[simp] theorem modPower_i3c (g : Power → Power) : (s.modPower g).i3c = s.i3c := rfl
@[simp] theorem modPower_mem (g : Power → Power) : (s.modPower g).mem = s.mem := rfl
@[simp] theorem modPower_answers (g : Power → Power) : (s.modPower g).answers = s.answers := rfl
@[simp] theorem modPower_free (g : Power → Power) : (s.modPower g).free = s.free := rfl
@[simp] theorem modPower_blocked (g : Power → Power) : (s.modPower g).blocked = s.blocked := rfl
@[simp] theorem modPower_pending (g : Power → Power) : (s.modPower g).pending = s.pending := rfl

/-! `modTiles` -/

@[simp] theorem modTiles_cfg (g : Tab TileDyn → Tab TileDyn) : (s.modTiles g).dyn.cfg = s.dyn.cfg := rfl
@[simp] theorem modTiles_time (g : Tab TileDyn → Tab TileDyn) : (s.modTiles g).dyn.time = s.dyn.time := rfl
@[simp] theorem modTiles_power (g : Tab TileDyn → Tab TileDyn) : (s.modTiles g).dyn.power = s.dyn.power := rfl
@[simp] theorem modTiles_tiles (g : Tab TileDyn → Tab TileDyn) : (s.modTiles g).dyn.tiles = g s.dyn.tiles := rfl
@[simp] theorem modTiles_queues (g : Tab TileDyn → Tab TileDyn) : (s.modTiles g).dyn.queues = s.dyn.queues := rfl
@[simp] theorem modTiles_work (g : Tab TileDyn → Tab TileDyn) : (s.modTiles g).dyn.work = s.dyn.work := rfl
@[simp] theorem modTiles_raster (g : Tab TileDyn → Tab TileDyn) : (s.modTiles g).dyn.raster = s.dyn.raster := rfl
@[simp] theorem modTiles_displays (g : Tab TileDyn → Tab TileDyn) : (s.modTiles g).dyn.displays = s.dyn.displays := rfl
@[simp] theorem modTiles_ingest (g : Tab TileDyn → Tab TileDyn) : (s.modTiles g).dyn.ingest = s.dyn.ingest := rfl
@[simp] theorem modTiles_fusion (g : Tab TileDyn → Tab TileDyn) : (s.modTiles g).dyn.fusion = s.dyn.fusion := rfl
@[simp] theorem modTiles_island (g : Tab TileDyn → Tab TileDyn) : (s.modTiles g).dyn.island = s.dyn.island := rfl
@[simp] theorem modTiles_safety (g : Tab TileDyn → Tab TileDyn) : (s.modTiles g).dyn.safety = s.dyn.safety := rfl
@[simp] theorem modTiles_bring (g : Tab TileDyn → Tab TileDyn) : (s.modTiles g).dyn.bring = s.dyn.bring := rfl
@[simp] theorem modTiles_errors (g : Tab TileDyn → Tab TileDyn) : (s.modTiles g).dyn.errors = s.dyn.errors := rfl
@[simp] theorem modTiles_isgal (g : Tab TileDyn → Tab TileDyn) : (s.modTiles g).dyn.isgal = s.dyn.isgal := rfl
@[simp] theorem modTiles_gateway (g : Tab TileDyn → Tab TileDyn) : (s.modTiles g).dyn.gateway = s.dyn.gateway := rfl
@[simp] theorem modTiles_cores (g : Tab TileDyn → Tab TileDyn) : (s.modTiles g).dyn.cores = s.dyn.cores := rfl
@[simp] theorem modTiles_snap (g : Tab TileDyn → Tab TileDyn) : (s.modTiles g).snap = s.snap := rfl
@[simp] theorem modTiles_lock (g : Tab TileDyn → Tab TileDyn) : (s.modTiles g).lock = s.lock := rfl
@[simp] theorem modTiles_mailboxes (g : Tab TileDyn → Tab TileDyn) : (s.modTiles g).mailboxes = s.mailboxes := rfl
@[simp] theorem modTiles_i3c (g : Tab TileDyn → Tab TileDyn) : (s.modTiles g).i3c = s.i3c := rfl
@[simp] theorem modTiles_mem (g : Tab TileDyn → Tab TileDyn) : (s.modTiles g).mem = s.mem := rfl
@[simp] theorem modTiles_answers (g : Tab TileDyn → Tab TileDyn) : (s.modTiles g).answers = s.answers := rfl
@[simp] theorem modTiles_free (g : Tab TileDyn → Tab TileDyn) : (s.modTiles g).free = s.free := rfl
@[simp] theorem modTiles_blocked (g : Tab TileDyn → Tab TileDyn) : (s.modTiles g).blocked = s.blocked := rfl
@[simp] theorem modTiles_pending (g : Tab TileDyn → Tab TileDyn) : (s.modTiles g).pending = s.pending := rfl

/-! `modQueues` -/

@[simp] theorem modQueues_cfg (g : Tab QueueDyn → Tab QueueDyn) : (s.modQueues g).dyn.cfg = s.dyn.cfg := rfl
@[simp] theorem modQueues_time (g : Tab QueueDyn → Tab QueueDyn) : (s.modQueues g).dyn.time = s.dyn.time := rfl
@[simp] theorem modQueues_power (g : Tab QueueDyn → Tab QueueDyn) : (s.modQueues g).dyn.power = s.dyn.power := rfl
@[simp] theorem modQueues_tiles (g : Tab QueueDyn → Tab QueueDyn) : (s.modQueues g).dyn.tiles = s.dyn.tiles := rfl
@[simp] theorem modQueues_queues (g : Tab QueueDyn → Tab QueueDyn) : (s.modQueues g).dyn.queues = g s.dyn.queues := rfl
@[simp] theorem modQueues_work (g : Tab QueueDyn → Tab QueueDyn) : (s.modQueues g).dyn.work = s.dyn.work := rfl
@[simp] theorem modQueues_raster (g : Tab QueueDyn → Tab QueueDyn) : (s.modQueues g).dyn.raster = s.dyn.raster := rfl
@[simp] theorem modQueues_displays (g : Tab QueueDyn → Tab QueueDyn) : (s.modQueues g).dyn.displays = s.dyn.displays := rfl
@[simp] theorem modQueues_ingest (g : Tab QueueDyn → Tab QueueDyn) : (s.modQueues g).dyn.ingest = s.dyn.ingest := rfl
@[simp] theorem modQueues_fusion (g : Tab QueueDyn → Tab QueueDyn) : (s.modQueues g).dyn.fusion = s.dyn.fusion := rfl
@[simp] theorem modQueues_island (g : Tab QueueDyn → Tab QueueDyn) : (s.modQueues g).dyn.island = s.dyn.island := rfl
@[simp] theorem modQueues_safety (g : Tab QueueDyn → Tab QueueDyn) : (s.modQueues g).dyn.safety = s.dyn.safety := rfl
@[simp] theorem modQueues_bring (g : Tab QueueDyn → Tab QueueDyn) : (s.modQueues g).dyn.bring = s.dyn.bring := rfl
@[simp] theorem modQueues_errors (g : Tab QueueDyn → Tab QueueDyn) : (s.modQueues g).dyn.errors = s.dyn.errors := rfl
@[simp] theorem modQueues_isgal (g : Tab QueueDyn → Tab QueueDyn) : (s.modQueues g).dyn.isgal = s.dyn.isgal := rfl
@[simp] theorem modQueues_gateway (g : Tab QueueDyn → Tab QueueDyn) : (s.modQueues g).dyn.gateway = s.dyn.gateway := rfl
@[simp] theorem modQueues_cores (g : Tab QueueDyn → Tab QueueDyn) : (s.modQueues g).dyn.cores = s.dyn.cores := rfl
@[simp] theorem modQueues_snap (g : Tab QueueDyn → Tab QueueDyn) : (s.modQueues g).snap = s.snap := rfl
@[simp] theorem modQueues_lock (g : Tab QueueDyn → Tab QueueDyn) : (s.modQueues g).lock = s.lock := rfl
@[simp] theorem modQueues_mailboxes (g : Tab QueueDyn → Tab QueueDyn) : (s.modQueues g).mailboxes = s.mailboxes := rfl
@[simp] theorem modQueues_i3c (g : Tab QueueDyn → Tab QueueDyn) : (s.modQueues g).i3c = s.i3c := rfl
@[simp] theorem modQueues_mem (g : Tab QueueDyn → Tab QueueDyn) : (s.modQueues g).mem = s.mem := rfl
@[simp] theorem modQueues_answers (g : Tab QueueDyn → Tab QueueDyn) : (s.modQueues g).answers = s.answers := rfl
@[simp] theorem modQueues_free (g : Tab QueueDyn → Tab QueueDyn) : (s.modQueues g).free = s.free := rfl
@[simp] theorem modQueues_blocked (g : Tab QueueDyn → Tab QueueDyn) : (s.modQueues g).blocked = s.blocked := rfl
@[simp] theorem modQueues_pending (g : Tab QueueDyn → Tab QueueDyn) : (s.modQueues g).pending = s.pending := rfl

/-! `modWork` -/

@[simp] theorem modWork_cfg (g : Work → Work) : (s.modWork g).dyn.cfg = s.dyn.cfg := rfl
@[simp] theorem modWork_time (g : Work → Work) : (s.modWork g).dyn.time = s.dyn.time := rfl
@[simp] theorem modWork_power (g : Work → Work) : (s.modWork g).dyn.power = s.dyn.power := rfl
@[simp] theorem modWork_tiles (g : Work → Work) : (s.modWork g).dyn.tiles = s.dyn.tiles := rfl
@[simp] theorem modWork_queues (g : Work → Work) : (s.modWork g).dyn.queues = s.dyn.queues := rfl
@[simp] theorem modWork_work (g : Work → Work) : (s.modWork g).dyn.work = g s.dyn.work := rfl
@[simp] theorem modWork_raster (g : Work → Work) : (s.modWork g).dyn.raster = s.dyn.raster := rfl
@[simp] theorem modWork_displays (g : Work → Work) : (s.modWork g).dyn.displays = s.dyn.displays := rfl
@[simp] theorem modWork_ingest (g : Work → Work) : (s.modWork g).dyn.ingest = s.dyn.ingest := rfl
@[simp] theorem modWork_fusion (g : Work → Work) : (s.modWork g).dyn.fusion = s.dyn.fusion := rfl
@[simp] theorem modWork_island (g : Work → Work) : (s.modWork g).dyn.island = s.dyn.island := rfl
@[simp] theorem modWork_safety (g : Work → Work) : (s.modWork g).dyn.safety = s.dyn.safety := rfl
@[simp] theorem modWork_bring (g : Work → Work) : (s.modWork g).dyn.bring = s.dyn.bring := rfl
@[simp] theorem modWork_errors (g : Work → Work) : (s.modWork g).dyn.errors = s.dyn.errors := rfl
@[simp] theorem modWork_isgal (g : Work → Work) : (s.modWork g).dyn.isgal = s.dyn.isgal := rfl
@[simp] theorem modWork_gateway (g : Work → Work) : (s.modWork g).dyn.gateway = s.dyn.gateway := rfl
@[simp] theorem modWork_cores (g : Work → Work) : (s.modWork g).dyn.cores = s.dyn.cores := rfl
@[simp] theorem modWork_snap (g : Work → Work) : (s.modWork g).snap = s.snap := rfl
@[simp] theorem modWork_lock (g : Work → Work) : (s.modWork g).lock = s.lock := rfl
@[simp] theorem modWork_mailboxes (g : Work → Work) : (s.modWork g).mailboxes = s.mailboxes := rfl
@[simp] theorem modWork_i3c (g : Work → Work) : (s.modWork g).i3c = s.i3c := rfl
@[simp] theorem modWork_mem (g : Work → Work) : (s.modWork g).mem = s.mem := rfl
@[simp] theorem modWork_answers (g : Work → Work) : (s.modWork g).answers = s.answers := rfl
@[simp] theorem modWork_free (g : Work → Work) : (s.modWork g).free = s.free := rfl
@[simp] theorem modWork_blocked (g : Work → Work) : (s.modWork g).blocked = s.blocked := rfl
@[simp] theorem modWork_pending (g : Work → Work) : (s.modWork g).pending = s.pending := rfl

/-! `modRaster` -/

@[simp] theorem modRaster_cfg (g : Raster → Raster) : (s.modRaster g).dyn.cfg = s.dyn.cfg := rfl
@[simp] theorem modRaster_time (g : Raster → Raster) : (s.modRaster g).dyn.time = s.dyn.time := rfl
@[simp] theorem modRaster_power (g : Raster → Raster) : (s.modRaster g).dyn.power = s.dyn.power := rfl
@[simp] theorem modRaster_tiles (g : Raster → Raster) : (s.modRaster g).dyn.tiles = s.dyn.tiles := rfl
@[simp] theorem modRaster_queues (g : Raster → Raster) : (s.modRaster g).dyn.queues = s.dyn.queues := rfl
@[simp] theorem modRaster_work (g : Raster → Raster) : (s.modRaster g).dyn.work = s.dyn.work := rfl
@[simp] theorem modRaster_raster (g : Raster → Raster) : (s.modRaster g).dyn.raster = g s.dyn.raster := rfl
@[simp] theorem modRaster_displays (g : Raster → Raster) : (s.modRaster g).dyn.displays = s.dyn.displays := rfl
@[simp] theorem modRaster_ingest (g : Raster → Raster) : (s.modRaster g).dyn.ingest = s.dyn.ingest := rfl
@[simp] theorem modRaster_fusion (g : Raster → Raster) : (s.modRaster g).dyn.fusion = s.dyn.fusion := rfl
@[simp] theorem modRaster_island (g : Raster → Raster) : (s.modRaster g).dyn.island = s.dyn.island := rfl
@[simp] theorem modRaster_safety (g : Raster → Raster) : (s.modRaster g).dyn.safety = s.dyn.safety := rfl
@[simp] theorem modRaster_bring (g : Raster → Raster) : (s.modRaster g).dyn.bring = s.dyn.bring := rfl
@[simp] theorem modRaster_errors (g : Raster → Raster) : (s.modRaster g).dyn.errors = s.dyn.errors := rfl
@[simp] theorem modRaster_isgal (g : Raster → Raster) : (s.modRaster g).dyn.isgal = s.dyn.isgal := rfl
@[simp] theorem modRaster_gateway (g : Raster → Raster) : (s.modRaster g).dyn.gateway = s.dyn.gateway := rfl
@[simp] theorem modRaster_cores (g : Raster → Raster) : (s.modRaster g).dyn.cores = s.dyn.cores := rfl
@[simp] theorem modRaster_snap (g : Raster → Raster) : (s.modRaster g).snap = s.snap := rfl
@[simp] theorem modRaster_lock (g : Raster → Raster) : (s.modRaster g).lock = s.lock := rfl
@[simp] theorem modRaster_mailboxes (g : Raster → Raster) : (s.modRaster g).mailboxes = s.mailboxes := rfl
@[simp] theorem modRaster_i3c (g : Raster → Raster) : (s.modRaster g).i3c = s.i3c := rfl
@[simp] theorem modRaster_mem (g : Raster → Raster) : (s.modRaster g).mem = s.mem := rfl
@[simp] theorem modRaster_answers (g : Raster → Raster) : (s.modRaster g).answers = s.answers := rfl
@[simp] theorem modRaster_free (g : Raster → Raster) : (s.modRaster g).free = s.free := rfl
@[simp] theorem modRaster_blocked (g : Raster → Raster) : (s.modRaster g).blocked = s.blocked := rfl
@[simp] theorem modRaster_pending (g : Raster → Raster) : (s.modRaster g).pending = s.pending := rfl

/-! `modDisplays` -/

@[simp] theorem modDisplays_cfg (g : Tab DisplayDyn → Tab DisplayDyn) : (s.modDisplays g).dyn.cfg = s.dyn.cfg := rfl
@[simp] theorem modDisplays_time (g : Tab DisplayDyn → Tab DisplayDyn) : (s.modDisplays g).dyn.time = s.dyn.time := rfl
@[simp] theorem modDisplays_power (g : Tab DisplayDyn → Tab DisplayDyn) : (s.modDisplays g).dyn.power = s.dyn.power := rfl
@[simp] theorem modDisplays_tiles (g : Tab DisplayDyn → Tab DisplayDyn) : (s.modDisplays g).dyn.tiles = s.dyn.tiles := rfl
@[simp] theorem modDisplays_queues (g : Tab DisplayDyn → Tab DisplayDyn) : (s.modDisplays g).dyn.queues = s.dyn.queues := rfl
@[simp] theorem modDisplays_work (g : Tab DisplayDyn → Tab DisplayDyn) : (s.modDisplays g).dyn.work = s.dyn.work := rfl
@[simp] theorem modDisplays_raster (g : Tab DisplayDyn → Tab DisplayDyn) : (s.modDisplays g).dyn.raster = s.dyn.raster := rfl
@[simp] theorem modDisplays_displays (g : Tab DisplayDyn → Tab DisplayDyn) : (s.modDisplays g).dyn.displays = g s.dyn.displays := rfl
@[simp] theorem modDisplays_ingest (g : Tab DisplayDyn → Tab DisplayDyn) : (s.modDisplays g).dyn.ingest = s.dyn.ingest := rfl
@[simp] theorem modDisplays_fusion (g : Tab DisplayDyn → Tab DisplayDyn) : (s.modDisplays g).dyn.fusion = s.dyn.fusion := rfl
@[simp] theorem modDisplays_island (g : Tab DisplayDyn → Tab DisplayDyn) : (s.modDisplays g).dyn.island = s.dyn.island := rfl
@[simp] theorem modDisplays_safety (g : Tab DisplayDyn → Tab DisplayDyn) : (s.modDisplays g).dyn.safety = s.dyn.safety := rfl
@[simp] theorem modDisplays_bring (g : Tab DisplayDyn → Tab DisplayDyn) : (s.modDisplays g).dyn.bring = s.dyn.bring := rfl
@[simp] theorem modDisplays_errors (g : Tab DisplayDyn → Tab DisplayDyn) : (s.modDisplays g).dyn.errors = s.dyn.errors := rfl
@[simp] theorem modDisplays_isgal (g : Tab DisplayDyn → Tab DisplayDyn) : (s.modDisplays g).dyn.isgal = s.dyn.isgal := rfl
@[simp] theorem modDisplays_gateway (g : Tab DisplayDyn → Tab DisplayDyn) : (s.modDisplays g).dyn.gateway = s.dyn.gateway := rfl
@[simp] theorem modDisplays_cores (g : Tab DisplayDyn → Tab DisplayDyn) : (s.modDisplays g).dyn.cores = s.dyn.cores := rfl
@[simp] theorem modDisplays_snap (g : Tab DisplayDyn → Tab DisplayDyn) : (s.modDisplays g).snap = s.snap := rfl
@[simp] theorem modDisplays_lock (g : Tab DisplayDyn → Tab DisplayDyn) : (s.modDisplays g).lock = s.lock := rfl
@[simp] theorem modDisplays_mailboxes (g : Tab DisplayDyn → Tab DisplayDyn) : (s.modDisplays g).mailboxes = s.mailboxes := rfl
@[simp] theorem modDisplays_i3c (g : Tab DisplayDyn → Tab DisplayDyn) : (s.modDisplays g).i3c = s.i3c := rfl
@[simp] theorem modDisplays_mem (g : Tab DisplayDyn → Tab DisplayDyn) : (s.modDisplays g).mem = s.mem := rfl
@[simp] theorem modDisplays_answers (g : Tab DisplayDyn → Tab DisplayDyn) : (s.modDisplays g).answers = s.answers := rfl
@[simp] theorem modDisplays_free (g : Tab DisplayDyn → Tab DisplayDyn) : (s.modDisplays g).free = s.free := rfl
@[simp] theorem modDisplays_blocked (g : Tab DisplayDyn → Tab DisplayDyn) : (s.modDisplays g).blocked = s.blocked := rfl
@[simp] theorem modDisplays_pending (g : Tab DisplayDyn → Tab DisplayDyn) : (s.modDisplays g).pending = s.pending := rfl

/-! `modIngest` -/

@[simp] theorem modIngest_cfg (g : Ingest → Ingest) : (s.modIngest g).dyn.cfg = s.dyn.cfg := rfl
@[simp] theorem modIngest_time (g : Ingest → Ingest) : (s.modIngest g).dyn.time = s.dyn.time := rfl
@[simp] theorem modIngest_power (g : Ingest → Ingest) : (s.modIngest g).dyn.power = s.dyn.power := rfl
@[simp] theorem modIngest_tiles (g : Ingest → Ingest) : (s.modIngest g).dyn.tiles = s.dyn.tiles := rfl
@[simp] theorem modIngest_queues (g : Ingest → Ingest) : (s.modIngest g).dyn.queues = s.dyn.queues := rfl
@[simp] theorem modIngest_work (g : Ingest → Ingest) : (s.modIngest g).dyn.work = s.dyn.work := rfl
@[simp] theorem modIngest_raster (g : Ingest → Ingest) : (s.modIngest g).dyn.raster = s.dyn.raster := rfl
@[simp] theorem modIngest_displays (g : Ingest → Ingest) : (s.modIngest g).dyn.displays = s.dyn.displays := rfl
@[simp] theorem modIngest_ingest (g : Ingest → Ingest) : (s.modIngest g).dyn.ingest = g s.dyn.ingest := rfl
@[simp] theorem modIngest_fusion (g : Ingest → Ingest) : (s.modIngest g).dyn.fusion = s.dyn.fusion := rfl
@[simp] theorem modIngest_island (g : Ingest → Ingest) : (s.modIngest g).dyn.island = s.dyn.island := rfl
@[simp] theorem modIngest_safety (g : Ingest → Ingest) : (s.modIngest g).dyn.safety = s.dyn.safety := rfl
@[simp] theorem modIngest_bring (g : Ingest → Ingest) : (s.modIngest g).dyn.bring = s.dyn.bring := rfl
@[simp] theorem modIngest_errors (g : Ingest → Ingest) : (s.modIngest g).dyn.errors = s.dyn.errors := rfl
@[simp] theorem modIngest_isgal (g : Ingest → Ingest) : (s.modIngest g).dyn.isgal = s.dyn.isgal := rfl
@[simp] theorem modIngest_gateway (g : Ingest → Ingest) : (s.modIngest g).dyn.gateway = s.dyn.gateway := rfl
@[simp] theorem modIngest_cores (g : Ingest → Ingest) : (s.modIngest g).dyn.cores = s.dyn.cores := rfl
@[simp] theorem modIngest_snap (g : Ingest → Ingest) : (s.modIngest g).snap = s.snap := rfl
@[simp] theorem modIngest_lock (g : Ingest → Ingest) : (s.modIngest g).lock = s.lock := rfl
@[simp] theorem modIngest_mailboxes (g : Ingest → Ingest) : (s.modIngest g).mailboxes = s.mailboxes := rfl
@[simp] theorem modIngest_i3c (g : Ingest → Ingest) : (s.modIngest g).i3c = s.i3c := rfl
@[simp] theorem modIngest_mem (g : Ingest → Ingest) : (s.modIngest g).mem = s.mem := rfl
@[simp] theorem modIngest_answers (g : Ingest → Ingest) : (s.modIngest g).answers = s.answers := rfl
@[simp] theorem modIngest_free (g : Ingest → Ingest) : (s.modIngest g).free = s.free := rfl
@[simp] theorem modIngest_blocked (g : Ingest → Ingest) : (s.modIngest g).blocked = s.blocked := rfl
@[simp] theorem modIngest_pending (g : Ingest → Ingest) : (s.modIngest g).pending = s.pending := rfl

/-! `modFusion` -/

@[simp] theorem modFusion_cfg (g : Fusion → Fusion) : (s.modFusion g).dyn.cfg = s.dyn.cfg := rfl
@[simp] theorem modFusion_time (g : Fusion → Fusion) : (s.modFusion g).dyn.time = s.dyn.time := rfl
@[simp] theorem modFusion_power (g : Fusion → Fusion) : (s.modFusion g).dyn.power = s.dyn.power := rfl
@[simp] theorem modFusion_tiles (g : Fusion → Fusion) : (s.modFusion g).dyn.tiles = s.dyn.tiles := rfl
@[simp] theorem modFusion_queues (g : Fusion → Fusion) : (s.modFusion g).dyn.queues = s.dyn.queues := rfl
@[simp] theorem modFusion_work (g : Fusion → Fusion) : (s.modFusion g).dyn.work = s.dyn.work := rfl
@[simp] theorem modFusion_raster (g : Fusion → Fusion) : (s.modFusion g).dyn.raster = s.dyn.raster := rfl
@[simp] theorem modFusion_displays (g : Fusion → Fusion) : (s.modFusion g).dyn.displays = s.dyn.displays := rfl
@[simp] theorem modFusion_ingest (g : Fusion → Fusion) : (s.modFusion g).dyn.ingest = s.dyn.ingest := rfl
@[simp] theorem modFusion_fusion (g : Fusion → Fusion) : (s.modFusion g).dyn.fusion = g s.dyn.fusion := rfl
@[simp] theorem modFusion_island (g : Fusion → Fusion) : (s.modFusion g).dyn.island = s.dyn.island := rfl
@[simp] theorem modFusion_safety (g : Fusion → Fusion) : (s.modFusion g).dyn.safety = s.dyn.safety := rfl
@[simp] theorem modFusion_bring (g : Fusion → Fusion) : (s.modFusion g).dyn.bring = s.dyn.bring := rfl
@[simp] theorem modFusion_errors (g : Fusion → Fusion) : (s.modFusion g).dyn.errors = s.dyn.errors := rfl
@[simp] theorem modFusion_isgal (g : Fusion → Fusion) : (s.modFusion g).dyn.isgal = s.dyn.isgal := rfl
@[simp] theorem modFusion_gateway (g : Fusion → Fusion) : (s.modFusion g).dyn.gateway = s.dyn.gateway := rfl
@[simp] theorem modFusion_cores (g : Fusion → Fusion) : (s.modFusion g).dyn.cores = s.dyn.cores := rfl
@[simp] theorem modFusion_snap (g : Fusion → Fusion) : (s.modFusion g).snap = s.snap := rfl
@[simp] theorem modFusion_lock (g : Fusion → Fusion) : (s.modFusion g).lock = s.lock := rfl
@[simp] theorem modFusion_mailboxes (g : Fusion → Fusion) : (s.modFusion g).mailboxes = s.mailboxes := rfl
@[simp] theorem modFusion_i3c (g : Fusion → Fusion) : (s.modFusion g).i3c = s.i3c := rfl
@[simp] theorem modFusion_mem (g : Fusion → Fusion) : (s.modFusion g).mem = s.mem := rfl
@[simp] theorem modFusion_answers (g : Fusion → Fusion) : (s.modFusion g).answers = s.answers := rfl
@[simp] theorem modFusion_free (g : Fusion → Fusion) : (s.modFusion g).free = s.free := rfl
@[simp] theorem modFusion_blocked (g : Fusion → Fusion) : (s.modFusion g).blocked = s.blocked := rfl
@[simp] theorem modFusion_pending (g : Fusion → Fusion) : (s.modFusion g).pending = s.pending := rfl

/-! `modIsland` -/

@[simp] theorem modIsland_cfg (g : Island → Island) : (s.modIsland g).dyn.cfg = s.dyn.cfg := rfl
@[simp] theorem modIsland_time (g : Island → Island) : (s.modIsland g).dyn.time = s.dyn.time := rfl
@[simp] theorem modIsland_power (g : Island → Island) : (s.modIsland g).dyn.power = s.dyn.power := rfl
@[simp] theorem modIsland_tiles (g : Island → Island) : (s.modIsland g).dyn.tiles = s.dyn.tiles := rfl
@[simp] theorem modIsland_queues (g : Island → Island) : (s.modIsland g).dyn.queues = s.dyn.queues := rfl
@[simp] theorem modIsland_work (g : Island → Island) : (s.modIsland g).dyn.work = s.dyn.work := rfl
@[simp] theorem modIsland_raster (g : Island → Island) : (s.modIsland g).dyn.raster = s.dyn.raster := rfl
@[simp] theorem modIsland_displays (g : Island → Island) : (s.modIsland g).dyn.displays = s.dyn.displays := rfl
@[simp] theorem modIsland_ingest (g : Island → Island) : (s.modIsland g).dyn.ingest = s.dyn.ingest := rfl
@[simp] theorem modIsland_fusion (g : Island → Island) : (s.modIsland g).dyn.fusion = s.dyn.fusion := rfl
@[simp] theorem modIsland_island (g : Island → Island) : (s.modIsland g).dyn.island = g s.dyn.island := rfl
@[simp] theorem modIsland_safety (g : Island → Island) : (s.modIsland g).dyn.safety = s.dyn.safety := rfl
@[simp] theorem modIsland_bring (g : Island → Island) : (s.modIsland g).dyn.bring = s.dyn.bring := rfl
@[simp] theorem modIsland_errors (g : Island → Island) : (s.modIsland g).dyn.errors = s.dyn.errors := rfl
@[simp] theorem modIsland_isgal (g : Island → Island) : (s.modIsland g).dyn.isgal = s.dyn.isgal := rfl
@[simp] theorem modIsland_gateway (g : Island → Island) : (s.modIsland g).dyn.gateway = s.dyn.gateway := rfl
@[simp] theorem modIsland_cores (g : Island → Island) : (s.modIsland g).dyn.cores = s.dyn.cores := rfl
@[simp] theorem modIsland_snap (g : Island → Island) : (s.modIsland g).snap = s.snap := rfl
@[simp] theorem modIsland_lock (g : Island → Island) : (s.modIsland g).lock = s.lock := rfl
@[simp] theorem modIsland_mailboxes (g : Island → Island) : (s.modIsland g).mailboxes = s.mailboxes := rfl
@[simp] theorem modIsland_i3c (g : Island → Island) : (s.modIsland g).i3c = s.i3c := rfl
@[simp] theorem modIsland_mem (g : Island → Island) : (s.modIsland g).mem = s.mem := rfl
@[simp] theorem modIsland_answers (g : Island → Island) : (s.modIsland g).answers = s.answers := rfl
@[simp] theorem modIsland_free (g : Island → Island) : (s.modIsland g).free = s.free := rfl
@[simp] theorem modIsland_blocked (g : Island → Island) : (s.modIsland g).blocked = s.blocked := rfl
@[simp] theorem modIsland_pending (g : Island → Island) : (s.modIsland g).pending = s.pending := rfl

/-! `modSafety` -/

@[simp] theorem modSafety_cfg (g : Safety → Safety) : (s.modSafety g).dyn.cfg = s.dyn.cfg := rfl
@[simp] theorem modSafety_time (g : Safety → Safety) : (s.modSafety g).dyn.time = s.dyn.time := rfl
@[simp] theorem modSafety_power (g : Safety → Safety) : (s.modSafety g).dyn.power = s.dyn.power := rfl
@[simp] theorem modSafety_tiles (g : Safety → Safety) : (s.modSafety g).dyn.tiles = s.dyn.tiles := rfl
@[simp] theorem modSafety_queues (g : Safety → Safety) : (s.modSafety g).dyn.queues = s.dyn.queues := rfl
@[simp] theorem modSafety_work (g : Safety → Safety) : (s.modSafety g).dyn.work = s.dyn.work := rfl
@[simp] theorem modSafety_raster (g : Safety → Safety) : (s.modSafety g).dyn.raster = s.dyn.raster := rfl
@[simp] theorem modSafety_displays (g : Safety → Safety) : (s.modSafety g).dyn.displays = s.dyn.displays := rfl
@[simp] theorem modSafety_ingest (g : Safety → Safety) : (s.modSafety g).dyn.ingest = s.dyn.ingest := rfl
@[simp] theorem modSafety_fusion (g : Safety → Safety) : (s.modSafety g).dyn.fusion = s.dyn.fusion := rfl
@[simp] theorem modSafety_island (g : Safety → Safety) : (s.modSafety g).dyn.island = s.dyn.island := rfl
@[simp] theorem modSafety_safety (g : Safety → Safety) : (s.modSafety g).dyn.safety = g s.dyn.safety := rfl
@[simp] theorem modSafety_bring (g : Safety → Safety) : (s.modSafety g).dyn.bring = s.dyn.bring := rfl
@[simp] theorem modSafety_errors (g : Safety → Safety) : (s.modSafety g).dyn.errors = s.dyn.errors := rfl
@[simp] theorem modSafety_isgal (g : Safety → Safety) : (s.modSafety g).dyn.isgal = s.dyn.isgal := rfl
@[simp] theorem modSafety_gateway (g : Safety → Safety) : (s.modSafety g).dyn.gateway = s.dyn.gateway := rfl
@[simp] theorem modSafety_cores (g : Safety → Safety) : (s.modSafety g).dyn.cores = s.dyn.cores := rfl
@[simp] theorem modSafety_snap (g : Safety → Safety) : (s.modSafety g).snap = s.snap := rfl
@[simp] theorem modSafety_lock (g : Safety → Safety) : (s.modSafety g).lock = s.lock := rfl
@[simp] theorem modSafety_mailboxes (g : Safety → Safety) : (s.modSafety g).mailboxes = s.mailboxes := rfl
@[simp] theorem modSafety_i3c (g : Safety → Safety) : (s.modSafety g).i3c = s.i3c := rfl
@[simp] theorem modSafety_mem (g : Safety → Safety) : (s.modSafety g).mem = s.mem := rfl
@[simp] theorem modSafety_answers (g : Safety → Safety) : (s.modSafety g).answers = s.answers := rfl
@[simp] theorem modSafety_free (g : Safety → Safety) : (s.modSafety g).free = s.free := rfl
@[simp] theorem modSafety_blocked (g : Safety → Safety) : (s.modSafety g).blocked = s.blocked := rfl
@[simp] theorem modSafety_pending (g : Safety → Safety) : (s.modSafety g).pending = s.pending := rfl

/-! `modBring` -/

@[simp] theorem modBring_cfg (g : Bring → Bring) : (s.modBring g).dyn.cfg = s.dyn.cfg := rfl
@[simp] theorem modBring_time (g : Bring → Bring) : (s.modBring g).dyn.time = s.dyn.time := rfl
@[simp] theorem modBring_power (g : Bring → Bring) : (s.modBring g).dyn.power = s.dyn.power := rfl
@[simp] theorem modBring_tiles (g : Bring → Bring) : (s.modBring g).dyn.tiles = s.dyn.tiles := rfl
@[simp] theorem modBring_queues (g : Bring → Bring) : (s.modBring g).dyn.queues = s.dyn.queues := rfl
@[simp] theorem modBring_work (g : Bring → Bring) : (s.modBring g).dyn.work = s.dyn.work := rfl
@[simp] theorem modBring_raster (g : Bring → Bring) : (s.modBring g).dyn.raster = s.dyn.raster := rfl
@[simp] theorem modBring_displays (g : Bring → Bring) : (s.modBring g).dyn.displays = s.dyn.displays := rfl
@[simp] theorem modBring_ingest (g : Bring → Bring) : (s.modBring g).dyn.ingest = s.dyn.ingest := rfl
@[simp] theorem modBring_fusion (g : Bring → Bring) : (s.modBring g).dyn.fusion = s.dyn.fusion := rfl
@[simp] theorem modBring_island (g : Bring → Bring) : (s.modBring g).dyn.island = s.dyn.island := rfl
@[simp] theorem modBring_safety (g : Bring → Bring) : (s.modBring g).dyn.safety = s.dyn.safety := rfl
@[simp] theorem modBring_bring (g : Bring → Bring) : (s.modBring g).dyn.bring = g s.dyn.bring := rfl
@[simp] theorem modBring_errors (g : Bring → Bring) : (s.modBring g).dyn.errors = s.dyn.errors := rfl
@[simp] theorem modBring_isgal (g : Bring → Bring) : (s.modBring g).dyn.isgal = s.dyn.isgal := rfl
@[simp] theorem modBring_gateway (g : Bring → Bring) : (s.modBring g).dyn.gateway = s.dyn.gateway := rfl
@[simp] theorem modBring_cores (g : Bring → Bring) : (s.modBring g).dyn.cores = s.dyn.cores := rfl
@[simp] theorem modBring_snap (g : Bring → Bring) : (s.modBring g).snap = s.snap := rfl
@[simp] theorem modBring_lock (g : Bring → Bring) : (s.modBring g).lock = s.lock := rfl
@[simp] theorem modBring_mailboxes (g : Bring → Bring) : (s.modBring g).mailboxes = s.mailboxes := rfl
@[simp] theorem modBring_i3c (g : Bring → Bring) : (s.modBring g).i3c = s.i3c := rfl
@[simp] theorem modBring_mem (g : Bring → Bring) : (s.modBring g).mem = s.mem := rfl
@[simp] theorem modBring_answers (g : Bring → Bring) : (s.modBring g).answers = s.answers := rfl
@[simp] theorem modBring_free (g : Bring → Bring) : (s.modBring g).free = s.free := rfl
@[simp] theorem modBring_blocked (g : Bring → Bring) : (s.modBring g).blocked = s.blocked := rfl
@[simp] theorem modBring_pending (g : Bring → Bring) : (s.modBring g).pending = s.pending := rfl

/-! `modErrors` -/

@[simp] theorem modErrors_cfg (g : Errors → Errors) : (s.modErrors g).dyn.cfg = s.dyn.cfg := rfl
@[simp] theorem modErrors_time (g : Errors → Errors) : (s.modErrors g).dyn.time = s.dyn.time := rfl
@[simp] theorem modErrors_power (g : Errors → Errors) : (s.modErrors g).dyn.power = s.dyn.power := rfl
@[simp] theorem modErrors_tiles (g : Errors → Errors) : (s.modErrors g).dyn.tiles = s.dyn.tiles := rfl
@[simp] theorem modErrors_queues (g : Errors → Errors) : (s.modErrors g).dyn.queues = s.dyn.queues := rfl
@[simp] theorem modErrors_work (g : Errors → Errors) : (s.modErrors g).dyn.work = s.dyn.work := rfl
@[simp] theorem modErrors_raster (g : Errors → Errors) : (s.modErrors g).dyn.raster = s.dyn.raster := rfl
@[simp] theorem modErrors_displays (g : Errors → Errors) : (s.modErrors g).dyn.displays = s.dyn.displays := rfl
@[simp] theorem modErrors_ingest (g : Errors → Errors) : (s.modErrors g).dyn.ingest = s.dyn.ingest := rfl
@[simp] theorem modErrors_fusion (g : Errors → Errors) : (s.modErrors g).dyn.fusion = s.dyn.fusion := rfl
@[simp] theorem modErrors_island (g : Errors → Errors) : (s.modErrors g).dyn.island = s.dyn.island := rfl
@[simp] theorem modErrors_safety (g : Errors → Errors) : (s.modErrors g).dyn.safety = s.dyn.safety := rfl
@[simp] theorem modErrors_bring (g : Errors → Errors) : (s.modErrors g).dyn.bring = s.dyn.bring := rfl
@[simp] theorem modErrors_errors (g : Errors → Errors) : (s.modErrors g).dyn.errors = g s.dyn.errors := rfl
@[simp] theorem modErrors_isgal (g : Errors → Errors) : (s.modErrors g).dyn.isgal = s.dyn.isgal := rfl
@[simp] theorem modErrors_gateway (g : Errors → Errors) : (s.modErrors g).dyn.gateway = s.dyn.gateway := rfl
@[simp] theorem modErrors_cores (g : Errors → Errors) : (s.modErrors g).dyn.cores = s.dyn.cores := rfl
@[simp] theorem modErrors_snap (g : Errors → Errors) : (s.modErrors g).snap = s.snap := rfl
@[simp] theorem modErrors_lock (g : Errors → Errors) : (s.modErrors g).lock = s.lock := rfl
@[simp] theorem modErrors_mailboxes (g : Errors → Errors) : (s.modErrors g).mailboxes = s.mailboxes := rfl
@[simp] theorem modErrors_i3c (g : Errors → Errors) : (s.modErrors g).i3c = s.i3c := rfl
@[simp] theorem modErrors_mem (g : Errors → Errors) : (s.modErrors g).mem = s.mem := rfl
@[simp] theorem modErrors_answers (g : Errors → Errors) : (s.modErrors g).answers = s.answers := rfl
@[simp] theorem modErrors_free (g : Errors → Errors) : (s.modErrors g).free = s.free := rfl
@[simp] theorem modErrors_blocked (g : Errors → Errors) : (s.modErrors g).blocked = s.blocked := rfl
@[simp] theorem modErrors_pending (g : Errors → Errors) : (s.modErrors g).pending = s.pending := rfl

/-! `modIsgal` -/

@[simp] theorem modIsgal_cfg (g : Isgal → Isgal) : (s.modIsgal g).dyn.cfg = s.dyn.cfg := rfl
@[simp] theorem modIsgal_time (g : Isgal → Isgal) : (s.modIsgal g).dyn.time = s.dyn.time := rfl
@[simp] theorem modIsgal_power (g : Isgal → Isgal) : (s.modIsgal g).dyn.power = s.dyn.power := rfl
@[simp] theorem modIsgal_tiles (g : Isgal → Isgal) : (s.modIsgal g).dyn.tiles = s.dyn.tiles := rfl
@[simp] theorem modIsgal_queues (g : Isgal → Isgal) : (s.modIsgal g).dyn.queues = s.dyn.queues := rfl
@[simp] theorem modIsgal_work (g : Isgal → Isgal) : (s.modIsgal g).dyn.work = s.dyn.work := rfl
@[simp] theorem modIsgal_raster (g : Isgal → Isgal) : (s.modIsgal g).dyn.raster = s.dyn.raster := rfl
@[simp] theorem modIsgal_displays (g : Isgal → Isgal) : (s.modIsgal g).dyn.displays = s.dyn.displays := rfl
@[simp] theorem modIsgal_ingest (g : Isgal → Isgal) : (s.modIsgal g).dyn.ingest = s.dyn.ingest := rfl
@[simp] theorem modIsgal_fusion (g : Isgal → Isgal) : (s.modIsgal g).dyn.fusion = s.dyn.fusion := rfl
@[simp] theorem modIsgal_island (g : Isgal → Isgal) : (s.modIsgal g).dyn.island = s.dyn.island := rfl
@[simp] theorem modIsgal_safety (g : Isgal → Isgal) : (s.modIsgal g).dyn.safety = s.dyn.safety := rfl
@[simp] theorem modIsgal_bring (g : Isgal → Isgal) : (s.modIsgal g).dyn.bring = s.dyn.bring := rfl
@[simp] theorem modIsgal_errors (g : Isgal → Isgal) : (s.modIsgal g).dyn.errors = s.dyn.errors := rfl
@[simp] theorem modIsgal_isgal (g : Isgal → Isgal) : (s.modIsgal g).dyn.isgal = g s.dyn.isgal := rfl
@[simp] theorem modIsgal_gateway (g : Isgal → Isgal) : (s.modIsgal g).dyn.gateway = s.dyn.gateway := rfl
@[simp] theorem modIsgal_cores (g : Isgal → Isgal) : (s.modIsgal g).dyn.cores = s.dyn.cores := rfl
@[simp] theorem modIsgal_snap (g : Isgal → Isgal) : (s.modIsgal g).snap = s.snap := rfl
@[simp] theorem modIsgal_lock (g : Isgal → Isgal) : (s.modIsgal g).lock = s.lock := rfl
@[simp] theorem modIsgal_mailboxes (g : Isgal → Isgal) : (s.modIsgal g).mailboxes = s.mailboxes := rfl
@[simp] theorem modIsgal_i3c (g : Isgal → Isgal) : (s.modIsgal g).i3c = s.i3c := rfl
@[simp] theorem modIsgal_mem (g : Isgal → Isgal) : (s.modIsgal g).mem = s.mem := rfl
@[simp] theorem modIsgal_answers (g : Isgal → Isgal) : (s.modIsgal g).answers = s.answers := rfl
@[simp] theorem modIsgal_free (g : Isgal → Isgal) : (s.modIsgal g).free = s.free := rfl
@[simp] theorem modIsgal_blocked (g : Isgal → Isgal) : (s.modIsgal g).blocked = s.blocked := rfl
@[simp] theorem modIsgal_pending (g : Isgal → Isgal) : (s.modIsgal g).pending = s.pending := rfl

/-! `modGateway` -/

@[simp] theorem modGateway_cfg (g : Gateway → Gateway) : (s.modGateway g).dyn.cfg = s.dyn.cfg := rfl
@[simp] theorem modGateway_time (g : Gateway → Gateway) : (s.modGateway g).dyn.time = s.dyn.time := rfl
@[simp] theorem modGateway_power (g : Gateway → Gateway) : (s.modGateway g).dyn.power = s.dyn.power := rfl
@[simp] theorem modGateway_tiles (g : Gateway → Gateway) : (s.modGateway g).dyn.tiles = s.dyn.tiles := rfl
@[simp] theorem modGateway_queues (g : Gateway → Gateway) : (s.modGateway g).dyn.queues = s.dyn.queues := rfl
@[simp] theorem modGateway_work (g : Gateway → Gateway) : (s.modGateway g).dyn.work = s.dyn.work := rfl
@[simp] theorem modGateway_raster (g : Gateway → Gateway) : (s.modGateway g).dyn.raster = s.dyn.raster := rfl
@[simp] theorem modGateway_displays (g : Gateway → Gateway) : (s.modGateway g).dyn.displays = s.dyn.displays := rfl
@[simp] theorem modGateway_ingest (g : Gateway → Gateway) : (s.modGateway g).dyn.ingest = s.dyn.ingest := rfl
@[simp] theorem modGateway_fusion (g : Gateway → Gateway) : (s.modGateway g).dyn.fusion = s.dyn.fusion := rfl
@[simp] theorem modGateway_island (g : Gateway → Gateway) : (s.modGateway g).dyn.island = s.dyn.island := rfl
@[simp] theorem modGateway_safety (g : Gateway → Gateway) : (s.modGateway g).dyn.safety = s.dyn.safety := rfl
@[simp] theorem modGateway_bring (g : Gateway → Gateway) : (s.modGateway g).dyn.bring = s.dyn.bring := rfl
@[simp] theorem modGateway_errors (g : Gateway → Gateway) : (s.modGateway g).dyn.errors = s.dyn.errors := rfl
@[simp] theorem modGateway_isgal (g : Gateway → Gateway) : (s.modGateway g).dyn.isgal = s.dyn.isgal := rfl
@[simp] theorem modGateway_gateway (g : Gateway → Gateway) : (s.modGateway g).dyn.gateway = g s.dyn.gateway := rfl
@[simp] theorem modGateway_cores (g : Gateway → Gateway) : (s.modGateway g).dyn.cores = s.dyn.cores := rfl
@[simp] theorem modGateway_snap (g : Gateway → Gateway) : (s.modGateway g).snap = s.snap := rfl
@[simp] theorem modGateway_lock (g : Gateway → Gateway) : (s.modGateway g).lock = s.lock := rfl
@[simp] theorem modGateway_mailboxes (g : Gateway → Gateway) : (s.modGateway g).mailboxes = s.mailboxes := rfl
@[simp] theorem modGateway_i3c (g : Gateway → Gateway) : (s.modGateway g).i3c = s.i3c := rfl
@[simp] theorem modGateway_mem (g : Gateway → Gateway) : (s.modGateway g).mem = s.mem := rfl
@[simp] theorem modGateway_answers (g : Gateway → Gateway) : (s.modGateway g).answers = s.answers := rfl
@[simp] theorem modGateway_free (g : Gateway → Gateway) : (s.modGateway g).free = s.free := rfl
@[simp] theorem modGateway_blocked (g : Gateway → Gateway) : (s.modGateway g).blocked = s.blocked := rfl
@[simp] theorem modGateway_pending (g : Gateway → Gateway) : (s.modGateway g).pending = s.pending := rfl

/-! `modCores` -/

@[simp] theorem modCores_cfg (g : Cores → Cores) : (s.modCores g).dyn.cfg = s.dyn.cfg := rfl
@[simp] theorem modCores_time (g : Cores → Cores) : (s.modCores g).dyn.time = s.dyn.time := rfl
@[simp] theorem modCores_power (g : Cores → Cores) : (s.modCores g).dyn.power = s.dyn.power := rfl
@[simp] theorem modCores_tiles (g : Cores → Cores) : (s.modCores g).dyn.tiles = s.dyn.tiles := rfl
@[simp] theorem modCores_queues (g : Cores → Cores) : (s.modCores g).dyn.queues = s.dyn.queues := rfl
@[simp] theorem modCores_work (g : Cores → Cores) : (s.modCores g).dyn.work = s.dyn.work := rfl
@[simp] theorem modCores_raster (g : Cores → Cores) : (s.modCores g).dyn.raster = s.dyn.raster := rfl
@[simp] theorem modCores_displays (g : Cores → Cores) : (s.modCores g).dyn.displays = s.dyn.displays := rfl
@[simp] theorem modCores_ingest (g : Cores → Cores) : (s.modCores g).dyn.ingest = s.dyn.ingest := rfl
@[simp] theorem modCores_fusion (g : Cores → Cores) : (s.modCores g).dyn.fusion = s.dyn.fusion := rfl
@[simp] theorem modCores_island (g : Cores → Cores) : (s.modCores g).dyn.island = s.dyn.island := rfl
@[simp] theorem modCores_safety (g : Cores → Cores) : (s.modCores g).dyn.safety = s.dyn.safety := rfl
@[simp] theorem modCores_bring (g : Cores → Cores) : (s.modCores g).dyn.bring = s.dyn.bring := rfl
@[simp] theorem modCores_errors (g : Cores → Cores) : (s.modCores g).dyn.errors = s.dyn.errors := rfl
@[simp] theorem modCores_isgal (g : Cores → Cores) : (s.modCores g).dyn.isgal = s.dyn.isgal := rfl
@[simp] theorem modCores_gateway (g : Cores → Cores) : (s.modCores g).dyn.gateway = s.dyn.gateway := rfl
@[simp] theorem modCores_cores (g : Cores → Cores) : (s.modCores g).dyn.cores = g s.dyn.cores := rfl
@[simp] theorem modCores_snap (g : Cores → Cores) : (s.modCores g).snap = s.snap := rfl
@[simp] theorem modCores_lock (g : Cores → Cores) : (s.modCores g).lock = s.lock := rfl
@[simp] theorem modCores_mailboxes (g : Cores → Cores) : (s.modCores g).mailboxes = s.mailboxes := rfl
@[simp] theorem modCores_i3c (g : Cores → Cores) : (s.modCores g).i3c = s.i3c := rfl
@[simp] theorem modCores_mem (g : Cores → Cores) : (s.modCores g).mem = s.mem := rfl
@[simp] theorem modCores_answers (g : Cores → Cores) : (s.modCores g).answers = s.answers := rfl
@[simp] theorem modCores_free (g : Cores → Cores) : (s.modCores g).free = s.free := rfl
@[simp] theorem modCores_blocked (g : Cores → Cores) : (s.modCores g).blocked = s.blocked := rfl
@[simp] theorem modCores_pending (g : Cores → Cores) : (s.modCores g).pending = s.pending := rfl

/-! `modLock` -/

@[simp] theorem modLock_dyn (g : Lock → Lock) : (s.modLock g).dyn = s.dyn := rfl
@[simp] theorem modLock_snap (g : Lock → Lock) : (s.modLock g).snap = s.snap := rfl
@[simp] theorem modLock_lock (g : Lock → Lock) : (s.modLock g).lock = g s.lock := rfl
@[simp] theorem modLock_mailboxes (g : Lock → Lock) : (s.modLock g).mailboxes = s.mailboxes := rfl
@[simp] theorem modLock_i3c (g : Lock → Lock) : (s.modLock g).i3c = s.i3c := rfl
@[simp] theorem modLock_mem (g : Lock → Lock) : (s.modLock g).mem = s.mem := rfl
@[simp] theorem modLock_answers (g : Lock → Lock) : (s.modLock g).answers = s.answers := rfl
@[simp] theorem modLock_free (g : Lock → Lock) : (s.modLock g).free = s.free := rfl
@[simp] theorem modLock_blocked (g : Lock → Lock) : (s.modLock g).blocked = s.blocked := rfl
@[simp] theorem modLock_pending (g : Lock → Lock) : (s.modLock g).pending = s.pending := rfl

/-! `modMailboxes` -/

@[simp] theorem modMailboxes_dyn (g : Tab Mailbox → Tab Mailbox) : (s.modMailboxes g).dyn = s.dyn := rfl
@[simp] theorem modMailboxes_snap (g : Tab Mailbox → Tab Mailbox) : (s.modMailboxes g).snap = s.snap := rfl
@[simp] theorem modMailboxes_lock (g : Tab Mailbox → Tab Mailbox) : (s.modMailboxes g).lock = s.lock := rfl
@[simp] theorem modMailboxes_mailboxes (g : Tab Mailbox → Tab Mailbox) : (s.modMailboxes g).mailboxes = g s.mailboxes := rfl
@[simp] theorem modMailboxes_i3c (g : Tab Mailbox → Tab Mailbox) : (s.modMailboxes g).i3c = s.i3c := rfl
@[simp] theorem modMailboxes_mem (g : Tab Mailbox → Tab Mailbox) : (s.modMailboxes g).mem = s.mem := rfl
@[simp] theorem modMailboxes_answers (g : Tab Mailbox → Tab Mailbox) : (s.modMailboxes g).answers = s.answers := rfl
@[simp] theorem modMailboxes_free (g : Tab Mailbox → Tab Mailbox) : (s.modMailboxes g).free = s.free := rfl
@[simp] theorem modMailboxes_blocked (g : Tab Mailbox → Tab Mailbox) : (s.modMailboxes g).blocked = s.blocked := rfl
@[simp] theorem modMailboxes_pending (g : Tab Mailbox → Tab Mailbox) : (s.modMailboxes g).pending = s.pending := rfl

/-! `modI3c` -/

@[simp] theorem modI3c_dyn (g : I3cTarget → I3cTarget) : (s.modI3c g).dyn = s.dyn := rfl
@[simp] theorem modI3c_snap (g : I3cTarget → I3cTarget) : (s.modI3c g).snap = s.snap := rfl
@[simp] theorem modI3c_lock (g : I3cTarget → I3cTarget) : (s.modI3c g).lock = s.lock := rfl
@[simp] theorem modI3c_mailboxes (g : I3cTarget → I3cTarget) : (s.modI3c g).mailboxes = s.mailboxes := rfl
@[simp] theorem modI3c_i3c (g : I3cTarget → I3cTarget) : (s.modI3c g).i3c = g s.i3c := rfl
@[simp] theorem modI3c_mem (g : I3cTarget → I3cTarget) : (s.modI3c g).mem = s.mem := rfl
@[simp] theorem modI3c_answers (g : I3cTarget → I3cTarget) : (s.modI3c g).answers = s.answers := rfl
@[simp] theorem modI3c_free (g : I3cTarget → I3cTarget) : (s.modI3c g).free = s.free := rfl
@[simp] theorem modI3c_blocked (g : I3cTarget → I3cTarget) : (s.modI3c g).blocked = s.blocked := rfl
@[simp] theorem modI3c_pending (g : I3cTarget → I3cTarget) : (s.modI3c g).pending = s.pending := rfl

/-! `modMem` -/

@[simp] theorem modMem_dyn (g : Memory → Memory) : (s.modMem g).dyn = s.dyn := rfl
@[simp] theorem modMem_snap (g : Memory → Memory) : (s.modMem g).snap = s.snap := rfl
@[simp] theorem modMem_lock (g : Memory → Memory) : (s.modMem g).lock = s.lock := rfl
@[simp] theorem modMem_mailboxes (g : Memory → Memory) : (s.modMem g).mailboxes = s.mailboxes := rfl
@[simp] theorem modMem_i3c (g : Memory → Memory) : (s.modMem g).i3c = s.i3c := rfl
@[simp] theorem modMem_mem (g : Memory → Memory) : (s.modMem g).mem = g s.mem := rfl
@[simp] theorem modMem_answers (g : Memory → Memory) : (s.modMem g).answers = s.answers := rfl
@[simp] theorem modMem_free (g : Memory → Memory) : (s.modMem g).free = s.free := rfl
@[simp] theorem modMem_blocked (g : Memory → Memory) : (s.modMem g).blocked = s.blocked := rfl
@[simp] theorem modMem_pending (g : Memory → Memory) : (s.modMem g).pending = s.pending := rfl

/-! One more free value taken -/

@[simp] theorem bump_dyn : s.bump.dyn = s.dyn := rfl
@[simp] theorem bump_snap : s.bump.snap = s.snap := rfl
@[simp] theorem bump_lock : s.bump.lock = s.lock := rfl
@[simp] theorem bump_mailboxes : s.bump.mailboxes = s.mailboxes := rfl
@[simp] theorem bump_mem : s.bump.mem = s.mem := rfl
@[simp] theorem bump_pending : s.bump.pending = s.pending := rfl

/-! An admitted packet: only its mailbox or its queue moves. -/

/-- Admission changes the mailboxes and the moving parts of the queues, nothing else. -/
theorem admitted_eq (c : Cmd) : admitted c s =
    { s with mailboxes := (admitted c s).mailboxes, dyn := { s.dyn with queues := (admitted c s).dyn.queues } } := by
  unfold admitted State.taken
  cases c.path <;> rfl

@[simp] theorem admitted_cfg (c : Cmd) : (admitted c s).dyn.cfg = s.dyn.cfg := by rw [admitted_eq]
@[simp] theorem admitted_time (c : Cmd) : (admitted c s).dyn.time = s.dyn.time := by rw [admitted_eq]
@[simp] theorem admitted_power (c : Cmd) : (admitted c s).dyn.power = s.dyn.power := by rw [admitted_eq]
@[simp] theorem admitted_tiles (c : Cmd) : (admitted c s).dyn.tiles = s.dyn.tiles := by rw [admitted_eq]
@[simp] theorem admitted_work (c : Cmd) : (admitted c s).dyn.work = s.dyn.work := by rw [admitted_eq]
@[simp] theorem admitted_raster (c : Cmd) : (admitted c s).dyn.raster = s.dyn.raster := by rw [admitted_eq]
@[simp] theorem admitted_displays (c : Cmd) : (admitted c s).dyn.displays = s.dyn.displays := by rw [admitted_eq]
@[simp] theorem admitted_ingest (c : Cmd) : (admitted c s).dyn.ingest = s.dyn.ingest := by rw [admitted_eq]
@[simp] theorem admitted_fusion (c : Cmd) : (admitted c s).dyn.fusion = s.dyn.fusion := by rw [admitted_eq]
@[simp] theorem admitted_island (c : Cmd) : (admitted c s).dyn.island = s.dyn.island := by rw [admitted_eq]
@[simp] theorem admitted_safety (c : Cmd) : (admitted c s).dyn.safety = s.dyn.safety := by rw [admitted_eq]
@[simp] theorem admitted_bring (c : Cmd) : (admitted c s).dyn.bring = s.dyn.bring := by rw [admitted_eq]
@[simp] theorem admitted_errors (c : Cmd) : (admitted c s).dyn.errors = s.dyn.errors := by rw [admitted_eq]
@[simp] theorem admitted_isgal (c : Cmd) : (admitted c s).dyn.isgal = s.dyn.isgal := by rw [admitted_eq]
@[simp] theorem admitted_gateway (c : Cmd) : (admitted c s).dyn.gateway = s.dyn.gateway := by rw [admitted_eq]
@[simp] theorem admitted_cores (c : Cmd) : (admitted c s).dyn.cores = s.dyn.cores := by rw [admitted_eq]
@[simp] theorem admitted_snap (c : Cmd) : (admitted c s).snap = s.snap := by rw [admitted_eq]
@[simp] theorem admitted_lock (c : Cmd) : (admitted c s).lock = s.lock := by rw [admitted_eq]
@[simp] theorem admitted_i3c (c : Cmd) : (admitted c s).i3c = s.i3c := by rw [admitted_eq]
@[simp] theorem admitted_mem (c : Cmd) : (admitted c s).mem = s.mem := by rw [admitted_eq]
@[simp] theorem admitted_answers (c : Cmd) : (admitted c s).answers = s.answers := by rw [admitted_eq]
@[simp] theorem admitted_free (c : Cmd) : (admitted c s).free = s.free := by rw [admitted_eq]
@[simp] theorem admitted_pending (c : Cmd) : (admitted c s).pending = s.pending := by rw [admitted_eq]
@[simp] theorem admitted_inService (c : Cmd) : (admitted c s).inService = s.inService := by simp [State.inService]
@[simp] theorem admitted_now16 (c : Cmd) : (admitted c s).now16 = s.now16 := by simp [State.now16]
@[simp] theorem admitted_island16 (c : Cmd) : (admitted c s).island16 = s.island16 := by simp [State.island16]
@[simp] theorem admitted_locks (c : Cmd) : (admitted c s).locks = s.locks := by simp [State.locks]

/-! Configuration commands, once admitted -/

/-- A configuration command whose checks pass is entered with the shadow they leave. -/
theorem config_pass {op : OpInfo} {c : Cmd} {s : State} {rule : ConfigRule} {cfg : Shadow} {r : Result}
    (h : Admits op c s = true) (hr : rule (admitted c s) (ticketOf op c s) s.lock.opn = .pass cfg r) :
    carry op c (acceptConfig rule) s = .next (entered op c cfg s) := by
  rw [carry_admitted h]; simp only [acceptConfig, admitted_lock, hr, entered, enter]

/-- A configuration command that a check refuses is answered with its status, and the configuration stands. -/
theorem config_refuse {op : OpInfo} {c : Cmd} {s : State} {rule : ConfigRule} {st : Nat} {r : Result}
    (h : Admits op c s = true) (hr : rule (admitted c s) (ticketOf op c s) s.lock.opn = .refuse st r) :
    carry op c (acceptConfig rule) s = .next (answered op c st r s) := by
  rw [carry_admitted h]; simp only [acceptConfig, admitted_lock, hr, answered]

/-- The same on a state reached by the reads that a command makes before its checks. -/
theorem acceptConfig_pass {rule : ConfigRule} {t : Ticket} {s : State} {cfg : Shadow} {r : Result}
    (hr : rule s t s.lock.opn = .pass cfg r) : acceptConfig rule t s = enter t cfg s := by
  simp only [acceptConfig, hr, enter]

/-- An immediate command that is admitted is answered. -/
theorem admitted_answer {op : OpInfo} {c : Cmd} {s : State} {act : Ticket → State → State} {st : Nat} {r : Result}
    (h : Admits op c s = true) (ha : act (ticketOf op c s) (admitted c s) = writeRecord (ticketOf op c s) st r (admitted c s)) :
    carry op c act s = .next (answered op c st r s) := by
  rw [carry_admitted h, ha]; rfl

/-- No check is left. -/
@[simp] theorem firstOf_nil : firstOf [] = none := rfl

/-- The first check that holds decides. -/
theorem firstOf_cons (b : Bool) (n : Nat) (cs : List (Bool × Nat)) :
    firstOf ((b, n) :: cs) = if b = true then some n else firstOf cs := by
  cases b <;> rfl

/-- What follows from a list of checks: a check that holds decides, else the rest does. -/
theorem firstOf_elim_cons {α : Type} (b : Bool) (n : Nat) (cs : List (Bool × Nat)) (p : α) (f : Nat → α) :
    (firstOf ((b, n) :: cs)).elim p f = if b = true then f n else (firstOf cs).elim p f := by
  cases b <;> rfl

/-- What follows when no check is left. -/
theorem firstOf_elim_nil {α : Type} (p : α) (f : Nat → α) : (firstOf []).elim p f = p := rfl

/-- A configuration command whose rule refuses by the first of `checks` and else passes with `cfg` is settled so. -/
theorem config_settled {op : OpInfo} {c : Cmd} {s : State} {rule : ConfigRule} {cfg : Shadow} {checks : List (Bool × Nat)}
    (h : Admits op c s = true)
    (hr : rule (admitted c s) (ticketOf op c s) s.lock.opn = (firstOf checks).elim (.pass cfg noResult) fun st => .refuse st noResult) :
    carry op c (acceptConfig rule) s = .next (settled op c checks cfg s) := by
  unfold settled
  cases e : firstOf checks with
  | none => rw [e] at hr; exact config_pass h hr
  | some st => rw [e] at hr; exact config_refuse h hr

/-- A command answered at once by the first of `checks`, and else with the result `r`, is replied to so. -/
theorem admitted_replied {op : OpInfo} {c : Cmd} {s : State} {act : Ticket → State → State} {r : Result}
    {checks : List (Bool × Nat)} (h : Admits op c s = true)
    (ha : act (ticketOf op c s) (admitted c s) = (firstOf checks).elim
      (writeRecord (ticketOf op c s) 0 r (admitted c s)) fun st => writeRecord (ticketOf op c s) st noResult (admitted c s)) :
    carry op c act s = .next (replied op c checks r s) := by
  rw [carry_admitted h, ha]; unfold replied
  cases firstOf checks <;> rfl

end Sys2Proof.Machine
end

