-- ==== Sys2Proof/Tests/Slice0.lean ====
section
/-! SUPPORT. Tests of the model on small states: what counts as well formed, and for the statements of the certificate
concrete states and operands that meet their hypotheses, with what the command then does. Each expected value is worked out by
hand from the rule that the theorem's comment names; no state here comes from a run. -/

open Sys2Proof Sys2Proof.Machine

namespace Sys2Proof.Tests

set_option Elab.async false

/-! Helpers -/

/-- A configuration with two LIVE berths: berth 1 has basin 5, queues 16 (submission) and 17 (completion) and one mapped page. -/
def cfg0 : Shadow :=
  { tiles := [(0, .logical 0), (1, .logical 1)]
    berths := [(1, { state := .live, gen := 3, xlatCount := 16, queueFirst := 16, queueCount := 16, memQuota := 64, memUsed := 1,
                     tileGrant := 3, streamGrant := 3, outputGrant := 1, i3cGrant := 1, txGrant := 1 }),
               (2, { state := .live, gen := 1 })]
    basins := [(5, { kind := 1, berth := 1, endpoint := 16, tileMask := 1 })]
    xlat := [(0, { valid := true, read := true, write := true, frame := 0x100, owner := 1 })]
    queues := [(16, { valid := true, entry := 1, berth := 1, gen := 3, ringLog2 := 4, cq := 17 }),
               (17, { valid := true, kind := 1, berth := 1, gen := 3, ringAddr := 0x1000, ringLog2 := 4 })] }

/-- READY, in the service state, with a configuration that is also the open shadow and the last snapshot. -/
def dev (c : Shadow) : State :=
  { dyn := { bring := { ready := true }, cfg := c }, snap := { cfg := c }, lock := { opn := c }
    mailboxes := [(1, { negotiated := true }), (64, { negotiated := true })] }

/-- The device of most tests. -/
def dev0 : State := dev cfg0

/-- Parameters from their fields (lowest bit, width, value). -/
def par (fs : List (Nat × Nat × Nat)) : Params := BitVec.ofNat 384 (packFields fs)

/-- A packet of the supervisor at device scope. -/
def sup (fs : List (Nat × Nat × Nat)) : Cmd := { path := .supervisor, device := true, params := par fs }
/-- A packet of berth 1 by its mailbox. -/
def own (fs : List (Nat × Nat × Nat)) : Cmd := { path := .mailbox 1, berth := 1, gen := 3, params := par fs }
/-- A packet of berth 1 by its submission queue. -/
def que (fs : List (Nat × Nat × Nat)) : Cmd := { path := .queue 16, berth := 1, gen := 3, params := par fs }

/-- The next state has a property. -/
def after (o : Host.Outcome State Fault Refusal) (f : State → Bool) : Bool :=
  match o with
  | .next t => f t
  | _ => false

/-- The path was answered in its mailbox with a status (bits [63:48] of the record behind the message header). -/
def replies (m st : Nat) (o : Host.Outcome State Fault Refusal) : Bool :=
  after o fun t => (t.mailbox m).state == .replied && ofBytes (((t.mailbox m).outb.drop 22).take 2) == st

/-- The packet was refused or answered with a status, and the open shadow is the one before. -/
def refuses (m st : Nat) (o : Host.Outcome State Fault Refusal) : Bool :=
  replies m st o && after o fun t => t.lock.openCmds.isEmpty

/-- A configuration command was entered, and the open shadow has a property. -/
def enters (o : Host.Outcome State Fault Refusal) (f : Shadow → Bool) : Bool :=
  after o fun t => t.lock.openCmds.length == 1 && f t.lock.opn

/-- The device with bytes from a device physical address upwards; frame 0x100 holds page 0 of berth 1. -/
def holding (pa : Nat) (bs : List Byte) (s : State) : State :=
  { s with mem := { s.mem with bytes := putBytes s.mem.bytes pa bs } }

/-- A record of `n` bytes from its fields. -/
def rcd (n : Nat) (fs : List (Nat × Nat × Nat)) : List Byte := bytesOf n (packFields fs)

/-- An access came to data. -/
def reads {α : Type} (r : State × Access α) : Bool :=
  match r.2 with
  | .ok _ => true
  | _ => false

/-- The moving part changed. -/
def withDyn (f : Dyn → Dyn) (s : State) : State := { s with dyn := f s.dyn }

/-- The device with the jobs listed. -/
def withJob (n : Nat) (b : Job) (s : State) : State :=
  withDyn (fun d => { d with work := { d.work with jobs := [(n, some b)], nextJob := n + 1 } }) s

/-- A job of berth 1 from queue 16 that writes page 0. -/
def job1 : Job :=
  { kind := .matmul, ticket := { opcode := 0x1020, cmd := que [], gen := 3 }, berth := 1, gen := 3, queue := some 16, basin := 5,
    outs := [(0, 0x10000)] }

/-! What is well formed: for each check of WellFormed a term that it refuses, beside one that it takes -/

theorem test_wf_memory : (Instr.wellFormed (.frameZero (36 * 0x8000 - 1)) && !Instr.wellFormed (.frameZero (36 * 0x8000))
    && Instr.wellFormed (.memoryRead (.edge .gateway 1) 0 4096 0 false) && !Instr.wellFormed (.memoryRead (.edge .gateway 1) 0 0 0 false)
    && !Instr.wellFormed (.memoryRead (.edge .gateway 1) 0 4097 0 false)
    && Instr.wellFormed (.memoryWrite (.edge .gateway 1) 0 [1] false) && !Instr.wellFormed (.memoryWrite (.edge .gateway 1) 0 [] false)
    && Instr.wellFormed (.memoryAtomic (.edge .gateway 1) 4 .add false 1 0) && !Instr.wellFormed (.memoryAtomic (.edge .gateway 1) 4 .add true 1 0)
    && Instr.wellFormed (.patrolRead 64 0) && !Instr.wellFormed (.patrolRead 63 0)
    && Instr.wellFormed (.creditReturn 37 .posted false) && !Instr.wellFormed (.creditReturn 38 .posted false)) = true := by decide

theorem test_wf_registers : (Instr.wellFormed (.registerWrite 8 (List.replicate 8 0)) && !Instr.wellFormed (.registerWrite 4 (List.replicate 8 0))
    && !Instr.wellFormed (.registerWrite 0 (List.replicate 3 0))
    && Instr.wellFormed (.i3cPrivateWrite [0]) && !Instr.wellFormed (.i3cPrivateWrite [])
    && Instr.wellFormed (.i3cReplyRead 1) && !Instr.wellFormed (.i3cReplyRead 0)
    && Instr.wellFormed (.fwUpdateRecovery (sup [])) && !Instr.wellFormed (.fwUpdateRecovery (own []))) = true := by decide

theorem test_wf_lanes : (Instr.wellFormed (.bundleIssue 0 0 (.convert 0 0 0xD 0xD) .good)
      && !Instr.wellFormed (.bundleIssue 0 0 (.convert 0 0 0xE 0) .good)
    && !Instr.wellFormed (.bundleIssue 0 0 (.convert 0 0 0 0xF) .good)) = true := by decide

theorem test_wf_sensors : (Instr.wellFormed (.startPacket 0 0 [1] false) && !Instr.wellFormed (.startPacket 0 0 [] false)
    && Instr.wellFormed (.lidarPacket 0 0 [1] false) && !Instr.wellFormed (.lidarPacket 0 0 [] false)
    && Instr.wellFormed (.longPacket 0 0 0 [] .none) && Instr.wellFormed (.rxFrame 0 0 0 [1]) && !Instr.wellFormed (.rxFrame 0 0 0 [])
    && Instr.wellFormed (.pcieInbound 0 0 none 1) && !Instr.wellFormed (.pcieInbound 0 0 none 0)
      && !Instr.wellFormed (.pcieInbound 0 0 (some []) 1)) = true := by
  decide

theorem test_wf_long_inputs : (!Instr.wellFormed (.rxFrame 0 0 0 (List.replicate 2059 0))
    && !Instr.wellFormed (.startPacket 0 0 (List.replicate 1473 0) false) && !Instr.wellFormed (.lidarPacket 0 0 (List.replicate 1473 0) false)
    && !Instr.wellFormed (.memoryWrite (.edge .gateway 1) 0 (List.replicate 4097 0) false) && !Instr.wellFormed (.i3cPrivateWrite (List.replicate 257 0))
    && !Instr.wellFormed (.pcieInbound 0 0 none 4097)) = true := by decide +kernel

theorem test_wf_long_packet (bs : List Byte) (h : bs.length = 65536) : Instr.wellFormed (.longPacket 0 0 0 bs .none) = false := by
  simp [Instr.wellFormed, h]

theorem test_wf_isgal : (let x : IsgalTx := { kind := 0xA }
    Instr.wellFormed (.inboundTransaction 0 x) && !Instr.wellFormed (.inboundTransaction 0 { x with kind := 0xB })
    && !Instr.wellFormed (.inboundTransaction 0 { x with cls := 3 }) && !Instr.wellFormed (.inboundTransaction 0 { x with size := 7 })
    && !Instr.wellFormed (.inboundTransaction 0 { x with data := List.replicate 65 0 })
    && Instr.wellFormed (.lockRead 0 x) && !Instr.wellFormed (.lockRead 0 { x with kind := 0xB })
    && Instr.wellFormed (.lockWrite 0 x) && !Instr.wellFormed (.lockWrite 0 { x with kind := 0xB })
    && Instr.wellFormed (.flitReceive 0 0 0 false true 0 ⟨(List.replicate 12 x), []⟩)
      && !Instr.wellFormed (.flitReceive 0 0 0 false true 0 ⟨(List.replicate 13 x), []⟩)
    && Instr.wellFormed (.peerCutCopy 0 0 (List.replicate 32 0)) && !Instr.wellFormed (.peerCutCopy 0 0 (List.replicate 33 0))) = true := by decide

theorem test_wf_starts : (Instr.wellFormed (.coldStart {}) && Instr.wellFormed (.coldStart { pollUs := some 1000 })
    && !Instr.wellFormed (.coldStart { pollUs := some 1001 }) && !Instr.wellFormed (.warmResetRelease { pollUs := some 1 })
    && Instr.wellFormed (.tokenProduce 0 0 { channel := 4, kind := 0 } false)
      && !Instr.wellFormed (.tokenProduce 0 0 { channel := 5, kind := 0 } false)) = true := by
  decide

/-! The step and reset -/

theorem test_step_runs_the_front : after (step { dev0 with pending := [.echo (own [(0, 8, 7)]), .getbcr] }) (fun t =>
    t.pending.length == 1 && (t.mailbox 1).state == .replied) = true := by decide

theorem test_tick : (after (step dev0) (fun t => t.dyn.time.wc != dev0.dyn.time.wc && t.pending.isEmpty)
    && dev0.locks && !dev0.closeDue && !dev0.edgeDue && !State.reset.locks && State.reset.dyn.ingest.elastic.isEmpty) = true := by decide

theorem test_reset : (State.reset.mem.wf && State.reset.dyn.safety.latch && !State.reset.dyn.bring.ready
    && State.reset.pending.isEmpty) = true := by decide

/-! Device commands -/

theorem test_device_reads : (Admits opEcho (own [(0, 128, 5)]) dev0 && Admits opGetDeviceStatus (own []) dev0
    && Admits opGetFwIdentity (own []) dev0 && Admits opNegotiate (sup [(0, 64, 0xF)]) dev0
    && Admits opGetWeather (own [(0, 6, 1)]) dev0 && dev0.snap.cfg.physOf 1 == some 1
    && Admits opGetWeather (own [(0, 6, 31)]) dev0 && dev0.snap.cfg.physOf 31 == none) = true := by decide

theorem test_echo : after (exec (.echo (own [(0, 128, 2 ^ 127 + 5)])) dev0) (fun t =>
    ofBytes ((t.mailbox 1).outb.drop 32 |>.take 16) == 2 ^ 127 + 5) = true := by decide

theorem test_weather_of_no_tile : replies 1 0x0056 (exec (.getWeather (own [(0, 6, 31)])) dev0) = true := by decide

theorem test_negotiate_features : (after (exec (.negotiate (sup [(0, 64, 0xFF)])) dev0) (fun t => (t.mailbox 64).features == 0xF)
    && after (exec (.negotiate (own [(0, 64, 0xFF)])) dev0) fun t => (t.mailbox 1).features == 7) = true := by decide

theorem test_lock_commit : (Admits opLockCommit (own []) dev0
    && enters (exec (.lockCommit (own [])) dev0) (fun _ => true)) = true := by decide

theorem test_power_policy : (Admits opSetPowerPolicy (sup [(0, 5, 2), (8, 5, 0x12), (16, 1, 1)]) dev0
    && enters (exec (.setPowerPolicy (sup [(0, 5, 2), (8, 5, 0x12), (16, 1, 1)])) dev0) (fun c => c.policy.perfCeil == 0x12)
    && Admits opSetPowerPolicy (own [(0, 5, 2)]) dev0 && refuses 1 0x0003 (exec (.setPowerPolicy (own [(0, 5, 2)])) dev0)
    && !Admits opSetPowerPolicy (sup [(0, 5, 0x13)]) dev0) = true := by decide

/-! Cuts, basins and berths -/

theorem test_cut_set : (let c := own [(0, 12, 4), (64, 1, 1), (65, 3, 0), (72, 18, 1), (104, 18, 17), (128, 6, 1)]
    Admits opCutSet c dev0 && enters (exec (.cutSet c) dev0) fun k => (tabGet {} k.cuts 4).gen == 3) = true := by decide

theorem test_cut_refusals :
    (refuses 1 0x00C1 (exec (.cutSet (own [(64, 1, 1), (65, 3, 0), (72, 18, 2), (128, 6, 1)])) dev0)
    && refuses 1 0x00C1 (exec (.cutSet (own [(64, 1, 1), (128, 6, 2)])) dev0)
    && refuses 64 0x00C0 (exec (.cutSet (sup [(64, 1, 1), (65, 3, 0), (72, 18, 32), (128, 6, 1)])) dev0)
    && refuses 64 0x00C0 (exec (.cutSet (sup [(64, 1, 1), (65, 3, 4), (128, 6, 3)])) dev0)
    && refuses 64 0x00C8 (exec (.cutSet (sup [(64, 1, 1), (65, 3, 4), (104, 18, 17), (128, 6, 2)])) dev0)) = true := by decide

theorem test_cut_clear : (let s := dev { cfg0 with cuts := [(4, { valid := true, berth := 2 })] }
    refuses 1 0x00C1 (exec (.cutClear (own [(0, 12, 4)])) s) && refuses 1 0x00C0 (exec (.cutClear (own [(0, 12, 5)])) s)
    && enters (exec (.cutClear (sup [(0, 12, 4)])) s) fun k => k.cuts.isEmpty) = true := by decide

theorem test_basin_create : (let c := own [(0, 10, 6), (74, 2, 1), (96, 6, 1), (104, 18, 18), (128, 32, 2)]
    Admits opBasinCreate c dev0
    && basinChecks (admitted c dev0) (ticketOf opBasinCreate c dev0) cfg0 6 {} (basinOfParams c.params) true == none
    && enters (exec (.basinCreate c) dev0) (fun k => (k.basin 6).tileMask == 2)
    && refuses 1 0x0050 (exec (.basinCreate (own [(0, 10, 5), (74, 2, 1)])) dev0)
    && refuses 1 0x0052 (exec (.basinCreate (own [(0, 10, 6), (74, 2, 1), (96, 6, 1), (104, 18, 18), (128, 32, 1)])) dev0)) = true := by
  decide

theorem test_basin_modify : (let c := own [(0, 10, 5), (74, 2, 1), (96, 6, 1), (104, 18, 16), (128, 32, 3)]
    Admits opBasinModify c dev0
    && enters (exec (.basinModify c) dev0) (fun k => (k.basin 5).tileMask == 3)
    && refuses 1 0x0050 (exec (.basinModify (own [(0, 10, 7), (74, 2, 1)])) dev0)) = true := by decide

theorem test_basin_destroy : (let empty := dev { cfg0 with basins := [(5, { kind := 2, berth := 1, endpoint := 16 })] }
    let safety := dev { cfg0 with basins := [(0, { kind := 2, berth := 1, endpoint := 16 })] }
    refuses 1 0x0054 (exec (.basinDestroy (own [(0, 10, 5)])) dev0)
    && refuses 1 0x0053 (exec (.basinDestroy (own [])) safety)
    && enters (exec (.basinDestroy (sup [])) safety) (fun k => k.basins.isEmpty)
    && enters (exec (.basinDestroy (own [(0, 10, 5)])) empty) fun k => k.basins.isEmpty) = true := by decide

theorem test_berth_create : (let c := sup [(8, 6, 3), (64, 24, 16), (96, 24, 16), (128, 18, 32), (160, 19, 16), (192, 24, 1)]
    Admits opBerthCreate c dev0 && berthChecks cfg0 3 {} (({} : BerthDesc).withParams c.params) == none
    && enters (exec (.berthCreate c) dev0) (fun k => (k.berth 3).state == .live && (k.berth 3).gen == 1)
    && refuses 64 0x0111 (exec (.berthCreate (sup [(8, 6, 1)])) dev0)
    && refuses 64 0x0110 (exec (.berthCreate (sup [(8, 6, 3), (128, 18, 8)])) dev0)
    && refuses 64 0x0112 (exec (.berthCreate (sup [(8, 6, 3), (128, 18, 16), (160, 19, 16)])) dev0)
    && refuses 1 0x0115 (exec (.berthCreate (own [(8, 6, 3)])) dev0)) = true := by decide

theorem test_berth_modify : (let c := sup [(8, 6, 2), (32, 24, 9)]
    Admits opBerthModify c dev0 && berthChecks cfg0 2 (cfg0.berth 2) ((cfg0.berth 2).withParams c.params) == none
    && enters (exec (.berthModify c) dev0) (fun k => (k.berth 2).wakeTol == 9 && (k.berth 2).gen == 1)
    && refuses 64 0x0111 (exec (.berthModify (sup [(8, 6, 3)])) dev0)
    && refuses 1 0x0115 (exec (.berthModify (own [(8, 6, 1)])) dev0)) = true := by decide

theorem test_berth_reset : (let safety := dev { cfg0 with basins := [(0, { kind := 1, berth := 1, endpoint := 16 })], running := true }
    enters (exec (.berthReset (own [(0, 6, 1)])) dev0) (fun k => (k.berth 1).gen == 4 && k.queues.isEmpty && k.xlat.isEmpty)
    && refuses 64 0x0111 (exec (.berthReset (sup [(0, 6, 3)])) dev0)
    && safety.inService == false && refuses 1 0x0053 (exec (.berthReset (own [(0, 6, 1)])) safety)) = true := by decide

theorem test_berth_destroy : (enters (exec (.berthDestroy (sup [(0, 6, 1)])) dev0) (fun k =>
      (k.berth 1).state == .closing && (k.berth 1).gen == 4)
    && refuses 1 0x0115 (exec (.berthDestroy (own [(0, 6, 1)])) dev0)) = true := by decide

theorem test_generation_rises_once : (tabWf {} cfg0.berths && tabWf 0 cfg0.genRaise
    && (((cfg0.raiseGen 1 .live 1).raiseGen 1 .closing 1).berth 1).gen == 4) = true := by decide

theorem test_berth_grant : (let g := [(7, 1, 1), (8, 6, 1), (32, 32, 0xC0000000), (64, 32, 4)]
    let s := dev { cfg0 with grants := [(1, { valid := true, berth := 2, first := 0xC0000003, frames := 1 })] }
    let mapped := dev { cfg0 with
      grants := [(0, { valid := true, berth := 1, first := 0xC0000000, frames := 1 })]
      xlat := [(0, { valid := true, target := 2, frame := 0xC0000000, owner := 1 })] }
    enters (exec (.berthGrant (sup g)) dev0) (fun k => (tabGet {} k.grants 0).frames == 4)
    && refuses 1 0x0115 (exec (.berthGrant (own g)) dev0)
    && refuses 64 0x0111 (exec (.berthGrant (sup [(7, 1, 1), (8, 6, 3), (32, 32, 0xC0000000), (64, 32, 4)])) dev0)
    && refuses 64 0x0110 (exec (.berthGrant (sup [(7, 1, 1), (8, 6, 1), (32, 32, 0xBFFFFFFF), (64, 32, 4)])) dev0)
    && refuses 64 0x0110 (exec (.berthGrant (sup [(7, 1, 1), (8, 6, 1), (32, 32, 0xFFFFFFFF), (64, 32, 2)])) dev0)
    && refuses 64 0x0112 (exec (.berthGrant (sup g)) s)
    && refuses 64 0x0110 (exec (.berthGrant (sup [(0, 7, 1), (8, 6, 1)])) s)
    && enters (exec (.berthGrant (sup [(0, 7, 1), (8, 6, 2)])) s) (fun k => k.grants.isEmpty)
    && refuses 64 0x0113 (exec (.berthGrant (sup [(8, 6, 1)])) mapped)) = true := by decide

/-! Queues and mappings -/

theorem test_queue_create : (let q := [(64, 1, 1), (67, 2, 1), (72, 6, 1), (96, 40, 0x2000), (136, 5, 4), (144, 18, 17)]
    enters (exec (.queueCreate (own ((0, 18, 18) :: q))) dev0) (fun k => (k.queueDesc 18).gen == 3 && (k.queueDesc 18).cq == 17)
    && refuses 1 0x0090 (exec (.queueCreate (own ((0, 18, 16) :: q))) dev0)
    && refuses 1 0x0094 (exec (.queueCreate (own ((0, 18, 32) :: q))) dev0)
    && refuses 1 0x0094 (exec (.queueCreate (own ((0, 18, 15) :: q))) dev0)
    && refuses 1 0x0091 (exec (.queueCreate (own [(0, 18, 18), (64, 1, 1), (67, 2, 1), (72, 6, 1), (136, 5, 3), (144, 18, 17)])) dev0)
    && refuses 1 0x0091 (exec (.queueCreate (own [(0, 18, 18), (64, 1, 1), (67, 2, 1), (72, 6, 1), (136, 5, 4), (144, 18, 16)])) dev0))
    = true := by decide

theorem test_queue_modify : (let q := fun (ring : Nat) => [(0, 18, 17), (64, 1, 1), (65, 2, 1), (72, 6, 1), (96, 40, ring), (136, 5, 4)]
    let filled := { dev0 with dyn := { dev0.dyn with queues := [(17, { prod := 1 })] } }
    enters (exec (.queueModify (own (q 0x3000))) dev0) (fun k => (k.queueDesc 17).ringAddr == 0x3000)
    && refuses 1 0x0093 (exec (.queueModify (own (q 0x3000))) filled)
    && enters (exec (.queueModify (own (q 0x1000))) filled) (fun k => (k.queueDesc 17).ringAddr == 0x1000)
    && refuses 1 0x0091 (exec (.queueModify (own (q 0x3001))) dev0)
    && refuses 1 0x0093 (exec (.queueModify (own [(0, 18, 17), (64, 1, 1), (65, 2, 2), (72, 6, 1), (96, 40, 0x1000), (136, 5, 4)])) dev0)
    && refuses 1 0x0090 (exec (.queueModify (own ((0, 18, 18) :: (q 0).tail))) dev0)) = true := by decide

theorem test_queue_destroy_and_resume : (let loose := dev { cfg0 with basins := [] }
    enters (exec (.queueDestroy (own [(0, 18, 16)])) loose) (fun k => (k.queueDesc 16).valid == false)
    && refuses 1 0x0093 (exec (.queueDestroy (own [(0, 18, 16)])) dev0)
    && refuses 1 0x0093 (exec (.queueDestroy (own [(0, 18, 17)])) dev0)
    && refuses 1 0x0090 (exec (.queueDestroy (own [(0, 18, 18)])) dev0)
    && enters (exec (.queueResume (own [(0, 18, 16)])) dev0) (fun k => tabGet 0 k.resumes 16 == 1)
    && enters (exec (.queueResume (own [(0, 18, 16), (18, 1, 1)])) dev0) (fun k => tabGet 0 k.resumes 16 == 2)
    && refuses 1 0x0090 (exec (.queueResume (own [(0, 18, 18)])) dev0)) = true := by decide

theorem test_mapping_refusals : (let m := fun (va n : Nat) => [(0, 40, va), (64, 24, n)]
    memMustWait dev0 1 == false
    && refuses 1 0x00A0 (exec (.memAlloc (own (m 0x10001 1))) dev0) && refuses 1 0x00A0 (exec (.memFree (own (m 0xF0000 2))) dev0)
    && refuses 1 0x00A0 (exec (.memProtect (own (m 0 0))) dev0)
    && refuses 1 0x00A0 (exec (.memMapWindow (own ((96, 2, 2) :: m 0x100000 1))) dev0)
    && refuses 1 0x00A2 (exec (.memAlloc (own (m 0 1))) dev0) && refuses 1 0x00A3 (exec (.memFree (own (m 0 2))) dev0)
    && refuses 1 0x00A5 (exec (.memAlloc (own (m 0x10000 1))) (dev { cfg0 with
         berths := tabMod {} cfg0.berths 1 fun b => { b with memQuota := 1 } }))) = true := by decide

theorem test_window : (let s := dev { cfg0 with grants := [(0, { valid := true, berth := 1, first := 0xC0000000, frames := 2 })] }
    let w := own [(0, 40, 0x10000), (64, 24, 2), (96, 2, 2), (128, 4, 0xB), (160, 32, 0xC0000000)]
    Admits opMemMapWindow w s && enters (exec (.memMapWindow w) s) fun k =>
      (tabGet {} k.xlat 1).frame == 0xC0000000 && (tabGet {} k.xlat 2).frame == 0xC0000001 && (tabGet {} k.xlat 2).device1) = true := by
  decide

theorem test_free_and_protect : (let s := dev { cfg0 with frames := [(0x100, .held 1)] }
    enters (exec (.memFree (own [(64, 24, 1)])) s) (fun k => k.xlat.isEmpty && tabGet .free k.frames 0x100 == .freed 1 1)
    && enters (exec (.memProtect (own [(64, 24, 1), (128, 4, 1)])) s) (fun k =>
      (tabGet {} k.xlat 0).write == false && (tabGet {} k.xlat 0).read)) = true := by decide

theorem test_alloc : (let c := own [(0, 40, 0x10000), (64, 24, 1), (96, 2, 2), (112, 10, 1), (128, 4, 3)]
    Admits opMemAlloc c dev0 && cfg0.enabled 1) = true := by decide

theorem test_descriptors_read : (replies 1 0 (exec (.getBasin (own [(0, 10, 5)])) dev0)
    && replies 1 0x0050 (exec (.getBasin (own [(0, 10, 6)])) dev0)
    && replies 1 0 (exec (.getBerth (own [(0, 6, 1)])) dev0) && replies 1 0x0115 (exec (.getBerth (own [(0, 6, 2)])) dev0)
    && replies 1 0 (exec (.getQueue (own [(0, 18, 16)])) dev0) && replies 1 0x0090 (exec (.getQueue (own [(0, 18, 18)])) dev0)
    && replies 1 0 (exec (.getMapping (own [(0, 40, 0)])) dev0) && replies 1 0 (exec (.getMapping (own [(0, 40, 0x10000)])) dev0)
    && replies 1 0x00A0 (exec (.getMapping (own [(0, 40, 1)])) dev0)
    && replies 1 0x00A0 (exec (.getMapping (own [(0, 40, 0x100000)])) dev0)) = true := by decide

/-! Models, lane programs, tensor commands -/

theorem test_model_table : (let m := dev { cfg0 with models := [(1024 + 7, { valid := true })] }
    let busy := withJob 1 { job1 with kind := .model, handle := 7 } m
    Admits opModelUnregister (own [(0, 10, 7)]) m
    && enters (exec (.modelUnregister (own [(0, 10, 7)])) m) (fun k => k.models.isEmpty)
    && refuses 1 0x0083 (exec (.modelUnregister (own [(0, 10, 7)])) busy)
    && refuses 1 0x0082 (exec (.modelUnregister (own [(0, 10, 8)])) m)
    && replies 1 0 (exec (.getModel (own [(0, 10, 7)])) m) && replies 1 0x0082 (exec (.getModel (own [(0, 10, 8)])) m)) = true := by
  decide +kernel

theorem test_residency : (refuses 1 0x0080 (exec (.setResidency (own [(0, 1, 1)])) dev0)
    && enters (exec (.setResidency (own [(0, 1, 1), (8, 8, 1)])) dev0) (fun k =>
      (tabGet {} k.residency 1).hotShare == 1 && (tabGet {} k.residency 1).hotSet)) = true := by decide +kernel

/-- A program header of R129: KIND 0, 16 bytes of code at page offset 0x1000. -/
def program0 : List Byte :=
  rcd 64 [(0, 4, 1), (8, 8, 1), (16, 8, 1), (32, 11, 1), (43, 11, 1), (54, 10, 1), (80, 16, 1), (96, 32, 16), (128, 40, 0x1000)]

theorem test_program_load_conditions : (let s := holding 0x1000000 program0 dev0
    let c := own []
    let r := readVirt (ticketOf opProgramLoad c s).src 1 0 64 (admitted c s)
    Admits opProgramLoad c s && s.readable 1 0 64 && reads r && programValid (BitVec.ofNat 512 (ofBytes program0))
    && s.readable 1 0x1000 16 && reads (readVirt (ticketOf opProgramLoad c s).src 1 0x1000 16 r.1)
    && refuses 1 0x0077 (exec (.programLoad (own [(0, 40, 32)])) s)
    && refuses 1 0x0077 (exec (.programLoad (own [(0, 40, 0x10000)])) s)) = true := by decide +kernel

theorem test_program_unload : (let s := dev { cfg0 with programs := [(64 + 2, { valid := true })] }
    let busy := withJob 1 { job1 with kind := .dispatch, slot := 2 } s
    enters (exec (.programUnload (own [(0, 6, 2)])) s) (fun k => k.programs.isEmpty)
    && refuses 1 0x0072 (exec (.programUnload (own [(0, 6, 3)])) s)
    && refuses 1 0x0073 (exec (.programUnload (own [(0, 6, 2)])) busy)) = true := by decide +kernel

theorem test_model_register_refuses : (Admits opModelRegister (own [(0, 40, 32)]) dev0
    && refuses 1 0x008A (exec (.modelRegister (own [(0, 40, 32)])) dev0)
    && refuses 1 0x008A (exec (.modelRegister (own [(0, 40, 0x10000)])) dev0)) = true := by decide +kernel

theorem test_lane_dispatch : (let s := dev { cfg0 with programs := [(64, { valid := true, regs := 1, wgX := 1, wgY := 1, wgZ := 1, timeLimit := 1 })] }
    let g := [(16, 10, 5), (32, 16, 1), (48, 16, 1), (64, 16, 1)]
    Admits opLaneDispatch (own g) s && after (exec (.laneDispatch (own g)) s) (fun t => (t.job 0).isSome)
    && refuses 1 0x0050 (exec (.laneDispatch (own [(16, 10, 6)])) s) && refuses 1 0x0072 (exec (.laneDispatch (own g)) dev0)
    && refuses 1 0x0078 (exec (.laneDispatch (own [(16, 10, 5), (32, 16, 1), (48, 16, 1)])) s)) = true := by decide +kernel

theorem test_model_invoke : (let s := dev { cfg0 with models := [(1024 + 7, { valid := true })], residency := [(1, { hotSet := true })] }
    let i := own [(0, 10, 7), (16, 10, 5)]
    Admits opModelInvoke i s && after (exec (.modelInvoke i) s) (fun t => (t.job 0).isSome)
    && refuses 1 0x0082 (exec (.modelInvoke (own [(16, 10, 5)])) s) && refuses 1 0x0050 (exec (.modelInvoke (own [(0, 10, 7)])) s)
    && after (exec (.modelPreload i) s) (fun t => (t.job 0).isSome)
    && refuses 1 0x0082 (exec (.modelPreload (own [(16, 10, 5)])) s)
    && replies 1 0 (exec (.modelPreload i) (dev { s.dyn.cfg with residency := [] }))) = true := by decide +kernel

/-- Pages 1 and 2 of berth 1 mapped too. -/
def cfg3 : Shadow :=
  { cfg0 with
    xlat := (upFrom 0 3).map fun i =>
      (i, { valid := true, read := true, write := true, frame := BitVec.ofNat 32 (0x100 + i), owner := 1 }) }

/-- A tensor header of R98: INT8, one dimension pair, layout `l`. -/
def tensor0 (l data : Nat) : List Byte :=
  rcd 64 [(0, 4, 1), (4, 4, 0xA), (8, 2, l), (10, 2, 1), (32, 24, 1), (56, 24, 1), (128, 40, data)]

theorem test_tensor_commands : (let s := holding 0x1000000 (tensor0 1 0x4000 ++ tensor0 2 0x10000 ++ tensor0 1 0x20000) (dev cfg3)
    let m := que [(64, 40, 64), (128, 40, 128)]
    let v := que [(64, 40, 128)]
    Admits opTensorMatmul m s && tensorBasin (ticketOf opTensorMatmul m s) (admitted m s) == some 5
    && Admits opTensorConvert v s
    && after (exec (.tensorMatmul m) s) (fun t => (t.job 0).isSome) && after (exec (.tensorConvert v) s) (fun t => (t.job 0).isSome)
    && refuses 1 0x0050 (exec (.tensorMatmul (own [])) s) && refuses 1 0x0050 (exec (.tensorConvert (own [])) s)) = true := by decide +kernel

theorem test_jobs_wait : (let s := withJob 0 job1 (dev cfg3)
    s.mustWait 16 [(0, 64)] 1 && !s.mustWait 16 [(0x10000, 64)] 1 && !s.mustWait 17 [(0, 64)] 1 && tabWf none s.dyn.work.jobs
    && after (exec (.tensorMatmul (que [(64, 40, 64), (128, 40, 128)]))
        (holding 0x1000000 (tensor0 1 0x4000 ++ tensor0 2 0x10000 ++ tensor0 1 0x20000) s)) (fun t => t.dyn.work.nextJob == 1)) = true := by
  decide +kernel

theorem test_seed : (let c := que [(0, 10, 5), (64, 64, 9)]
    Admits opTensorSeed c dev0 && !dev0.queueWorks 16 && (withJob 0 job1 dev0).queueWorks 16
    && after (exec (.tensorSeedSr c) (withJob 0 job1 dev0)) (fun t => (t.queue 17).reserved == 0)
    && replies 1 0 (exec (.tensorSeedSr (own [(0, 10, 5), (64, 64, 9)])) dev0)
    && refuses 1 0x0065 (exec (.tensorSeedSr (own [(0, 10, 5)])) dev0)
    && refuses 1 0x0050 (exec (.tensorSeedSr (own [(0, 10, 6), (64, 64, 9)])) dev0)) = true := by decide +kernel

/-! Raster contexts, passes, images and displays -/

/-- Some element of a list that is not empty is picked, whatever the free value. -/
theorem pick_some {α : Type} (k : Nat) (xs : List α) (h : xs ≠ []) : ∃ x, pickFrom k xs = some x :=
  ⟨_, List.getElem?_eq_getElem (Nat.mod_lt k (List.length_pos_of_ne_nil h))⟩

/-- Berth 1 with context 7: events to queue 17, the bin in pages 1 and 2; output 0 shows 16 x 16 pixels. -/
def cfgR : Shadow :=
  { cfg3 with
    rasterCtx := [(7, { valid := true, berth := 1, basin := 5, eventQueue := 17, binVa := 0x10000, binPages := 2 })]
    rasterState := [(1024 + 3, some 0)]
    displays := [(0, { enable := true, lanes := 4, hActive := 16, hTotal := 20, vActive := 16, vTotal := 20, frameNs := 16666666,
                       laneRate := 1000 })] }

/-- An image descriptor of R266 at 16 x 16 texels of format 0x03, its data in page 2, its tag plane at `tag`. -/
def image0 (tag : Nat) : List Byte :=
  rcd 64 [(0, 6, 3), (8, 4, 1), (16, 15, 16), (32, 15, 16), (48, 11, 1), (64, 40, 0x20000), (128, 40, tag)]

/-- Page 0 of berth 1: a draw record at 0, a target table at 0x1000 whose entry 0 names the image at 0x2000; a tagged image at
0x3000. -/
def devR : State :=
  holding 0x1001000 (rcd 32 [(0, 2, 1), (64, 40, 0x2000)]) (holding 0x1002000 (image0 0) (holding 0x1003000 (image0 0x5000) (dev cfgR)))

theorem test_ctx_create_conditions :
    (∃ n, pickFrom (Config.pick dev0.free 0) ((upFrom 0 512).filter fun n => !(cfg0.context n).valid) = some n)
    ∧ Admits opCtxCreate (own [(16, 10, 5), (32, 18, 17), (128, 24, 2)]) dev0 = true :=
  ⟨pick_some _ _ (by decide +kernel), by decide +kernel⟩

/-- Context 7 with a pass that bins. -/
def binning : State :=
  withDyn (fun d => { d with raster := { d.raster with passes := [(7, { phase := .binning, job := some { opcode := 0x3010, cmd := que [], gen := 3 } })] } }) devR

theorem test_ctx_destroy_and_grow : (enters (exec (.rasterCtxDestroy (own [(0, 9, 7)])) devR) (fun k => k.rasterCtx.isEmpty)
    && refuses 1 0x00B0 (exec (.rasterCtxDestroy (own [(0, 9, 6)])) devR)
    && refuses 1 0x00B6 (exec (.rasterCtxDestroy (own [(0, 9, 7)])) binning)
    && enters (exec (.binGrow (own [(0, 9, 7), (128, 24, 2)])) devR) (fun k => (k.context 7).grown == 1)
    && refuses 1 0x00B5 (exec (.binGrow (own [(0, 9, 7), (128, 24, 3)])) devR)
    && refuses 1 0x00B5 (exec (.binGrow (own [(0, 9, 7), (128, 24, 1)])) devR)
    && refuses 1 0x00B0 (exec (.binGrow (own [(0, 9, 6), (128, 24, 2)])) devR)
    && replies 1 0 (exec (.getRasterCtx (own [(0, 9, 7)])) devR) && replies 1 0x00B0 (exec (.getRasterCtx (own [(0, 9, 6)])) devR))
    = true := by decide +kernel

theorem test_state_blocks : (refuses 1 0x00B4 (exec (.rasterStateLoad (own [(0, 40, 32)])) devR)
    && refuses 1 0x00B2 (exec (.rasterStateLoad (own [(0, 40, 0)])) devR)
    && enters (exec (.rasterStateFree (own [(0, 10, 3)])) devR) (fun k => k.rasterState.isEmpty)
    && refuses 1 0x00B0 (exec (.rasterStateFree (own [(0, 10, 4)])) devR)
    && refuses 1 0x00B6 (exec (.rasterStateFree (own [(0, 10, 3)])) binning)) = true := by decide +kernel

theorem test_pass : (let c := own [(0, 9, 7), (32, 15, 16), (48, 15, 16), (128, 24, 1), (160, 40, 0x1000)]
    Admits opPass c devR && passChecks (admitted c devR) (ticketOf opPass c devR) (cfgR.context 7) == none
    && (match readTargets (ticketOf opPass c devR) (cfgR.context 7) (admitted c devR) with
      | (s, .ok p) => passReady s 7 5 (cfgR.context 7) (ticketOf opPass c devR) p
      | _ => false)
    && refuses 1 0x00B0 (exec (.rasterPass (own [(32, 15, 16)])) devR) && refuses 1 0x00B3 (exec (.rasterPass (own [(0, 9, 7)])) devR)
    && refuses 1 0x00BB (exec (.rasterPass (own [(0, 9, 7), (32, 15, 16), (48, 15, 16), (128, 24, 1), (160, 40, 0x6000)])) devR)
    && refuses 1 0x00B7 (exec (.binAbandon (own [(0, 9, 7)])) devR) && refuses 1 0x00B0 (exec (.binAbandon (own [(0, 9, 6)])) devR)
    && replies 1 0 (exec (.binAbandon (own [(0, 9, 7)])) binning)) = true := by
  decide +kernel

theorem test_image_commands : (let ok := own [(0, 40, 0x3000)]
    Admits opImageClear ok devR && Admits opImageResolve ok devR
    && replies 1 0 (exec (.imageClear ok) devR) && replies 1 0 (exec (.imageResolve ok) devR)
    && refuses 1 0x00BC (exec (.imageClear (own [(0, 40, 0x2000)])) devR) && refuses 1 0x00B4 (exec (.imageResolve (own [(0, 40, 1)])) devR)
    && (withJob 0 job1 devR).mustWait 16 [(0x3000, 64)] 1) = true := by decide +kernel

theorem test_display_commands : (let d := [(2, 1, 1), (5, 3, 4), (32, 16, 16), (48, 16, 20), (64, 16, 16), (80, 16, 20), (128, 32, 16666666), (192, 16, 1000)]
    Admits opDisplayConfigure (own d) devR && enters (exec (.displayConfigure (own d)) devR) (fun k => (k.output 0).made == 1)
    && refuses 1 0x00BD (exec (.displayConfigure (own ((0, 2, 1) :: d))) devR)
    && refuses 1 0x00BE (exec (.displayConfigure (own ((160, 32, 16666666) :: d))) devR)
    && after (exec (.displayPresent (own [(64, 40, 0x2000)])) devR) (fun t => (t.display 0).pending.isSome)
    && refuses 1 0x00BC (exec (.displayPresent (own [(64, 40, 0x1000)])) devR)
    && refuses 1 0x00B4 (exec (.displayPresent (own [(64, 40, 0x2001)])) devR)
    && refuses 1 0x00BD (exec (.displayPresent (own [(0, 2, 1), (64, 40, 0x2000)])) devR)
    && after (exec (.displayPresent (que [(64, 40, 0x2000)])) (withJob 0 job1 devR)) (fun t => (t.display 0).pending.isNone)
    && replies 1 0 (exec (.getDisplay (own [])) devR) && replies 1 0x00BD (exec (.getDisplay (own [(0, 2, 1)])) devR)) = true := by
  decide +kernel

/-! Ingest, fusion and time commands -/

/-- Berth 1 with streams 0 and 1 granted, a transmit port in memory mode, group 0, an enabled time domain A. -/
def cfgI : Shadow :=
  { cfg3 with
    triggers := [(0, { enable := true, period := 50000, width := 10 })]
    csiRx := [(0, { lanes := 4, rate := 2500 })]
    csiTx := [(0, { enable := true, memory := true })]
    streams := [(0, { lidar := true, segPackets := 1 })]
    groups := [(0, { enable := true, berth := 1, period := 50000, tableAddr := 0x10000 })] }

/-- The device with that configuration. -/
def devI : State := dev cfgI

theorem test_stream_config : (let c := [(18, 6, 0x2B), (32, 16, 2), (128, 40, 0x10000), (176, 8, 2), (192, 16, 1)]
    Admits opStreamConfig (own c) devI && enters (exec (.streamConfig (own c)) devI) (fun k => (k.stream 0).bufCount == 2)
    && refuses 1 0x00C1 (exec (.streamConfig (own ((0, 5, 2) :: c))) devI)
    && refuses 1 0x00C0 (exec (.streamConfig (own c.tail)) devI)
    && refuses 1 0x00C3 (exec (.streamConfig (own ((5, 1, 1) :: (128, 40, 0x40000) :: [(18, 6, 0x2B), (32, 16, 2), (176, 8, 2), (192, 16, 1)]))) devI))
    = true := by decide +kernel

theorem test_csi_and_triggers : (enters (exec (.csiRxConfig (sup [(0, 4, 11), (5, 3, 4), (8, 16, 9000)])) devI) (fun k => (k.rxPort 11).rate == 9000)
    && refuses 64 0x00C0 (exec (.csiRxConfig (sup [(0, 4, 11), (5, 3, 4), (8, 16, 9001)])) devI)
    && refuses 64 0x00C0 (exec (.csiRxConfig (sup [(0, 4, 12), (5, 3, 4), (8, 16, 80)])) devI)
    && refuses 64 0x00C0 (exec (.csiRxConfig (sup [(4, 1, 1), (5, 3, 4), (8, 16, 80)])) devI)
    && refuses 1 0x00C1 (exec (.csiRxConfig (own [(5, 3, 4), (8, 16, 80)])) devI)
    && enters (exec (.triggerConfig (sup [(5, 1, 1), (32, 32, 1000), (64, 32, 999), (96, 16, 1)])) devI) (fun k => (k.trigger 0).phase == 999)
    && refuses 64 0x00C0 (exec (.triggerConfig (sup [(5, 1, 1), (32, 32, 1000), (64, 32, 1000), (96, 16, 1)])) devI)
    && refuses 64 0x00C0 (exec (.triggerConfig (sup [(5, 1, 1), (32, 32, 999), (96, 16, 1)])) devI)
    && enters (exec (.csiTxConfig (sup [(2, 1, 1), (4, 3, 4), (16, 16, 2500), (32, 4, 1)])) devI) (fun k => (k.txPort 0).srcPort == 1)
    && refuses 64 0x00C6 (exec (.csiTxConfig (sup [(2, 1, 1), (4, 3, 1), (16, 16, 80)])) devI)
    && refuses 64 0x00C0 (exec (.csiTxConfig (sup [(4, 3, 3), (16, 16, 80)])) devI)) = true := by decide +kernel

theorem test_i3c_config : (enters (exec (.i3cConfig (own [(16, 16, 12500), (32, 16, 1000), (64, 18, 17)])) devI) (fun k => (k.bus 0).ibiQueue == 17)
    && refuses 1 0x00C0 (exec (.i3cConfig (own [(16, 16, 12501), (64, 18, 17)])) devI)
    && refuses 1 0x00C0 (exec (.i3cConfig (own [(64, 18, 16)])) devI)
    && refuses 1 0x00C1 (exec (.i3cConfig (own [(0, 2, 1), (64, 18, 17)])) devI)) = true := by decide +kernel

theorem test_transfers : (let send := [(7, 6, 0x2B), (128, 16, 1), (144, 16, 64), (160, 16, 64)]
    let list := holding 0x1000000 (rcd 16 [(7, 1, 1), (20, 12, 4), (32, 40, 0x100)]) devI
    replies 1 0 (exec (.getStreamStatus (own [])) devI) && replies 1 0x00C1 (exec (.getStreamStatus (own [(0, 5, 2)])) devI)
    && after (exec (.csiTxSend (own send)) devI) (fun t => (tabGet none t.dyn.ingest.tx 0).isSome)
    && after (exec (.csiTxSend (que send)) (withJob 0 job1 devI)) (fun t => (tabGet none t.dyn.ingest.tx 0).isNone)
    && refuses 1 0x00C1 (exec (.csiTxSend (own ((0, 2, 1) :: send))) devI) && refuses 1 0x00C0 (exec (.csiTxSend (own send.tail)) devI)
    && refuses 1 0x00C3 (exec (.csiTxSend (own ((64, 40, 0x30000) :: send))) devI)
    && after (exec (.i3cXfer (own [(128, 8, 1)])) list) (fun t => (tabGet none t.dyn.ingest.xfer 0).isSome)
    && after (exec (.i3cXfer (que [(128, 8, 1)])) (withJob 0 job1 list)) (fun t => (tabGet none t.dyn.ingest.xfer 0).isNone)
    && refuses 1 0x00C0 (exec (.i3cXfer (own [])) list) && refuses 1 0x00C1 (exec (.i3cXfer (own [(0, 2, 1), (128, 8, 1)])) list)
    && refuses 1 0x00C3 (exec (.i3cXfer (own [(64, 40, 0x30000), (128, 8, 1)])) list)) = true := by decide +kernel

theorem test_fusion_config : (let g := [(16, 12, 16), (32, 32, 10000), (96, 32, 1000), (128, 40, 0), (176, 8, 2), (192, 16, 1), (208, 8, 1), (216, 8, 1)]
    let late := [(16, 12, 16), (32, 32, 10000), (96, 32, 20001), (176, 8, 2), (192, 16, 1), (208, 8, 1), (216, 8, 1)]
    enters (exec (.fusionGroupConfig (sup g)) devI) (fun k => (k.group 0).intake == 16)
    && refuses 64 0x00D0 (exec (.fusionGroupConfig (sup late)) devI) && refuses 1 0x00D1 (exec (.fusionGroupConfig (own g)) devI)
    && refuses 64 0x00D2 (exec (.fusionGroupConfig (sup [(16, 12, 3329), (32, 32, 10000), (96, 32, 1000), (176, 8, 2), (192, 16, 4), (208, 8, 1), (216, 8, 1)])) devI)
    && refuses 64 0x00D6 (exec (.fusionGroupConfig (sup ((2, 1, 1) :: g))) devI)
    && enters (exec (.fusionStreamConfig (own [(5, 1, 1), (32, 8, 6), (96, 32, 100000)])) devI) (fun k => (k.fusionStream 0).join)
    && refuses 1 0x00D0 (exec (.fusionStreamConfig (own [(32, 8, 6), (96, 32, 100001)])) devI)
    && refuses 1 0x00D0 (exec (.fusionStreamConfig (own [(32, 8, 5), (96, 32, 1)])) devI)
    && refuses 1 0x00D1 (exec (.fusionStreamConfig (own [(0, 5, 2), (32, 8, 6), (96, 32, 1)])) devI)) = true := by decide +kernel

theorem test_fusion_pair : (let p := [(6, 1, 1), (16, 5, 1), (32, 16, 1), (48, 16, 4096)]
    enters (exec (.fusionPairSet (own p)) devI) (fun k => (tabGet {} k.pairs 0).h == 4096)
    && refuses 1 0x00D6 (exec (.fusionPairSet (own ((64, 40, 0x30000) :: p))) devI)
    && refuses 1 0x00D0 (exec (.fusionPairSet (own [(6, 1, 1), (32, 16, 1), (48, 16, 1)])) devI)
    && refuses 1 0x00D1 (exec (.fusionPairSet (own ((8, 5, 2) :: p))) devI)) = true := by decide +kernel

theorem test_fusion_outputs : (let s := withDyn (fun d => { d with fusion := { d.fusion with groups := [(0,
        { next := 6, stamps := [{ number := 5, validity := 0, mask := 0, carry := 0, oldest := [] }] })] } }) devI
    let ops := holding 0x1000000 (rcd 16 [(0, 3, 2)]) s
    let p := [(0, 6, 4), (8, 2, 1), (32, 32, 5), (168, 32, 64)]
    let a := [(32, 32, 5), (128, 16, 1)]
    replies 1 0 (exec (.getFusionStatus (own [])) devI) && replies 1 0x00D1 (exec (.getFusionStatus (own [(0, 2, 1)])) devI)
    && replies 1 0 (exec (.fusionPublish (own p)) s) && refuses 1 0x00D3 (exec (.fusionPublish (own p)) devI)
    && refuses 1 0x00D1 (exec (.fusionPublish (own ((6, 2, 1) :: p))) s) && refuses 1 0x00D0 (exec (.fusionPublish (own p.tail)) s)
    && refuses 1 0x00D6 (exec (.fusionPublish (own ((128, 40, 0x30000) :: p))) s)
    && after (exec (.fusionPublish (que p)) (withJob 0 job1 s)) (fun t => (t.queue 16).expSeq.isNone)
    && replies 1 0 (exec (.fusionAssoc (own a)) ops) && refuses 1 0x00D3 (exec (.fusionAssoc (own ((32, 32, 1) :: a.tail))) ops)
    && refuses 1 0x00D0 (exec (.fusionAssoc (own [(32, 32, 5)])) ops) && refuses 1 0x00D6 (exec (.fusionAssoc (own ((64, 40, 0x30000) :: a))) ops)
    && refuses 1 0x00D0 (exec (.fusionAssoc (own a)) s)) = true := by decide +kernel

theorem test_time_commands : (let d := [(1, 1, 1), (8, 8, 2), (20, 4, 2), (112, 8, 1), (128, 16, 1)]

    enters (exec (.timeDomainConfig (sup d)) devI) (fun k => k.domainA.enable && k.domainA.freqLimit == 1)
    && refuses 64 0x00E0 (exec (.timeDomainConfig (sup [(1, 1, 1), (8, 8, 1), (20, 4, 1), (112, 8, 1), (128, 16, 1)])) devI)
    && refuses 1 0x00E2 (exec (.timeDomainConfig (own d)) devI)
    && enters (exec (.timePortConfig (sup [(0, 3, 7), (4, 2, 1), (8, 4, 3)])) devI) (fun k => (k.timePort 7).role 0 == 1)
    && refuses 64 0x00E0 (exec (.timePortConfig (sup [(8, 4, 4)])) devI)
    && enters (exec (.timeSelect (sup [(1, 1, 1)])) devI) (fun k => k.auto)
    && refuses 1 0x00E2 (exec (.timeSelect (own [])) devI) && refuses 1 0x00E2 (exec (.timePortMeasure (own [])) devI)
    && replies 1 0 (exec (.getTimeStatus (own [])) devI)) = true := by decide +kernel

/-! The events of time -/

/-- Domain A is enabled with a slave port 0 and a master port 1; both links are up. -/
def devT : State :=
  withDyn (fun d => { d with
    time := { d.time with ports := [(0, { linkUp := true, asCapable := true }), (1, { linkUp := true })] }
    cfg := { d.cfg with
      domainA := { enable := true, holdMs := 1 }
      timePorts := [(0, { roleA := 1 }), (1, { roleA := 2 })] } }) dev0

/-- The device with domain A in a state, at a working-clock time. -/
def domA (x : DomState) (wc : Nat) : State :=
  withDyn (fun d => { d with time := { d.time with domA := { d.time.domA with state := x }, wc := wc } }) devT

theorem test_sync : (syncDomain devT 0 0 == some 0 && syncDomain devT 1 0 == none && syncDomain devT 0 1 == none
    && after (exec (.syncReceive 0 0 0 ⟨0, 0⟩ 0) (domA .acquiring 0)) (fun t => t.dyn.time.domA.good == 1)
    && after (exec (.syncReceive 0 0 0 ⟨0, 0⟩ 0) (domA .holdover 0)) (fun t => t.dyn.time.domA.state == .locked)
    && after (exec (.syncReceive 0 0 (1001 * 2 ^ 16) ⟨0, 0⟩ 0) (domA .locked 0)) (fun t => t.dyn.time.domA.state == .acquiring)) = true := by
  decide +kernel

theorem test_sync_send : (after (exec (.syncSend 1 0) devT) (fun t => (t.dyn.time.port 1).syncs.length == 2)
    && after (exec (.syncSend 0 0) devT) (fun t => (t.dyn.time.port 0).syncs.isEmpty)
    && after (exec (.pdelayExchange 0 0 0 0 (1600 * 2 ^ 16) 0) devT) (fun t => (t.dyn.time.port 0).asCapable)
    && after (exec (.pdelayExchange 0 0 0 0 (1601 * 2 ^ 16 + 65536) 0) devT) (fun t => !(t.dyn.time.port 0).asCapable)
    && after (exec (.portLinkDown 0) devT) (fun t => !(t.dyn.time.port 0).linkUp && !(t.dyn.time.port 0).asCapable)
    && after (exec (.portLinkUp 7 1 2) devT) (fun t => (t.dyn.time.port 7).newPaths == some (1, 2))) = true := by decide +kernel

theorem test_time_losses : (let late := 3 * 125000 * us48
    after (exec (.syncLoss 0) (domA .locked late)) (fun t => t.dyn.time.domA.state == .holdover)
    && after (exec (.syncLoss 0) (domA .locked (late - 1))) (fun t => t.dyn.time.domA.state == .locked)
    && after (exec (.syncLoss 0) (domA .acquiring late)) (fun t => t.dyn.time.domA.state == .lost)
    && after (exec (.syncLoss 0) (domA .lost late)) (fun t => t.dyn.time.domA.state == .lost)
    && after (exec (.holdoverExpiry 0) (domA .holdover (1000 * us48))) (fun t => t.dyn.time.domA.state == .lost)
    && after (exec (.holdoverExpiry 0) (domA .holdover (1000 * us48 - 1))) (fun t => t.dyn.time.domA.state == .holdover)
    && after (exec .workingClockSlew (domA .locked (100 * us48))) (fun t => t.dyn.time.lastSlew == 100 * us48)
    && after (exec .workingClockSlew (domA .locked (100 * us48 - 1))) (fun t => t.dyn.time.lastSlew == 0)) = true := by decide +kernel

theorem test_tcxo : (let one := withDyn (fun d => { d with time := { d.time with tcxoRun := 1 } }) devT
    after (exec (.tcxoCheck 500) one) (fun t => t.dyn.time.tcxoRun == 0) && after (exec (.tcxoCheck (-501)) devT) (fun t => t.dyn.time.tcxoRun == 1)
    && after (exec (.tcxoCheck 501) one) (fun t => t.dyn.time.tcxoFault && bitAt t.dyn.safety.sources 7)) = true := by decide +kernel

theorem test_beacons : (let s := withDyn (fun d => { d with
      isgal := { d.isgal with ports := [(0, { state := .up, peer := 2 })] }
      cfg := { d.cfg with domainA := { enable := true, source := 1, peer := 2 }, domainB := { enable := true, source := 1, peer := 2 } } }) dev0
    s.peerUp 2 && !s.peerUp 1
    && after (exec (.beaconSend 2) s) (fun t => (tabGet (0, 0) t.dyn.time.beacons 2).2 == 0
      && (t.port 0).replay.length + t.dyn.isgal.waiting.length == 1)
    && after (exec (.beaconSend 1) s) (fun t => t.dyn.isgal.waiting.isEmpty)
    && after (exec (.beaconReceive 2 0 2 0) s) (fun t => t.dyn.time.domA.stratum == 2 && t.dyn.time.domB.stratum == 2)
    && after (exec (.beaconReceive 2 0 3 0) s) (fun t => t.dyn.time.domA.stratum == 15)
    && after (exec (.beaconReceive 1 0 2 0) s) (fun t => t.dyn.time.domA.stratum == 15)) = true := by decide +kernel

theorem test_locked_domain : (let g : DomainCfg := {}
    (servo g (1001 * 2 ^ 16) 0 { state := .locked, clock := 5 }).clock == 5
    && (servo g (-(2 ^ 27)) 0 { state := .lost, clock := 5 }).clock == 5 + 2 ^ 59 && decide (0 ≤ g.limit)
    && (servo g (2 ^ 40) 0 { state := .holdover }).f == -g.limit) = true := by decide +kernel

/-! Packets, mailboxes, queues and the I3C target -/

/-- The check value of CRC-32 (polynomial 0x04C11DB7, reflected) over the digits 1 to 9, from the published catalogue. -/
theorem test_crc32 : crc32 [0x31, 0x32, 0x33, 0x34, 0x35, 0x36, 0x37, 0x38, 0x39] = 0xCBF43926 := by decide +kernel

/-- SHA-256 of "abc", from FIPS 180-4: the digest begins BA 78 16 BF. -/
theorem test_sha256 : (sha256 [0x61, 0x62, 0x63]).take 4 = [0xBA, 0x78, 0x16, 0xBF] := by decide +kernel

theorem test_packet_checks : (let c := own [(0, 8, 7)]
    let expects := { dev0 with mailboxes := [(1, { negotiated := true, expSeq := some 4 })] }
    dev0.takes c && refuses 1 0x0006 (exec (.echo c) expects) && refuses 1 0x0005 (exec (.echo { c with gen := 2 }) dev0)
    && refuses 1 0x0004 (exec (.echo { c with berth := 2, gen := 1 }) dev0) && refuses 64 0x0004 (exec (.programUnload (sup [])) dev0)
    && refuses 1 0x0008 (exec (.getBasin c) { dev0 with mailboxes := [] }) && replies 1 0 (exec (.echo c) { dev0 with mailboxes := [] })
    && refuses 64 0x0003 (exec (.getBasin (sup [])) (withDyn (fun d => { d with cfg := { d.cfg with running := true } }) dev0))
    && refuses 1 0x0001 (exec (.echo (own [(128, 1, 1)])) dev0)
    && after (exec (.echo (que [])) dev0) (fun t => (t.queue 17).prod == 1 && (t.queue 16).expSeq == some 1)
    && after (exec (.echo (que [])) (dev { cfg0 with queues := [] })) (fun t => (t.queue 16).expSeq == none)) = true := by decide +kernel

theorem test_record_fields : (let d := recordBytes { opcode := 0x1003, cmd := { own [] with seq := 0x01020304 }, gen := 3 } 0x0108 (shortResult [(0, 8, 9)]) false 5
    d == [4, 3, 2, 1, 0x03, 0x10, 0x08, 0x01, 0x41, 0, 3, 0, 5, 0, 0, 0, 9] ++ List.replicate 15 0) = true := by decide +kernel

theorem test_doorbells : (let s := withDyn (fun d => { d with queues := [(16, { prod := 3, cons := 1 }), (17, { prod := 3, cons := 1 })] }) dev0
    after (exec (.doorbellWrite 16 17) s) (fun t => (t.queue 16).prod == 17) && after (exec (.doorbellWrite 16 18) s) (fun t =>
      (t.queue 16).prod == 3 && (t.queue 16).overrun == 1)
    && after (exec (.doorbellWrite 16 2) s) (fun t => (t.queue 16).prod == 3 && (t.queue 16).overrun == 1)
    && after (exec (.doorbellWrite 17 3) s) (fun t => (t.queue 17).cons == 3) && after (exec (.doorbellWrite 17 4) s) (fun t =>
      (t.queue 17).cons == 1 && (t.queue 17).overrun == 1)
    && after (exec (.doorbellWrite 16 (2 ^ 21)) s) (fun t => (t.queue 16).overrun == 1)
    && after (exec (.registerWrite 0x10000 [5, 0, 0, 0, 0, 0, 0, 0]) s) (fun t => (t.queue 16).prod == 5)) = true := by decide +kernel

/-- Mailbox 1 in a state. -/
def mbox (x : MbState) : State := dev0.modMailbox 1 fun y => { y with state := x, outb := [1, 2] }

theorem test_mailbox_control : (after (exec (.mailboxPost 1 false) (mbox .empty)) (fun t => (t.mailbox 1).state == .posted)
    && after (exec (.mailboxPost 1 false) (mbox .taken)) (fun t => (t.mailbox 1).state == .taken && (t.mailbox 1).overrun == 1)
    && after (exec (.mailboxAck 1 false) (mbox .replied)) (fun t => (t.mailbox 1).state == .empty && (t.mailbox 1).outb.isEmpty)
    && after (exec (.mailboxAck 1 false) (mbox .empty)) (fun t => (t.mailbox 1).overrun == 1)
    && after (exec (.mailboxPost 1 true) (mbox .empty)) (fun t => (t.mailbox 1).state == .posted && (t.mailbox 1).overrun == 1)
    && after (exec (.mailboxAck 1 true) (mbox .taken)) (fun t => (t.mailbox 1).overrun == 2)
    && after (exec (.registerWrite 0x40010100 [1, 0, 0, 0, 0, 0, 0, 0]) (mbox .empty)) (fun t => (t.mailbox 1).state == .posted)
    && after (exec (.registerWrite 0x40010078 [7]) (mbox .empty)) (fun t => tabGet 0 (t.mailbox 1).inb 0x78 == 7)
    && after (exec (.registerWrite 0x40010000 [7]) (mbox .posted)) (fun t => (t.mailbox 1).inb.isEmpty)
    && after (exec (.registerWrite 0x40410000 [7]) dev0) (fun t => t.mailboxes.length == 2)) = true := by decide +kernel

/-- A message with an ECHO packet at device scope: header of R389 (VERSION 1, TYPE 0, LENGTH 64, CHECK), then the packet. The
CHECK used below is worked out with a CRC-32 program that is not the model's. -/
def echoMessage (check : BitVec 32) : List Byte :=
  rcd 16 [(0, 8, 1), (24, 8, 64), (64, 32, check.toNat)] ++ rcd 64 [(0, 16, 1), (26, 1, 1), (128, 8, 0x5A)]

theorem test_message_carries_a_packet : (let posted := fun (check : BitVec 32) => dev0.modMailbox 64 fun x =>
      { x with state := .posted, inb := putBytes [] 0 (echoMessage check) }
    after (exec (.i3cPrivateWrite (0 :: echoMessage 0xbaac69d4)) dev0) (fun s => (s.mailbox 64).state == .posted && s.i3c.index == none)
    && messageFailure ((posted 0xbaac69d4).mailbox 64).inb == none
    && messageFailure ((posted 0xbaac69d5).mailbox 64).inb == some 0x000C
    && after (exec (.mailboxTake 1) dev0) (fun t => (t.mailbox 1).state == .empty)) = true := by decide +kernel

theorem test_queue_entries : (let e := rcd 64 [(0, 16, 1), (16, 6, 1), (32, 16, 3), (128, 8, 0x5A)]
    let s := holding 0x1000000 e (withDyn (fun d => { d with queues := [(16, { prod := 1 })] }) dev0)
    let cancel := holding 0x1000000 e (withDyn (fun d => { d with queues := [(16, { prod := 1, toCancel := 1 })] }) dev0)
    (takeEntry 16 s).isSome && (takeEntry 16 dev0).isNone
    && after (exec (.queueEntryTake 16) s) (fun t => (t.queue 16).cons == 1 && (t.queue 17).prod == 1)
    && after (exec (.queueEntryTake 16) cancel) (fun t => (t.queue 16).cons == 0)
    && reads (readHead 16 cancel) && after (exec (.commandCancel 16) cancel) (fun t => (t.queue 16).cons == 1
      && (t.queue 16).toCancel == 0 && tabGet 0 t.mem.bytes 0x1001006 == 0x92)
    && after (exec (.commandCancel 16) s) (fun t => (t.queue 16).cons == 0)) = true := by decide +kernel

theorem test_i3c_private : (let held := { mbox .empty with i3c := { index := some 1 } }
    let ready := held.modMailbox 64 fun x => { x with state := .replied, outb := [7, 8] }
    after (exec (.i3cPrivateWrite [0, 1, 2]) dev0) (fun t => (t.mailbox 64).state == .replied)
    && after (exec (.i3cPrivateWrite [0, 1, 2]) ready) (fun t => (t.mailbox 64).overrun == 1)
    && after (exec (.i3cPrivateWrite [0x10]) dev0) (fun t => t.i3c.index == some 0x10)
    && after (exec (.i3cPrivateWrite [0x11]) held) (fun t => t.i3c.index == some 1 && t.i3c.reply == none)
    && after (exec (.i3cReplyRead 2) ready) (fun t => t.i3c.reply == some [7, 8] && (t.mailbox 64).state == .empty)
    && after (exec (.i3cReplyRead 1) ready) (fun t => t.i3c.reply == some [7] && (t.mailbox 64).state == .replied)
    && after (exec (.i3cReplyRead 2) held) (fun t => t.i3c.reply == none)
    && after (exec (.i3cReplyRead 16) { dev0 with i3c := { index := some 0x10 } }) (fun t => t.i3c.reply == some (List.replicate 16 0))) = true := by
  decide +kernel

theorem test_common_command_codes : (let s := { dev0 with i3c := { dynAddr := some 9 } }
    after (exec (.entdaa 8) dev0) (fun t => t.i3c.dynAddr == some 8) && after (exec (.setdasa 8) s) (fun t => t.i3c.dynAddr == some 9)
    && after (exec (.setnewda 8) s) (fun t => t.i3c.dynAddr == some 8) && after (exec (.setnewda 8) dev0) (fun t => t.i3c.dynAddr == none)
    && after (exec .rstdaa s) (fun t => t.i3c.dynAddr == none) && after (exec .getmrl s) (fun t => t.i3c.reply == some [0, 113])
    && after (exec .getmwl s) (fun t => t.i3c.reply == some [0, 81]) && after (exec (.disec 1) s) (fun t => !t.i3c.ibiOn)
    && after (exec (.disec 2) s) (fun t => t.i3c.ibiOn)) = true := by decide +kernel

/-! Memory, lock cycles, tiles and power -/

theorem test_memory : (let s := holding 0x1000010 [1, 2, 3, 4] dev0
    let e : Requester := .edge .gateway 1
    let ro := dev { cfg0 with xlat := [(0, { valid := true, read := true, frame := 0x100, owner := 1 })] }
    (s.actor e).isSome && (s.lookup 1 0x10).isSome && (s.lookup 1 0x10000).isNone && s.deviceMisuse 0 1 0x10 4 == none
    && (takeCredits 0 0 .request false s).isSome
    && after (exec (.memoryRead e 0x10 4 0 false) s) (fun t => t.answers.head? == some (e, 0x10, .data [1, 2, 3, 4]))
    && after (exec (.memoryRead e 0x10000 4 0 false) s) (fun t => t.answers.head? == some (e, 0x10000, .addressFault))
    && after (exec (.memoryWrite e 0x12 [9] false) s) (fun t => tabGet 0 t.mem.bytes 0x1000012 == 9 && tabGet 0 t.mem.bytes 0x1000013 == 4)
    && after (exec (.memoryWrite e 0x12 [9] false) ro) (fun t => t.answers.head? == some (e, 0x12, .addressFault) && t.mem.bytes.isEmpty)
    && after (exec (.memoryAtomic e 0x10 .add false 0xFF 0) s) (fun t =>
      t.answers.head? == some (e, 0x10, .data [1, 2, 3, 4]) && tabGet 0 t.mem.bytes 0x1000010 == 0 && tabGet 0 t.mem.bytes 0x1000011 == 3)
    && after (exec (.memoryAtomic e 0x12 .add false 1 0) s) (fun t => t.answers.head? == some (e, 0x12, .addressFault))
    && after (exec (.memoryRead e 0x10 4 0 false) State.reset) (fun t => t.answers.isEmpty)) = true := by decide +kernel

/-- Page 0 of berth 1 in another device's or the host's memory; the link to device 1 is up or down. -/
def faraway (target : BitVec 2) (up : Bool) : State :=
  withDyn (fun d => { d with
    cfg := { d.cfg with xlat := [(0, { valid := true, read := true, write := true, target := target, device := 1, frame := 0x100, owner := 1 })] }
    bring := { d.bring with boardN := 1 }
    isgal := { d.isgal with ports := [(0, { state := if up then .up else .down, peer := 1, lanes := 0xFF })] } }) dev0

theorem test_far_memory : (let e : Requester := .edge .gateway 1
    after (exec (.memoryRead e 0x10 4 0 false) (faraway 1 true)) (fun t => t.answers.isEmpty && t.dyn.isgal.outs.length == 1)
    && after (exec (.memoryRead e 0x10 4 0 false) (faraway 1 false)) (fun t => t.answers.head? == some (e, 0x10, .addressFault))
    && after (exec (.memoryAtomic e 0x10 .add false 1 0) (faraway 1 true)) (fun t => t.dyn.isgal.outs.length == 1)
    && after (exec (.memoryAtomic e 0x10 .add false 1 0) (faraway 2 true)) (fun t => t.answers.head? == some (e, 0x10, .addressFault))
    && after (exec (.memoryRead e 0x10 4 0 false) (faraway 2 true)) (fun t => t.answers.isEmpty && t.dyn.gateway.requests.length == 1)
    && after (exec (.memoryWrite e 0x10 [1] false) (faraway 2 true)) (fun t => t.dyn.gateway.requests.length == 1)) = true := by decide +kernel

theorem test_store_conditional : (let s := dev0.modCores fun c => { c with kberth := [(0, 1)] }
    let kept := s.modCores fun c => { c with reservations := [(0, 0x1000000 / 64 + 1)] }
    (s.actor (.hart 0)).isSome && kept.reserves (.hart 0) (0x1000000 / 64) && !s.reserves (.hart 0) (0x1000000 / 64)
    && after (exec (.memoryWrite (.hart 0) 0 [1, 2, 3, 4] true) s) (fun t => t.answers.head? == some (.hart 0, 0, .data [1, 0, 0, 0])
      && t.mem.bytes.isEmpty)
    && after (exec (.memoryWrite (.hart 0) 0 [1, 2, 3, 4] true) kept) (fun t => t.answers.head? == some (.hart 0, 0, .data [0, 0, 0, 0])
      && tabGet 0 t.mem.bytes 0x1000003 == 4)) = true := by decide +kernel

/-- Column 0 is in Deep. -/
theorem test_deep_column_wakes : (let s := withDyn (fun d => { d with tiles := [(0, { power := .deep })] }) (holding 0x1000000 [1] dev0)
    let e : Requester := .edge .gateway 1
    s.columnHolds 0 .request && after (exec (.patrolRead 0x1000000 0) s) (fun t => (t.tile 0).wakeEnds.isSome)
    && after (exec (.memoryRead e 0 1 0 false) s) (fun t => t.answers.isEmpty && t.dyn.isgal.held.length == 1 && (t.tile 0).wakeEnds.isSome)
    && after (exec (.memoryRead e 0 1 0 false) s) (fun t => after (exec (.tileWakeDone 0) (withDyn (fun d => { d with
        time := { d.time with wc := 2 ^ 80 } }) t)) fun u =>
      u.answers.head? == some (e, 0, .data [1]) && u.dyn.isgal.held.isEmpty)) = true := by decide +kernel

theorem test_flip_is_corrected : (let s := holding 0x1000000 [0xFF] dev0
    after (exec (.memoryRead (.edge .gateway 1) 0 1 4 false) s) (fun t => t.answers.head? == some (.edge .gateway 1, 0, .data [0xFF]))) = true := by decide +kernel

theorem test_outside_dram : exec (.patrolRead 0x1200000000 0) dev0 = .fault (.outsideDram 0x1200000000)
    ∧ exec (.frameZero 0x7800) dev0 = .fault (.outsideDram 0x78000000) := ⟨rfl, rfl⟩

theorem test_patrol : (berthFrame 0x100 && after (exec (.patrolRead 0x1000000 1) dev0) (fun t => t.mem.wf)
    && after (exec (.patrolRead 0x1000000 1) State.reset) (fun t => t.mem.errs.isEmpty)) = true := by decide +kernel

theorem test_writes_keep_the_rest : (let s := holding 0x1000000 [1, 2, 3] dev0
    let t := (writeDram {} 0x1000001 [7] s).1
    s.mem.wf && s.mem.errs.isEmpty && s.dyn.errors.badFrames.isEmpty && t.mem.bytes == [(0x1000000, 1), (0x1000001, 7), (0x1000002, 3)]
    && (writeDram {} 0x1000001 [0] s).1.mem.bytes == [(0x1000000, 1), (0x1000002, 3)]) = true := by decide +kernel

theorem test_fence_and_credits : (let s := withJob 4 { job1 with tiles := [0] } dev0
    (s.actor (.context 0 4)).isSome && (s.actor (.context 1 4)).isNone && after (exec (.releaseFence 0 4) s) (fun _ => true)
    && after (exec (.creditReturn 3 .posted true) dev0) (fun t => tabGet 0 t.dyn.work.slots (poundKey 3 .posted true) == 0)
    && after (exec (.kberthWrite 2 5 true) dev0) (fun t => tabGet 0 t.dyn.cores.traps 2 == 1)
    && after (exec (.kberthWrite 2 5 false) dev0) (fun t => tabGet 0 t.dyn.cores.traps 2 == 2 && tabGet 0 t.dyn.cores.kberth 2 == 0)
    && after (exec (.kberthWrite 2 5 false) (withDyn (fun d => { d with cores := { d.cores with allow := [(2, 32)] } }) dev0)) (fun t =>
      tabGet 0 t.dyn.cores.kberth 2 == 5)) = true := by decide +kernel

theorem test_lock_cycle : after (exec (.setResidency (own [(8, 8, 9)])) dev0) (fun a =>
    a.lock.phase == .idle && a.locks && after (exec .shadowClose a) fun b => b.lock.phase == .closed
      && (tabGet {} b.dyn.cfg.residency 1).hotShare == 0x80
      && after (exec .shadowClose b) (fun x => x.lock.phase == .closed)
      && after (exec .commitEdge b) fun c => c.lock.number == 1 && (tabGet {} c.dyn.cfg.residency 1).hotShare == 9
        && replies 1 0 (.next c) && after (exec .configFree c) fun d => d.lock.phase == .idle) = true := by decide +kernel

theorem test_frames_are_zeroed : (let s := holding 0x1000000 [1] (dev { cfg0 with frames := [(0x100, .freed 1 0)] })
    let due := { s with lock := { s.lock with number := 1 } }
    berthFrame 0x100 && tabGet .free due.dyn.cfg.frames 0x100 == .freed 1 0 && due.lock.number == 1
    && after (exec (.frameZero 0x101) due) (fun t => t.mem.bytes.length == 1)
    && after (exec (.voidRangeClear 1) { s with lock := { s.lock with voids := [(1, some false)] } }) (fun t =>
      t.dyn.cfg.xlat.isEmpty && tabGet none t.lock.voids 1 == some true)
    && after (exec (.voidRangeClear 1) s) (fun t => t.dyn.cfg.xlat.length == 1)) = true := by decide +kernel

/-- The device with physical tile 0 in a state. -/
def tile0 (x : TileDyn) : State := withDyn (fun d => { d with tiles := [(0, x)] }) dev0

theorem test_handover : (after (exec (.handoverComplete 0) (tile0 { handover := some {} })) (fun t => (t.tile 0).handover == none)
    && after (exec (.handoverComplete 0) (withJob 1 { job1 with tiles := [0], array := some {} } (tile0 { handover := some {} }))) (fun t => (t.tile 0).handover == some {})
    && after (exec (.handoverComplete 0) dev0) (fun t => (t.tile 0).handover == none)) = true := by decide +kernel

theorem test_power : (let up := withDyn (fun d => { d with power := { d.power with corePwrgd := true } })
    let sends := fun (n : Nat) (at_ : Nat) => withDyn (fun d => { d with
      power := { d.power with wanted := some 3, retries := n, sentAt := 0 }, time := { d.time with wc := at_ } }) dev0
    let late := 50 * us48
    after (exec (.weatherWindow 0 0x334 0 0) (up dev0)) (fun t => (t.tile 0).okRun == 1)
    && after (exec (.weatherWindow 0 0x333 0 0) (up dev0)) (fun t => (t.tile 0).lowRun == 1)
    && after (exec (.weatherWindow 0 0x333 0 0) dev0) (fun t => (t.tile 0).lowRun == 0)
    && after (exec (.governorSample (some 1) 0 0 0 0) dev0) (fun t => t.dyn.power.retries == 0)
    && after (exec .regulatorRetry (sends 2 late)) (fun t => t.dyn.power.retries == 3 && !t.dyn.power.held)
    && after (exec .regulatorRetry (sends 3 late)) (fun t => t.dyn.power.held)
    && after (exec .regulatorRetry (sends 2 (late - 1))) (fun t => t.dyn.power.retries == 2)) = true := by decide +kernel

theorem test_tile_states : (let asleep := tile0 { power := .nap }
    let waking := tile0 { power := .nap, wakeEnds := some 1 }
    after (exec (.tileWake 0) asleep) (fun t => (t.tile 0).wakeEnds.isSome) && after (exec (.tileWake 0) dev0) (fun t => (t.tile 0).wakeEnds.isNone)
    && after (exec (.tileWakeDone 0) waking) (fun t => (t.tile 0).power == .nap)
    && after (exec (.tileWakeDone 0) (withDyn (fun d => { d with time := { d.time with wc := 1 } }) waking)) (fun t => (t.tile 0).power == .idle)
    && after (exec (.tileStateEnter 0) (withJob 1 { job1 with tiles := [0] } dev0)) (fun t => (t.tile 0).power == .idle)
    && after (exec (.tileStateEnter 5) dev0) (fun t => (t.tile 5).power == .idle)) = true := by decide +kernel

theorem test_posted_message_is_answered : (let s := dev0.modMailbox 64 fun x => { x with state := .posted, inb := putBytes [] 0 (echoMessage 0xbaac69d4) }
    let bad := dev0.modMailbox 64 fun x => { x with state := .posted, inb := putBytes [] 0 (echoMessage 0xbaac69d5) }
    replies 64 0 (exec (.mailboxTake 64) s) && after (exec (.mailboxTake 64) s) (fun t => (t.mailbox 64).outb.getD 32 0 == 0x5A)
    && replies 64 0x000C (exec (.mailboxTake 64) bad)) = true := by decide +kernel

/-! The events of jobs, lanes, passes, displays, Ingest and Confluence -/

/-- Basins 5 and 6 of berth 1 on logical tiles 0 and 1. -/
def cfgJ : Shadow := { cfg3 with basins := [(5, { kind := 1, berth := 1, endpoint := 16, tileMask := 1 }), (6, { kind := 1, berth := 1, endpoint := 18, tileMask := 2 })] }

/-- A placed tensor job of basin 5 on tile 0, and a model job of one shard and one step. -/
def tensorJob : Job := { job1 with tiles := [0], array := some { tiles := [0] } }
/-- A model job with one shard that has switched and one step. -/
def modelJob (switched : Bool) : Job :=
  { job1 with
    kind := .model, tiles := [0], model := { valid := true, shards := [{}], steps := [{ kind := 6 }] }
    shards := [{ tile := 0, switched := switched }] }

theorem test_job_events : (let s := withJob 1 tensorJob (dev cfgJ)
    let waits := withJob 1 { tensorJob with placed := false, tiles := [] } (dev cfgJ)
    after (exec (.jobChoose 5) waits) (fun t => (t.job 1).any fun b => b.placed)
    && after (exec (.jobChoose 6) waits) (fun t => (t.job 1).any fun b => !b.placed)
    && after (exec (.jobChoose 5) { s with dyn := { s.dyn with bring := {} } }) (fun t => (t.job 1) == some tensorJob)
    && after (exec (.jobComplete 1 (some (.addressFault, 0, 0))) s) (fun t => (t.job 1).isNone)
    && after (exec (.jobComplete 1 none) (withJob 1 (modelJob false) s)) (fun t => (t.job 1).isSome)
    && after (exec (.jobComplete 1 none) (withJob 1 { modelJob true with model := {} } s)) (fun t => (t.job 1).isNone)
    && after (exec (.jobComplete 2 none) s) (fun t => (t.job 1).isSome)) = true := by decide +kernel

theorem test_borrowing : (let b := { tensorJob with placed := false, tiles := [], array := some {} }
    let s := withDyn (fun d => { d with time := { d.time with wc := 50 * us48 } }) (withJob 1 b (dev cfgJ))
    after (exec (.jobBorrow (.job 1) 1) s) (fun t => (t.job 1).any fun b => b.placed && b.tiles == [1])
    && after (exec (.jobBorrow (.job 1) 1) (withJob 1 b (dev cfgJ))) (fun t => (t.job 1).any fun b => !b.placed)
    && after (exec (.jobBorrow (.job 1) 5) s) (fun t => (t.job 1).any fun b => !b.placed)) = true := by decide +kernel

/-- A LANE_DISPATCH at the head of queue 16 that a full leaf keeps waiting is lent tile 1 (R172). -/
theorem test_borrow_from_the_head : (let s := dev cfgJ
    tryHead 16 s == none && after (exec (.jobBorrow (.head 16) 1) s) (fun t => t.dyn.work.nextJob == s.dyn.work.nextJob)) = true := by
  decide +kernel

theorem test_shards : (let s := withJob 1 (modelJob false) (dev cfgJ)
    let on := withJob 1 (modelJob true) (dev cfgJ)
    after (exec (.shardSwitch 1 0) (withDyn (fun d => { d with tiles := [(0, { power := .nap })] }) s)) (fun t => (t.tile 0).wakeEnds.isSome)
    && after (exec (.shardSwitch 1 1) s) (fun t => (t.job 1).any fun b => !b.shards.any (·.switched))
    && after (exec (.modelStepStart 1 ⟨0, .good⟩ 0) s) (fun t => (t.job 1) == s.job 1)
    && after (exec (.modelStepStart 1 ⟨0, .good⟩ 0) on) (fun t => t.job 1 != on.job 1)
    && after (exec (.arrayLoad 1 ⟨0, .good⟩) s) (fun _ => true) && after (exec (.arrayLoad 2 ⟨0, .good⟩) s) (fun t => (t.job 1) == s.job 1)) = true := by
  decide +kernel

/-- Tile 0 with one workgroup of a dispatch in lane group 3. -/
def devL (b : Bundle) : State :=
  let s := withJob 1 { job1 with kind := .dispatch, tiles := [0], lanes := some { program := { regs := 8 } } } (dev cfgJ)
  withDyn (fun d => { d with work := { d.work with tiles := [(0, { workgroups := [{ job := 1, index := 0, group := 3, limit := 5, bundles := [b] }] })] } }) s

theorem test_lane_bundles : (let r := { mask := 1, initMask := 1, regs := [(1, some 5), (2, some 7)] : Bundle }
    let reg := fun (o : LaneOp) (k : Nat) (v : BitVec 32) => after (exec (.bundleIssue 0 3 o .good) (devL r)) fun t =>
      (t.tileWork 0).workgroups.any fun w => w.bundles.any fun b => tabGet none b.regs k == some v
    reg (.iadd 0 1 2) 0 12 && reg (.isub 0 1 2) 0 0xFFFFFFFE && reg (.imul 3 1 2) 3 35
    && (pickBundle (devL r) 0 3).isSome && (pickBundle (devL r) 0 2).isNone
    && after (exec (.bundleIssue 0 3 .barrier .good) (devL r)) (fun t => (t.tileWork 0).workgroups.any fun w => w.bundles.any (·.atBarrier))) = true := by
  decide +kernel

theorem test_fp32_lanes : (let r := { mask := 1, initMask := 1, regs := [(1, some 0x3F800000), (2, some 0x40000000)] : Bundle }
    let reg := fun (o : LaneOp) (v : BitVec 32) => after (exec (.bundleIssue 0 3 o .good) (devL r)) fun t =>
      (t.tileWork 0).workgroups.any fun w => w.bundles.any fun b => tabGet none b.regs 0 == some v
    reg (.fadd 0 1 2) 0x40400000 && reg (.fmul 0 2 2) 0x40800000 && reg (.ffma 0 2 2 1) 0x40A00000 && reg (.fmin 0 1 2) 0x3F800000) = true := by
  decide +kernel

theorem test_workgroups_end : (let waiting := devL { atBarrier := true }
    let ended := devL { ended := true }
    after (exec (.barrierRelease 0 3 0) waiting) (fun t => (t.tileWork 0).workgroups.any fun w => w.bundles.all fun b => !b.atBarrier)
    && after (exec (.barrierRelease 0 3 0) ended) (fun t => t.dyn == ended.dyn)
    && after (exec (.workgroupEnd 0 3 0) ended) (fun t => (t.tileWork 0).workgroups.isEmpty)
    && after (exec (.workgroupEnd 0 3 0) waiting) (fun t => (t.tileWork 0).workgroups.length == 1)
    && after (exec (.workgroupEnd 0 3 1) ended) (fun t => (t.tileWork 0).workgroups.length == 1)
    && after (exec (.workgroupPlace 1) (devL {})) (fun t => (t.job 1).isSome)
      && after (exec (.workgroupPlace 2) (devL {})) (fun t => (t.job 1).isSome)
    && after (exec (.timeLimitExpiry 1) (withDyn (fun d => { d with time := { d.time with wc := 5 * us48 + 2 ^ 32 } }) (devL {}))) (fun t =>
      (t.tileWork 0).workgroups.isEmpty)
    && after (exec (.timeLimitExpiry 1) (withDyn (fun d => { d with time := { d.time with wc := 5 * us48 } }) (devL {}))) (fun t =>
      (t.tileWork 0).workgroups.length == 1)
    && after (exec (.dispatchComplete 1) (withDyn (fun d => { d with work := { d.work with tiles := [] } }) (devL {}))) (fun t => (t.job 1).isSome)) = true := by
  decide +kernel

/-- Context 7 with a pass in a phase, on logical tile 0. -/
def passing (p : PassRun) : State :=
  withDyn (fun d => { d with raster := { d.raster with passes := [(7, { p with leaf := 5, tilesHeld := [0], job := some { opcode := 0x3010, cmd := que [(32, 15, 16), (48, 15, 16), (128, 24, 1)], gen := 3 } })] } }) devR

theorem test_binning : (let b : Batch := { at_ := { number := 4 }, tile := 0, wants := true }
    let full := passing { phase := .binning, batches := [b, { at_ := { number := 1 }, chunks := [1] }] }
    after (exec (.batchDeal 7 1 .good) (passing { phase := .binning })) (fun t => (t.pass 7).batches.isEmpty)
    && (passing { phase := .binning }).mayDeal 7 0 != none
    && after (exec (.chunkRequest 7 4) (passing { phase := .binning, batches := [b] })) (fun t => (t.pass 7).batches.any fun b => b.chunks == [1])
    && after (exec (.chunkRequest 7 4) full) (fun t => (t.pass 7).phase == .weir)
    && after (exec (.chunkRequest 7 3) full) (fun t => (t.pass 7).phase == .binning)
    && after (exec (.chunkRequest 7 4) (passing { phase := .rendering, batches := [b] })) (fun t => (t.pass 7).batches == [b])
    && after (exec (.batchPublish 7 4) full) (fun t => (t.pass 7).publishedTo == 0)) = true := by decide +kernel

theorem test_weir_timeout : (let w := { devR.dyn.cfg with rasterCtx := tabMod {} devR.dyn.cfg.rasterCtx 7 fun x => { x with weirTimeout := 2 } }
    let s := fun (at_ : Nat) => withDyn (fun d => { d with cfg := w, time := { d.time with wc := at_ } }) (passing { phase := .weir })
    after (exec (.weirTimeout 7) (s (2000 * us48))) (fun t => (t.pass 7).job.isNone)
    && after (exec (.weirTimeout 7) (s (2000 * us48 - 2 ^ 32))) (fun t => (t.pass 7).phase == .weir)) = true := by decide +kernel

theorem test_pass_ends : (after (exec (.passComplete 7 none) (passing { phase := .rendering, written := [(0, true)] })) (fun t => (t.pass 7).job.isNone)
    && after (exec (.passComplete 7 none) (passing { phase := .binning })) (fun t => (t.pass 7).job.isSome)
    && after (exec (.writeOut 7 ⟨0, .good⟩) (passing { phase := .rendering })) (fun t => (t.pass 7).written.isEmpty)
    && after (exec (.writeOut 7 ⟨0, .good⟩) (passing { phase := .rendering, bound := [(0, some { tile := 0 })] })) (fun t => tabGet false (t.pass 7).written 0)
    && after (exec (.fragmentBundle 7 0 .good) (passing { phase := .rendering, bound := [(0, some { tile := 0 })] })) (fun t => (t.pass 7).bound.length == 1)) = true := by
  decide +kernel

theorem test_display_events : (let shows := fun (at_ : Nat) (y : DisplayDyn) => withDyn (fun d => { d with time := { d.time with wc := at_ }, displays := [(0, y)] }) devR
    let latch := (16666666 - 100000) * 2 ^ 48
    let p : DisplayDyn := { latched := 1, pending := some ({ opcode := 0x3031, cmd := own [(64, 40, 0x2000)], gen := 3 }, 0) }
    after (exec (.displayLatchPoint 0) (shows latch p)) (fun t => (t.display 0).image == some (1, 0x2000) && (t.display 0).latched == 2)
    && after (exec (.displayLatchPoint 0) (shows (latch - 2 ^ 32) p)) (fun t => (t.display 0).image == none)
    && after (exec (.displayLatchPoint 0) (shows latch { latched := 1, image := some (1, 0) })) (fun t => (t.display 0).repeats == 1)
    && after (exec (.displayFrameStart 0) (shows (16666666 * 2 ^ 48) { latched := 2, started := 1 })) (fun t => (t.display 0).active
      && (t.display 0).frame == 1)
    && after (exec (.displayFrameStart 0) (shows (16666666 * 2 ^ 48) { latched := 1, started := 1 })) (fun t => !(t.display 0).active)
    && after (exec (.scanOutLine 0 0 0) (shows 0 { active := true, image := some (1, 0x2000) })) (fun t => (t.display 0).lines == 1)
    && after (exec (.scanOutLine 0 0 9) (shows 0 { active := true, image := some (1, 0x2000) })) (fun t => (t.display 0).lines == 1)
    && after (exec (.scanOutLine 0 1 9) (shows 0 { active := true })) (fun t => (t.display 0).lines == 0)) = true := by decide +kernel

/-- Streams: 0 a camera on port 2, channel 3; 4 a lidar on MAC 1, port 0x940. -/
def devS (y : StreamDyn) : State :=
  withDyn (fun d => { d with
    ingest := { d.ingest with streams := [(0, y)] }
    cfg := { d.cfg with
      triggers := [(0, { enable := true, period := 50000, width := 10 })]
      streams := [(0, { enable := true, port := 2, vc := 3 }), (4, { enable := true, lidar := true, port := 1, udpPort := 0x940, sofMask := 0xFF, sofValue := 0xAA })] } }) dev0

theorem test_streams : ((devS {}).dyn.cfg.cameraOf 2 3 == some 0 && (devS {}).dyn.cfg.cameraOf 2 4 == none
      && (devS {}).dyn.cfg.lidarOf 1 0x940 == some 4
    && after (exec (.frameStart 2 3 0) (devS {})) (fun t => (t.stream 0).error == 1)
    && after (exec (.frameStart 2 3 1) (devS {})) (fun t => (t.stream 0).inFrame)
    && after (exec (.frameStart 2 3 2) (devS { inFrame := true })) (fun t => (t.stream 0).error == 1)
    && after (exec (.frameStart 2 4 0) (devS {})) (fun t => (t.stream 0).error == 0)
    && after (exec (.longPacket 2 3 0x2B [1] .payloadCrc) (devS { inFrame := true, sample := some {} })) (fun t => (t.stream 0).error == 1
      && (t.stream 0).sample == none)
    && after (exec (.longPacket 2 3 0x2C [1] .none) (devS { inFrame := true, sample := some {} })) (fun t => (t.stream 0).sample == some {})
    && after (exec (.longPacket 2 3 0x2B [1] .payloadCrc) (devS {})) (fun t => (t.stream 0).error == 0)
    && after (exec (.frameEnd 0) (devS { inFrame := true })) (fun t => !(t.stream 0).inFrame)
    && after (exec (.frameEnd 4) (devS { inFrame := true })) (fun t => (t.stream 0).inFrame)) = true := by decide +kernel

theorem test_lidar : (after (exec (.startPacket 1 0x940 [0xAA, 1] true) (devS {})) (fun t => (t.stream 4).error == 1)
    && after (exec (.startPacket 1 0x940 [0xAB] false) (devS {})) (fun t => (t.stream 4).scan == none)
    && after (exec (.startPacket 1 0x940 [0xAA, 0, 0] false) (devS {})) (fun t => (t.stream 4).scan != none)
    && after (exec (.lidarPacket 1 0x940 [1] false) (devS {})) (fun t => (t.stream 4).scan == none)
    && after (exec (.lidarPacket 1 0x941 [1] true) (devS {})) (fun t => (t.stream 4).error == 0)) = true := by decide +kernel

theorem test_triggers : (let at_ := fun (n : Nat) => withDyn (fun d => { d with time := { d.time with wc := n } }) (devS {})
    after (exec (.triggerPulse 0) (at_ (50000 * us48))) (fun t => (tabGet {} t.dyn.ingest.triggers 0).count == 1)
    && after (exec (.triggerPulse 0) (at_ (50000 * us48 - 1))) (fun t => t.dyn.ingest.triggers.isEmpty)
    && after (exec (.triggerPulse 1) (at_ 0)) (fun t => t.dyn.ingest.triggers.isEmpty)
    && after (exec (.missing 0) (at_ 0)) (fun t => (t.stream 0).missing == 0)) = true := by decide +kernel

/-- Group 0 with stream 0 joined and a sample of time 25 ms on its way. -/
def devF (join lock : Bool) (wc : Nat) : State :=
  withDyn (fun d => { d with
    time := { d.time with wc := wc }
    fusion := { d.fusion with arriving := [{ stream := 0, kind := false, lock := lock, time := 25000 * 2 ^ 16 * 1000, record := [], buffer := 0, addr := 0, berth := 1, packets := 1, queue := 17 }] }
    cfg := { d.cfg with
      groups := [(0, { enable := true, berth := 1 })]
      fusionStreams := [(0, { join := join, winLo := 0, winHi := 50000 })] } }) dev0

theorem test_samples_arrive : (let run : ClosedRun := { group := 0, number := 0, validity := 0 }
    let joined := devF true true 0
    windowInstants (joined.dyn.cfg.fusionStream 0) (joined.dyn.cfg.group 0) (25000 * 2 ^ 16 * 1000) == [0]
    && after (exec (.sampleArrive 0) joined) (fun t => t.dyn.fusion.arriving.isEmpty && (t.group 0).instants.length == 1)
    && after (exec (.sampleArrive 0) (devF false true 0)) (fun t => t.dyn.fusion.arriving.isEmpty && (t.group 0).instants.isEmpty)
    && after (exec (.sampleArrive 1) joined) (fun t => t.dyn.fusion.arriving.length == 1)
    && after (exec (.instantClose 0) (devF true true (20000 * us48))) (fun t => (t.group 0).next == 1)
    && after (exec (.instantClose 0) (devF true true (20000 * us48 - 2 ^ 32))) (fun t => (t.group 0).next == 0)
    && after (exec (.level0Publish 0) (withDyn (fun d => { d with fusion := { d.fusion with runs := [run] } }) joined)) (fun t => t.dyn.fusion.runs.isEmpty)
    && after (exec (.level0Publish 1) (withDyn (fun d => { d with fusion := { d.fusion with runs := [run] } }) joined)) (fun t => t.dyn.fusion.runs.length == 1)) = true := by
  decide +kernel

theorem test_transfers_end : (let t0 : Ticket := { opcode := 0x4031, cmd := own [], gen := 3 }
    let s := withDyn (fun d => { d with ingest := { d.ingest with
      tx := [(0, some (t0, [[1, 2]]))], xfer := [(0, some { ticket := t0, entries := [0] })] }
                                        cfg := { d.cfg with i3c := [(0, { ibiQueue := 17, owner := some (own []), gen := 3 })] } })
      (dev0.modMailbox 1 fun x => { x with state := .taken })
    after (exec (.csiTxFrameEnd 0) s) (fun t => replies 1 0 (.next t) && (tabGet [] t.dyn.ingest.txSent 0).length == 3)
    && after (exec (.csiTxFrameEnd 1) s) (fun t => t.dyn.ingest.txSent.isEmpty)
    && replies 1 0 (exec (.i3cTransferEnd 0 1 none []) s) && replies 1 0x00C4 (exec (.i3cTransferEnd 0 0 (some false) []) s)
    && replies 1 0x00C5 (exec (.i3cTransferEnd 0 0 (some true) []) s)
      && after (exec (.i3cTransferEnd 0 0 none []) s) (fun t => t.dyn.ingest.xfer.length == 1)
    && after (exec (.i3cIbi 0 8 5) s) (fun t => (t.queue 17).prod == 1)
      && after (exec (.i3cIbi 1 8 5) s) (fun t => (t.queue 17).prod == 0)) = true := by
  decide +kernel

/-! The safety class, the island, service, resets, Isgal and the gateway -/

/-- Berth 1 owns basin 0, queue 16 is its endpoint, and Gauge 7 watches a stamp line in page 0. -/
def cfgX : Shadow :=
  { cfg3 with
    basins := [(0, { kind := 1, berth := 1, endpoint := 16, tileMask := 1 })]
    gauges := [(7, { valid := true, deadline := 1000, stampPa := 0x1000040, stampVa := 0x40 })] }

/-- The device with that configuration, an operational island, and a safety part. -/
def devX (f : Safety) (islandTime : Nat) : State :=
  withDyn (fun d => { d with safety := f, island := { d.island with powered := true, operational := true, time := islandTime } }) (dev cfgX)

theorem test_gauge_commands : (let s := devX {} 0
    enters (exec (.gaugeSet (sup [(0, 12, 9), (96, 32, 1000), (128, 40, 0x80)])) s) (fun k => (tabGet {} k.gauges 9).stampPa == 0x1000080)
    && refuses 64 0x00F1 (exec (.gaugeSet (sup [(0, 12, 9), (96, 32, 999)])) s)
      && refuses 64 0x00F1 (exec (.gaugeSet (sup [(0, 12, 9), (96, 32, 10000001)])) s)
    && refuses 64 0x00F2 (exec (.gaugeSet (sup [(0, 12, 9), (96, 32, 1000), (128, 40, 0x40000)])) s)
    && refuses 64 0x00F3 (exec (.gaugeSet (sup [(0, 12, 9), (96, 32, 10000000), (128, 40, 0x80)])) s)
    && refuses 1 0x00F0 (exec (.gaugeSet (own [])) s)
    && enters (exec (.gaugeClear (sup [(0, 12, 7)])) s) (fun k => k.gauges.isEmpty) && refuses 64 0x00F1 (exec (.gaugeClear (sup [])) s)
    && replies 1 0 (exec (.getGauge (own [(0, 12, 7)])) s) && replies 1 0 (exec (.getSafetyStatus (own [])) s)
    && refuses 64 0x00F4 (exec (.soundingSet (sup [(16, 16, 99)])) s) && refuses 1 0x00F0 (exec (.soundingSet (own [])) s)) = true := by
  decide +kernel

theorem test_self_test : (let running := fun (f : Safety) => withDyn (fun d => { d with cfg := { d.cfg with running := true } }) (devX f 0)
    refuses 1 0x00F0 (exec (.selfTest (own [])) (devX {} 0)) && refuses 64 0x0053 (exec (.selfTest (sup [(0, 8, 0xFF)])) (running {}))
    && after (exec (.selfTest (sup [(0, 8, 115)])) (running {})) (fun t => t.dyn.safety.requests.length == 1)
    && refuses 64 0x00F8 (exec (.selfTest (sup [])) (running { requests := List.replicate 16 (.tileTest 4) }))
    && after (exec (.selfTest (sup [(0, 8, 3)])) (devX {} 0)) (fun t => t.dyn.safety.slice.isSome)
    && after (exec (.selfTest (sup [(0, 8, 3)])) (devX { slice := some { checker := 0, req := none, at16 := 0 } } 0)) (fun t =>
      t.dyn.safety.serviceTests.length == 1)) = true := by decide +kernel

theorem test_heartbeat_and_release : (let s := devX {} 0
    let ready : Safety := { hbArmed := true, stagedSince := true, stagedPlan := some {} }
    let top := s.dyn.cfg.sounding.fttiMs.toNat * 1000 - 2000
    after (exec (.supervisorHeartbeat (sup [(0, 32, 5), (32, 32, top)])) s) (fun t => t.dyn.safety.hbCounter == some 5 && t.dyn.safety.hbInTurn == 1)
    && after (exec (.supervisorHeartbeat (sup [(0, 32, 5), (32, 32, 1000)])) (devX { hbCounter := some 4, hbDeadline := some 0, hbInTurn := 2 } 0)) (fun t =>
      t.dyn.safety.hbInTurn == 3)
    && refuses 64 0x00FA (exec (.supervisorHeartbeat (sup [(0, 32, 5), (32, 32, 999)])) s)
    && refuses 64 0x00FA (exec (.supervisorHeartbeat (sup [(0, 32, 5), (32, 32, top + 1)])) s)
    && refuses 64 0x00FA (exec (.supervisorHeartbeat (sup [(0, 32, 5), (32, 32, 1000)])) (devX { hbCounter := some 5 } 0))
    && refuses 1 0x00F0 (exec (.supervisorHeartbeat (own [])) s) && refuses 1 0x00F0 (exec (.doubtRelease (own [])) s)
    && refuses 64 0x00FB (exec (.doubtRelease (sup [])) s)
    && after (exec (.doubtRelease (sup [])) (devX ready 0)) (fun t => !t.dyn.safety.latch && t.dyn.safety.activePlan == some {})) = true := by
  decide +kernel

theorem test_mooring_store : (let s := devX {} 0
    refuses 1 0x00F0 (exec (.mooringStore (own [])) s)
    && after (exec (.mooringStore (que [(0, 40, 32)])) s) (fun t => tabGet 0 t.mem.bytes 0x1001006 == 0xF6)
    && after (exec (.mooringStore (que [])) s) (fun t => tabGet 0 t.mem.bytes 0x1001006 == 0xF6 && t.dyn.safety.newestPlan == none)) = true := by
  decide +kernel

theorem test_latch : (let s := devX { latch := false } 0
    (raiseDoubt 9 s).dyn.safety.latch && bitAt (raiseDoubt 9 s).dyn.safety.sources 9 && (raiseDoubt 9 s).dyn.safety.first == 9
    && (raiseDoubt 0 (raiseDoubt 9 s)).dyn.safety.first == 9) = true := by decide +kernel

/-- The device with pair 0 in a state, both copies compared. -/
def pair0 (p : PairDyn) (islandTime : Nat) : State := (devX { latch := false } islandTime).modIsland fun i => { i with pair0 := p }

theorem test_tokens : (let s := pair0 {} 0
    let t1 : Token := { channel := 0, kind := 1, bmask := 1, addr := 0, data := 5 }
    let t2 : Token := { channel := 0, kind := 1, bmask := 1, addr := 0, data := 6 }
    s.pairRuns 0 && s.dyn.island.split == false
    && after (exec (.tokenProduce 0 0 t1 false) s) (fun a => a.dyn.island.sram.isEmpty
      && after (exec (.tokenProduce 0 1 t1 false) a) (fun b => tabGet 0 b.dyn.island.sram 0 == 5)
      && after (exec (.tokenProduce 0 1 t2 false) a) (fun b => (b.pair 0).state == .fenced && bitAt b.dyn.safety.sources 3))
    && after (exec (.tokenProduce 0 0 { t1 with channel := 5 } false) s) (fun a => a.dyn == s.dyn)
    && after (exec (.tokenProduce 0 0 t1 false) (pair0 { state := .fenced } 0)) (fun a => (a.pair 0).chans.isEmpty)) = true := by decide +kernel

theorem test_pair_events : (let waiting : PairDyn := { chans := [(1, { toks := [({ channel := 1, kind := 0 }, 0)] })] }
    after (exec (.skewTime 0) (pair0 waiting (2 * us48 + 2 ^ 32))) (fun t => (t.pair 0).state == .fenced && (t.pair 0).cause == 3)
    && after (exec (.skewTime 0) (pair0 waiting (2 * us48))) (fun t => (t.pair 0).state == .healthy)
    && after (exec (.skewTime 0) (pair0 {} (9 * us48))) (fun t => (t.pair 0).state == .healthy)
    && after (exec (.beatWrite 0) (pair0 {} 7)) (fun t => (t.pair 0).beat)
      && after (exec (.beatWrite 0) (pair0 { state := .failed } 7)) (fun t => !(t.pair 0).beat)
    && after (exec (.beatWatchdog 0) (pair0 {} (1000 * us48))) (fun t => (t.pair 0).cause == 5)
    && after (exec (.beatWatchdog 0) (pair0 {} (1000 * us48 - 2 ^ 32))) (fun t => (t.pair 0).cause == 0)
    && after (exec .roleTakeover ((pair0 { state := .fenced } 0).modIsland fun i => { i with takeover := true })) (fun t =>
      t.dyn.island.roleMonitor == 1 && !t.dyn.island.takeover)
    && after (exec .roleTakeover (pair0 {} 0)) (fun t => t.dyn.island.roleMonitor == 0)) = true := by decide +kernel

theorem test_pair_inputs : (after (exec (.inputToken 0 .timer 1 2) (pair0 {} 0)) (fun t => (t.pair 0).cause == 4)
    && after (exec (.inputToken 0 .timer 1 1) (pair0 { retiredB := 10 } 0)) (fun t => (t.pair 0).events.any fun e => e.takeAt == 4106)
    && after (exec (.inputToken 0 .readPort 1 1) (pair0 {} 0)) (fun t => (t.pair 0).inputs.length == 1)
    && after (exec (.inputToken 0 .timer 1 1) (pair0 { state := .failed } 0)) (fun t => (t.pair 0).events.isEmpty)
    && after (exec (.asyncEventTake 0) (pair0 { events := [{ kind := .timer, payload := 1, takeAt := 4096 }] } 0)) (fun t =>
      (t.pair 0).events.isEmpty && (t.pair 0).retiredA == 4095)
    && after (exec (.asyncEventTake 0) (pair0 {} 0)) (fun t => (t.pair 0).inputs.isEmpty)
    && after (exec (.readPortRead 0 0x1000000 0) (pair0 { reads := [0x1000000] } 0)) (fun t => (t.pair 0).reads.isEmpty
      && (t.pair 0).inputs.length == 1)
    && after (exec (.readPortRead 0 0x1000040 0) (pair0 { reads := [0x1000000] } 0)) (fun t => (t.pair 0).reads.length == 1)) = true := by
  decide +kernel

theorem test_debug : (let s := pair0 {} 0
    s.debugOpen && after (exec (.debugHalt 0 8 8) s) (fun a => (a.pair 0).halted == some 0
      && after (exec (.debugResume 0) a) (fun b => (b.pair 0).halted == none)
      && after (exec (.debugStep 0 9 9) a) (fun b => (b.pair 0).halted == some 0) && after (exec (.debugHalt 0 8 8) a) (fun b => b.dyn == a.dyn))
    && after (exec (.debugResume 0) s) (fun b => b.dyn == s.dyn) && after (exec (.debugStep 0 9 9) s) (fun b => b.dyn == s.dyn)
    && after (exec (.debugAccess 0 false 0 4 4) s) (fun t => (t.pair 0).debugRead == some (some 4))
    && after (exec (.debugAccess 0 false 0 4 5) s) (fun t => (t.pair 0).state == .fenced)
    && after (exec (.debugAccess 0 true 0 4 4) (pair0 { state := .failed } 0)) (fun t => (t.pair 0).inputs.isEmpty)) = true := by decide +kernel

theorem test_island_start : (let s := withDyn (fun d => { d with island := {} }) (devX {} 0)
    let noImage := withDyn (fun d => { d with bring := { d.bring with islandSlot0 := {} } }) s
    after (exec (.islandStart {}) s) (fun t => t.dyn.island.operational && t.dyn.island.roleMonitor == 0 && t.dyn.island.rolePlayout == 1)
    && after (exec (.islandStart { pair0Fails := some 1 }) s) (fun t => t.dyn.island.operational && t.dyn.island.roleMonitor == 1)
    && after (exec (.islandStart { pair0Fails := some 6, pair1Fails := some 4 }) s) (fun t => !t.dyn.island.operational)
    && after (exec (.islandStart {}) noImage) (fun t => t.dyn.island.powered && !t.dyn.island.operational)
    && after (exec (.islandStart {}) (devX {} 5)) (fun t => t.dyn.island.time == 5)
    && after (exec .islReset (devX {} 5)) (fun t => !t.dyn.island.operational) && after (exec .islReset s) (fun t => t.dyn == s.dyn)
    && after (exec (.islandWeatherWindow 499 0) ((devX { latch := false } 0).modIsland fun i => { i with lowRun := 1 })) (fun t => t.dyn.island.paceLow)
    && after (exec (.islandWeatherWindow 499 0) (devX { latch := false } 0)) (fun t => !t.dyn.island.paceLow && t.dyn.island.lowRun == 1)
    && after (exec (.islandWeatherWindow 500 0) (devX { latch := false } 0)) (fun t => t.dyn.island.okRun == 1)
    && after (exec (.islandWeatherWindow 499 0) s) (fun t => t.dyn.island.lowRun == 0)) = true := by decide +kernel

/-- A plan with one entry at its time of validity and one FINAL entry 5 us later. -/
def plan0 : Plan := { horizon := 100, validity := 0, entries := [{ length := 1, frame := [1] }, { tOffset := 5, final := true, stream := 1, repeatMs := 1, length := 1, frame := [2] }] }

theorem test_playout : (let plays := fun (n : Nat) => devX { playing := true, playPlan := some plan0 } n
    after (exec .heartbeatDeadline (devX { latch := false, hbDeadline := some 4 } (5 * 2 ^ 32))) (fun t => bitAt t.dyn.safety.sources 8)
    && after (exec .heartbeatDeadline (devX { latch := false, hbDeadline := some 5 } (5 * 2 ^ 32))) (fun t => !t.dyn.safety.latch)
    && after (exec .playoutStart (devX { activePlan := some plan0 } 0)) (fun t => t.dyn.safety.playing && t.dyn.safety.playSent == [0])
    && after (exec .playoutStart (devX { activePlan := some plan0, setAt := 100 * us16 } 0)) (fun t => t.dyn.safety.noPlan && !t.dyn.safety.playing)
    && after (exec .playoutStart (devX {} 0)) (fun t => t.dyn.safety.noPlan)
    && after (exec .playoutStart (devX { latch := false } 0)) (fun t => !t.dyn.safety.noPlan)
    && after (exec (.planEntrySend 1) (plays (5 * us48))) (fun t => t.dyn.safety.playSent == [1])
    && after (exec (.planEntrySend 1) (plays (5 * us48 - 2 ^ 32))) (fun t => t.dyn.safety.playSent.isEmpty)
    && after (exec (.planEntrySend 2) (plays (5 * us48))) (fun t => t.dyn.safety.playSent.isEmpty)
    && after (exec (.finalRepeat 0 1) (devX { playing := true, playPlan := some plan0, finals := [(1, some 0)] } (1000 * us48))) (fun t =>
      tabGet none t.dyn.safety.finals 1 == some (1000 * us16))
    && after (exec (.finalRepeat 0 1) (devX { playing := true, playPlan := some plan0, finals := [(1, some 0)] } (999 * us48))) (fun t =>
      tabGet none t.dyn.safety.finals 1 == some 0)) = true := by decide +kernel

/-- The gateway runs: setpoint class 2 of berth 1 on channel 0, every 1,000 us; channels 0 and 8 of berth 1; bus 5 is berth 1's. -/
def devG (c : SetpointClass) (wc : Nat) : State :=
  withDyn (fun d => { d with
    time := { d.time with wc := wc }, power := { d.power with corePwrgd := true }
    gateway := { d.gateway with
      valid := true, ranges := [BitVec.ofNat 64 (packFields [(0, 8, 5), (8, 8, 5), (16, 6, 1), (22, 1, 1)])]
      classes := [(2, { c with entry := BitVec.ofNat 512 (packFields [(0, 1, 1), (16, 6, 1), (32, 32, 1000), (64, 32, 200), (96, 32, 100)]) })]
      channels := [(0, { entry := BitVec.ofNat 256 (packFields [(0, 1, 1), (1, 6, 1), (40, 4, 4), (44, 4, 4), (128, 40, 0x800)]) })] } }) (devX { latch := false } 0)

theorem test_setpoints : (let frame : SetpointClass := { readFor := some 1000, built := some ([7], 3) }
    after (exec (.setpointReadPoint 2) (devG {} 0)) (fun t => (t.spClass 2).readFor == some 200)
    && after (exec (.setpointReadPoint 2) (devG {} (1 * us48))) (fun t => (t.spClass 2).readFor == none)
    && after (exec (.setpointSlot 2) (devG frame (1000 * us48))) (fun t => (t.spClass 2).sent == 1 && t.dyn.gateway.sent.length == 1)
    && after (exec (.setpointSlot 2) (devG frame (999 * us48))) (fun t => (t.spClass 2).sent == 0)
    && after (exec (.setpointSlot 2) (withDyn (fun d => { d with safety := {} }) (devG frame (1000 * us48)))) (fun t => (t.spClass 2).gated == 1)
    && after (exec (.setpointSlot 2) ((devG frame (1000 * us48)).modChannel 0 fun c => { c with busOff := true })) (fun t => (t.spClass 2).faults == 1)
    && after (exec (.setpointSlot 2) (devG {} (1000 * us48))) (fun t => (t.spClass 2).sent == 0)) = true := by decide +kernel

theorem test_rings : (let busy := (devG {} 0).modChannel 0 fun c => { c with sending := some ([1], 0) }
    let owned := holding 0x1000800 (rcd 64 [(0, 1, 1), (64, 40, 0x2000)]) (devG {} 0)
    after (exec (.txRingPoll 0) (devG {} 0)) (fun t => (t.channel 0).sending == none)
    && after (exec (.txFrameDone 0 true) busy) (fun t => (t.channel 0).sentCount == 1 && (t.channel 0).txCons == 1)
    && after (exec (.txFrameDone 0 false) busy) (fun t => (t.channel 0).notSent == 1)
      && after (exec (.txFrameDone 1 false) busy) (fun t => (t.channel 1).notSent == 0)
    && after (exec (.rxFrame 0 0 0 [1, 2]) owned) (fun t => (t.channel 0).rxNext == 1 && tabGet 0 t.mem.bytes 0x1002001 == 2)
    && after (exec (.rxFrame 0 0 0 [1, 2]) (devG {} 0)) (fun t => (t.channel 0).rxDrops == 1)
    && after (exec (.rxFrame 1 0 0 [1, 2]) owned) (fun t => (t.channel 1).rxDrops == 0)
    && after (exec (.busOff 0 true) owned) (fun t => (t.channel 0).busOff)) = true := by decide +kernel

theorem test_pcie : (let req : PcieReq := { tag := 3, reader := some (.hart 0), va := 0x40, len := 2, since := 0 }
    let s := fun (wc : Nat) => withDyn (fun d => { d with gateway := { d.gateway with requests := [req] } }) (devG {} wc)
    after (exec (.pcieInbound 5 0 none 4) (devG {} 0)) (fun t => t.dyn.gateway.answers == [some [0, 0, 0, 0]])
    && after (exec (.pcieInbound 6 0 none 4) (devG {} 0)) (fun t => t.dyn.gateway.answers == [none])
    && after (exec (.pcieInbound 5 0x10 (some [9]) 0) (devG {} 0)) (fun t => tabGet 0 t.mem.bytes 0x1000010 == 9)
    && after (exec (.pcieInbound 5 0x40000 none 4) (devG {} 0)) (fun t => t.dyn.gateway.answers == [none])
    && after (exec (.pcieInbound 5 0 none 4) dev0) (fun t => t.dyn.gateway.answers.isEmpty)
    && after (exec (.pcieCompletion 3 [1, 2] true) (s 0)) (fun t => t.answers.head? == some (.hart 0, 0x40, .data [1, 2])
      && t.dyn.gateway.requests.isEmpty)
    && after (exec (.pcieCompletion 3 [] false) (s 0)) (fun t => t.answers.head? == some (.hart 0, 0x40, .addressFault))
    && after (exec (.pcieCompletion 4 [] true) (s 0)) (fun t => t.dyn.gateway.requests.length == 1)
    && after (exec (.pcieTimeout 3) (s (50000 * us48))) (fun t => t.dyn.gateway.requests.isEmpty)
    && after (exec (.pcieTimeout 3) (s (50000 * us48 - 1))) (fun t => t.dyn.gateway.requests.length == 1)) = true := by decide +kernel

theorem test_gauge_events : (let y := fun (g : GaugeDyn) (n : Nat) => devX { latch := false, gauges := [(7, g)] } n
    after (exec (.gaugeDeadline 7) (y { state := .watching, expireAt := 4 } (4 * 2 ^ 32))) (fun t => (t.dyn.safety.gaugeOf 7).readSince == some 4)
    && after (exec (.gaugeDeadline 7) (y { state := .watching, expireAt := 5 } (4 * 2 ^ 32))) (fun t => (t.dyn.safety.gaugeOf 7).readSince == none)
    && after (exec (.expiredGaugePoll 7) (y { state := .expired } (1000 * us48))) (fun t => (t.dyn.safety.gaugeOf 7).lastPoll == 1000 * us16)
    && after (exec (.expiredGaugePoll 7) (y { state := .expired } (999 * us48))) (fun t => (t.dyn.safety.gaugeOf 7).readSince == none)
    && after (exec (.stampReadResponse 7 0) (y { state := .watching, readSince := some 0 } 0)) (fun t => (t.dyn.safety.gaugeOf 7).state == .expired && t.dyn.safety.latch)
    && after (exec (.stampReadResponse 7 0) (y { state := .watching } 0)) (fun t => (t.dyn.safety.gaugeOf 7).state == .watching)
    && after (exec (.stampReadTimeout 7) (y { state := .watching, readSince := some 0 } (10 * us48))) (fun t => (t.dyn.safety.gaugeOf 7).badStamps == 1)
    && after (exec (.stampReadTimeout 7) (y { state := .watching, readSince := some 0 } (9 * us48))) (fun t => (t.dyn.safety.gaugeOf 7).badStamps == 0)) = true := by
  decide +kernel

theorem test_soundings : (let r : SoundingRun := { instant := 0, handle := 0, tile := 0, release := 0 }
    let s := fun (r : SoundingRun) (wc : Nat) => withDyn (fun d => { d with time := { d.time with wc := wc } }) (devX { latch := false, sounding := some r } 0)
    after (exec .soundingWindowEnd (s r (10 ^ 9 * us48))) (fun t =>
      t.dyn.safety.missed == 1 && bitAt t.dyn.safety.sources 2)
    && after (exec .soundingWindowEnd (s { r with started := true } (10 ^ 9 * us48))) (fun t => t.dyn.safety.missed == 0)
    && after (exec (.soundingComplete [] false) (s r 0)) (fun t => t.dyn.safety.sounding.isSome)
    && after (exec (.soundingComplete [] true) (s { r with started := true } 0)) (fun t => t.dyn.safety.sounding != some { r with started := true })
    && after (exec (.soundingRelease 0) (devX { latch := false } 0)) (fun t => t.dyn.safety.sounding == none)) = true := by decide +kernel

theorem test_drizzle : (let s := fun (f : Safety) (wc : Nat) => withDyn (fun d => { d with time := { d.time with wc := wc } }) (devX f 0)
    after (exec .drizzleSlot (s {} (250 * us48))) (fun t => t.dyn.safety.slice.isSome && t.dyn.safety.lastSlot == 250 * us16)
    && after (exec .drizzleSlot (s {} (250 * us48 - 2 ^ 32))) (fun t => t.dyn.safety.slice == none)
    && after (exec (.drizzleSliceEnd false) (s { slice := some { checker := 4, req := none, at16 := 9 } } 0)) (fun t => t.dyn.safety.slice == none)
    && after (exec (.drizzleSliceEnd true) (s { slice := some { checker := 4, req := none, at16 := 9 } } 0)) (fun t => (tabGet {} t.dyn.safety.checkers 4).failed)
    && after (exec (.drizzleSliceEnd true) (s {} 0)) (fun t => t.dyn.safety.checkers.isEmpty)
    && after (exec .errorRecordSecond (s {} (10 ^ 9 * 2 ^ 48))) (fun t => t.dyn.errors.ring.isEmpty)
    && after (exec (.tileSelfTestEnd 5 none) (s {} 0)) (fun t => t.dyn.tiles.isEmpty)) = true := by decide +kernel

theorem test_service : (let running := withDyn (fun d => { d with cfg := { d.cfg with running := true } }) { dev0 with lock := { dev0.lock with opn := { cfg0 with running := true } } }
    enters (exec (.serviceEnter (sup [])) running) (fun k => !k.running)
    && refuses 64 0x0109 (exec (.serviceEnter (sup [])) dev0) && refuses 1 0x0100 (exec (.serviceEnter (own [])) dev0)
    && refuses 64 0x0102 (exec (.serviceEnter (sup [])) (withDyn (fun d => { d with safety := { latch := false } }) running))
    && refuses 64 0x0107 (exec (.serviceLeave (sup [])) dev0) && refuses 1 0x0100 (exec (.serviceLeave (own [])) dev0)
    && replies 64 0 (exec (.getBringupStatus (sup [])) dev0) && replies 1 0x0100 (exec (.getBringupStatus (own [])) dev0)
    && replies 64 0 (exec (.getTileMap (sup [])) dev0) && replies 64 0x0101 (exec (.getErrorLog (sup [])) dev0)
      && replies 1 0x0100 (exec (.getErrorLog (own [])) dev0)
    && replies 64 0x0101 (exec (.getDefectLog (sup [])) dev0) && replies 1 0x0100 (exec (.getDefectLog (own [])) dev0)
    && replies 1 0 (exec (.getDeviceIdentity (own [])) dev0) && replies 1 0 (exec (.getLicence (own [])) dev0)
      && replies 64 0 (exec (.getLinkStatus (sup [(0, 3, 5)])) dev0)) = true := by
  decide +kernel

theorem test_maintenance : (let gone := dev { cfg0 with tiles := [(0, .retired 2)] }
    after (exec (.tileTest (sup [(0, 3, 1)])) dev0) (fun t => (t.tile 1).tests.length == 1) && refuses 64 0x0056 (exec (.tileTest (sup [])) gone)
    && refuses 1 0x0100 (exec (.tileTest (own [])) dev0) && !Admits opTileTest (sup [(0, 3, 6)]) dev0
    && after (exec (.tileRetire (sup [])) dev0) (fun t => (tabGet TileKind.spare t.lock.opn.tiles 0).isRetired)
      && refuses 64 0x0056 (exec (.tileRetire (sup [])) gone)
    && refuses 1 0x0100 (exec (.tileRetire (own [])) dev0)) = true := by decide +kernel

theorem test_updates : (let s := dev0
    let c := { sup [(64, 32, 3152)] with device := false, berth := 1, gen := 3 }
    let halted := withDyn (fun d => { d with bring := { d.bring with ready := false, step := 0xF, haltCause := 2 } }) dev0
    refuses 1 0x0120 (exec (.licenceInstall (own [])) s) && refuses 64 0x0004 (exec (.licenceInstall (sup [])) s)
    && refuses 64 0x0126 (exec (.licenceInstall { c with params := par [(64, 32, 3151)] }) s)
    && refuses 64 0x0127 (exec (.licenceInstall { c with params := par [(0, 40, 0x20000), (64, 32, 3152)] }) s)
    && refuses 1 0x0120 (exec (.fwUpdate (own [])) s) && refuses 64 0x0004 (exec (.fwUpdate (sup [])) s)
    && Admits (opFwUpdate true) (sup [(128, 256, 5)]) halted
      && after (exec (.fwUpdateRecovery (sup [(128, 256, 5)])) halted) (fun t => t.dyn.bring.flash.length == 1)
    && refuses 64 0x0129 (exec (.fwUpdateRecovery (sup [(0, 23, 64)])) halted)
    && replies 64 0x0128 (exec (.flashWriteEnd false) ((withDyn (fun d => { d with bring := { d.bring with flash := [.chunk { opcode := 0xA020, cmd := sup [], gen := 0 }] } }) dev0).modMailbox 64 fun x =>
      { x with state := .taken }))
    && after (exec (.flashWriteEnd true) dev0) (fun t => t.dyn.bring.flash.isEmpty)) = true := by decide +kernel

theorem test_resets : (let up := withDyn (fun d => { d with power := { d.power with corePwrgd := true } }) (devX {} 0)
    let held := withDyn (fun d => { d with power := { d.power with warmReset := true, heldSince := 0 } }) up
    after (exec .warmResetAssert up) (fun t => t.dyn.power.warmReset && !t.dyn.bring.ready && t.mailboxes.isEmpty)
    && after (exec .warmResetAssert held) (fun t => t.dyn.bring.ready) && after (exec .corePwrgdFall up) (fun t => !t.dyn.power.corePwrgd
      && !t.dyn.bring.ready)
    && after (exec .corePwrgdFall dev0) (fun t => t.dyn.bring.ready) && after (exec .vmemOutOfRange up) (fun t => !t.dyn.bring.refreshKept)
    && after (exec .islPwrgdFall up) (fun t => !t.dyn.island.powered && t.dyn.power.warmReset)
      && after (exec .islPwrgdFall held) (fun t => !t.dyn.island.powered)
    && after (exec .islPwrgdFall dev0) (fun t => t.dyn.bring.ready)
    && after (exec (.coldStart {}) up) (fun t => t.dyn.bring.ready) && after (exec (.coldStart {}) State.reset) (fun t => t.dyn.bring.step == 2)
    && after (exec (.warmResetRelease {}) held) (fun t => t.dyn.power.warmReset)) = true := by decide +kernel

/-- The device with port 0 in a state, on a board of two devices. -/
def port0 (p : PortDyn) : State :=
  withDyn (fun d => { d with bring := { d.bring with boardN := 1, grade := 1 }, isgal := { d.isgal with ports := [(0, p)] } }) dev0

theorem test_isgal_ports : (let tx : IsgalTx := { kind := 0 }
    let upd : PortDyn := { state := .up, peer := 1, lanes := 0xFF, rxSeq := 4 }
    let who : PeerIdentity := { devId := 1, boardN := 1, grade := 1, port := 0 }
    after (exec (.portTrainingDone 0 { who with grade := 2 }) (port0 { state := .training })) (fun t => (t.port 0).state == .down
      && (t.port 0).cause == 1)
    && after (exec (.portTrainingDone 0 who) (port0 { state := .training })) (fun t => (t.port 0).state == .up && (t.port 0).lanes == 0xFF)
    && after (exec (.portTrainingDone 0 { who with lanes := 0x1F }) (port0 { state := .training })) (fun t => (t.port 0).cause == 5)
    && after (exec (.portTrainingDone 0 who) (port0 {})) (fun t => (t.port 0).state == .down && (t.port 0).cause == 0)
    && after (exec (.flitReceive 0 5 0 false true 0 ⟨[tx], []⟩) (port0 upd)) (fun t => (t.port 0).rxSeq == 5 && (t.port 0).received == [tx])
    && after (exec (.flitReceive 0 5 0 false false 1 ⟨[], []⟩) (port0 upd)) (fun t => (t.port 0).nak && (t.port 0).laneFails.length == 1)
    && after (exec (.flitReceive 0 6 0 false true 0 ⟨[tx], []⟩) (port0 upd)) (fun t => (t.port 0).nak && (t.port 0).received.isEmpty)
    && after (exec (.flitReceive 0 4 0 false true 0 ⟨[tx], []⟩) (port0 upd)) (fun t => !(t.port 0).nak && (t.port 0).received.isEmpty)
    && after (exec (.flitReceive 0 5 0 false true 0 ⟨[tx], []⟩) (port0 {})) (fun t => (t.port 0).received.isEmpty)
    && after (exec (.peerSilent 0) (withDyn (fun d => { d with time := { d.time with wc := 10 * us48 } }) (port0 upd))) (fun t => (t.port 0).cause == 7)
    && after (exec (.peerSilent 0) (port0 upd)) (fun t => (t.port 0).state == .up)
    && after (exec (.inboundTransaction 0 tx) (port0 upd)) (fun t => t.answers.isEmpty)
    && after (exec (.inboundTransaction 0 tx) (port0 { upd with received := [tx] })) (fun t => (t.port 0).received.isEmpty)
    && after (exec (.sideBandPoll 1) (port0 upd)) (fun t => (tabGet (0, false) t.dyn.isgal.polled 1).2)
    && after (exec (.sideBandPoll 2) (port0 upd)) (fun t => t.dyn.isgal.polled.isEmpty)
    && after (exec (.sideBandRecord 1 9 true true 0 0) (port0 upd)) (fun t => t.dyn.isgal.peerLock.isEmpty)
    && after (exec (.sideBandRecord 1 9 true true 3 0) (withDyn (fun d => { d with isgal := { d.isgal with polled := [(1, (1, true))] } }) (port0 upd))) (fun t =>
      tabGet 0 t.dyn.isgal.peerLock 1 == 9 && tabGet 0 t.dyn.isgal.peerLive 1 == 3)) = true := by decide +kernel

theorem test_peer_cuts : (let up := port0 { state := .up, peer := 1 }
    let s := withDyn (fun d => { d with cfg := { d.cfg with cuts := [(4, { valid := true, srcKind := 3, src := 0x10000, destQueue := 17, berth := 1, gen := 3 })] } }) up
    after (exec (.peerCutCopy 4 1 (List.replicate 32 7)) s) (fun t => (t.queue 17).prod == 1)
    && after (exec (.peerCutCopy 4 2 (List.replicate 32 7)) s) (fun t => (t.queue 17).prod == 0 && (t.port 0).peerDrops == 1)
    && after (exec (.peerCutCopy 5 1 (List.replicate 32 7)) s) (fun t => (t.queue 17).prod == 0
      && (t.port 0).peerDrops == 0)) = true := by decide +kernel

theorem test_locks : (let lock : ColLock := { holder := 1, line := 0, expiry := 5, port := 0, tag := 2 }
    let out : OutLock := { tag := 2, peer := 1, hart := 0, va := 0x40, tx := { kind := 5 } }
    let up := port0 { state := .up, peer := 1, received := [{ kind := 7, tag := 2 }] }
    let s := fun (wc : Nat) (k : OutLock) => withDyn (fun d => { d with time := { d.time with wc := wc }, isgal := { d.isgal with colLocks := [(3, some lock)], outLocks := [k] } }) up
    after (exec (.lockTimeout 3) (s (5 * 2 ^ 32) out)) (fun t => t.dyn.isgal.colLocks.isEmpty && (t.port 0).lockTimeouts == 1)
    && after (exec (.lockTimeout 3) (s (4 * 2 ^ 32) out)) (fun t => t.dyn.isgal.colLocks.length == 1)
    && after (exec (.lockRetryReceive 0 2) (s 0 out)) (fun t => (t.port 0).lockRetries == 1
      && t.dyn.isgal.outLocks.any fun k => k.resendAt == some us16)
    && after (exec (.lockRetryReceive 0 3) (s 0 out)) (fun t => (t.port 0).lockRetries == 0)
    && after (exec (.lockRetryReceive 0 2) (s 0 { out with retries := 7 })) (fun t => t.dyn.isgal.outLocks.all fun k => k.retries == 7)
    && after (exec (.lockResend 2) (s 0 { out with resendAt := some 0 })) (fun t => t.dyn.isgal.outLocks.any fun k => k.resendAt == none)
    && after (exec (.lockResend 2) (s 0 { out with resendAt := some 1 })) (fun t => t.dyn.isgal.outLocks.any fun k => k.resendAt == some 1)
    && after (exec (.lockRead 0 { kind := 5 }) (s 0 out)) (fun t => (t.port 0).received.length == 1)
    && after (exec (.lockWrite 0 { kind := 6 }) (s 0 out)) (fun t => (t.port 0).received.length == 1)) = true := by decide +kernel

/-- A model image of R147: one shard without weights, one output slot whose header is at 0x1000, one step. -/
def model0 : List Byte :=
  rcd 64 [(0, 4, 1), (8, 6, 1), (16, 12, 1), (36, 4, 1), (128, 32, 192)] ++ rcd 16 [(64, 8, 1)] ++ rcd 64 [(0, 40, 0x1000)]
    ++ rcd 48 [(0, 4, 1), (96, 32, 144)]

theorem test_model_register_conditions : (let s := holding 0x1000000 model0 (dev cfg3)
    let c := own []
    let t := ticketOf opModelRegister c s
    let a := admitted c s
    let spans := modelSpans model0
    Admits opModelRegister c s && s.readable 1 0 192 && modelHeaderOk (word 512 model0 0 64) && reads (readVirt t.src 1 0 64 a)
    && reads (readVirt t.src 1 64 128 (readVirt t.src 1 0 64 a).1) && modelImageOk model0
    && ((spans.1 ++ spans.2).all fun x => a.readable 1 x.1 x.2) && (spans.1.all fun x => x.1 % 64 == 0)
    && reads (readSpans t.src 1 spans.1 a) && reads (readSpans t.src 1 spans.2 a)) = true := by decide +kernel

theorem test_service_leave : (let l : Licence := { signed := true, body := 0x100010001 }
    let s := withDyn (fun d => { d with bring := { d.bring with licence := some l, islandLicence := some l } }) dev0
    licenceHeld s.dyn.bring == some l && s.dyn.safety.checkersFit && l.safetyMin == 1
    && refuses 64 0x0104 (exec (.serviceLeave (sup [])) s)
    && refuses 64 0x0106 (exec (.serviceLeave (sup [])) (s.modIsland fun i => { i with pair0 := { state := .failed }, pair1 := { state := .failed } }))
    && refuses 64 0x0105 (exec (.serviceLeave (sup [])) (withDyn (fun d => { d with safety := { d.safety with checkers := [(0, { unfit := true })] } }) s))) = true := by
  decide +kernel

theorem test_screen_tile_bind : (after (exec (.screenTileBind 7 0) (passing { phase := .rendering, lists := [(0, [{}])] })) (fun t => (t.pass 7).bound.length == 1)
    && after (exec (.screenTileBind 7 1) (passing { phase := .rendering })) (fun t => (t.pass 7).bound.isEmpty)
    && after (exec (.screenTileBind 7 0) (passing { phase := .binning })) (fun t => (t.pass 7).bound.isEmpty)
    && after (exec (.batchDeal 7 0 .good) (withDyn (fun d => { d with tiles := [(0, { power := .nap })] }) (passing { phase := .binning }))) (fun t => (t.tile 0).wakeEnds.isSome)) = true := by
  decide +kernel

/-- A plan of one entry (R459): channel 2, FINAL, LENGTH 1; CHECK is worked out with a CRC-32 program that is not the model's. -/
def planBytes : List Byte := rcd 60 [(0, 4, 1), (16, 13, 1), (32, 32, 100)] ++ rcd 4 [(0, 32, 0x34a9543a)] ++ rcd 128 [(32, 2, 2), (34, 1, 1), (40, 8, 1), (48, 16, 1)]

set_option maxRecDepth 20000 in
theorem test_plans : ((match judgePlan planBytes none 0 with
      | .ok p => p.entries.length == 1
      | .error _ => false)
    && (match judgePlan planBytes (some 0) 0 with
      | .ok _ => false
      | .error st => st == 0x00F7)
    && (match judgePlan planBytes none (100 * us16) with
      | .ok _ => false
      | .error st => st == 0x00F7)
    && (storePlan plan0 (devX { latch := false } 0)).dyn.safety.activePlan == some plan0
    && (storePlan plan0 (devX {} 0)).dyn.safety.stagedPlan == some plan0) = true := by decide +kernel

end Sys2Proof.Tests
end

section
/-! PROOFS. An idle step: the clocks move by one tick, and nothing else does where no lock cycle is overdue and no elastic
buffer holds anything. -/

namespace Sys2Proof.Machine

variable {s : State}

theorem step_of_pending_nil (h : s.pending = []) : step s = .next (drainPorts (keepCycles (clockTick s))) := by
  simp only [step, h, idle, tick]

/-- No lock cycle runs of itself while none may run, or while neither bound of R21 and R74 is reached. -/
theorem keepCycles_of_none_due (h : s.locks = false ∨ (s.closeDue = false ∧ s.edgeDue = false)) : keepCycles s = s := by
  rcases h with hlocks | ⟨hclose, hedge⟩
  · simp [keepCycles, hlocks]
  · simp [keepCycles, hclose, hedge]

theorem drainPorts_of_elastic_nil (h : s.dyn.ingest.elastic = []) : drainPorts s = s := by
  simp [drainPorts, h, tabKeys]

@[simp] theorem clockTick_ingest (s : State) : (clockTick s).dyn.ingest = s.dyn.ingest := rfl

/-- Where no lock cycle is due after the tick and no elastic buffer holds anything, an idle step moves the clocks alone. -/
theorem step_eq_clockTick (hidle : s.pending = [])
    (hdue : (clockTick s).locks = false ∨ ((clockTick s).closeDue = false ∧ (clockTick s).edgeDue = false))
    (hempty : s.dyn.ingest.elastic = []) : step s = .next (clockTick s) := by
  have hdrained : (clockTick s).dyn.ingest.elastic = [] := by rw [clockTick_ingest, hempty]
  rw [step_of_pending_nil hidle, keepCycles_of_none_due hdue, drainPorts_of_elastic_nil hdrained]

/-- Settles O2: the statement's state with the clocks moved is `clockTick s`, field by field, and the three clauses are the
three facts about what runs after it. -/
theorem anEmptyQueueIsOneTick : Obligations.AnEmptyQueueIsOneTick := by
  intro s hidle
  have step_clocks : step s = .next (drainPorts (keepCycles (clockTick s))) := step_of_pending_nil hidle
  exact ⟨step_clocks, keepCycles_of_none_due, step_eq_clockTick hidle⟩

end Sys2Proof.Machine
end

section
/-! PROOFS. The device class: an admitted read is answered at once, and an admitted configuration command is entered in the
open shadow or refused. -/

namespace Sys2Proof.Machine

variable {c : Cmd} {s : State}

/-! The reads (R30, R395, R399, R400) -/

theorem echo_of_admits (h : Admits opEcho c s = true) :
    exec (.echo c) s = .next (answered opEcho c 0 (shortResult [(0, 128, fldN c.params 0 128)]) s) :=
  admitted_answer h rfl

/-- The device status is read from what admission leaves as it was. -/
@[simp] theorem deviceStatus_admitted (c : Cmd) (s : State) : deviceStatus (admitted c s) = deviceStatus s := by
  simp only [deviceStatus, admitted_snap, admitted_bring, admitted_lock]

/-- The identity of the running image is read from what admission leaves as it was. -/
@[simp] theorem fwIdentity_admitted (c : Cmd) (s : State) : fwIdentity (admitted c s) = fwIdentity s := by
  simp only [fwIdentity, admitted_bring]

theorem getDeviceStatus_of_admits (h : Admits opGetDeviceStatus c s = true) :
    exec (.getDeviceStatus c) s = .next (answered opGetDeviceStatus c 0 (deviceStatus s) s) :=
  admitted_answer h (by rw [answer, deviceStatus_admitted])

theorem getFwIdentity_of_admits (h : Admits opGetFwIdentity c s = true) :
    exec (.getFwIdentity c) s = .next (answered opGetFwIdentity c 0 (fwIdentity s) s) :=
  admitted_answer h (by rw [answer, fwIdentity_admitted])

/-- A logical tile that a physical tile carried at the last lock cycle has its latched record read. -/
theorem getWeather_of_carried {p : Nat} (h : Admits opGetWeather c s = true)
    (hp : s.snap.cfg.physOf (fldN c.params 0 6) = some p) :
    exec (.getWeather c) s = .next (answered opGetWeather c 0 (weatherRecord (tabGet {} s.snap.tiles p)
      (!s.snap.tileIdle p) (s.snap.cfg.safetyTile (fldN c.params 0 6))) s) :=
  admitted_answer h (by simp only [actGetWeather, ticketOf_cmd, admitted_snap, hp])

theorem getWeather_of_not_carried (h : Admits opGetWeather c s = true)
    (hp : s.snap.cfg.physOf (fldN c.params 0 6) = none) :
    exec (.getWeather c) s = .next (answered opGetWeather c 0x0056 noResult s) :=
  admitted_answer h (by simp only [actGetWeather, ticketOf_cmd, admitted_snap, hp])

/-- On a mailbox the agreed features are answered, and then stand as that mailbox's negotiated set. -/
theorem negotiate_of_mailbox {m : Nat} (h : Admits opNegotiate c s = true) (hm : pathMailbox? c.path = some m) :
    exec (.negotiate c) s = .next
      ((answered opNegotiate c 0 (shortResult [(0, 8, 1), (8, 8, 2),
        (64, 64, (fld c.params 0 64 &&& deviceFeatures m).toNat)]) s).modMailbox m fun x =>
          { x with negotiated := true, features := fld c.params 0 64 &&& deviceFeatures m }) := by
  have act_agrees := carry_admitted h actNegotiate
  simp only [actNegotiate, ticketOf_cmd, hm] at act_agrees
  exact act_agrees

/-- Settles O5: each read is answered with what the state before admission holds, since admission moves only the packet's
own path. -/
theorem deviceReadsAnswerAtOnce : Obligations.DeviceReadsAnswerAtOnce :=
  ⟨fun _ _ => echo_of_admits, fun _ _ => getDeviceStatus_of_admits, fun _ _ => getFwIdentity_of_admits,
    fun _ _ _ => getWeather_of_carried, fun _ _ => getWeather_of_not_carried, fun _ _ _ => negotiate_of_mailbox⟩

/-! The configuration commands (R39, R40, R70, R74) -/

/-- LOCK_COMMIT enters the shadow as it stands; the close bound of an earlier request is kept (R74). -/
theorem lockCommit_of_admits (h : Admits opLockCommit c s = true) :
    exec (.lockCommit c) s = .next ((entered opLockCommit c s.lock.opn s).modLock fun k =>
      { k with closeBy := some (k.closeBy.getD (s.now16 + 100 * us16)) }) := by
  have enters_unchanged : acceptConfig ruleLockCommit (ticketOf opLockCommit c s) (admitted c s)
      = entered opLockCommit c s.lock.opn s := by
    rw [acceptConfig_pass (cfg := s.lock.opn) (by rw [ruleLockCommit, admitted_lock]), entered]
  have act_enters := carry_admitted h actLockCommit
  rw [actLockCommit, enters_unchanged, admitted_now16] at act_enters
  exact act_enters

/-- A shadow with the power policy that a packet's parameters give (R39). -/
def Shadow.withPolicy (p : Params) (k : Shadow) : Shadow :=
  { k with policy := { safeStep := fld p 0 5, perfCeil := fld p 8 5, excEn := bitAt p 16 } }

/-- SET_POWER_POLICY: the caller's path is judged first, then the budget of the shadow that it would leave. -/
theorem ruleSetPowerPolicy_eq (t : Ticket) (k : Shadow) : ruleSetPowerPolicy s t k =
    if !t.fromSupervisor then .refuse 0x0003 noResult
    else if !(k.withPolicy t.cmd.params).budgetOk then .refuse 0x0040 noResult
    else .pass (k.withPolicy t.cmd.params) noResult := rfl

theorem ticketOf_fromSupervisor (op : OpInfo) (c : Cmd) (s : State) :
    (ticketOf op c s).fromSupervisor = (c.path == .supervisor) := rfl

theorem setPowerPolicy_of_fits (h : Admits opSetPowerPolicy c s = true) (hpath : c.path = .supervisor)
    (hfits : (s.lock.opn.withPolicy c.params).budgetOk = true) :
    exec (.setPowerPolicy c) s = .next (entered opSetPowerPolicy c (s.lock.opn.withPolicy c.params) s) :=
  config_pass (r := noResult) h (by simp [ruleSetPowerPolicy_eq, ticketOf_fromSupervisor, hpath, hfits])

theorem setPowerPolicy_of_over_budget (h : Admits opSetPowerPolicy c s = true) (hpath : c.path = .supervisor)
    (hover : (s.lock.opn.withPolicy c.params).budgetOk = false) :
    exec (.setPowerPolicy c) s = .next (answered opSetPowerPolicy c 0x0040 noResult s) :=
  config_refuse h (by simp [ruleSetPowerPolicy_eq, ticketOf_fromSupervisor, hpath, hover])

theorem setPowerPolicy_of_not_supervisor (h : Admits opSetPowerPolicy c s = true) (hpath : c.path ≠ .supervisor) :
    exec (.setPowerPolicy c) s = .next (answered opSetPowerPolicy c 0x0003 noResult s) :=
  config_refuse h (by simp [ruleSetPowerPolicy_eq, ticketOf_fromSupervisor, hpath])

/-- Settles O6: the verdict of each command's rule on the open shadow says whether it is entered or refused. -/
theorem deviceConfigurationEntersTheShadow : Obligations.DeviceConfigurationEntersTheShadow := by
  refine ⟨fun _ _ => lockCommit_of_admits, ?_, fun _ _ => setPowerPolicy_of_not_supervisor⟩
  rintro c s _ h hpath rfl
  exact ⟨setPowerPolicy_of_fits h hpath, setPowerPolicy_of_over_budget h hpath⟩

end Sys2Proof.Machine
end

section
/-! PROOFS. Pace and power: when a weather window, a governor sample, a regulator's silence and a tile's power state act, and
what each does (R29, R34, R38, R41, R42, R44, R547, R551). -/

namespace Sys2Proof.Machine

variable {s : State} {t : Fin 36}

/-! Weather windows (R29, R34, R551) -/

/-- The tile belongs to the safety basin. -/
def State.safetyPhys (s : State) (p : Nat) : Bool := match s.dyn.cfg.logicalOf p with
  | some l => s.dyn.cfg.safetyTile l
  | none => false

/-- A window of the tile is heard: the fabric runs, the tile is mapped and its replica measures. -/
def State.hears (s : State) (p : Nat) : Prop :=
  s.fabricUp = true ∧ s.dyn.cfg.logicalOf p ≠ none ∧ (s.tile p).measures = true

/-- The state once a window's measures are taken and the steps follow them. -/
def State.windowTaken (p : Nat) (pace tj v : BitVec 16) (s : State) : State :=
  applySteps (s.modTile p (TileDyn.window pace tj v))

/-- The second low window in a row of a safety-basin tile raises PACE_BELOW_FLOOR (R34). -/
def judgePace (safety : Bool) (p : Nat) (s : State) : State :=
  if safety && 2 ≤ (s.tile p).lowRun then raiseDoubt 9 s else settle s

/-- The second hot window in a row trips the fabric (R551). -/
def judgeHeat (p : Nat) (s : State) : State :=
  if 2 ≤ (s.tile p).hotRun then holdFabric (s.modPower fun w => { w with thermTrip := true }) else s

theorem judgePace_of_low {safety : Bool} {p : Nat} (h : safety = true ∧ 2 ≤ (s.tile p).lowRun) :
    judgePace safety p s = raiseDoubt 9 s := if_pos (by simpa using h)

theorem judgePace_of_not_low {safety : Bool} {p : Nat} (h : ¬ (safety = true ∧ 2 ≤ (s.tile p).lowRun)) :
    judgePace safety p s = settle s := if_neg (by simpa using h)

theorem judgeHeat_of_cool {p : Nat} (h : (s.tile p).hotRun < 2) : judgeHeat p s = s := if_neg (by omega)

theorem judgeHeat_of_hot {p : Nat} (h : 2 ≤ (s.tile p).hotRun) :
    judgeHeat p s = holdFabric (s.modPower fun w => { w with thermTrip := true }) := if_pos h

theorem hears_iff {p : Nat} :
    s.hears p ↔ ¬ (!s.fabricUp || (s.dyn.cfg.logicalOf p).isNone || !(s.tile p).measures) = true := by
  simp [State.hears, and_assoc]

section Window

variable {pace tj v : BitVec 16}

theorem weatherWindow_of_not_hears (h : ¬ s.hears t) : exec (.weatherWindow t pace tj v) s = .next s :=
  if_pos (not_not.mp (mt hears_iff.mpr h))

/-- A window that is heard is taken, and then pace and heat are judged on what it left. -/
theorem weatherWindow_of_hears (h : s.hears t) : exec (.weatherWindow t pace tj v) s =
    .next (judgeHeat t (judgePace (s.safetyPhys t) t (s.windowTaken t pace tj v))) :=
  (if_neg (hears_iff.mp h)).trans (apply_ite Host.Outcome.next _ _ _).symm

theorem weatherWindow_settles (h : s.hears t)
    (hcool : ((judgePace (s.safetyPhys t) t (s.windowTaken t pace tj v)).tile t).hotRun < 2)
    (hpace : ¬ (s.safetyPhys t = true ∧ 2 ≤ ((s.windowTaken t pace tj v).tile t).lowRun)) :
    exec (.weatherWindow t pace tj v) s = .next (settle (s.windowTaken t pace tj v)) := by
  rw [weatherWindow_of_hears h, judgeHeat_of_cool hcool, judgePace_of_not_low hpace]

theorem weatherWindow_raises_doubt (h : s.hears t)
    (hcool : ((judgePace (s.safetyPhys t) t (s.windowTaken t pace tj v)).tile t).hotRun < 2)
    (hlow : s.safetyPhys t = true ∧ 2 ≤ ((s.windowTaken t pace tj v).tile t).lowRun) :
    exec (.weatherWindow t pace tj v) s = .next (raiseDoubt 9 (s.windowTaken t pace tj v)) := by
  rw [weatherWindow_of_hears h, judgeHeat_of_cool hcool, judgePace_of_low hlow]

theorem weatherWindow_trips (h : s.hears t)
    (hhot : 2 ≤ ((judgePace (s.safetyPhys t) t (s.windowTaken t pace tj v)).tile t).hotRun) :
    exec (.weatherWindow t pace tj v) s = .next (holdFabric ((judgePace (s.safetyPhys t) t (s.windowTaken t pace tj v)).modPower
      fun w => { w with thermTrip := true })) := by
  rw [weatherWindow_of_hears h, judgeHeat_of_hot hhot]

end Window

/-! The governor and the regulator (R38, R547) -/

section Governor

variable {ma : Option Nat} {ec em ei es : Nat}

theorem governorSample_of_fabric_down (h : s.fabricUp = false) : exec (.governorSample ma ec em ei es) s = .next s :=
  if_pos (by simp [h])

/-- The state in which a sample is taken: an answer of the regulator is heard first. -/
def State.sampledFrom (ma : Option Nat) (s : State) : State := if ma.isSome then busAnswers s else s

/-- The power of VCORE in a sample: the rail's current, or the on-die estimate raised by 10 % where the bus is silent. -/
def State.vcorePower (ma : Option Nat) (ec : Nat) (s : State) : Nat := match ma with
  | some i => i * s.dyn.power.railMv
  | none => ec * 110 / 100

theorem governorSample_of_fabric_up (h : s.fabricUp = true) : exec (.governorSample ma ec em ei es) s =
    .next (applySteps ((s.sampledFrom ma).modPower (Power.sample (s.sampledFrom ma).dyn.cfg.policy
      (((s.sampledFrom ma).vcorePower ma ec + em + ei + es) * 103)))) :=
  if_neg (by simp [h])

end Governor

/-- The regulator's 50 us of silence are over: a command waits for its answer and steps are not held. -/
def State.silenceOver (s : State) : Prop :=
  s.dyn.power.wanted ≠ none ∧ s.dyn.power.held = false ∧ s.dyn.power.sentAt + 50 * us16 ≤ s.now16

theorem silenceOver_iff : s.silenceOver ↔
    ¬ (s.dyn.power.wanted.isNone || s.dyn.power.held || s.now16 < s.dyn.power.sentAt + 50 * us16) = true := by
  simp [State.silenceOver, and_assoc]

theorem regulatorRetry_of_not_due (h : ¬ s.silenceOver) : exec .regulatorRetry s = .next s :=
  if_pos (not_not.mp (mt silenceOver_iff.mpr h))

theorem regulatorRetry_of_due (h : s.silenceOver) : exec .regulatorRetry s =
    if s.dyn.power.retries < 3 then .next (s.modPower fun p => { p with retries := p.retries + 1, sentAt := s.now16 })
    else .next (s.modPower fun p => { p with held := true }) :=
  if_neg (silenceOver_iff.mp h)

theorem regulatorRetry_sends_again (h : s.silenceOver) (hfew : s.dyn.power.retries < 3) : exec .regulatorRetry s =
    .next (s.modPower fun p => { p with retries := p.retries + 1, sentAt := s.now16 }) := by
  rw [regulatorRetry_of_due h, if_pos hfew]

theorem regulatorRetry_holds (h : s.silenceOver) (hspent : 3 ≤ s.dyn.power.retries) :
    exec .regulatorRetry s = .next (s.modPower fun p => { p with held := true }) := by
  rw [regulatorRetry_of_due h, if_neg (by omega)]

/-! Tile power states (R41, R42, R44) -/

/-- The tile may change its power state: the device is READY, the tile is mapped and neither wakes, hands over nor drains. -/
def State.maySleep (s : State) (p : Nat) : Prop :=
  s.dyn.bring.ready = true ∧ s.dyn.cfg.logicalOf p ≠ none ∧ (s.tile p).wakeEnds = none ∧ (s.tile p).handover = none
    ∧ (s.tile p).testDrain = false

theorem maySleep_iff {p : Nat} : s.maySleep p ↔
    ¬ (!s.dyn.bring.ready || (s.dyn.cfg.logicalOf p).isNone || (s.tile p).wakeEnds.isSome || (s.tile p).handover.isSome
      || (s.tile p).testDrain) = true := by
  simp [State.maySleep, and_assoc]

theorem tileStateEnter_of_not_maySleep (h : ¬ s.maySleep t) : exec (.tileStateEnter t) s = .next s :=
  if_pos (not_not.mp (mt maySleep_iff.mpr h))

theorem tileStateEnter_of_maySleep (h : s.maySleep t) : exec (.tileStateEnter t) s =
    if !s.dyn.tileIdle t then .next (touchTile t s)
    else (s.nextSleep t).elim (.next s) fun x => .next (s.modTile t fun d => { d with power := x, pace := 0 }) := by
  have exec_enters : exec (.tileStateEnter t) s = _ := if_neg (maySleep_iff.mp h)
  rw [exec_enters]
  cases s.nextSleep t <;> rfl

theorem tileStateEnter_of_busy (h : s.maySleep t) (hbusy : s.dyn.tileIdle t = false) :
    exec (.tileStateEnter t) s = .next (touchTile t s) := by
  simp [tileStateEnter_of_maySleep h, hbusy]

theorem tileStateEnter_of_none_due (h : s.maySleep t) (hidle : s.dyn.tileIdle t = true) (hnone : s.nextSleep t = none) :
    exec (.tileStateEnter t) s = .next s := by
  simp [tileStateEnter_of_maySleep h, hidle, hnone]

theorem tileStateEnter_of_due {x : TilePower} (h : s.maySleep t) (hidle : s.dyn.tileIdle t = true)
    (hdue : s.nextSleep t = some x) :
    exec (.tileStateEnter t) s = .next (s.modTile t fun d => { d with power := x, pace := 0 }) := by
  simp [tileStateEnter_of_maySleep h, hidle, hdue]

/-- The tile sleeps and its wake has not begun. -/
def TileDyn.asleep (d : TileDyn) : Prop := (d.power = .nap ∨ d.power = .doze ∨ d.power = .deep) ∧ d.wakeEnds = none

theorem asleep_iff {d : TileDyn} :
    d.asleep ↔ ((d.power == .nap || d.power == .doze || d.power == .deep) && d.wakeEnds.isNone) = true := by
  simp [TileDyn.asleep, or_assoc]

/-- Work at the interface of a sleeping tile starts its wake. -/
theorem startWake_of_asleep {p : Nat} (h : (s.tile p).asleep) :
    startWake p s = s.modTile p fun d => { d with wakeEnds := some (s.dyn.time.wc + wakeTime s p) } :=
  if_pos (asleep_iff.mp h)

/-- Work at the interface of a tile that is awake or waking changes nothing. -/
theorem startWake_of_not_asleep {p : Nat} (h : ¬ (s.tile p).asleep) : startWake p s = s :=
  if_neg (mt asleep_iff.mpr h)

theorem tileWake_of_ready (h : s.dyn.bring.ready = true) : exec (.tileWake t) s = .next (startWake t s) :=
  if_neg (by simp [h])

theorem tileWake_of_not_ready (h : s.dyn.bring.ready = false) : exec (.tileWake t) s = .next s :=
  if_pos (by simp [h])

theorem tileWake_of_asleep (hready : s.dyn.bring.ready = true) (h : (s.tile t).asleep) : exec (.tileWake t) s =
    .next (s.modTile t fun d => { d with wakeEnds := some (s.dyn.time.wc + wakeTime s t) }) := by
  rw [tileWake_of_ready hready, startWake_of_asleep h]

theorem tileWake_of_not_asleep (h : ¬ (s.dyn.bring.ready = true ∧ (s.tile t).asleep)) :
    exec (.tileWake t) s = .next s := by
  cases hready : s.dyn.bring.ready with
  | false => exact tileWake_of_not_ready hready
  | true => rw [tileWake_of_ready hready, startWake_of_not_asleep fun hasleep => h ⟨hready, hasleep⟩]

theorem exec_tileWakeDone : exec (.tileWakeDone t) s = execTileWakeDone t s := rfl

theorem tileWakeDone_of_ended {e : Nat} (h : (s.tile t).wakeEnds = some e) (hended : e ≤ s.dyn.time.wc) :
    exec (.tileWakeDone t) s = .next
      (serveHeld (s.modTile t fun d => { d with power := .idle, wakeEnds := none, idleSince := s.dyn.time.wc })) := by
  rw [exec_tileWakeDone, execTileWakeDone]
  simp only [h, if_neg (Nat.not_lt.mpr hended)]

theorem tileWakeDone_of_running {e : Nat} (h : (s.tile t).wakeEnds = some e) (hrunning : s.dyn.time.wc < e) :
    exec (.tileWakeDone t) s = .next s := by
  rw [exec_tileWakeDone, execTileWakeDone]
  simp only [h, if_pos hrunning]

theorem tileWakeDone_of_no_wake (h : (s.tile t).wakeEnds = none) : exec (.tileWakeDone t) s = .next s := by
  rw [exec_tileWakeDone, execTileWakeDone]
  simp only [h]

/-- Settles O43: each event's clauses are the cases of when it acts; a window that is heard ends with the judgements of pace
and of heat. -/
theorem powerFollowsItsSamples : Obligations.PowerFollowsItsSamples := by
  refine ⟨fun t pace tj v s => ?window, fun ma ec em ei es s => ?governor, fun s => ?regulator, fun t s => ?enter,
    fun t s => ?wake, fun t s => ?wakeDone⟩
  case window =>
    exact ⟨weatherWindow_of_not_hears, weatherWindow_settles, weatherWindow_raises_doubt, weatherWindow_trips⟩
  case governor => exact ⟨governorSample_of_fabric_down, governorSample_of_fabric_up⟩
  case regulator => exact ⟨regulatorRetry_of_not_due, regulatorRetry_sends_again, regulatorRetry_holds⟩
  case enter =>
    exact ⟨tileStateEnter_of_not_maySleep, tileStateEnter_of_busy, tileStateEnter_of_none_due, fun _ => tileStateEnter_of_due⟩
  case wake =>
    exact ⟨fun ⟨hready, hsleeps, hnone⟩ => tileWake_of_asleep hready ⟨hsleeps, hnone⟩, tileWake_of_not_asleep⟩
  case wakeDone =>
    exact ⟨fun _ => tileWakeDone_of_ended, fun _ => tileWakeDone_of_running, tileWakeDone_of_no_wake⟩

end Sys2Proof.Machine
end

section
/-! PROOFS. What the configuration commands share: a settled command asks its checks one by one, and what a check over a
table says of its entries. -/

namespace Sys2Proof.Machine

variable {op : OpInfo} {c : Cmd} {s : State} {cfg : Shadow} {checks : List (Bool × Nat)}

/-! Settled commands -/

theorem settled_nil : settled op c [] cfg s = entered op c cfg s := rfl

theorem settled_cons {b : Bool} {st : Nat} :
    settled op c ((b, st) :: checks) cfg s = if b = true then answered op c st noResult s else settled op c checks cfg s :=
  firstOf_elim_cons ..

theorem settled_of_refused {st : Nat} (h : firstOf checks = some st) :
    settled op c checks cfg s = answered op c st noResult s := by
  rw [settled, h, Option.elim_some]

theorem settled_of_passed (h : firstOf checks = none) : settled op c checks cfg s = entered op c cfg s := by
  rw [settled, h, Option.elim_none]

/-- The first check that holds, written as a search. -/
theorem findSome?_check : (checks.findSome? fun x => if x.1 then some x.2 else none) = firstOf checks := by
  induction checks with
  | nil => rfl
  | cons x checks ih =>
    obtain ⟨b, st⟩ := x
    cases b with
    | true => rfl
    | false => simpa [firstOf_cons] using ih

/-- A settled command is refused with the first check that holds, and entered when none does. -/
theorem exec_of_settled {i : Instr} (h : exec i s = .next (settled op c checks cfg s)) :
    (∀ st, (checks.findSome? fun x => if x.1 then some x.2 else none) = some st →
      exec i s = .next (answered op c st noResult s))
    ∧ ((checks.findSome? fun x => if x.1 then some x.2 else none) = none → exec i s = .next (entered op c cfg s)) := by
  rw [findSome?_check]
  exact ⟨fun st hst => by rw [h, settled_of_refused hst], fun hnone => by rw [h, settled_of_passed hnone]⟩

/-! Entries of a table -/

/-- An entry that is not the default is listed. -/
theorem mem_of_tabGet_ne {α : Type} {d : α} {t : Tab α} {n : Nat} (h : tabGet d t n ≠ d) : (n, tabGet d t n) ∈ t := by
  induction t with
  | nil => exact absurd rfl h
  | cons kv t ih =>
    obtain ⟨k, v⟩ := kv
    by_cases hk : k = n
    · simp [tabGet, hk]
    · by_cases hlt : n < k
      · simp [tabGet, hk, hlt] at h
      · simp only [tabGet, hk, hlt, if_false] at h ⊢
        exact List.mem_cons_of_mem _ (ih h)

/-- What no listed entry satisfies, no entry but the default does. -/
theorem not_of_tabAny_eq_false {α : Type} {d : α} {t : Tab α} {p : Nat → α → Bool} {n : Nat} (h : tabAny p t = false)
    (hn : tabGet d t n ≠ d) : p n (tabGet d t n) = false := by
  rw [tabAny, List.any_eq_false] at h
  simpa using h _ (mem_of_tabGet_ne hn)

end Sys2Proof.Machine
end

section
/-! PROOFS. The cut commands (R67): the first check that fails refuses, and a cut entered keeps each source at one valid cut. -/

namespace Sys2Proof.Machine

variable {c : Cmd} {s : State} {t : Ticket} {k : Shadow} {n : Nat} {e : CutEntry}

/-! One cut of a source -/

/-- A source feeds at most one valid cut (R67). -/
def Shadow.FeedsOne (k : Shadow) : Prop := ∀ i j, (tabGet {} k.cuts i).valid = true → (tabGet {} k.cuts j).valid = true →
  (tabGet {} k.cuts i).srcKind = (tabGet {} k.cuts j).srcKind → (tabGet {} k.cuts i).src = (tabGet {} k.cuts j).src → i = j

/-- The shadow with one cut entry written. -/
def Shadow.withCut (n : Nat) (e : CutEntry) (k : Shadow) : Shadow := { k with cuts := tabPut {} k.cuts n e }

theorem sameSource_iff {a b : CutEntry} : sameSource a b = true ↔ a.srcKind = b.srcKind ∧ a.src = b.src := by
  simp [sameSource]

/-- An entry whose source feeds no other valid cut may be written. -/
theorem Shadow.FeedsOne.withCut (hwf : tabWf {} k.cuts = true) (hone : k.FeedsOne)
    (hnew : e.valid = true → ∀ j, j ≠ n → (tabGet {} k.cuts j).valid = true → sameSource (tabGet {} k.cuts j) e = false) :
    (k.withCut n e).FeedsOne := by
  intro i j hi hj hkind hsrc
  simp only [Shadow.withCut, tabGet_tabPut hwf] at hi hj hkind hsrc
  by_cases hin : i = n <;> by_cases hjn : j = n
  · exact hin.trans hjn.symm
  · simp only [hin, if_true, hjn, if_false] at hi hj hkind hsrc
    exact absurd (sameSource_iff.mpr ⟨hkind.symm, hsrc.symm⟩) (ne_true_of_eq_false (hnew hi j hjn hj))
  · simp only [hin, if_false, hjn, if_true] at hi hj hkind hsrc
    exact absurd (sameSource_iff.mpr ⟨hkind, hsrc⟩) (ne_true_of_eq_false (hnew hj i hin hi))
  · simp only [hin, hjn, if_false] at hi hj hkind hsrc
    exact hone i j hi hj hkind hsrc

/-- A valid entry is not the default. -/
theorem cut_ne_default_of_valid (h : e.valid = true) : e ≠ {} := fun he => by simp [he] at h

/-! CUT_SET -/

/-- The first check of CUT_SET: another berth's entry, or a stream that is not granted (R67). -/
def cutDenied (t : Ticket) (n : Nat) (e : CutEntry) (k : Shadow) : Bool :=
  (!t.fromSupervisor && e.berth != t.cmd.berth) || ((tabGet {} k.cuts n).valid && !t.owns (tabGet {} k.cuts n).berth)
    || ((e.srcKind == 0 || e.srcKind == 1) && e.src.toNat < 32 && !bitAt (k.berth e.berth).streamGrant e.src.toNat)

/-- SRC lies in its kind's range and uses only its kind's bits, kind by kind (R67). -/
def sourceInRange (s : State) (e : CutEntry) : Bool :=
  ((e.srcKind == 0 || e.srcKind == 1) && e.src.toNat < 32) || e.srcKind == 2
    || (e.srcKind == 3 && fldN e.src 16 2 ≠ s.dyn.bring.devId.toNat && fldN e.src 16 2 ≤ s.dyn.bring.boardN.toNat
          && fldN e.src 12 4 = 0)
    || (e.srcKind == 4 && e.src.toNat < 64)

theorem srcInRange_eq_sourceInRange : srcInRange s e = sourceInRange s e := by
  have eight_kinds : ∀ x : BitVec 3, x = 0 ∨ x = 1 ∨ x = 2 ∨ x = 3 ∨ x = 4 ∨ x = 5 ∨ x = 6 ∨ x = 7 := by decide
  rcases eight_kinds e.srcKind with h | h | h | h | h | h | h | h <;> simp [srcInRange, sourceInRange, h]

/-- The second check: a berth that is not LIVE, or a source out of its range. -/
def cutInvalid (s : State) (e : CutEntry) (k : Shadow) : Bool :=
  (k.berth e.berth).state ≠ .live || !sourceInRange s e

theorem cutInvalid_admitted : cutInvalid (admitted c s) e k = cutInvalid s e k := by
  simp only [cutInvalid, sourceInRange, admitted_bring]

/-- The third check: the source feeds another valid cut, or the queue is another berth's. -/
def cutConflict (n : Nat) (e : CutEntry) (k : Shadow) : Bool :=
  tabAny (fun i x => i != n && x.valid && sameSource x e) k.cuts || k.queueOfOther e.berth e.destQueue.toNat

/-- CUT_SET asks its three checks in their order. -/
theorem ruleCutSet_eq (hn : n = fldN t.cmd.params 0 12) (he : e = cutOfParams t.cmd.params) : ruleCutSet s t k =
    (firstOf [(cutDenied t n e k, 0x00C1), (cutInvalid s e k, 0x00C0), (cutConflict n e k, 0x00C8)]).elim
      (.pass (k.withCut n { e with gen := (k.berth e.berth).gen }) noResult) fun st => .refuse st noResult := by
  subst hn he
  simp only [firstOf_elim_cons, firstOf_elim_nil, ruleCutSet, srcInRange_eq_sourceInRange]
  rfl

/-- A cut that passes its third check is the only one of its source. -/
theorem feedsOne_of_cutConflict_eq_false {g : BitVec 16} (hwf : tabWf {} k.cuts = true) (hone : k.FeedsOne)
    (h : cutConflict n e k = false) : (k.withCut n { e with gen := g }).FeedsOne := by
  refine hone.withCut hwf fun _ j hjn hj => ?_
  obtain ⟨hothers, -⟩ := Bool.or_eq_false_iff.mp h
  have j_passed : (j != n && (tabGet {} k.cuts j).valid && sameSource (tabGet {} k.cuts j) e) = false :=
    not_of_tabAny_eq_false hothers (cut_ne_default_of_valid hj)
  rw [bne_iff_ne.mpr hjn, hj, Bool.true_and, Bool.true_and] at j_passed
  exact j_passed

section Set

variable (h : Admits opCutSet c s = true) (hn : n = fldN c.params 0 12) (he : e = cutOfParams c.params)
include h hn he

theorem cutSet_settled : exec (.cutSet c) s = .next (settled opCutSet c
    [(cutDenied (ticketOf opCutSet c s) n e s.lock.opn, 0x00C1), (cutInvalid s e s.lock.opn, 0x00C0),
      (cutConflict n e s.lock.opn, 0x00C8)]
    (s.lock.opn.withCut n { e with gen := (s.lock.opn.berth e.berth).gen }) s) :=
  config_settled h (by rw [ruleCutSet_eq (t := ticketOf opCutSet c s) hn he, cutInvalid_admitted])

theorem cutSet_of_denied (hdenied : cutDenied (ticketOf opCutSet c s) n e s.lock.opn = true) :
    exec (.cutSet c) s = .next (answered opCutSet c 0x00C1 noResult s) := by
  rw [cutSet_settled h hn he, settled_cons, if_pos hdenied]

variable (hdenied : cutDenied (ticketOf opCutSet c s) n e s.lock.opn = false)
include hdenied

theorem cutSet_of_invalid (hinvalid : cutInvalid s e s.lock.opn = true) :
    exec (.cutSet c) s = .next (answered opCutSet c 0x00C0 noResult s) := by
  rw [cutSet_settled h hn he, settled_cons, hdenied, if_neg Bool.false_ne_true, settled_cons, if_pos hinvalid]

variable (hinvalid : cutInvalid s e s.lock.opn = false)
include hinvalid

theorem cutSet_of_conflict (hconflict : cutConflict n e s.lock.opn = true) :
    exec (.cutSet c) s = .next (answered opCutSet c 0x00C8 noResult s) := by
  rw [cutSet_settled h hn he, settled_cons, hdenied, if_neg Bool.false_ne_true, settled_cons, hinvalid,
    if_neg Bool.false_ne_true, settled_cons, if_pos hconflict]

theorem cutSet_of_passed (hconflict : cutConflict n e s.lock.opn = false) : exec (.cutSet c) s = .next
    (entered opCutSet c (s.lock.opn.withCut n { e with gen := (s.lock.opn.berth e.berth).gen }) s) := by
  rw [cutSet_settled h hn he, settled_cons, hdenied, if_neg Bool.false_ne_true, settled_cons, hinvalid,
    if_neg Bool.false_ne_true, settled_cons, hconflict, if_neg Bool.false_ne_true, settled_nil]

end Set

/-! CUT_CLEAR -/

/-- CUT_CLEAR of another berth's valid entry (R67). -/
def clearDenied (t : Ticket) (n : Nat) (k : Shadow) : Bool :=
  (tabGet {} k.cuts n).valid && !t.owns (tabGet {} k.cuts n).berth

/-- A freed entry feeds nothing. -/
theorem Shadow.FeedsOne.withoutCut (hwf : tabWf {} k.cuts = true) (hone : k.FeedsOne) : (k.withCut n {}).FeedsOne :=
  hone.withCut hwf fun hvalid => absurd hvalid Bool.false_ne_true

section Clear

variable (h : Admits opCutClear c s = true) (hn : n = fldN c.params 0 12)
include h hn

theorem cutClear_settled : exec (.cutClear c) s = .next (settled opCutClear c
    [(clearDenied (ticketOf opCutClear c s) n s.lock.opn, 0x00C1), (!(tabGet {} s.lock.opn.cuts n).valid, 0x00C0)]
    (s.lock.opn.withCut n {}) s) := by
  subst hn
  exact config_settled h (by simp only [firstOf_elim_cons, firstOf_elim_nil]; rfl)

theorem cutClear_of_denied (hdenied : clearDenied (ticketOf opCutClear c s) n s.lock.opn = true) :
    exec (.cutClear c) s = .next (answered opCutClear c 0x00C1 noResult s) := by
  rw [cutClear_settled h hn, settled_cons, if_pos hdenied]

theorem cutClear_of_free (hfree : (tabGet {} s.lock.opn.cuts n).valid = false) :
    exec (.cutClear c) s = .next (answered opCutClear c 0x00C0 noResult s) := by
  rw [cutClear_settled h hn, settled_cons, clearDenied, hfree, Bool.false_and, if_neg Bool.false_ne_true, settled_cons,
    Bool.not_false, if_pos rfl]

theorem cutClear_of_passed (hdenied : clearDenied (ticketOf opCutClear c s) n s.lock.opn = false)
    (hvalid : (tabGet {} s.lock.opn.cuts n).valid = true) :
    exec (.cutClear c) s = .next (entered opCutClear c (s.lock.opn.withCut n {}) s) := by
  rw [cutClear_settled h hn, settled_cons, hdenied, if_neg Bool.false_ne_true, settled_cons, hvalid, Bool.not_true,
    if_neg Bool.false_ne_true, settled_nil]

end Clear

/-- Settles O7: the checks of each command in their order, and the conflict check as what keeps a source at one cut. -/
theorem cutCommandsFollowTheirChecks : Obligations.CutCommandsFollowTheirChecks :=
  ⟨fun _ _ _ _ h hn he => ⟨cutSet_of_denied h hn he, cutSet_of_invalid h hn he, cutSet_of_conflict h hn he,
      fun hdenied hinvalid hconflict => ⟨cutSet_of_passed h hn he hdenied hinvalid hconflict,
        fun hwf hone => feedsOne_of_cutConflict_eq_false hwf hone hconflict⟩⟩,
    fun _ _ _ h hn => ⟨cutClear_of_denied h hn, cutClear_of_free h hn,
      fun hdenied hvalid => ⟨cutClear_of_passed h hn hdenied hvalid, Shadow.FeedsOne.withoutCut⟩⟩⟩

end Sys2Proof.Machine
end

section
/-! PROOFS. The basin commands (R58, R59): the checks of R58 in their order, and the descriptor that a command writes. -/

namespace Sys2Proof.Machine

variable {c : Cmd} {s : State} {t : Ticket} {k : Shadow} {n : Nat} {old d : BasinDesc} {create : Bool}

/-- Checks 3 to 9 of R58, and before them the parent's part of check 2, for a create or modify of basin `n` with descriptor
`d`. -/
def basinCheckList (t : Ticket) (s : State) (k : Shadow) (n : Nat) (old d : BasinDesc) (create : Bool) : List (Bool × Nat) :=
  [ (d.hasParent && !t.ownsBasin k d.parent.toNat, 0x0050),
    ((n == 0 || (!create && k.under 0 n) || (d.hasParent && k.under 0 d.parent.toNat)) && !(t.fromSupervisor && s.inService),
      0x0053),
    (d.kind == 0 || (d.kind == 2 && d.tileMask != 0)
      || !(if t.fromSupervisor then (k.berth d.berth).state == .live else d.berth == t.cmd.berth)
      || (d.hasParent && !((k.basin d.parent.toNat).kind == 2 && (k.basin d.parent.toNat).berth == d.berth))
      || (!create && d.berth != old.berth && (old.hasParent || !(k.children n).isEmpty)), 0x0057),
    (d.hasParent && (d.parent.toNat == n || (!create && k.under n d.parent.toNat)), 0x0051),
    ((k.tileCheck n d.berth (d.tileMask &&& ~~~ old.tileMask)).isSome,
      (k.tileCheck n d.berth (d.tileMask &&& ~~~ old.tileMask)).getD 0),
    (!create && old.kind == 2 && d.kind == 1 && !(k.children n).isEmpty, 0x0054),
    (tabAny (fun i e => i != n && e.kind != 0 && e.endpoint == d.endpoint) k.basins, 0x0055),
    (!({ k with basins := tabPut {} k.basins n d } : Shadow).budgetOk, 0x0040) ]

/-- The answer of a check that carries its own status. -/
theorem ite_isSome_getD {x y : Option Nat} :
    (if x.isSome = true then some (x.getD 0) else y) = if x.isSome = true then x else y := by
  cases x <;> rfl

/-- Checks 3 to 9 are asked in the order of the list. -/
theorem firstOf_basinCheckList : firstOf (basinCheckList t s k n old d create) =
    if (!parentKnown t k d) = true then some 0x0050 else basinChecks s t k n old d create := by
  have parent_check : (d.hasParent && !t.ownsBasin k d.parent.toNat) = !parentKnown t k d := by
    simp [parentKnown]
  simp only [basinCheckList, firstOf_cons, firstOf_nil, ite_isSome_getD, parent_check]
  rfl

theorem basinCheckList_admitted :
    basinCheckList t (admitted c s) k n old d create = basinCheckList t s k n old d create := by
  simp only [basinCheckList, admitted_inService]

theorem elim_basinCheckList {α : Type} {p : α} {f : Nat → α} : (firstOf (basinCheckList t s k n old d create)).elim p f =
    if (!parentKnown t k d) = true then f 0x0050
    else match basinChecks s t k n old d create with
      | some st => f st
      | none => p := by
  rw [firstOf_basinCheckList]
  cases parentKnown t k d with
  | false => rfl
  | true => cases basinChecks s t k n old d create <;> rfl

/-! BASIN_CREATE and BASIN_MODIFY -/

/-- The shadow with a basin created: its descriptor is stamped with the lock cycle that makes it, and the allocation turns of
its number are forgotten (R60, R61). -/
def Shadow.withBasinMade (n cycle : Nat) (d : BasinDesc) (k : Shadow) : Shadow :=
  { k with basins := tabPut {} k.basins n { d with made := cycle },
           basinNext := tabMap 0 (fun i v => if i % 1024 = n then 0 else v) k.basinNext }

/-- The shadow with a basin's descriptor rewritten; its stamp stays. -/
def Shadow.withBasinModified (n : Nat) (d : BasinDesc) (k : Shadow) : Shadow :=
  { k with basins := tabPut {} k.basins n { d with made := (k.basin n).made } }

theorem ruleBasinCreate_eq (hn : n = fldN t.cmd.params 0 10) (hd : d = basinOfParams t.cmd.params) :
    ruleBasinCreate s t k = (firstOf ((k.basinUsed n, 0x0050) :: basinCheckList t s k n {} d true)).elim
      (.pass (k.withBasinMade n (s.lock.number.toNat + 1) d) noResult) fun st => .refuse st noResult := by
  subst hn hd
  rw [firstOf_elim_cons, elim_basinCheckList]
  rfl

theorem ruleBasinModify_eq (hn : n = fldN t.cmd.params 0 10) (hd : d = basinOfParams t.cmd.params) :
    ruleBasinModify s t k = (firstOf ((!t.ownsBasin k n, 0x0050) :: basinCheckList t s k n (k.basin n) d false)).elim
      (.pass (k.withBasinModified n d) noResult) fun st => .refuse st noResult := by
  subst hn hd
  rw [firstOf_elim_cons, elim_basinCheckList]
  rfl

theorem basinCreate_settled (h : Admits opBasinCreate c s = true) (hn : n = fldN c.params 0 10)
    (hd : d = basinOfParams c.params) : exec (.basinCreate c) s = .next (settled opBasinCreate c
      ((s.lock.opn.basinUsed n, 0x0050) :: basinCheckList (ticketOf opBasinCreate c s) s s.lock.opn n {} d true)
      (s.lock.opn.withBasinMade n (s.lock.number.toNat + 1) d) s) :=
  config_settled h (by
    rw [ruleBasinCreate_eq (t := ticketOf opBasinCreate c s) hn hd, basinCheckList_admitted, admitted_lock])

theorem basinModify_settled (h : Admits opBasinModify c s = true) (hn : n = fldN c.params 0 10)
    (hd : d = basinOfParams c.params) : exec (.basinModify c) s = .next (settled opBasinModify c
      ((!(ticketOf opBasinModify c s).ownsBasin s.lock.opn n, 0x0050)
        :: basinCheckList (ticketOf opBasinModify c s) s s.lock.opn n (s.lock.opn.basin n) d false)
      (s.lock.opn.withBasinModified n d) s) :=
  config_settled h (by rw [ruleBasinModify_eq (t := ticketOf opBasinModify c s) hn hd, basinCheckList_admitted])

/-! BASIN_DESTROY -/

/-- The checks of BASIN_DESTROY (R58). -/
def basinDestroyChecks (t : Ticket) (s : State) (k : Shadow) (n : Nat) : List (Bool × Nat) :=
  [ (!t.ownsBasin k n, 0x0050), (k.under 0 n && !(t.fromSupervisor && s.inService), 0x0053),
    (!(k.children n).isEmpty || (k.basin n).tileMask != 0, 0x0054),
    (!({ k with basins := tabPut {} k.basins n {} } : Shadow).budgetOk, 0x0040) ]

theorem ruleBasinDestroy_eq (hn : n = fldN t.cmd.params 0 10) : ruleBasinDestroy s t k =
    (firstOf (basinDestroyChecks t s k n)).elim (.pass { k with basins := tabPut {} k.basins n {} } noResult)
      fun st => .refuse st noResult := by
  subst hn
  simp only [basinDestroyChecks, firstOf_elim_cons, firstOf_elim_nil]
  rfl

theorem basinDestroy_settled (h : Admits opBasinDestroy c s = true) (hn : n = fldN c.params 0 10) :
    exec (.basinDestroy c) s = .next (settled opBasinDestroy c
      (basinDestroyChecks (ticketOf opBasinDestroy c s) s s.lock.opn n)
      { s.lock.opn with basins := tabPut {} s.lock.opn.basins n {} } s) :=
  config_settled h (by
    rw [ruleBasinDestroy_eq (t := ticketOf opBasinDestroy c s) hn, basinDestroyChecks, basinDestroyChecks, admitted_inService])

/-- Settles O8: each command's rule is its list of checks, the first of which that holds refuses it. -/
theorem basinCommandsChangeTheirDescriptor : Obligations.BasinCommandsChangeTheirDescriptor :=
  ⟨fun _ _ _ _ h hn hd => exec_of_settled (basinCreate_settled h hn hd),
    fun _ _ _ _ h hn hd => exec_of_settled (basinModify_settled h hn hd),
    fun _ _ _ h hn => exec_of_settled (basinDestroy_settled h hn)⟩

end Sys2Proof.Machine
end

section
/-! PROOFS. The reads of configuration: the descriptor that the last lock cycle latched, for who may see it (R56, R163, R221,
R408). -/

namespace Sys2Proof.Machine

variable {c : Cmd} {s : State}

/-! GET_BASIN -/

theorem getBasin_of_owned (h : Admits opGetBasin c s = true)
    (howned : (ticketOf opGetBasin c s).ownsBasin s.lock.opn (fldN c.params 0 10) = true) :
    exec (.getBasin c) s = .next (answered opGetBasin c 0 (basinRecord s.snap (fldN c.params 0 10)) s) :=
  admitted_answer h (by simp only [actGetBasin, ticketOf_cmd, admitted_lock, admitted_snap, howned, if_true])

theorem getBasin_of_not_owned (h : Admits opGetBasin c s = true)
    (howned : (ticketOf opGetBasin c s).ownsBasin s.lock.opn (fldN c.params 0 10) = false) :
    exec (.getBasin c) s = .next (answered opGetBasin c 0x0050 noResult s) :=
  admitted_answer h (by simp only [actGetBasin, ticketOf_cmd, admitted_lock, howned, Bool.false_eq_true, if_false])

/-! GET_BERTH -/

/-- The paths that may read a berth: the supervisor's, and its own mailbox (R407). -/
theorem berthPathOk_iff {op : OpInfo} {b : Nat} : berthPathOk (ticketOf op c s) b true = true ↔
    (c.path = .supervisor ∨ ∃ m : BitVec 6, c.path = .mailbox m ∧ m.toNat = b) := by
  rw [berthPathOk, ticketOf_fromSupervisor, ticketOf_cmd]
  cases c.path <;> simp

theorem getBerth_of_path (h : Admits opGetBerth c s = true)
    (hpath : c.path = .supervisor ∨ ∃ m : BitVec 6, c.path = .mailbox m ∧ m.toNat = fldN c.params 0 6) :
    exec (.getBerth c) s = .next (answered opGetBerth c 0
      (berthRecord (tabGet {} s.snap.cfg.berths (fldN c.params 0 6)) (fldN c.params 0 6)) s) :=
  admitted_answer h (by
    simp only [actGetBerth, ticketOf_cmd, admitted_snap, berthPathOk_iff.mpr hpath, if_true])

theorem getBerth_of_other_path (h : Admits opGetBerth c s = true)
    (hpath : ¬ (c.path = .supervisor ∨ ∃ m : BitVec 6, c.path = .mailbox m ∧ m.toNat = fldN c.params 0 6)) :
    exec (.getBerth c) s = .next (answered opGetBerth c 0x0115 noResult s) :=
  admitted_answer h (if_neg (mt berthPathOk_iff.mp hpath))

/-! GET_QUEUE -/

theorem getQueue_of_owned (h : Admits opGetQueue c s = true)
    (howned : (ticketOf opGetQueue c s).ownsQueue s.snap.cfg (fldN c.params 0 18) = true) :
    exec (.getQueue c) s = .next (answered opGetQueue c 0
      (queueRecord (s.snap.cfg.queueDesc (fldN c.params 0 18)) (tabGet {} s.snap.queues (fldN c.params 0 18))) s) :=
  admitted_answer h (by simp only [actGetQueue, ticketOf_cmd, admitted_snap, howned, if_true])

theorem getQueue_of_not_owned (h : Admits opGetQueue c s = true)
    (howned : (ticketOf opGetQueue c s).ownsQueue s.snap.cfg (fldN c.params 0 18) = false) :
    exec (.getQueue c) s = .next (answered opGetQueue c 0x0090 noResult s) :=
  admitted_answer h (by simp only [actGetQueue, ticketOf_cmd, admitted_snap, howned, Bool.false_eq_true, if_false])

/-! GET_MAPPING -/

/-- What the driver sees of a valid entry: its flags, its device and the tile of its column, never its frame (R221). -/
def mappingRecord (k : Shadow) (e : XlatEntry) : Result :=
  longResult 32 [(0, 7, e.flags), (8, 2, e.device.toNat),
    (16, 6, if e.target = 0 then (k.logicalOf (columnOf (e.frame.toNat * 0x10000))).getD 0x3F else 0x3F)]

theorem getMapping_of_device (h : Admits opGetMapping c s = true) (hdevice : c.device = true) :
    exec (.getMapping c) s = .next (answered opGetMapping c 0x0004 noResult s) :=
  admitted_answer h (by simp only [actGetMapping, ticketOf_cmd, hdevice, if_true])

section Mapping

variable {n : Nat} (h : Admits opGetMapping c s = true) (hdevice : c.device = false)
include h hdevice

theorem getMapping_of_no_entry
    (hnone : fldN c.params 0 40 % 0x10000 ≠ 0 ∨ s.snap.cfg.entryNo c.berth (fldN c.params 0 40) = none) :
    exec (.getMapping c) s = .next (answered opGetMapping c 0x00A0 noResult s) :=
  admitted_answer h (by
    simp only [actGetMapping, ticketOf_cmd, admitted_snap, hdevice, Bool.false_eq_true, if_false]
    by_cases hpage : fldN c.params 0 40 % 0x10000 ≠ 0
    · rw [if_pos hpage]
    · rw [if_neg hpage, hnone.resolve_left hpage])

theorem getMapping_of_entry (hpage : fldN c.params 0 40 % 0x10000 = 0)
    (hentry : s.snap.cfg.entryNo c.berth (fldN c.params 0 40) = some n) :
    exec (.getMapping c) s = .next (answered opGetMapping c 0
      (if (tabGet {} s.snap.cfg.xlat n).valid then mappingRecord s.snap.cfg (tabGet {} s.snap.cfg.xlat n)
        else longResult 32 [(16, 6, 0x3F)]) s) :=
  admitted_answer h (by
    simp only [actGetMapping, ticketOf_cmd, admitted_snap, hdevice, hpage, hentry, mappingRecord]
    cases (tabGet {} s.snap.cfg.xlat n).valid <;> simp)

end Mapping

/-- Settles O14: each read looks at the latched view, or for a basin's owner at the open shadow, and neither moves at
admission. -/
theorem latchedDescriptorsAreRead : Obligations.LatchedDescriptorsAreRead := by
  refine ⟨fun c s h => ⟨getBasin_of_owned h, getBasin_of_not_owned h⟩,
    fun c s h => ⟨getBerth_of_path h, getBerth_of_other_path h⟩,
    fun c s h => ⟨getQueue_of_owned h, getQueue_of_not_owned h⟩, fun c s => getMapping_of_device,
    fun c s h hdevice => ⟨getMapping_of_no_entry h hdevice, fun n hpage hentry => ⟨fun hinvalid => ?_, fun hvalid => ?_⟩⟩⟩
  · rw [getMapping_of_entry h hdevice hpage hentry, if_neg (ne_true_of_eq_false hinvalid)]
  · rw [getMapping_of_entry h hdevice hpage hentry, if_pos hvalid, mappingRecord]

end Sys2Proof.Machine
end

section
/-! PROOFS. Entering a job in the job table, and the packet whose job may not start yet (R61, R116, R168, R177). -/

namespace Sys2Proof.Machine

variable {c : Cmd} {s s0 : State} {b : Job} {q : BitVec 18} {k : Nat}

/-! The entry -/

@[simp] theorem addJob_nextJob : (addJob b s).dyn.work.nextJob = s.dyn.work.nextJob + 1 := rfl

theorem addJob_job_new :
    (addJob b s).job s.dyn.work.nextJob = some { b with placedNo := s.dyn.work.placings } :=
  tabGet_tabPut_same _ _ _ _ (Option.some_ne_none _)

theorem addJob_job_other (h : k ≠ s.dyn.work.nextJob) : (addJob b s).job k = s.job k :=
  tabGet_tabPut_other _ _ _ _ _ (Option.some_ne_none _) h

/-! Whether it may start -/

/-- The state that a packet leaves which has to wait: the head of its queue keeps the leaf that its job was resolved to in the
try `s` (R168), and the composites above that leaf the tile they used last (R61). -/
def leafKept (c : Cmd) (q : BitVec 18) (b : Job) (s s0 : State) : State :=
  (s0.modQueue q.toNat fun y => { y with headLeaf := some (c.seq, b.basin.toNat) }).modWork fun w =>
    { w with lastTile := tabPut 0 (addJob b s).dyn.work.lastTile b.basin.toNat (tabGet 0 w.lastTile b.basin.toNat) }

theorem keepLeaf_addJob (hnext : s.dyn.work.nextJob = s0.dyn.work.nextJob) :
    keepLeaf q.toNat c.seq s0 (addJob b s) = leafKept c q b s s0 := by
  rw [keepLeaf, ← hnext, addJob_job_new]
  rfl

/-- A job of no queue is taken. -/
theorem startable_of_no_queue (hnext : s.dyn.work.nextJob = s0.dyn.work.nextJob) (hqueue : b.queue = none) :
    startable c s0 (addJob b s) = addJob b s := by
  simp only [startable, ← hnext, addJob_job_new, hqueue, ite_self]

/-- A job of a queue is taken unless it is a render pass without a tile or reads what an earlier command of the queue writes. -/
theorem startable_of_queue (hnext : s.dyn.work.nextJob = s0.dyn.work.nextJob) (hqueue : b.queue = some q) :
    startable c s0 (addJob b s) =
      if (b.kind = .pass ∧ !b.placed) || (addJob b s).mustWait q b.ins s.dyn.work.nextJob then leafKept c q b s s0
      else addJob b s := by
  have hgrown : ¬ s.dyn.work.nextJob + 1 = s.dyn.work.nextJob := Nat.succ_ne_self _
  simp only [startable, ← hnext, addJob_nextJob, if_neg hgrown, addJob_job_new, hqueue, keepLeaf_addJob hnext]

/-- Settles O18: the new entry is the only one that changes, and the three ways a job of a queue can go are the two grounds to
wait and their absence. -/
theorem jobsWaitForEarlierWrites : Obligations.JobsWaitForEarlierWrites := by
  intro c s0 s b hnext _
  refine ⟨addJob_job_new, rfl, fun _ => addJob_job_other, rfl, rfl, rfl, rfl, rfl, fun q hqueue hwaits => ?_,
    fun q hqueue hpass hunplaced => ?_, fun q hqueue hfree hplaced => ?_, startable_of_no_queue hnext⟩
  · rw [startable_of_queue hnext hqueue, hwaits, Bool.or_true, if_pos rfl, leafKept]
  · rw [startable_of_queue hnext hqueue, if_pos (by simp [hpass, hunplaced]), leafKept]
  · have hready : ¬ (b.kind = .pass ∧ (!b.placed) = true) := by simpa [imp_iff_not_or] using hplaced
    rw [startable_of_queue hnext hqueue, hfree, if_neg (by simpa using hready)]

end Sys2Proof.Machine
end

section
/-! PROOFS. A memory access of the running fabric, in its parts: what was held goes first, an access within one line is
one part, its translation, and its issue (R54, R195 to R198, R206, R522). -/

namespace Sys2Proof.Machine

variable {s s1 : State}

/-! What was held goes first -/

theorem modIsgal_held_nil (h : s.dyn.isgal.held = []) : (s.modIsgal fun g => { g with held := [] }) = s := by
  have held_cleared : { s.dyn.isgal with held := [] } = s.dyn.isgal := by rw [← h]
  rw [State.modIsgal, held_cleared]

/-- With nothing held, serving what is held changes nothing. -/
theorem serveHeld_of_held_nil (h : s.dyn.isgal.held = []) : serveHeld s = s := by
  have none_ranked : bySendRank (fun h : HeldReq => sendRank h.cls h.safety) [] = [] := by simp [bySendRank]
  rw [serveHeld, h, none_ranked, List.foldl_nil, modIsgal_held_nil h]

theorem access_of_not_ready {f : Nat → State → State} (h : s.dyn.bring.ready = false) : access f s = .next s :=
  if_neg (by simp [h])

theorem access_of_ready {f : Nat → State → State} (h : s.dyn.bring.ready = true) :
    access f s = .next (f s.lock.number.toNat (serveHeld s)) := if_pos h

theorem access_of_ready_held_nil {f : Nat → State → State} (hready : s.dyn.bring.ready = true)
    (hheld : s.dyn.isgal.held = []) : access f s = .next (f s.lock.number.toNat s) := by
  rw [access_of_ready hready, serveHeld_of_held_nil hheld]

/-! An access within one line -/

theorem lineParts_of_within_line {fuel va len : Nat} (hpos : 0 < len) (hline : va % 64 + len ≤ 64) :
    lineParts (fuel + 2) va len = [(va, len)] := by
  have whole : min len (64 - va % 64) = len := by omega
  simp only [lineParts, whole, if_neg (Nat.ne_of_gt hpos), Nat.sub_self, if_true]

theorem cutLines_of_within_line {fuel va : Nat} {d : List Byte} (hpos : 0 < d.length) (hline : va % 64 + d.length ≤ 64) :
    cutLines (fuel + 2) va d = [(va, d)] := by
  have hfits : d.length ≤ 64 - va % 64 := by omega
  have hsome : d.isEmpty = false := by simpa using List.ne_nil_of_length_pos hpos
  simp [cutLines, hsome, List.take_of_length_le hfits, List.drop_of_length_le hfits]

/-! Translation -/

section Translation

variable {n va len : Nat} {r : Requester} {a : Actor} {w : Want} {instr : Instr} {go : Acc → State → State} {e : XlatEntry}

theorem translated_of_unmapped (h : s.lookupAt n a.berth va = none) :
    translated n r a w va len instr go s = faultAccess r va .addressFault s := by
  simp only [translated, h]

theorem translated_of_not_permitted (h : s.lookupAt n a.berth va = some e) (hpermits : e.permits w va len = false) :
    translated n r a w va len instr go s = faultAccess r va .addressFault s := by
  simp only [translated, h, hpermits, Bool.not_false, if_true]

theorem translated_of_not_fetched (h : s.lookupAt n a.berth va = some e) (hpermits : e.permits w va len = true)
    (hwalk : walk (some (s.requesterUnit r)) ((s.cfgAt n).entryNo a.berth va) s = (s1, false)) :
    translated n r a w va len instr go s = faultAccess r va .uncorrectable s1 := by
  simp only [translated, h, hpermits, hwalk, Bool.not_true, Bool.false_eq_true, if_false]

theorem translated_of_fetched (h : s.lookupAt n a.berth va = some e) (hpermits : e.permits w va len = true)
    (hwalk : walk (some (s.requesterUnit r)) ((s.cfgAt n).entryNo a.berth va) s = (s1, true)) :
    translated n r a w va len instr go s = go { r := r, a := a, stamp := n, e := e, va := va, instr := instr } s1 := by
  simp only [translated, h, hpermits, hwalk, Bool.not_true, Bool.false_eq_true, if_false]

end Translation

/-! Issue (R54): an access waits behind what it follows, or for its credits -/

variable {x : Acc} {k : PoundKind}

/-- The credits that an access of a class takes at its unit. -/
def Acc.credits (x : Acc) (k : PoundKind) (s : State) : Option State :=
  takeCredits (s.requesterUnit x.r) (s.unitOf x.e x.va) k x.a.src.onSafety s

theorem Acc.issue_of_waits {go : State → State} (h : (s.mustHold x k || (x.credits k s).isNone) = true) :
    x.issue k go s = x.hold k s := by
  unfold Acc.credits at h
  cases hmust : s.mustHold x k with
  | true => simp only [Acc.issue, hmust, if_true]
  | false =>
    rw [hmust, Bool.false_or, Option.isNone_iff_eq_none] at h
    simp only [Acc.issue, hmust, h, Bool.false_eq_true, if_false]

theorem Acc.issue_of_credits {go : State → State} (h : (s.mustHold x k || (x.credits k s).isNone) = false)
    (hcredits : x.credits k s = some s1) : x.issue k go s = go s1 := by
  obtain ⟨hmust, -⟩ := Bool.or_eq_false_iff.mp h
  unfold Acc.credits at hcredits
  simp only [Acc.issue, hmust, hcredits, Bool.false_eq_true, if_false]

/-! Which accesses the fabric takes at once (R522) -/

/-- The fabric takes an access of the requester at once: it is ready, it holds nothing, and the actor is behind it. -/
structure State.TakesAccess (s : State) (r : Requester) (a : Actor) : Prop where
  ready : s.dyn.bring.ready = true
  held_nil : s.dyn.isgal.held = []
  actor : s.actorAt s.lock.number.toNat r = some a

end Sys2Proof.Machine
end

section
/-! PROOFS. MEMORY_READ: a read within one line, from the prefetch buffer or from its home (R202 to R206, R521, R522). -/

namespace Sys2Proof.Machine

variable {s s1 s2 : State} {x : Acc} {flips : BitVec 544} {reserve : Bool} {len : Nat} {y : PrefLine}

/-! The read of a translated line -/

/-- What a demand read does that no buffered line serves: it is issued to its home here, to the peer or to the host. -/
def Acc.demand (x : Acc) (flips : BitVec 544) (reserve : Bool) (len : Nat) (s : State) : State :=
  if x.e.target = 0 then x.issue .request (readHome x flips reserve len) s
  else if x.e.target = 1 then
    if !s.peerUp x.e.device then faultAccess x.r x.va .addressFault s
    else if reserve && s.locksFull x.e.device then x.hold .request s
    else x.issue .request (readPeer x reserve len) s
  else x.issue .request (readHost x len) s

/-- What a read within one line does once it is translated. -/
def Acc.read (x : Acc) (flips : BitVec 544) (reserve : Bool) (len : Nat) (s : State) : State :=
  if reserve && x.e.device1 then faultAccess x.r x.va .addressFault s
  else
    let (s, hit) := useBuffer x.a x.stamp (x.e.lineKey x.va) s
    match hit with
    | some y =>
      if y.arrived then prefetchAfter x.a x.stamp x.e x.va (respond x.r x.va (.data (bufferedBytes x.e y x.va len s)) s)
      else x.hold .request s
    | none => x.demand flips reserve len s

theorem Acc.read_of_ordered_reserve (hreserve : reserve = true) (hordered : x.e.device1 = true) :
    x.read flips reserve len s = faultAccess x.r x.va .addressFault s := by
  simp only [Acc.read, hreserve, hordered, Bool.and_self, if_true]

theorem Acc.read_of_buffered (h : reserve = false ∨ x.e.device1 = false)
    (hbuffer : useBuffer x.a x.stamp (x.e.lineKey x.va) s = (s2, some y)) :
    x.read flips reserve len s = if y.arrived
      then prefetchAfter x.a x.stamp x.e x.va (respond x.r x.va (.data (bufferedBytes x.e y x.va len s2)) s2)
      else x.hold .request s2 := by
  simp only [Acc.read, Bool.and_eq_false_iff.mpr h, Bool.false_eq_true, if_false, hbuffer]

theorem Acc.read_of_not_buffered (h : reserve = false ∨ x.e.device1 = false)
    (hbuffer : useBuffer x.a x.stamp (x.e.lineKey x.va) s = (s2, none)) :
    x.read flips reserve len s = x.demand flips reserve len s2 := by
  simp only [Acc.read, Bool.and_eq_false_iff.mpr h, Bool.false_eq_true, if_false, hbuffer]

/-- Every lock to the peer that a load-reserved would take is out (R522). -/
def Acc.locksOut (x : Acc) (reserve : Bool) (s : State) : Bool := x.e.target == 1 && reserve && s.locksFull x.e.device

/-- What a demand read does at the unit that took it. -/
def Acc.demandTaken (x : Acc) (flips : BitVec 544) (reserve : Bool) (len : Nat) : State → State :=
  if x.e.target = 0 then readHome x flips reserve len
  else if x.e.target = 1 then readPeer x reserve len
  else readHost x len

theorem Acc.demand_of_peer_down (htarget : x.e.target = 1) (hdown : s.peerUp x.e.device = false) :
    x.demand flips reserve len s = faultAccess x.r x.va .addressFault s := by
  simp [Acc.demand, htarget, hdown]

theorem Acc.demand_of_locksOut (hup : x.e.target = 1 → s.peerUp x.e.device = true) (h : x.locksOut reserve s = true) :
    x.demand flips reserve len s = x.hold .request s := by
  obtain ⟨⟨hpeer, hreserve⟩, hfull⟩ : (x.e.target = 1 ∧ reserve = true) ∧ s.locksFull x.e.device = true := by
    simpa [Acc.locksOut] using h
  simp [Acc.demand, hpeer, hup hpeer, hreserve, hfull]

theorem Acc.demand_of_locks_left (hup : x.e.target = 1 → s.peerUp x.e.device = true) (h : x.locksOut reserve s = false) :
    x.demand flips reserve len s = x.issue .request (x.demandTaken flips reserve len) s := by
  by_cases hhere : x.e.target = 0
  · simp only [Acc.demand, Acc.demandTaken, hhere, if_true]
  · by_cases hpeer : x.e.target = 1
    · have hfree : (reserve && s.locksFull x.e.device) = false := by simpa [Acc.locksOut, hpeer] using h
      simp [Acc.demand, Acc.demandTaken, hpeer, hup hpeer, hfree]
    · simp only [Acc.demand, Acc.demandTaken, hhere, hpeer, if_false]

theorem Acc.demand_of_waits (hup : x.e.target = 1 → s.peerUp x.e.device = true)
    (h : (x.locksOut reserve s || s.mustHold x .request || (x.credits .request s).isNone) = true) :
    x.demand flips reserve len s = x.hold .request s := by
  cases hlocks : x.locksOut reserve s with
  | true => exact Acc.demand_of_locksOut hup hlocks
  | false => rw [Acc.demand_of_locks_left hup hlocks, Acc.issue_of_waits (by simpa [hlocks] using h)]

theorem Acc.demand_of_credits (hup : x.e.target = 1 → s.peerUp x.e.device = true)
    (h : (x.locksOut reserve s || s.mustHold x .request || (x.credits .request s).isNone) = false)
    (hcredits : x.credits .request s = some s1) : x.demand flips reserve len s = x.demandTaken flips reserve len s1 := by
  rw [Bool.or_assoc, Bool.or_eq_false_iff] at h
  obtain ⟨hlocks, hgoes⟩ := h
  rw [Acc.demand_of_locks_left hup hlocks, Acc.issue_of_credits hgoes hcredits]

theorem Acc.demandTaken_of_peer (h : x.e.target = 1) :
    x.demandTaken flips reserve len s = readPeer x reserve len s := by
  simp [Acc.demandTaken, h]

theorem Acc.demandTaken_of_host (hhere : x.e.target ≠ 0) (hpeer : x.e.target ≠ 1) :
    x.demandTaken flips reserve len s = readHost x len s := by
  simp only [Acc.demandTaken, hhere, hpeer, if_false]

/-- A hart's load-reserved of a line keeps its reservation; no other read does. -/
def keepReservation (r : Requester) (reserve : Bool) (line : Nat) (s : State) : State :=
  match r with
  | .hart h => if reserve then s.modCores fun c => { c with reservations := tabPut 0 c.reservations h (line + 1) } else s
  | _ => s

theorem Acc.demandTaken_of_lost (hhere : x.e.target = 0)
    (h : readDram x.a.src (x.e.addr x.va) len (flipLine (x.e.addr x.va / 64) flips s) = (s1, none)) :
    x.demandTaken flips reserve len s = faultAccess x.r x.va .uncorrectable s1 := by
  simp only [Acc.demandTaken, hhere, if_true, readHome, h]

theorem Acc.demandTaken_of_read {d : List Byte} (hhere : x.e.target = 0)
    (h : readDram x.a.src (x.e.addr x.va) len (flipLine (x.e.addr x.va / 64) flips s) = (s1, some d)) :
    x.demandTaken flips reserve len s = prefetchAfter x.a x.stamp x.e x.va
      (respond x.r x.va (.data d) (keepReservation x.r reserve (x.e.addr x.va / 64) s1)) := by
  simp only [Acc.demandTaken, hhere, if_true, readHome, h]
  rfl

/-! The command -/

variable {r : Requester} {a : Actor} {addr : BitVec 40} {e : XlatEntry} {n va : Nat} {lr : Bool}

theorem exec_memoryRead : exec (.memoryRead r addr len flips lr) s =
    access (fun n => memRead n r addr.toNat len flips lr) s := rfl

theorem memoryRead_of_not_ready (hready : s.dyn.bring.ready = false) :
    exec (.memoryRead r addr len flips lr) s = .next s := by
  rw [exec_memoryRead, access_of_not_ready hready]

theorem memoryRead_of_ready (hready : s.dyn.bring.ready = true) : exec (.memoryRead r addr len flips lr) s =
    .next (memRead s.lock.number.toNat r addr.toNat len flips lr (serveHeld s)) := by
  rw [exec_memoryRead, access_of_ready hready]

theorem memoryRead_of_no_actor (hready : s.dyn.bring.ready = true) (hheld : s.dyn.isgal.held = [])
    (hactor : s.actorAt s.lock.number.toNat r = none) : exec (.memoryRead r addr len flips lr) s = .next s := by
  rw [exec_memoryRead, access_of_ready_held_nil hready hheld, memRead, hactor]

theorem memoryRead_of_misuse (h : s.TakesAccess r a)
    (hmisuse : s.deviceMisuse s.lock.number.toNat a.berth addr.toNat len = some va) :
    exec (.memoryRead r addr len flips lr) s = .next (faultAccess r va .addressFault s) := by
  rw [exec_memoryRead, access_of_ready_held_nil h.ready h.held_nil]
  simp only [memRead, h.actor, hmisuse]

/-- A read within one line is one part. -/
theorem memoryRead_of_within_line (h : s.TakesAccess r a)
    (hmisuse : s.deviceMisuse s.lock.number.toNat a.berth addr.toNat len = none) (hpos : 0 < len)
    (hline : addr.toNat % 64 + len ≤ 64) : exec (.memoryRead r addr len flips lr) s =
      .next (readPart s.lock.number.toNat r a flips lr addr.toNat len s) := by
  rw [exec_memoryRead, access_of_ready_held_nil h.ready h.held_nil]
  simp only [memRead, h.actor, hmisuse, lineParts_of_within_line hpos hline, List.foldl_cons, List.foldl_nil]

/-- A translated part of a read goes on as the read of its line. -/
theorem readPart_of_fetched (hmapped : s.lookupAt n a.berth addr.toNat = some e)
    (hpermits : e.permits .read addr.toNat len = true)
    (hwalk : walk (some (s.requesterUnit r)) ((s.cfgAt n).entryNo a.berth addr.toNat) s = (s1, true)) :
    readPart n r a flips lr addr.toNat len s =
      Acc.read { r := r, a := a, stamp := n, e := e, va := addr.toNat, instr := .memoryRead r addr len flips lr }
        flips lr len s1 := by
  rw [readPart, translated_of_fetched hmapped hpermits hwalk, BitVec.ofNat_toNat, BitVec.setWidth_eq]
  rfl

end Sys2Proof.Machine
end

section
/-! PROOFS. MEMORY_WRITE: a write within one line, posted or answered, and the store-conditional (R142, R202, R206, R522). -/

namespace Sys2Proof.Machine

variable {s s1 : State} {x : Acc} {conditional : Bool} {d : List Byte}

/-! The write of a translated line -/

/-- The class of a write: posted unless it is ordered, conditional or for the host (R202, R482). -/
def Acc.writeClass (x : Acc) (conditional : Bool) : PoundKind :=
  if x.e.device1 || conditional || !(x.e.target == 0 || x.e.target == 1) then .request else .posted

/-- What a write does at the unit that took it. -/
def Acc.writeTaken (x : Acc) (conditional : Bool) (d : List Byte) : State → State :=
  if x.e.target = 0 then writeHome x (x.writeClass conditional) conditional d
  else if x.e.target = 1 then
    if x.e.device1 then fun s =>
      requestPeer x d.length { peerTx x.a x.e x.va s with data := d, size := sizeCode d.length, kind := 2 } false s
    else postPeer x d
  else writeHost x d

/-- A store-conditional at its home here finds its reservation gone (R209). -/
def Acc.reservationLost (x : Acc) (conditional : Bool) (s : State) : Bool :=
  x.e.target == 0 && conditional && !s.mustHold x (x.writeClass conditional) && !s.reserves x.r (x.e.addr x.va / 64)

/-- What a write within one line does once it is translated. -/
def Acc.write (x : Acc) (conditional : Bool) (d : List Byte) (s : State) : State :=
  let k : PoundKind := if x.e.device1 || conditional then .request else .posted
  if conditional && x.e.device1 then faultAccess x.r x.va .addressFault s
  else if x.e.target = 0 then
    if conditional && !s.mustHold x k && !s.reserves x.r (x.e.addr x.va / 64) then
      scDone x.r x.va false (clearReservation x.r s)
    else x.issue k (writeHome x k conditional d) s
  else if x.e.target = 1 then
    if !s.peerUp x.e.device then faultAccess x.r x.va .addressFault s
    else if conditional then conditionalPeer x d s
    else if x.e.device1 then
      x.issue .request (fun s =>
        requestPeer x d.length { peerTx x.a x.e x.va s with data := d, size := sizeCode d.length, kind := 2 } false s) s
    else x.issue .posted (postPeer x d) s
  else x.issue .request (writeHost x d) s

theorem Acc.write_of_ordered_conditional (hconditional : conditional = true) (hordered : x.e.device1 = true) :
    x.write conditional d s = faultAccess x.r x.va .addressFault s := by
  simp [Acc.write, hconditional, hordered]

theorem Acc.write_of_peer_down (hpeer : x.e.target = 1) (hdown : s.peerUp x.e.device = false) :
    x.write conditional d s = faultAccess x.r x.va .addressFault s := by
  simp [Acc.write, hpeer, hdown]

theorem Acc.writeClass_of_here (h : x.e.target = 0) :
    x.writeClass conditional = if x.e.device1 || conditional then .request else .posted := by
  simp [Acc.writeClass, h]

theorem Acc.write_of_reservationLost (h : conditional = false ∨ x.e.device1 = false)
    (hlost : x.reservationLost conditional s = true) :
    x.write conditional d s = scDone x.r x.va false (clearReservation x.r s) := by
  rw [Acc.reservationLost, Bool.and_assoc, Bool.and_assoc, Bool.and_eq_true, beq_iff_eq, ← Bool.and_assoc] at hlost
  obtain ⟨hhere, hgone⟩ := hlost
  rw [Acc.writeClass_of_here hhere] at hgone
  simp only [Acc.write, Bool.and_eq_false_iff.mpr h, Bool.false_eq_true, if_false, hhere, hgone, if_true]

theorem Acc.write_of_conditional_peer (hconditional : conditional = true) (hplain : x.e.device1 = false)
    (hpeer : x.e.target = 1) (hup : s.peerUp x.e.device = true) : x.write conditional d s = conditionalPeer x d s := by
  simp [Acc.write, hconditional, hplain, hpeer, hup]

/-- Every other write is issued in its class to the unit that takes it. -/
theorem Acc.write_eq_issue (h : conditional = false ∨ (x.e.device1 = false ∧ x.e.target ≠ 1))
    (hup : x.e.target = 1 → s.peerUp x.e.device = true) (hlost : x.reservationLost conditional s = false) :
    x.write conditional d s = x.issue (x.writeClass conditional) (x.writeTaken conditional d) s := by
  have hallowed : (conditional && x.e.device1) = false := Bool.and_eq_false_iff.mpr (h.imp_right And.left)
  by_cases hhere : x.e.target = 0
  · have hkept : ¬ (conditional && !s.mustHold x (x.writeClass conditional)
        && !s.reserves x.r (x.e.addr x.va / 64)) = true := by
      simpa [Acc.reservationLost, hhere, and_assoc] using hlost
    simp only [Acc.write, Acc.writeTaken, hallowed, Bool.false_eq_true, if_false, hhere, if_true,
      ← Acc.writeClass_of_here hhere, if_neg hkept]
  · by_cases hpeer : x.e.target = 1
    · have hposts : conditional = false := by simpa [hpeer] using h
      cases hordered : x.e.device1 <;> simp [Acc.write, Acc.writeTaken, Acc.writeClass, hposts, hpeer, hup hpeer, hordered]
    · have hclass : x.writeClass conditional = .request := by
        simpa [Acc.writeClass] using fun _ _ => ⟨hhere, hpeer⟩
      simp only [Acc.write, Acc.writeTaken, hallowed, Bool.false_eq_true, hhere, hpeer, hclass, if_false]

/-- A posted write at its home here takes its number (R142). -/
def Acc.numbered (x : Acc) (k : PoundKind) (s : State) : State :=
  if k = .posted then countWrite x.a (columnOf (x.e.addr x.va)) s else s

theorem Acc.writeTaken_of_here (hhere : x.e.target = 0) :
    x.writeTaken conditional d s = writeHome x (x.writeClass conditional) conditional d s := by
  simp only [Acc.writeTaken, hhere, if_true]

theorem Acc.writeTaken_of_dropped (hhere : x.e.target = 0)
    (h : writeDram x.a.src (x.e.addr x.va) d (x.numbered (x.writeClass conditional) s) = (s1, false)) :
    x.writeTaken conditional d s = writeLost x.r x.a x.va s1 := by
  rw [Acc.numbered] at h
  rw [Acc.writeTaken_of_here hhere, writeHome]
  simp only [h]

theorem Acc.writeTaken_of_committed (hhere : x.e.target = 0)
    (h : writeDram x.a.src (x.e.addr x.va) d (x.numbered (x.writeClass conditional) s) = (s1, true)) :
    x.writeTaken conditional d s = if conditional then scDone x.r x.va true s1
      else if x.writeClass conditional = .posted then s1 else respond x.r x.va .done s1 := by
  rw [Acc.numbered] at h
  rw [Acc.writeTaken_of_here hhere, writeHome]
  simp only [h]

theorem Acc.writeTaken_of_ordered_peer (hpeer : x.e.target = 1) (hordered : x.e.device1 = true) :
    x.writeTaken conditional d s =
      requestPeer x d.length { peerTx x.a x.e x.va s with data := d, size := sizeCode d.length, kind := 2 } false s := by
  simp [Acc.writeTaken, hpeer, hordered]

theorem Acc.writeTaken_of_plain_peer (hpeer : x.e.target = 1) (hplain : x.e.device1 = false) :
    x.writeTaken conditional d s = postPeer x d s := by
  simp [Acc.writeTaken, hpeer, hplain]

theorem Acc.writeTaken_of_host (hhere : x.e.target ≠ 0) (hpeer : x.e.target ≠ 1) :
    x.writeTaken conditional d s = writeHost x d s := by
  simp only [Acc.writeTaken, hhere, hpeer, if_false]

/-! The command -/

variable {r : Requester} {a : Actor} {addr : BitVec 40} {e : XlatEntry} {n va : Nat} {sc : Bool}

theorem exec_memoryWrite : exec (.memoryWrite r addr d sc) s = access (fun n => memWrite n r addr.toNat d sc) s := rfl

theorem memoryWrite_of_not_ready (hready : s.dyn.bring.ready = false) :
    exec (.memoryWrite r addr d sc) s = .next s := by
  rw [exec_memoryWrite, access_of_not_ready hready]

theorem memoryWrite_of_ready (hready : s.dyn.bring.ready = true) : exec (.memoryWrite r addr d sc) s =
    .next (memWrite s.lock.number.toNat r addr.toNat d sc (serveHeld s)) := by
  rw [exec_memoryWrite, access_of_ready hready]

theorem memoryWrite_of_no_actor (hready : s.dyn.bring.ready = true) (hheld : s.dyn.isgal.held = [])
    (hactor : s.actorAt s.lock.number.toNat r = none) : exec (.memoryWrite r addr d sc) s = .next s := by
  rw [exec_memoryWrite, access_of_ready_held_nil hready hheld, memWrite, hactor]

theorem memoryWrite_of_misuse (h : s.TakesAccess r a)
    (hmisuse : s.deviceMisuse s.lock.number.toNat a.berth addr.toNat d.length = some va) :
    exec (.memoryWrite r addr d sc) s = .next (faultAccess r va .addressFault s) := by
  rw [exec_memoryWrite, access_of_ready_held_nil h.ready h.held_nil]
  simp only [memWrite, h.actor, hmisuse]

/-- A write within one line is one part. -/
theorem memoryWrite_of_within_line (h : s.TakesAccess r a)
    (hmisuse : s.deviceMisuse s.lock.number.toNat a.berth addr.toNat d.length = none) (hpos : 0 < d.length)
    (hline : addr.toNat % 64 + d.length ≤ 64) : exec (.memoryWrite r addr d sc) s =
      .next (writePart s.lock.number.toNat r a sc addr.toNat d s) := by
  rw [exec_memoryWrite, access_of_ready_held_nil h.ready h.held_nil]
  simp only [memWrite, h.actor, hmisuse, cutLines_of_within_line hpos hline, List.foldl_cons, List.foldl_nil]

/-- A translated part of a write goes on as the write of its line. -/
theorem writePart_of_fetched (hmapped : s.lookupAt n a.berth addr.toNat = some e)
    (hpermits : e.permits .write addr.toNat d.length = true)
    (hwalk : walk (some (s.requesterUnit r)) ((s.cfgAt n).entryNo a.berth addr.toNat) s = (s1, true)) :
    writePart n r a sc addr.toNat d s =
      Acc.write { r := r, a := a, stamp := n, e := e, va := addr.toNat, instr := .memoryWrite r addr d sc } sc d s1 := by
  rw [writePart, translated_of_fetched hmapped hpermits hwalk, BitVec.ofNat_toNat, BitVec.setWidth_eq]
  rfl

end Sys2Proof.Machine
end

section
/-! PROOFS. MEMORY_ATOMIC: at its home here or on a peer (R202, R209). -/

namespace Sys2Proof.Machine

variable {s s1 : State} {x : Acc} {op : AtomicOp} {size8 : Bool} {v w : BitVec 64}

/-! The atomic of a translated line -/

/-- Bytes of an atomic. -/
def atomicLen (size8 : Bool) : Nat := if size8 then 8 else 4

/-- The transaction of an atomic on a peer's page. -/
def Acc.atomicTx (x : Acc) (op : AtomicOp) (size8 : Bool) (v w : BitVec 64) (s : State) : IsgalTx :=
  { peerTx x.a x.e x.va s with kind := 3, size := sizeCode (atomicLen size8), aop := atomicCode op, data := atomicData v w }

/-- An atomic at its home here answers the old value. -/
def Acc.atomicHere (x : Acc) (op : AtomicOp) (size8 : Bool) (v w : BitVec 64) (s : State) : State :=
  match atomicHome x.a.src (x.e.addr x.va) op size8 v w s with
  | (s, none) => faultAccess x.r x.va .uncorrectable s
  | (s, some old) => respond x.r x.va (.data old) s

/-- What an atomic does at the unit that took it. -/
def Acc.atomicTaken (x : Acc) (op : AtomicOp) (size8 : Bool) (v w : BitVec 64) : State → State :=
  if x.e.target = 0 then x.atomicHere op size8 v w
  else fun s => requestPeer x (atomicLen size8) (x.atomicTx op size8 v w s) false s

/-- What an atomic does once it is translated. -/
def Acc.atomic (x : Acc) (op : AtomicOp) (size8 : Bool) (v w : BitVec 64) (s : State) : State :=
  if x.e.target = 0 then x.issue .request (x.atomicHere op size8 v w) s
  else if x.e.target = 1 then
    if !s.peerUp x.e.device then faultAccess x.r x.va .addressFault s
    else x.issue .request (fun s => requestPeer x (atomicLen size8) (x.atomicTx op size8 v w s) false s) s
  else faultAccess x.r x.va .addressFault s

/-- An atomic has a home: here, or on a peer that is up. -/
def Acc.reaches (x : Acc) (s : State) : Prop := x.e.target = 0 ∨ (x.e.target = 1 ∧ s.peerUp x.e.device = true)

theorem Acc.atomic_of_not_reaches (h : ¬ x.reaches s) :
    x.atomic op size8 v w s = faultAccess x.r x.va .addressFault s := by
  obtain ⟨hhere, hpeer⟩ := not_or.mp h
  by_cases htarget : x.e.target = 1
  · simp [Acc.atomic, htarget, mt (And.intro htarget) hpeer]
  · simp only [Acc.atomic, hhere, htarget, if_false]

theorem Acc.atomic_of_reaches (h : x.reaches s) :
    x.atomic op size8 v w s = x.issue .request (x.atomicTaken op size8 v w) s := by
  rcases h with hhere | ⟨hpeer, hup⟩
  · simp only [Acc.atomic, Acc.atomicTaken, hhere, if_true]
  · simp [Acc.atomic, Acc.atomicTaken, hpeer, hup]

theorem Acc.atomicTaken_of_peer (hpeer : x.e.target = 1) : x.atomicTaken op size8 v w s =
    requestPeer x (atomicLen size8) (x.atomicTx op size8 v w s) false s := by
  simp [Acc.atomicTaken, hpeer]

theorem Acc.atomicTaken_of_lost (hhere : x.e.target = 0)
    (h : readDram x.a.src (x.e.addr x.va) (atomicLen size8) s = (s1, none)) :
    x.atomicTaken op size8 v w s = faultAccess x.r x.va .uncorrectable s1 := by
  rw [atomicLen] at h
  simp only [Acc.atomicTaken, hhere, if_true, Acc.atomicHere, atomicHome, h]

theorem Acc.atomicTaken_of_read {old : List Byte} (hhere : x.e.target = 0)
    (h : readDram x.a.src (x.e.addr x.va) (atomicLen size8) s = (s1, some old)) :
    x.atomicTaken op size8 v w s =
      respond x.r x.va (.data old) (writeDram x.a.src (x.e.addr x.va) (atomicBytes op size8 old v w) s1).1 := by
  rw [atomicLen] at h
  simp only [Acc.atomicTaken, hhere, if_true, Acc.atomicHere, atomicHome, h]

/-! The command -/

variable {r : Requester} {a : Actor} {addr : BitVec 40} {e : XlatEntry}

theorem exec_memoryAtomic : exec (.memoryAtomic r addr op size8 v w) s =
    access (fun n => memAtomic n r addr.toNat op size8 v w) s := rfl

theorem memoryAtomic_of_not_ready (hready : s.dyn.bring.ready = false) :
    exec (.memoryAtomic r addr op size8 v w) s = .next s := by
  rw [exec_memoryAtomic, access_of_not_ready hready]

theorem memoryAtomic_of_ready (hready : s.dyn.bring.ready = true) : exec (.memoryAtomic r addr op size8 v w) s =
    .next (memAtomic s.lock.number.toNat r addr.toNat op size8 v w (serveHeld s)) := by
  rw [exec_memoryAtomic, access_of_ready hready]

theorem memoryAtomic_of_no_actor (hready : s.dyn.bring.ready = true) (hheld : s.dyn.isgal.held = [])
    (hactor : s.actorAt s.lock.number.toNat r = none) : exec (.memoryAtomic r addr op size8 v w) s = .next s := by
  rw [exec_memoryAtomic, access_of_ready_held_nil hready hheld, memAtomic, hactor]

theorem memoryAtomic_of_no_entry (h : s.TakesAccess r a)
    (hnone : addr.toNat % atomicLen size8 ≠ 0 ∨ s.lookupAt s.lock.number.toNat a.berth addr.toNat = none) :
    exec (.memoryAtomic r addr op size8 v w) s = .next (faultAccess r addr.toNat .addressFault s) := by
  rw [exec_memoryAtomic, access_of_ready_held_nil h.ready h.held_nil]
  by_cases haligned : addr.toNat % atomicLen size8 = 0
  · have hunmapped := hnone.resolve_left (not_not.mpr haligned)
    simp only [memAtomic, h.actor, translated_of_unmapped hunmapped, ite_self]
  · rw [atomicLen] at haligned
    simp only [memAtomic, h.actor, ne_eq, haligned, not_false_eq_true, if_true]

theorem memoryAtomic_of_not_permitted (h : s.TakesAccess r a)
    (hmapped : s.lookupAt s.lock.number.toNat a.berth addr.toNat = some e)
    (hpermits : e.permits .atomic addr.toNat (atomicLen size8) = false) :
    exec (.memoryAtomic r addr op size8 v w) s = .next (faultAccess r addr.toNat .addressFault s) := by
  rw [atomicLen] at hpermits
  rw [exec_memoryAtomic, access_of_ready_held_nil h.ready h.held_nil]
  simp only [memAtomic, h.actor, translated_of_not_permitted hmapped hpermits, ite_self]

/-- An aligned and translated atomic goes on by its entry. -/
theorem memoryAtomic_of_fetched (h : s.TakesAccess r a)
    (hmapped : s.lookupAt s.lock.number.toNat a.berth addr.toNat = some e)
    (hpermits : e.permits .atomic addr.toNat (atomicLen size8) = true) (haligned : addr.toNat % atomicLen size8 = 0)
    (hwalk : walk (some (s.requesterUnit r)) ((s.cfgAt s.lock.number.toNat).entryNo a.berth addr.toNat) s = (s1, true)) :
    exec (.memoryAtomic r addr op size8 v w) s = .next (Acc.atomic
      { r := r, a := a, stamp := s.lock.number.toNat, e := e, va := addr.toNat,
        instr := .memoryAtomic r addr op size8 v w } op size8 v w s1) := by
  rw [atomicLen] at hpermits haligned
  rw [exec_memoryAtomic, access_of_ready_held_nil h.ready h.held_nil]
  simp only [memAtomic, h.actor, haligned, ne_eq, not_true_eq_false, if_false,
    translated_of_fetched hmapped hpermits hwalk, BitVec.ofNat_toNat, BitVec.setWidth_eq]
  rfl

end Sys2Proof.Machine
end

section
/-! PROOFS. RELEASE_FENCE, PATROL_READ, CREDIT_RETURN and KBERTH_WRITE (R54, R142, R194, R530), and the memory accesses
together. -/

namespace Sys2Proof.Machine

variable {s : State} {a : Actor} {t : Fin 36} {job p : Nat} {pa : BitVec 48} {flips : BitVec 544} {unit : Nat}
  {k : PoundKind} {safety : Bool} {h : Fin 24} {v : BitVec 64}

theorem releaseFence_of_no_context (hnone : s.actor (.context t job) = none ∨ s.dyn.cfg.physOf t = none) :
    exec (.releaseFence t job) s = .next s := by
  change execReleaseFence t job s = _
  rcases hnone with hactor | hphys
  · simp only [execReleaseFence, hactor]
  · cases hactor : s.actor (.context t job) <;> simp only [execReleaseFence, hactor, hphys]

theorem releaseFence_of_context (hactor : s.actor (.context t job) = some a) (hphys : s.dyn.cfg.physOf t = some p)
    (hready : s.dyn.bring.ready = true) : exec (.releaseFence t job) s = .next (fenceWrites
      { a.src with berth := a.berth, gen := (s.dyn.cfg.berth a.berth).gen } p t job (serveHeld s)) := by
  change execReleaseFence t job s = _
  simp only [execReleaseFence, hactor, hphys, access_of_ready hready]

/-- The other copy of a line of the reserved region; a line of berth memory has none (R186, R472). -/
def copyOf (l : Nat) : Option (Nat × Nat) := if berthFrame (l / 1024) then none else otherCopy l

theorem patrolRead_of_outside (hout : 36 * 0x80000000 ≤ pa.toNat) :
    exec (.patrolRead pa flips) s = .fault (.outsideDram pa.toNat) :=
  if_pos (by simpa [inDram] using hout)

theorem patrolRead_of_inside (hin : pa.toNat < 36 * 0x80000000) : exec (.patrolRead pa flips) s =
    if !s.dyn.bring.ready then .next s
    else if s.columnHolds (columnOf pa.toNat) .request then .next (startWake (columnOf pa.toNat) s)
    else match copyOf (pa.toNat / 64) with
      | some (u, o) => .next (readDoubled { source := 5 } u (pa.toNat / 64) o (flipLine (pa.toNat / 64) flips s)).1
      | none => .next (readDramLine { source := 5 } (pa.toNat / 64) (flipLine (pa.toNat / 64) flips s)).1 :=
  if_neg (by simpa [inDram] using hin)

theorem patrolRead_of_not_ready (hin : pa.toNat < 36 * 0x80000000) (hready : s.dyn.bring.ready = false) :
    exec (.patrolRead pa flips) s = .next s := by
  simp only [patrolRead_of_inside hin, hready, Bool.not_false, if_true]

theorem patrolRead_of_column_holds (hin : pa.toNat < 36 * 0x80000000) (hready : s.dyn.bring.ready = true)
    (hholds : s.columnHolds (columnOf pa.toNat) .request = true) :
    exec (.patrolRead pa flips) s = .next (startWake (columnOf pa.toNat) s) := by
  simp only [patrolRead_of_inside hin, hready, hholds, Bool.not_true, Bool.false_eq_true, if_false, if_true]

/-- The patrol may read the address: it lies in DRAM, the fabric is ready and its column serves it now. -/
structure State.MayPatrol (s : State) (pa : BitVec 48) : Prop where
  inside : pa.toNat < 36 * 0x80000000
  ready : s.dyn.bring.ready = true
  serves : s.columnHolds (columnOf pa.toNat) .request = false

theorem patrolRead_of_single (hmay : s.MayPatrol pa)
    (hsingle : berthFrame (pa.toNat / 64 / 1024) = true ∨ otherCopy (pa.toNat / 64) = none) :
    exec (.patrolRead pa flips) s =
      .next (readDramLine { source := 5 } (pa.toNat / 64) (flipLine (pa.toNat / 64) flips s)).1 := by
  have no_copy : copyOf (pa.toNat / 64) = none := by simpa [copyOf, or_iff_not_imp_left] using hsingle
  simp only [patrolRead_of_inside hmay.inside, hmay.ready, hmay.serves, no_copy, Bool.not_true, Bool.false_eq_true, if_false]

theorem patrolRead_of_doubled {u o : Nat} (hmay : s.MayPatrol pa) (hreserved : berthFrame (pa.toNat / 64 / 1024) = false)
    (hcopy : otherCopy (pa.toNat / 64) = some (u, o)) : exec (.patrolRead pa flips) s =
      .next (readDoubled { source := 5 } u (pa.toNat / 64) o (flipLine (pa.toNat / 64) flips s)).1 := by
  have copied : copyOf (pa.toNat / 64) = some (u, o) := by simp [copyOf, hreserved, hcopy]
  simp only [patrolRead_of_inside hmay.inside, hmay.ready, hmay.serves, copied, Bool.not_true, Bool.false_eq_true, if_false]

/-- The state once a slot of a pound is freed. -/
def State.slotFreed (unit : Nat) (k : PoundKind) (safety : Bool) (s : State) : State :=
  s.modWork fun w => { w with slots := tabMod 0 w.slots (poundKey unit k safety) (· - 1) }

theorem exec_creditReturn : exec (.creditReturn unit k safety) s =
    .next (if s.dyn.bring.ready then serveHeld (s.slotFreed unit k safety) else s.slotFreed unit k safety) := rfl

theorem creditReturn_of_ready (hready : s.dyn.bring.ready = true) :
    exec (.creditReturn unit k safety) s = .next (serveHeld (s.slotFreed unit k safety)) := by
  rw [exec_creditReturn, if_pos hready]

theorem creditReturn_of_not_ready (hready : s.dyn.bring.ready = false) :
    exec (.creditReturn unit k safety) s = .next (s.slotFreed unit k safety) := by
  rw [exec_creditReturn, if_neg (by simp [hready])]

theorem kberthWrite_of_virtual : exec (.kberthWrite h v true) s =
    .next (s.modCores fun c => { c with traps := tabPut 0 c.traps h 1 }) := rfl

/-- KBERTH_WRITE from a mode that is not virtual is judged by the hart's allow mask. -/
theorem exec_kberthWrite : exec (.kberthWrite h v false) s =
    if !bitAt (tabGet 0 s.dyn.cores.allow h) (fldN v 0 6) then
      .next (s.modCores fun c => { c with traps := tabPut 0 c.traps h 2 })
    else .next (s.modCores fun c => { c with kberth := tabPut 0 c.kberth h (fld v 0 6), traps := tabPut 0 c.traps h 0 }) := rfl

theorem kberthWrite_of_not_allowed (hallow : bitAt (tabGet 0 s.dyn.cores.allow h) (fldN v 0 6) = false) :
    exec (.kberthWrite h v false) s = .next (s.modCores fun c => { c with traps := tabPut 0 c.traps h 2 }) := by
  rw [exec_kberthWrite, hallow, Bool.not_false, if_pos rfl]

theorem kberthWrite_of_allowed (hallow : bitAt (tabGet 0 s.dyn.cores.allow h) (fldN v 0 6) = true) :
    exec (.kberthWrite h v false) s = .next (s.modCores fun c =>
      { c with kberth := tabPut 0 c.kberth h (fld v 0 6), traps := tabPut 0 c.traps h 0 }) := by
  rw [exec_kberthWrite, hallow, Bool.not_true, if_neg Bool.false_ne_true]

/-- Settles O40: an access is judged by its actor, its entry and its unit, in that order; each clause is one end of that way. -/
theorem memoryAccessesReachTheirHome : Obligations.MemoryAccessesReachTheirHome := by
  refine ⟨fun r addr len flips lr s => ?read, fun r addr d sc s => ?write, fun r addr op size8 v w s => ?atomic,
    fun t job s => ?fence, fun pa flips s => ?patrol, fun unit k safety s => ?credit, fun h v s => ?kberth⟩
  case read =>
    refine ⟨memoryRead_of_not_ready, memoryRead_of_ready, memoryRead_of_no_actor,
      fun a va hready hheld hactor => memoryRead_of_misuse ⟨hready, hheld, hactor⟩,
      fun a hready hheld hactor hmisuse hpos hline => ?_⟩
    have one_part := memoryRead_of_within_line (flips := flips) (lr := lr) ⟨hready, hheld, hactor⟩ hmisuse hpos hline
    refine ⟨fun hunmapped => ?_, fun e hmapped hpermits => ?_, fun e s1 hmapped hpermits hwalk => ?_,
      fun e s1 hmapped hpermits hwalk => ?_⟩
    · rw [one_part, readPart, translated_of_unmapped hunmapped]
    · rw [one_part, readPart, translated_of_not_permitted hmapped hpermits]
    · rw [one_part, readPart, translated_of_not_fetched hmapped hpermits hwalk]
    · intro x
      rw [one_part, readPart_of_fetched hmapped hpermits hwalk]
      refine ⟨fun hlr hordered => ?_, fun s2 y hallowed hbuffer => ?_, fun s2 hallowed hbuffer => ?_⟩
      · rw [Acc.read_of_ordered_reserve hlr hordered]
      · rw [Acc.read_of_buffered hallowed hbuffer]
      · rw [Acc.read_of_not_buffered hallowed hbuffer]
        refine ⟨fun hpeer hdown => ?_, fun hup hwaits => ?_, fun s3 hup hgoes hcredits => ?_⟩
        · rw [Acc.demand_of_peer_down hpeer hdown]
        · rw [Acc.demand_of_waits (x := x) hup hwaits]
        · rw [Acc.demand_of_credits (x := x) hup hgoes hcredits]
          refine ⟨fun hpeer => ?_, fun hhere hpeer => ?_, fun s4 hhere hlost => ?_, fun s4 d hhere hread => ?_⟩
          · rw [Acc.demandTaken_of_peer hpeer]
          · rw [Acc.demandTaken_of_host hhere hpeer]
          · rw [Acc.demandTaken_of_lost hhere hlost]
          · rw [Acc.demandTaken_of_read hhere hread]
            rfl
  case write =>
    refine ⟨memoryWrite_of_not_ready, memoryWrite_of_ready, memoryWrite_of_no_actor,
      fun a va hready hheld hactor => memoryWrite_of_misuse ⟨hready, hheld, hactor⟩,
      fun a hready hheld hactor hmisuse hpos hline => ?_⟩
    have one_part := memoryWrite_of_within_line (sc := sc) ⟨hready, hheld, hactor⟩ hmisuse hpos hline
    refine ⟨fun hunmapped => ?_, fun e hmapped hpermits => ?_, fun e s1 hmapped hpermits hwalk => ?_,
      fun e s1 hmapped hpermits hwalk => ?_⟩
    · rw [one_part, writePart, translated_of_unmapped hunmapped]
    · rw [one_part, writePart, translated_of_not_permitted hmapped hpermits]
    · rw [one_part, writePart, translated_of_not_fetched hmapped hpermits hwalk]
    · intro x
      rw [one_part, writePart_of_fetched hmapped hpermits hwalk]
      refine ⟨fun hsc hordered => ?_, fun hallowed hpeer hdown => ?_, fun hallowed hlost => ?_,
        fun hsc hplain hpeer hup => ?_, fun hallowed hup hkept => ?_⟩
      · rw [Acc.write_of_ordered_conditional hsc hordered]
      · rw [Acc.write_of_peer_down hpeer hdown]
      · rw [Acc.write_of_reservationLost (x := x) hallowed hlost]
      · rw [Acc.write_of_conditional_peer hsc hplain hpeer hup]
      · rw [Acc.write_eq_issue (x := x) hallowed hup hkept]
        refine ⟨fun hwaits => ?_, fun s2 hgoes hcredits => ?_⟩
        · rw [Acc.issue_of_waits (k := x.writeClass sc) hwaits]; rfl
        · rw [Acc.issue_of_credits (k := x.writeClass sc) hgoes hcredits]
          refine ⟨fun hpeer hordered => ?_, fun hpeer hplain => ?_, fun hhere hpeer => ?_, fun s3 hhere hdropped => ?_,
            fun s3 hhere hcommitted => ?_⟩
          · rw [Acc.writeTaken_of_ordered_peer hpeer hordered]
          · rw [Acc.writeTaken_of_plain_peer hpeer hplain]
          · rw [Acc.writeTaken_of_host hhere hpeer]
          · rw [Acc.writeTaken_of_dropped hhere hdropped]
          · rw [Acc.writeTaken_of_committed hhere hcommitted]; rfl
  case atomic =>
    refine ⟨memoryAtomic_of_not_ready, memoryAtomic_of_ready, memoryAtomic_of_no_actor, fun a hready hheld hactor => ?_⟩
    have takes : s.TakesAccess r a := ⟨hready, hheld, hactor⟩
    refine ⟨memoryAtomic_of_no_entry takes, fun e => memoryAtomic_of_not_permitted takes,
      fun e s1 hmapped hpermits haligned hwalk => ?_⟩
    intro x
    rw [memoryAtomic_of_fetched takes hmapped hpermits haligned hwalk]
    refine ⟨fun hlacks => ?_, fun hreaches hwaits => ?_, fun s2 hreaches hgoes hcredits => ?_⟩
    · rw [Acc.atomic_of_not_reaches (x := x) hlacks]
    · rw [Acc.atomic_of_reaches (x := x) hreaches, Acc.issue_of_waits hwaits]
    · rw [Acc.atomic_of_reaches (x := x) hreaches, Acc.issue_of_credits hgoes hcredits]
      refine ⟨fun hpeer => ?_, fun s3 hhere hlost => ?_, fun s3 old hhere hread => ?_⟩
      · rw [Acc.atomicTaken_of_peer hpeer]; rfl
      · rw [Acc.atomicTaken_of_lost hhere hlost]
      · rw [Acc.atomicTaken_of_read hhere hread]
  case fence => exact ⟨releaseFence_of_no_context, fun _ _ => releaseFence_of_context⟩
  case patrol =>
    exact ⟨patrolRead_of_outside, patrolRead_of_not_ready, patrolRead_of_column_holds,
      fun ⟨hin, hready, hserves⟩ => patrolRead_of_single ⟨hin, hready, hserves⟩,
      fun _ _ ⟨hin, hready, hserves⟩ => patrolRead_of_doubled ⟨hin, hready, hserves⟩⟩
  case credit => exact ⟨creditReturn_of_ready, creditReturn_of_not_ready⟩
  case kberth => exact ⟨kberthWrite_of_virtual, kberthWrite_of_not_allowed, kberthWrite_of_allowed⟩

end Sys2Proof.Machine
end

section
/-! PROOFS. TENSOR_SEED_SR (R90, R112): it waits for its queue to be empty of started work, and then its checks decide. -/

namespace Sys2Proof.Machine

variable {c : Cmd} {s : State} {t : Ticket}

/-! The checks of R113, and the effect -/

theorem actSeed_of_not_owned (howned : t.ownsBasin s.dyn.cfg (fldN t.cmd.params 0 10) = false) :
    actSeed t s = writeRecord t 0x0050 noResult s := by
  simp only [actSeed, howned, Bool.not_false, if_true]

theorem actSeed_of_owned (howned : t.ownsBasin s.dyn.cfg (fldN t.cmd.params 0 10) = true) :
    actSeed t s = if fld t.cmd.params 64 64 = 0 then writeRecord t 0x0065 noResult s
      else writeRecord t 0 noResult (seedTiles t.cmd.berth (fldN t.cmd.params 0 10) (fld t.cmd.params 64 64) s) := by
  simp only [actSeed, howned, Bool.not_true, Bool.false_eq_true, if_false]

/-! Whether it starts -/

/-- A queue of which some command has started and not completed keeps the packet. -/
theorem tensorSeedSr_of_queueWorks {q : BitVec 18} (hpath : c.path = .queue q) (hworks : s.queueWorks q = true) :
    exec (.tensorSeedSr c) s = .next s := by
  change execTensorSeedSr c s = .next s
  simp only [execTensorSeedSr, hpath, hworks, if_true]

/-- Off a queue, or on one whose started commands have all completed, an admitted packet is judged. -/
theorem tensorSeedSr_of_admits (h : Admits opTensorSeed c s = true)
    (hdone : ∀ q, c.path = .queue q → s.queueWorks q = false) :
    exec (.tensorSeedSr c) s = .next (actSeed (ticketOf opTensorSeed c s) (admitted c s)) := by
  have carried : execTensorSeedSr c s = carry opTensorSeed c actSeed s := by
    cases hpath : c.path with
    | queue q => simp only [execTensorSeedSr, hpath, hdone q hpath, Bool.false_eq_true, if_false]
    | mailbox m => simp only [execTensorSeedSr, hpath]
    | supervisor => simp only [execTensorSeedSr, hpath]
  exact carried.trans (carry_admitted h actSeed)

/-- Settles O19: admission moves no basin, so the act asks its checks of the state before it. -/
theorem tensorSeedSetsTheStreams : Obligations.TensorSeedSetsTheStreams := by
  intro c s h
  refine ⟨fun q => tensorSeedSr_of_queueWorks, fun hdone => ⟨fun howned => ?_, fun howned hzero => ?_, fun howned hseed => ?_⟩⟩
  · rw [tensorSeedSr_of_admits h hdone, actSeed_of_not_owned (by rwa [admitted_cfg]), answered]
  · rw [tensorSeedSr_of_admits h hdone, actSeed_of_owned (by rwa [admitted_cfg]), ticketOf_cmd, if_pos hzero, answered]
  · rw [tensorSeedSr_of_admits h hdone, actSeed_of_owned (by rwa [admitted_cfg]), ticketOf_cmd, if_neg hseed]

end Sys2Proof.Machine
end

section
/-! PROOFS. IMAGE_CLEAR and IMAGE_RESOLVE (R116, R272): refused by a check of the image, left waiting while an earlier command
of the queue still writes what they read, or run to the end of their accesses. -/

namespace Sys2Proof.Machine

variable {c : Cmd} {s s1 s2 : State} {t : Ticket} {resolve : Bool} {i : Image} {a : Access Unit} {st : Nat}

/-- What an image command reads: the header, and to resolve the image itself. -/
def imageReads (resolve : Bool) (t : Ticket) (i : Image) : List (Nat × Nat) :=
  (fldN t.cmd.params 0 40, 64) :: if resolve then i.spans else []

/-- An earlier command of the queue still writes what an image command reads. -/
def imageWaits (resolve : Bool) (t : Ticket) (i : Image) (s : State) : Bool :=
  match t.cmd.path with
  | .queue q => s.mustWait q (imageReads resolve t i) s.dyn.work.nextJob
  | _ => false

/-- The accesses of an image command: every tag cleared, or the blocks decoded and then every tag raw. -/
def imageRun (resolve : Bool) (t : Ticket) (i : Image) (s : State) : State × Access Unit :=
  let rd := berthReader t.src t.cmd.berth
  let wr := berthWriter t.src t.cmd.berth
  if resolve then thenA (resolveBlocks rd wr i s) fun _ s => setTags rd wr i 0 s else setTags rd wr i 1 s

/-- The status of an image command whose accesses ended so. -/
def imageRunStatus : Access Unit → Nat
  | .ok _ => 0
  | a => a.checkStatus

/-! The act, by what the checks of the image answer -/

theorem actImage_of_error (hchecks : imageCommand t s = (s1, .error st)) :
    actImage resolve t s = some (writeRecord t st noResult s1) := by
  simp only [actImage, hchecks]

theorem actImage_of_ok (hchecks : imageCommand t s = (s1, .ok i)) (hrun : imageRun resolve t i s1 = (s2, a)) :
    actImage resolve t s = if imageWaits resolve t i s1 then none
      else some (writeRecord t (imageRunStatus a) noResult s2) := by
  rw [imageRun] at hrun
  simp only [actImage, hchecks, hrun]
  refine if_congr ?_ rfl ?_
  · rw [imageWaits]
    cases t.cmd.path <;> exact Iff.rfl
  · cases a <;> rfl

/-! The packet of either command -/

theorem exec_imageClear : exec (.imageClear c) s = carryWait opImageClear c (actImage false) s := rfl

theorem exec_imageResolve : exec (.imageResolve c) s = carryWait opImageResolve c (actImage true) s := rfl

section Packet

variable {x : Instr} {op : OpInfo} (hexec : exec x s = carryWait op c (actImage resolve) s) (h : Admits op c s = true)
include hexec h

theorem image_of_error (hchecks : imageCommand (ticketOf op c s) (admitted c s) = (s1, .error st)) :
    exec x s = .next (writeRecord (ticketOf op c s) st noResult s1) := by
  rw [hexec, carryWait_admitted h, actImage_of_error hchecks, Option.getD_some]

theorem image_of_waits (hchecks : imageCommand (ticketOf op c s) (admitted c s) = (s1, .ok i))
    (hwaits : imageWaits resolve (ticketOf op c s) i s1 = true) : exec x s = .next s := by
  rw [hexec, carryWait_admitted h, actImage_of_ok hchecks rfl, if_pos hwaits, Option.getD_none]

theorem image_of_run (hchecks : imageCommand (ticketOf op c s) (admitted c s) = (s1, .ok i))
    (hfree : imageWaits resolve (ticketOf op c s) i s1 = false)
    (hrun : imageRun resolve (ticketOf op c s) i s1 = (s2, a)) :
    exec x s = .next (writeRecord (ticketOf op c s) (imageRunStatus a) noResult s2) := by
  rw [hexec, carryWait_admitted h, actImage_of_ok hchecks hrun, if_neg (ne_true_of_eq_false hfree), Option.getD_some]

end Packet

/-- Settles O22: each command carries the one act in its own mode, whose ends are a check's refusal, the wait, and the three
ends of its accesses. -/
theorem imageCommandsTagTheirBlocks : Obligations.ImageCommandsTagTheirBlocks :=
  ⟨fun _ _ h => ⟨fun _ _ => image_of_error exec_imageClear h, fun _ _ hchecks =>
      have ends {a s2} := image_of_run exec_imageClear h hchecks (a := a) (s2 := s2)
      ⟨image_of_waits exec_imageClear h hchecks, fun _ => ends, fun _ => ends, fun _ => ends⟩⟩,
    fun _ _ h => ⟨fun _ _ => image_of_error exec_imageResolve h, fun _ _ hchecks =>
      have ends {a s2} := image_of_run exec_imageResolve h hchecks (a := a) (s2 := s2)
      ⟨image_of_waits exec_imageResolve h hchecks, fun _ => ends, fun _ => ends, fun _ => ends⟩⟩⟩

end Sys2Proof.Machine
end

section
/-! PROOFS. JOB_CHOOSE and JOB_BORROW: the choice of a leaf basin's next job, and the loan of a tile (R168, R172; the
order of jobs is log entry 83). -/

namespace Sys2Proof.Machine

variable {s s' : State}

/-! JOB_CHOOSE -/

section Choose

variable {basin : BitVec 10} {q : Nat}

/-- The heads of the queues have named their leaf basins (R168). -/
def headsResolved (s : State) : State := s.dyn.cfg.takenQueues.foldl (fun s q => resolveHead q s) s

theorem jobChoose_of_not_runs (h : ¬ (s.dyn.bring.ready = true ∧ s.dyn.errors.veldonHalted = false)) :
    exec (.jobChoose basin) s = .next s := by
  have stopped : (!s.dyn.bring.ready || s.dyn.errors.veldonHalted) = true := by
    simpa [imp_iff_not_or] using h
  exact if_pos stopped

theorem jobChoose_of_runs (h : s.dyn.bring.ready = true ∧ s.dyn.errors.veldonHalted = false) :
    exec (.jobChoose basin) s = .next ((nextJobOf basin.toNat (headsResolved s)).elim (headsResolved s) fun x => x.2) := by
  obtain ⟨hready, hveldon⟩ := h
  change execJobChoose basin s = _
  simp only [execJobChoose, hready, hveldon, Bool.not_true, Bool.or_false, Bool.false_eq_true, if_false, headsResolved]
  cases nextJobOf basin.toNat (s.dyn.cfg.takenQueues.foldl (fun s q => resolveHead q s) s) <;> rfl

theorem jobChoose_of_chosen (h : s.dyn.bring.ready = true ∧ s.dyn.errors.veldonHalted = false)
    (hchosen : nextJobOf basin.toNat (headsResolved s) = some (q, s')) : exec (.jobChoose basin) s = .next s' := by
  rw [jobChoose_of_runs h, hchosen, Option.elim_some]

theorem jobChoose_of_none_chosen (h : s.dyn.bring.ready = true ∧ s.dyn.errors.veldonHalted = false)
    (hnone : nextJobOf basin.toNat (headsResolved s) = none) : exec (.jobChoose basin) s = .next (headsResolved s) := by
  rw [jobChoose_of_runs h, hnone, Option.elim_none]

end Choose

/-! JOB_BORROW -/

section Borrow

variable {job j since l p : Nat} {q : BitVec 18} {t : Fin 36} {x : State} {b b' : Job}

/-- What asking for the loan of logical tile `l` leads to, for job `j` as it stands in `s'`: the job placed with it, or the
state `s` as it was. -/
def lend (j since l p : Nat) (b : Job) (s' s : State) : State :=
  if !mayBorrow s' b since l p then s
  else match borrowPlace b l s' with
    | some (x, b) => setPlaced j b x
    | none => s

theorem lend_of_not_allowed (h : mayBorrow s' b since l p = false) : lend j since l p b s' s = s := by
  simp [lend, h]

theorem lend_of_no_place (h : mayBorrow s' b since l p = true) (hplace : borrowPlace b l s' = none) :
    lend j since l p b s' s = s := by
  simp [lend, h, hplace]

theorem lend_of_place (h : mayBorrow s' b since l p = true) (hplace : borrowPlace b l s' = some (x, b')) :
    lend j since l p b s' s = setPlaced j b' x := by
  simp [lend, h, hplace]

theorem jobBorrow_of_no_job (h : s.job job = none ∨ s.dyn.cfg.logicalOf t = none) :
    exec (.jobBorrow (.job job) t) s = .next s := by
  change execJobBorrow (.job job) t s = _
  rw [execJobBorrow]
  rcases h with hjob | hlogical
  · cases s.dyn.cfg.logicalOf t with
    | none => rfl
    | some l => simp only [hjob]
  · simp only [hlogical]

theorem jobBorrow_of_job (hjob : s.job job = some b) (hlogical : s.dyn.cfg.logicalOf t = some l) :
    exec (.jobBorrow (.job job) t) s = .next (lend job b.since l t b s s) := by
  change execJobBorrow (.job job) t s = _
  simp only [execJobBorrow, hjob, hlogical]
  rfl

theorem jobBorrow_of_no_head (h : tryHead q s = none ∨ s.dyn.cfg.logicalOf t = none) :
    exec (.jobBorrow (.head q) t) s = .next s := by
  change execJobBorrow (.head q) t s = _
  rw [execJobBorrow]
  rcases h with hhead | hlogical
  · cases s.dyn.cfg.logicalOf t with
    | none => rfl
    | some l => simp only [hhead, Option.bind_none]
  · simp only [hlogical]

theorem jobBorrow_of_head (hhead : tryHead q s = some s') (hjob : s'.job s.dyn.work.nextJob = some b)
    (hlogical : s.dyn.cfg.logicalOf t = some l) : exec (.jobBorrow (.head q) t) s =
      .next (if s'.mustWait q b.ins s.dyn.work.nextJob then s
        else lend s.dyn.work.nextJob (s.queue q.toNat).headSince l t b s' s) := by
  change execJobBorrow (.head q) t s = _
  simp only [execJobBorrow, hhead, Option.bind_some, hjob, hlogical, Option.map_some]
  rfl

/-- A head that still has to wait, or may not borrow, stays where it was. -/
theorem jobBorrow_of_head_refused (hhead : tryHead q s = some s') (hjob : s'.job s.dyn.work.nextJob = some b)
    (hlogical : s.dyn.cfg.logicalOf t = some l)
    (h : s'.mustWait q b.ins s.dyn.work.nextJob = true ∨ mayBorrow s' b (s.queue q.toNat).headSince l t = false) :
    exec (.jobBorrow (.head q) t) s = .next s := by
  rw [jobBorrow_of_head hhead hjob hlogical]
  rcases h with hwaits | hdenied
  · rw [if_pos hwaits]
  · rw [lend_of_not_allowed hdenied, ite_self]

theorem jobBorrow_of_head_placed (hhead : tryHead q s = some s') (hjob : s'.job s.dyn.work.nextJob = some b)
    (hlogical : s.dyn.cfg.logicalOf t = some l) (hfree : s'.mustWait q b.ins s.dyn.work.nextJob = false)
    (hmay : mayBorrow s' b (s.queue q.toNat).headSince l t = true) (hplace : borrowPlace b l s' = some (x, b')) :
    exec (.jobBorrow (.head q) t) s = .next (setPlaced s.dyn.work.nextJob b' x) := by
  rw [jobBorrow_of_head hhead hjob hlogical, if_neg (ne_true_of_eq_false hfree), lend_of_place hmay hplace]

end Borrow

end Sys2Proof.Machine
end

section
/-! PROOFS. The events of a job that is placed: the switch of a shard, the start of a step, the array's next load, and the end
of the job (R105, R107, R150, R169, R178, R179). That a shard moves whose tile has left the basin is log entry 185. -/

namespace Sys2Proof.Machine

variable {s : State} {job : Nat} {b : Job} {x : ShardRun}

/-- The run of shard `i` of a job. -/
def Job.runOf (b : Job) (i : Nat) : Option ShardRun := b.shards.find? fun x => x.shard == i

/-! SHARD_SWITCH -/

section Switch

variable {shard : BitVec 5} {p : Nat}

theorem shardSwitch_of_no_job (h : s.job job = none) : exec (.shardSwitch job shard) s = .next s := by
  change execShardSwitch job shard s = _
  simp only [execShardSwitch, h]

theorem shardSwitch_of_no_run (hjob : s.job job = some b) (hrun : b.runOf shard.toNat = none) :
    exec (.shardSwitch job shard) s = .next s := by
  rw [Job.runOf] at hrun
  change execShardSwitch job shard s = _
  simp only [execShardSwitch, hjob, hrun]

theorem shardSwitch_of_not_due (hjob : s.job job = some b) (hrun : b.runOf shard.toNat = some x)
    (h : b.placed = false ∨ x.switched = true) : exec (.shardSwitch job shard) s = .next s := by
  rw [Job.runOf] at hrun
  have not_due : (!b.placed || x.switched) = true := by simpa using h
  change execShardSwitch job shard s = _
  simp only [execShardSwitch, hjob, hrun, not_due, if_true]

variable (hjob : s.job job = some b) (hrun : b.runOf shard.toNat = some x) (hplaced : b.placed = true)
  (hfresh : x.switched = false)
include hjob hrun hplaced hfresh

theorem shardSwitch_of_left (hleft : s.placeHolds b x = false) :
    exec (.shardSwitch job shard) s = .next (moveShard job b x s) := by
  rw [Job.runOf] at hrun
  change execShardSwitch job shard s = _
  simp [execShardSwitch, hjob, hrun, hplaced, hfresh, hleft]

/-- The tile of a shard that may start there is awake, or starts to wake. -/
theorem shardSwitch_of_holds (hholds : s.placeHolds b x = true) (hphys : s.dyn.cfg.physOf x.tile = some p) :
    exec (.shardSwitch job shard) s = .next (if s.tileAwake p then unlessHeld (switchShard job shard.toNat p b) s
      else startWake p s) := by
  rw [Job.runOf] at hrun
  change execShardSwitch job shard s = _
  simp only [execShardSwitch, hjob, hrun, hplaced, hfresh, hholds, hphys]
  cases s.tileAwake p <;> rfl

end Switch

/-! MODEL_STEP_START -/

section Step

variable {shard : BitVec 5} {sram : SramWord} {step : Nat}

theorem modelStepStart_of_no_job (h : s.job job = none) : exec (.modelStepStart job ⟨shard, sram⟩ step) s = .next s := by
  change execModelStepStart job ⟨shard, sram⟩ step s = _
  simp only [execModelStepStart, h]

theorem modelStepStart_of_no_run (hjob : s.job job = some b) (hrun : b.runOf shard.toNat = none) :
    exec (.modelStepStart job ⟨shard, sram⟩ step) s = .next s := by
  rw [Job.runOf] at hrun
  change execModelStepStart job ⟨shard, sram⟩ step s = _
  simp only [execModelStepStart, hjob, hrun]

/-- A step of a shard may start now (R150): the job is no preload, the step is ready, and so is the shard that a SEND writes. -/
def State.stepMayStart (s : State) (job : Nat) (b : Job) (x : ShardRun) (step : Nat) : Prop :=
  b.kind ≠ .preload ∧ stepReady s job b x step = true ∧ sendReady b (b.model.steps.getD step {}) = true

variable (hjob : s.job job = some b) (hrun : b.runOf shard.toNat = some x)
include hjob hrun

theorem modelStepStart_of_not_ready (h : ¬ s.stepMayStart job b x step) :
    exec (.modelStepStart job ⟨shard, sram⟩ step) s = .next s := by
  rw [Job.runOf] at hrun
  have not_ready : (b.kind = .preload || !stepReady s job b x step || !sendReady b (b.model.steps.getD step {})) = true := by
    simpa [State.stepMayStart, imp_iff_not_or, or_assoc] using h
  change execModelStepStart job ⟨shard, sram⟩ step s = _
  simp only [execModelStepStart, hjob, hrun, not_ready, if_true]

theorem modelStepStart_of_ready (h : s.stepMayStart job b x step) :
    exec (.modelStepStart job ⟨shard, sram⟩ step) s = .next (onTile x.tile (fun p s =>
      withSram sram p (s.jobSrc job x.tile) (failJob job .uncorrectable shard.toNat step)
        (startStep job shard.toNat step b x (b.model.steps.getD step {})) s) s) := by
  rw [Job.runOf] at hrun
  obtain ⟨hkind, hready, hsend⟩ := h
  change execModelStepStart job ⟨shard, sram⟩ step s = _
  simp only [execModelStepStart, hjob, hrun, hkind, hready, hsend, decide_false, Bool.not_true, Bool.or_false,
    Bool.false_eq_true, if_false]

end Step

/-! ARRAY_LOAD -/

section Load

variable {shard : BitVec 5} {sram : SramWord} {r : ArrayRun} {n : Nat}

theorem arrayLoad_of_no_job (h : s.job job = none) : exec (.arrayLoad job ⟨shard, sram⟩) s = .next s := by
  change execArrayLoad job ⟨shard, sram⟩ s = _
  simp only [execArrayLoad, h]

theorem arrayLoad_of_not_placed (hjob : s.job job = some b) (hplaced : b.placed = false) :
    exec (.arrayLoad job ⟨shard, sram⟩) s = .next s := by
  change execArrayLoad job ⟨shard, sram⟩ s = _
  simp [execArrayLoad, hjob, hplaced]

/-- A tensor command of a placed job has its next load made, unless it has made its last. -/
theorem arrayLoad_of_tensor (hjob : s.job job = some b) (hplaced : b.placed = true) (harray : b.array = some r) :
    exec (.arrayLoad job ⟨shard, sram⟩) s =
      .next (if r.finished then s else arrayTurn sram r.nextTile job none 0 (loadTensor job b r) s) := by
  change execArrayLoad job ⟨shard, sram⟩ s = _
  simp [execArrayLoad, hjob, hplaced, harray]

theorem arrayLoad_of_finished (hjob : s.job job = some b) (harray : b.array = some r) (hfinished : r.finished = true) :
    exec (.arrayLoad job ⟨shard, sram⟩) s = .next s := by
  cases hplaced : b.placed with
  | false => exact arrayLoad_of_not_placed hjob hplaced
  | true => rw [arrayLoad_of_tensor hjob hplaced harray, if_pos hfinished]

/-- A step of a shard of a placed job has its next load made. -/
theorem arrayLoad_of_step (hjob : s.job job = some b) (hplaced : b.placed = true) (harray : b.array = none)
    (hrun : b.runOf shard.toNat = some x) (hstep : x.array = some (n, r)) : exec (.arrayLoad job ⟨shard, sram⟩) s =
      .next (arrayTurn sram x.tile job (some shard.toNat) n (loadStep job shard.toNat n b x r) s) := by
  rw [Job.runOf] at hrun
  change execArrayLoad job ⟨shard, sram⟩ s = _
  simp [execArrayLoad, hjob, hplaced, harray, hrun, hstep]

/-- A shard that the job does not have, or that runs no step on the array, makes no load. -/
theorem arrayLoad_of_no_step (hjob : s.job job = some b) (harray : b.array = none)
    (h : ∀ x, b.runOf shard.toNat = some x → x.array = none) : exec (.arrayLoad job ⟨shard, sram⟩) s = .next s := by
  cases hplaced : b.placed with
  | false => exact arrayLoad_of_not_placed hjob hplaced
  | true =>
    change execArrayLoad job ⟨shard, sram⟩ s = _
    cases hrun : b.runOf shard.toNat with
    | none =>
      rw [Job.runOf] at hrun
      simp [execArrayLoad, hjob, hplaced, harray, hrun]
    | some x =>
      have hidle := h x hrun
      rw [Job.runOf] at hrun
      simp [execArrayLoad, hjob, hplaced, harray, hrun, hidle]

end Load

/-! JOB_COMPLETE -/

section Complete

variable {fault : Option (JobFault × BitVec 5 × BitVec 12)} {f : JobFault} {shard : BitVec 5} {step : BitVec 12}

theorem jobComplete_of_no_job (h : s.job job = none) : exec (.jobComplete job fault) s = .next s := by
  change execJobComplete job fault s = _
  simp only [execJobComplete, h]

variable (hjob : s.job job = some b)
include hjob

/-- A job with a fault is torn down, but for a render pass (R264). -/
theorem jobComplete_of_fault : exec (.jobComplete job (some (f, shard, step))) s =
    .next (if b.kind = .pass then s else failJob job f shard.toNat step.toNat s) := by
  change execJobComplete job _ s = _
  simp only [execJobComplete, hjob]
  split <;> rfl

/-- A job without one completes when it is finished and no request of it is open. -/
theorem jobComplete_of_no_fault : exec (.jobComplete job none) s =
    .next (if b.finished && !s.jobWaits job then completeJob job s else s) := by
  change execJobComplete job none s = _
  simp only [execJobComplete, hjob]
  split <;> rfl

theorem jobComplete_of_finished (hfinished : b.finished = true) (hquiet : s.jobWaits job = false) :
    exec (.jobComplete job none) s = .next (completeJob job s) := by
  rw [jobComplete_of_no_fault hjob, hfinished, hquiet, Bool.not_false, Bool.and_true, if_pos rfl]

theorem jobComplete_of_not_finished (h : b.finished = false ∨ s.jobWaits job = true) :
    exec (.jobComplete job none) s = .next s := by
  have not_over : (b.finished && !s.jobWaits job) = false := by simpa [imp_iff_not_or] using h
  rw [jobComplete_of_no_fault hjob, not_over, if_neg Bool.false_ne_true]

end Complete

/-- Settles O44: each event asks its conditions one after another, and every clause is one answer. -/
theorem jobsAreChosenRunAndCompleted : Obligations.JobsAreChosenRunAndCompleted := by
  refine ⟨fun basin s => ⟨jobChoose_of_not_runs, fun q t => jobChoose_of_chosen, jobChoose_of_none_chosen⟩,
    fun job t s => ⟨jobBorrow_of_no_job, fun b l hjob hlogical => ?borrowed⟩,
    fun q t s => ⟨jobBorrow_of_no_head, fun s' b l hhead hjob hlogical =>
      ⟨jobBorrow_of_head_refused hhead hjob hlogical, fun x b' => jobBorrow_of_head_placed hhead hjob hlogical⟩⟩,
    fun job shard sram s => ⟨fun hjob => ⟨shardSwitch_of_no_job hjob, fun step => modelStepStart_of_no_job hjob,
      arrayLoad_of_no_job hjob, fun f => jobComplete_of_no_job hjob⟩, fun b hjob => ?placed⟩⟩
  case borrowed =>
    rw [jobBorrow_of_job hjob hlogical]
    refine ⟨fun hdenied => ?_, fun hmay hnone => ?_, fun x b' hmay hplace => ?_⟩
    · rw [lend_of_not_allowed hdenied]
    · rw [lend_of_no_place hmay hnone]
    · rw [lend_of_place hmay hplace]
  case placed =>
    refine ⟨fun hrun => ⟨shardSwitch_of_no_run hjob hrun, fun step => modelStepStart_of_no_run hjob hrun⟩,
      fun x hrun => shardSwitch_of_not_due hjob hrun, fun x hrun => shardSwitch_of_left hjob hrun,
      fun x p hrun hplaced hfresh hholds hphys => ?_,
      fun x step hrun => ⟨modelStepStart_of_ready hjob hrun, modelStepStart_of_not_ready hjob hrun⟩,
      arrayLoad_of_not_placed hjob, fun r hplaced harray hleft => ?_, fun r => arrayLoad_of_finished hjob,
      fun x n r => arrayLoad_of_step hjob, fun x harray hrun hidle => ?_, fun harray hrun => ?_, fun f sh st hkind => ?_,
      fun f hkind => ?_, jobComplete_of_finished hjob, jobComplete_of_not_finished hjob⟩
    · rw [shardSwitch_of_holds hjob hrun hplaced hfresh hholds hphys]
      exact ⟨fun hawake => by rw [if_pos hawake], fun hasleep => by rw [if_neg (ne_true_of_eq_false hasleep)]⟩
    · rw [arrayLoad_of_tensor hjob hplaced harray, if_neg (ne_true_of_eq_false hleft)]
    · exact arrayLoad_of_no_step hjob harray fun y hy => by rw [← Option.some.inj (hrun.symm.trans hy), hidle]
    · exact arrayLoad_of_no_step hjob harray fun y hy => absurd (hrun.symm.trans hy) (Option.some_ne_none y).symm
    · rw [jobComplete_of_fault hjob, if_neg hkind]
    · rw [jobComplete_of_fault hjob, if_pos hkind]

end Sys2Proof.Machine
end

section
/-! PROOFS. LANE_DISPATCH, MODEL_INVOKE and MODEL_PRELOAD (R133, R134, R175 to R177): the act of each, by what its checks
answer. A job command that is admitted acts, and is taken unless what it makes has to wait (R116). -/

namespace Sys2Proof.Machine

variable {c : Cmd} {s s1 s2 : State} {t : Ticket} {st n h : Nat}

/-! What the commands that make jobs share -/

/-- Admission changes no mapping. -/
@[simp] theorem admitted_readable (b : BitVec 6) (va len : Nat) : (admitted c s).readable b va len = s.readable b va len := by
  simp only [State.readable, State.rangeOk, State.lookup, State.lookupIn, admitted_cfg, admitted_lock]

/-- What a command that makes jobs leaves, from `s`, once its act has led to `x`: the packet is not taken while an earlier
command of its queue writes a header that it names, or while its job may not start. -/
def jobTaken (op : OpInfo) (heads : Ticket → State → List (Nat × Nat)) (c : Cmd) (s x : State) : State :=
  if s.headersWait heads op c then s else startable c s x

theorem jobTaken_of_no_heads {op : OpInfo} {x : State} : jobTaken op (fun _ _ => []) c s x = startable c s x := by
  rw [jobTaken, headersWait_nil, if_neg Bool.false_ne_true]

/-! LANE_DISPATCH -/

section Dispatch

variable {args : List Byte}

theorem laneDispatch_of_admits (h : Admits opLaneDispatch c s = true) : exec (.laneDispatch c) s =
    .next (startable c s (actLaneDispatch (ticketOf opLaneDispatch c s) (admitted c s))) := by
  rw [← jobTaken_of_no_heads (op := opLaneDispatch)]
  exact carryJob_admitted h actLaneDispatch

/-- The program that a dispatch names. -/
def dispatchProgram (t : Ticket) (s : State) : Program := s.dyn.cfg.program t.cmd.berth (dispatchParams t.cmd.params).slot

/-- The bytes of the argument block that a dispatch names. -/
def argBytes (t : Ticket) (s : State) : Nat := 4 * (dispatchProgram t s).uniforms.toNat

@[simp] theorem dispatchProgram_admitted {op : OpInfo} : dispatchProgram (ticketOf op c s) (admitted c s) =
    s.dyn.cfg.program c.berth (dispatchParams c.params).slot := by
  rw [dispatchProgram, admitted_cfg, ticketOf_cmd]

@[simp] theorem argBytes_admitted {op : OpInfo} : argBytes (ticketOf op c s) (admitted c s) =
    4 * (s.dyn.cfg.program c.berth (dispatchParams c.params).slot).uniforms.toNat := by
  rw [argBytes, dispatchProgram_admitted]

/-- The job of a dispatch whose arguments have been read in state `s`, for a leaf basin (R168). -/
def dispatchJob (t : Ticket) (q : Program) (n : Nat) (args : List Byte) (leaf : Nat) (s : State) : Job :=
  let g := dispatchParams t.cmd.params
  { kind := .dispatch, ticket := t, berth := t.cmd.berth, gen := t.gen, queue := pathQueue? t.cmd.path,
    priority := pathPriority t s, basin := BitVec.ofNat 10 leaf, placed := !(s.dyn.openTiles leaf).isEmpty,
    lanes := some (laneRunOf g q (leWords args) 0), slot := BitVec.ofNat 6 g.slot, ins := [(g.arg, n)], since := s.now16 }

theorem actLaneDispatch_of_not_owned (howned : t.ownsBasin s.dyn.cfg (dispatchParams t.cmd.params).basin = false) :
    actLaneDispatch t s = writeRecord t 0x0050 noResult s := by
  simp only [actLaneDispatch, howned, Bool.not_false, if_true]

variable (howned : t.ownsBasin s.dyn.cfg (dispatchParams t.cmd.params).basin = true)
include howned

theorem actLaneDispatch_of_refused (hfails : dispatchFailure (dispatchParams t.cmd.params) (dispatchProgram t s) = some st) :
    actLaneDispatch t s = writeRecord t st noResult s := by
  rw [dispatchProgram] at hfails
  simp only [actLaneDispatch, howned, hfails, Bool.not_true, Bool.false_eq_true, if_false]

variable (hpasses : dispatchFailure (dispatchParams t.cmd.params) (dispatchProgram t s) = none)
include hpasses

theorem actLaneDispatch_of_unreadable (hargs : argBytes t s ≠ 0)
    (hbad : (dispatchParams t.cmd.params).arg % 64 ≠ 0
      ∨ s.readable t.cmd.berth (dispatchParams t.cmd.params).arg (argBytes t s) = false) :
    actLaneDispatch t s = writeRecord t 0x0077 noResult s := by
  rw [dispatchProgram] at hpasses
  rw [argBytes, dispatchProgram] at hargs hbad
  simp [actLaneDispatch, howned, hpasses, hargs, hbad]

/-- A dispatch whose argument block, if it names one, can be read becomes a job of its leaf basin. -/
theorem actLaneDispatch_of_read
    (hgood : argBytes t s = 0 ∨ ((dispatchParams t.cmd.params).arg % 64 = 0
      ∧ s.readable t.cmd.berth (dispatchParams t.cmd.params).arg (argBytes t s) = true))
    (hread : readVirt t.src t.cmd.berth (dispatchParams t.cmd.params).arg (argBytes t s) s = (s1, .ok args)) :
    let r := leafFor t none (dispatchParams t.cmd.params).basin s1
    actLaneDispatch t s = addJob (dispatchJob t (dispatchProgram t s) (argBytes t s) args r.2 r.1) r.1 := by
  have block_ok : ¬ (argBytes t s ≠ 0 ∧ ((dispatchParams t.cmd.params).arg % 64 ≠ 0
      || !s.readable t.cmd.berth (dispatchParams t.cmd.params).arg (argBytes t s)) = true) := by
    rcases hgood with hnone | ⟨haligned, hreadable⟩
    · exact fun hsome => hsome.1 hnone
    · simp [haligned, hreadable]
  rw [dispatchProgram] at hpasses
  rw [argBytes, dispatchProgram] at block_ok hread
  simp only [actLaneDispatch, howned, hpasses, Bool.not_true, Bool.false_eq_true, if_false, if_neg block_ok, hread]
  rfl

end Dispatch

/-! MODEL_INVOKE and MODEL_PRELOAD -/

section Invoke

variable {m : Model} {d : List Byte} {io : List TensorHeader}

theorem modelInvoke_of_admits (h : Admits opModelInvoke c s = true) : exec (.modelInvoke c) s =
    .next (jobTaken opModelInvoke invokeHeads c s (actModelInvoke (ticketOf opModelInvoke c s) (admitted c s))) :=
  carryJob_admitted h actModelInvoke

theorem modelPreload_of_admits (h : Admits opModelPreload c s = true) : exec (.modelPreload c) s =
    .next (startable c s (actModelPreload (ticketOf opModelPreload c s) (admitted c s))) := by
  rw [← jobTaken_of_no_heads (op := opModelPreload)]
  exact carryJob_admitted h actModelPreload

/-- The model that a MODEL_INVOKE or MODEL_PRELOAD names. -/
def invokedModel (t : Ticket) (s : State) : Model := s.dyn.cfg.model t.cmd.berth (fldN t.cmd.params 0 10)

@[simp] theorem invokedModel_admitted {op : OpInfo} :
    invokedModel (ticketOf op c s) (admitted c s) = s.dyn.cfg.model c.berth (fldN c.params 0 10) := by
  rw [invokedModel, admitted_cfg, ticketOf_cmd]

theorem actModelInvoke_of_refused
    (hfails : invokeFailure t (fldN t.cmd.params 16 10) (invokedModel t s) s = some st) :
    actModelInvoke t s = writeRecord t st noResult s := by
  rw [invokedModel] at hfails
  simp only [actModelInvoke, hfails]

theorem actModelInvoke_of_passed (hpasses : invokeFailure t (fldN t.cmd.params 16 10) (invokedModel t s) s = none) :
    actModelInvoke t s = invokeIo t (fldN t.cmd.params 16 10) (fldN t.cmd.params 0 10) (invokedModel t s) s := by
  rw [invokedModel] at hpasses
  simp only [actModelInvoke, hpasses]
  rfl

theorem actModelPreload_of_refused
    (hfails : invokeFailure t (fldN t.cmd.params 16 10) (invokedModel t s) s = some st) :
    actModelPreload t s = writeRecord t st noResult s := by
  rw [invokedModel] at hfails
  simp only [actModelPreload, hfails]

theorem actModelPreload_of_passed (hpasses : invokeFailure t (fldN t.cmd.params 16 10) (invokedModel t s) s = none) :
    actModelPreload t s = if s.dyn.cfg.hotSet t.cmd.berth
      then startModel t .preload (fldN t.cmd.params 16 10) (fldN t.cmd.params 0 10) (invokedModel t s) [] [] [] s
      else writeRecord t 0 noResult s := by
  rw [invokedModel] at hpasses
  simp only [actModelPreload, hpasses]
  rfl

/-- The entries of an I/O array of `k` slots. -/
def ioEntries (k : Nat) (d : List Byte) : List (BitVec 64) := (upFrom 0 k).map fun i => word 64 d (8 * i) 8

/-- Every entry of an I/O array is a readable header's address (check 6 of R176). -/
def entriesOk (b : BitVec 6) (es : List (BitVec 64)) (s : State) : Bool :=
  es.all fun e => fldN e 40 24 == 0 && fldN e 0 40 % 64 == 0 && s.readable b (fldN e 0 40) 64

/-- What the given inputs of an invocation occupy. -/
def inputSpans (m : Model) (io : List TensorHeader) : List (Nat × Nat) := (io.take m.inputs).flatMap fun x => x.spans

/-- What the given outputs of an invocation occupy. -/
def outputSpans (m : Model) (io : List TensorHeader) : List (Nat × Nat) := (io.drop m.inputs).flatMap fun x => x.outSpans

/-- An invocation whose I/O array, headers and spans pass checks 5 to 7 of R176 becomes a job of the model. -/
theorem invokeIo_of_passed (haligned : fldN t.cmd.params 64 40 % 64 = 0)
    (hreadable : s.readable t.cmd.berth (fldN t.cmd.params 64 40) (8 * m.io.length) = true)
    (harray : readVirt t.src t.cmd.berth (fldN t.cmd.params 64 40) (8 * m.io.length) s = (s1, .ok d))
    (hentries : entriesOk t.cmd.berth (ioEntries m.io.length d) s1 = true)
    (hgiven : readGiven t (ioEntries m.io.length d) s1 = (s2, .ok io))
    (hagree : ((io.zip m.io).all fun x => x.1.agrees x.2) = true)
    (hins : s2.spansOk t.cmd.berth (inputSpans m io) false = true)
    (houts : s2.spansOk t.cmd.berth (outputSpans m io) true = true) :
    invokeIo t n h m s =
      startModel t .model n h m io (inputSpans m io ++ io.map fun x => x.headSpan) (outputSpans m io) s2 := by
  have array_ok : (decide (fldN t.cmd.params 64 40 % 64 ≠ 0)
      || !s.readable t.cmd.berth (fldN t.cmd.params 64 40) (8 * m.io.length)) = false := by
    simp [haligned, hreadable]
  rw [entriesOk, ioEntries] at hentries
  rw [ioEntries] at hgiven
  rw [inputSpans] at hins ⊢
  rw [outputSpans] at houts ⊢
  simp only [invokeIo, array_ok, harray, hentries, hgiven, hagree, hins, houts, Bool.not_true, Bool.or_false,
    Bool.false_eq_true, if_false]

end Invoke

end Sys2Proof.Machine
end

section
/-! PROOFS. TENSOR_MATMUL and TENSOR_CONVERT (R109, R111, R113): refused without a basin of the caller's behind the queue, by the
one read of the headers, or by a check of them, and else a job for the array; and the commands that make jobs together. -/

namespace Sys2Proof.Machine

variable {c : Cmd} {s s1 s2 : State} {t : Ticket} {st n : Nat} {x y z : Nat × BitVec 512}

/-- A command whose path is no queue, or a queue that is the endpoint of no basin of the caller's, has no basin (R109). -/
theorem tensorBasin_of_no_endpoint
    (hqueue : ∀ q, t.cmd.path = .queue q → ∀ n, s.dyn.cfg.basinOfQueue q.toNat = some n → s.dyn.cfg.basinUsed n = true →
      (s.dyn.cfg.basin n).berth ≠ t.cmd.berth) : tensorBasin t s = none := by
  rw [tensorBasin]
  cases hpath : t.cmd.path with
  | supervisor => rfl
  | mailbox m => rfl
  | queue q =>
    simp only [pathQueue?]
    cases hbasin : s.dyn.cfg.basinOfQueue q.toNat with
    | none => rfl
    | some n =>
      have not_owned : t.ownsBasin s.dyn.cfg n = false := by
        simp only [Ticket.ownsBasin, Ticket.owns, Ticket.fromSupervisor, hpath, Bool.and_eq_false_imp]
        intro hused
        simpa using (hqueue q hpath n hbasin hused).symm
      simp only [not_owned, Bool.false_eq_true, if_false]

/-! TENSOR_MATMUL -/

section Product

theorem tensorMatmul_of_admits (h : Admits opTensorMatmul c s = true) : exec (.tensorMatmul c) s =
    .next (jobTaken opTensorMatmul tensorHeads c s (actMatmul (ticketOf opTensorMatmul c s) (admitted c s))) :=
  carryJob_admitted h actMatmul

/-- The operands of a product, and which of their headers has to be writable. -/
def matmulOperands (p : Params) : List (Nat × Bool) := [(fldN p 0 40, false), (fldN p 64 40, false), (fldN p 128 40, true)]

/-- What a product reads beside its headers: both operands and the bias. -/
def matmulReads (p : Params) (ha hb : TensorHeader) : List (Nat × Nat) :=
  ha.spans ++ hb.spans ++ [(fldN p 192 40, if fldN p 192 40 = 0 then 0 else 4 * hb.rows)]

/-- The check of its headers that a product fails first (checks 4 to 10 of R113). -/
def matmulRefusal (t : Ticket) (ha hb hc : TensorHeader) (s : State) : Option Nat :=
  let p := t.cmd.params
  (matmulFields ha hb hc (fldN p 192 40) (bitAt p 258)).orElse fun _ =>
    spanChecks s t.cmd.berth (matmulReads p ha hb) hc [ha.headSpan, hb.headSpan, hc.headSpan] (bitAt p 258)

/-- The array run of a product. -/
def matmulRun (p : Params) (ha hb hc : TensorHeader) : ArrayRun :=
  { a := ha, b := hb, c := hc, bias := fldN p 192 40, stochastic := bitAt p 256, accumulate := bitAt p 258 }

/-- The job of a product: what it accumulates on is read too. -/
def startMatmul (t : Ticket) (n : Nat) (ha hb hc : TensorHeader) (s : State) : State :=
  startTensor t n (matmulRun t.cmd.params ha hb hc)
    (matmulReads t.cmd.params ha hb ++ (if bitAt t.cmd.params 258 then hc.outSpans else [])
      ++ [ha.headSpan, hb.headSpan, hc.headSpan]) hc.outSpans s

theorem actMatmul_of_no_basin (h : tensorBasin t s = none) : actMatmul t s = writeRecord t 0x0050 noResult s := by
  simp only [actMatmul, h]

variable (hbasin : tensorBasin t s = some n)
include hbasin

theorem actMatmul_of_not_loaded (hload : loadHeaders t (matmulOperands t.cmd.params) s = (s2, .error st)) :
    actMatmul t s = writeRecord t st noResult s2 := by
  rw [matmulOperands] at hload
  simp only [actMatmul, hbasin, hload]

theorem actMatmul_of_loaded (hload : loadHeaders t (matmulOperands t.cmd.params) s = (s1, .ok [x, y, z])) :
    actMatmul t s = (matmulRefusal t (headerOf x.1 x.2) (headerOf y.1 y.2) (headerOf z.1 z.2) s1).elim
      (startMatmul t n (headerOf x.1 x.2) (headerOf y.1 y.2) (headerOf z.1 z.2) s1)
      fun st => writeRecord t st noResult s1 := by
  rw [matmulOperands] at hload
  simp only [actMatmul, hbasin, hload, matmulRefusal, matmulReads]
  split <;> rename_i hrefusal <;> rw [hrefusal] <;> rfl

end Product

/-! TENSOR_CONVERT -/

section Conversion

theorem tensorConvert_of_admits (h : Admits opTensorConvert c s = true) : exec (.tensorConvert c) s =
    .next (jobTaken opTensorConvert tensorHeads c s (actConvert (ticketOf opTensorConvert c s) (admitted c s))) :=
  carryJob_admitted h actConvert

/-- The operands of a conversion, and which of their headers has to be writable. -/
def convertOperands (p : Params) : List (Nat × Bool) := [(fldN p 0 40, false), (fldN p 64 40, true)]

/-- The check of its headers that a conversion fails first (checks 4 to 10 of R113). -/
def convertRefusal (t : Ticket) (ha hc : TensorHeader) (s : State) : Option Nat :=
  (convertFields ha hc (bitAt t.cmd.params 128)).orElse fun _ =>
    spanChecks s t.cmd.berth ha.spans hc [ha.headSpan, hc.headSpan] false

/-- The job of a conversion. -/
def startConvert (t : Ticket) (n : Nat) (ha hc : TensorHeader) (s : State) : State :=
  startTensor t n { convert := true, a := ha, c := hc, stochastic := bitAt t.cmd.params 128 }
    (ha.spans ++ [ha.headSpan, hc.headSpan]) hc.outSpans s

theorem actConvert_of_no_basin (h : tensorBasin t s = none) : actConvert t s = writeRecord t 0x0050 noResult s := by
  simp only [actConvert, h]

variable (hbasin : tensorBasin t s = some n)
include hbasin

theorem actConvert_of_not_loaded (hload : loadHeaders t (convertOperands t.cmd.params) s = (s2, .error st)) :
    actConvert t s = writeRecord t st noResult s2 := by
  rw [convertOperands] at hload
  simp only [actConvert, hbasin, hload]

theorem actConvert_of_loaded (hload : loadHeaders t (convertOperands t.cmd.params) s = (s1, .ok [x, z])) :
    actConvert t s = (convertRefusal t (headerOf x.1 x.2) (headerOf z.1 z.2) s1).elim
      (startConvert t n (headerOf x.1 x.2) (headerOf z.1 z.2) s1) fun st => writeRecord t st noResult s1 := by
  rw [convertOperands] at hload
  simp only [actConvert, hbasin, hload, convertRefusal]
  split <;> rename_i hrefusal <;> rw [hrefusal] <;> rfl

end Conversion

/-- Settles O17: each command's packet is carried to its act, and the act ends by what its checks answer. -/
theorem jobCommandsEnterAJob : Obligations.JobCommandsEnterAJob := by
  refine ⟨fun c s h => ?dispatch, fun c s st h hfails => ?refused, fun c s s1 s2 d io h => ?invoke, fun c s h => ?preload,
    fun c s hqueue _ => ?noBasin, fun c s n s1 x y z h => ?product, fun c s n s1 x z h => ?conversion⟩
  case dispatch =>
    rw [laneDispatch_of_admits h]
    refine ⟨fun howned => ?_, fun st howned hfails => ?_, fun howned hpasses hargs hbad => ?_,
      fun s1 args howned hpasses hgood hread => ?_⟩ <;> rw [← admitted_cfg s c] at howned
    · rw [actLaneDispatch_of_not_owned howned, answered]
    · rw [actLaneDispatch_of_refused howned (by rwa [dispatchProgram_admitted]), answered]
    · rw [actLaneDispatch_of_unreadable howned (by rwa [dispatchProgram_admitted]) (by rwa [argBytes_admitted])
        (by rwa [argBytes_admitted, admitted_readable]), answered]
    · rw [actLaneDispatch_of_read howned (by rwa [dispatchProgram_admitted])
        (by rwa [argBytes_admitted, admitted_readable]) (by rwa [argBytes_admitted]), dispatchProgram_admitted,
        argBytes_admitted]
      rfl
  case refused =>
    rw [modelInvoke_of_admits h, actModelInvoke_of_refused (by rwa [invokedModel_admitted])]
    rfl
  case invoke =>
    refine fun hpasses haligned hreadable harray hentries hgiven hagree hins houts => ?_
    rw [modelInvoke_of_admits h, actModelInvoke_of_passed (by rwa [invokedModel_admitted]), invokedModel_admitted,
      invokeIo_of_passed (t := ticketOf opModelInvoke c s) haligned (by rwa [admitted_readable]) harray hentries hgiven
        hagree hins houts]
    rfl
  case preload =>
    rw [modelPreload_of_admits h]
    refine ⟨fun st hfails => ?_, fun hpasses hhot => ?_, fun hpasses hswap => ?_⟩
    · rw [actModelPreload_of_refused (by rwa [invokedModel_admitted]), answered]
    · rw [actModelPreload_of_passed (by rwa [invokedModel_admitted]), invokedModel_admitted, admitted_cfg,
        ticketOf_cmd, if_pos hhot]
    · rw [actModelPreload_of_passed (by rwa [invokedModel_admitted]), admitted_cfg, ticketOf_cmd,
        if_neg (ne_true_of_eq_false hswap), answered]
  case noBasin =>
    refine ⟨fun h => ?_, fun h => ?_⟩
    · rw [tensorMatmul_of_admits h, actMatmul_of_no_basin (tensorBasin_of_no_endpoint (by rwa [admitted_cfg]))]
      rfl
    · rw [tensorConvert_of_admits h, actConvert_of_no_basin (tensorBasin_of_no_endpoint (by rwa [admitted_cfg]))]
      rfl
  case product =>
    rw [tensorMatmul_of_admits h]
    refine fun hbasin => ⟨fun s2 st hload => ?_, fun hload => ⟨fun st hrefused => ?_, fun hfields hspans => ?_⟩⟩
    · rw [actMatmul_of_not_loaded hbasin hload]
      rfl
    · have refused : matmulRefusal (ticketOf opTensorMatmul c s) (headerOf x.1 x.2) (headerOf y.1 y.2)
          (headerOf z.1 z.2) s1 = some st := hrefused
      rw [actMatmul_of_loaded hbasin hload, refused]
      rfl
    · have passed : matmulRefusal (ticketOf opTensorMatmul c s) (headerOf x.1 x.2) (headerOf y.1 y.2)
          (headerOf z.1 z.2) s1 = none :=
        (Option.orElse_eq_none _ _).mpr ⟨hfields, hspans⟩
      rw [actMatmul_of_loaded hbasin hload, passed]
      rfl
  case conversion =>
    rw [tensorConvert_of_admits h]
    refine fun hbasin => ⟨fun s2 st hload => ?_, fun hload => ⟨fun st hrefused => ?_, fun hfields hspans => ?_⟩⟩
    · rw [actConvert_of_not_loaded hbasin hload]
      rfl
    · have refused : convertRefusal (ticketOf opTensorConvert c s) (headerOf x.1 x.2) (headerOf z.1 z.2) s1 = some st := hrefused
      rw [actConvert_of_loaded hbasin hload, refused]
      rfl
    · have passed : convertRefusal (ticketOf opTensorConvert c s) (headerOf x.1 x.2) (headerOf z.1 z.2) s1 = none :=
        (Option.orElse_eq_none _ _).mpr ⟨hfields, hspans⟩
      rw [actConvert_of_loaded hbasin hload, passed]
      rfl

end Sys2Proof.Machine
end

section
/-! PROOFS. The events of the lanes: when a workgroup is placed, when a bundle issues, and when barriers, workgroups, time
limits and dispatches end (R120, R126, R135 to R140, R145, R146; the issue caps are log entry 181). -/

namespace Sys2Proof.Machine

variable {s : State} {job : Nat} {b : Job}

/-! WORKGROUP_PLACE -/

section Place

variable {n k : Nat} {v : Batch}

theorem workgroupPlace_of_no_job (h : s.job job = none) : exec (.workgroupPlace job) s = .next s := by
  change execWorkgroupPlace job s = _
  simp only [execWorkgroupPlace, h]

/-- The next vertex bundle of the pass that is job `job`, with its context. -/
def State.nextBundle (s : State) (job : Nat) : Option (Nat × Batch × Nat) :=
  (s.passOf job).bind fun n => (s.nextVertices n).map fun x => (n, x.1, x.2)

theorem nextBundle_of_vertices (hpass : s.passOf job = some n) (hnext : s.nextVertices n = some (v, k)) :
    s.nextBundle job = some (n, v, k) := by
  simp only [State.nextBundle, hpass, hnext, Option.bind_some, Option.map_some]

theorem nextBundle_of_no_vertices (h : ∀ n, s.passOf job = some n → s.nextVertices n = none) : s.nextBundle job = none := by
  cases hpass : s.passOf job with
  | none => simp only [State.nextBundle, hpass, Option.bind_none]
  | some n => simp only [State.nextBundle, hpass, h n hpass, Option.bind_some, Option.map_none]

variable (hjob : s.job job = some b)
include hjob

theorem workgroupPlace_of_not_placed (h : b.placed = false) : exec (.workgroupPlace job) s = .next s := by
  change execWorkgroupPlace job s = _
  simp [execWorkgroupPlace, hjob, h]

theorem workgroupPlace_of_grid (hplaced : b.placed = true) (hkind : b.kind ≠ .pass) :
    exec (.workgroupPlace job) s = .next (placeGrid job b s) := by
  change execWorkgroupPlace job s = _
  simp [execWorkgroupPlace, hjob, hplaced, hkind]

/-- A placed pass starts its next vertex bundle, if one is left. -/
theorem workgroupPlace_of_pass (hplaced : b.placed = true) (hkind : b.kind = .pass) : exec (.workgroupPlace job) s =
    .next ((s.nextBundle job).elim s fun x => placeVertices x.1 x.2.2 x.2.1 s) := by
  change execWorkgroupPlace job s = _
  simp only [execWorkgroupPlace, hjob, hplaced, hkind, ne_eq, not_true, Bool.not_true, Bool.false_eq_true, if_false,
    State.nextBundle]
  split <;> rename_i hnext <;> rw [hnext] <;> rfl

theorem workgroupPlace_of_vertices (hplaced : b.placed = true) (hkind : b.kind = .pass) (hpass : s.passOf job = some n)
    (hnext : s.nextVertices n = some (v, k)) : exec (.workgroupPlace job) s = .next (placeVertices n k v s) := by
  rw [workgroupPlace_of_pass hjob hplaced hkind, nextBundle_of_vertices hpass hnext, Option.elim_some]

theorem workgroupPlace_of_no_vertices (hkind : b.kind = .pass) (h : ∀ n, s.passOf job = some n → s.nextVertices n = none) :
    exec (.workgroupPlace job) s = .next s := by
  cases hplaced : b.placed with
  | false => exact workgroupPlace_of_not_placed hjob hplaced
  | true => rw [workgroupPlace_of_pass hjob hplaced hkind, nextBundle_of_no_vertices h, Option.elim_none]

end Place

/-! BUNDLE_ISSUE -/

section Issue

variable {t : Fin 36} {group : Fin 64} {op : LaneOp} {sram : SramWord} {a : LaneAt} {w : Workgroup} {x : Bundle}

theorem bundleIssue_of_none_ready (h : pickBundle s t.val group.val = none) :
    exec (.bundleIssue t group op sram) s = .next s := by
  change execBundleIssue t group op sram s = _
  simp only [execBundleIssue, h]

variable (hpick : pickBundle s t.val group.val = some a)
include hpick

theorem bundleIssue_of_asleep (h : s.tileAwake t.val = false) :
    exec (.bundleIssue t group op sram) s = .next (startWake t.val s) := by
  change execBundleIssue t group op sram s = _
  simp [execBundleIssue, hpick, h]

theorem bundleIssue_of_capped (hawake : s.tileAwake t.val = true) (hcap : s.issues t.val = false) :
    exec (.bundleIssue t group op sram) s = .next s := by
  change execBundleIssue t group op sram s = _
  simp [execBundleIssue, hpick, hawake, hcap]

theorem bundleIssue_of_awake (hawake : s.tileAwake t.val = true) (hissues : s.issues t.val = true)
    (hgroup : (s.tileWork t.val).workgroups[a.wg]? = some w) (hbundle : w.bundles[a.bundle]? = some x) :
    exec (.bundleIssue t group op sram) s = .next (unlessHeld (issueOn a w x op sram) s) := by
  change execBundleIssue t group op sram s = _
  simp [execBundleIssue, hpick, hawake, hissues, hgroup, hbundle]

end Issue

/-! BARRIER_RELEASE and WORKGROUP_END -/

section Group

variable {t : Fin 36} {group : Fin 64} {wg i : Nat} {w : Workgroup}

theorem barrierRelease_of_no_group (h : groupAt (s.tileWork t.val) group.val wg = none) :
    exec (.barrierRelease t group wg) s = .next s := by
  change execBarrierRelease t group wg s = _
  simp only [execBarrierRelease, h]

theorem workgroupEnd_of_no_group (h : groupAt (s.tileWork t.val) group.val wg = none) :
    exec (.workgroupEnd t group wg) s = .next s := by
  change execWorkgroupEnd t group wg s = _
  simp only [execWorkgroupEnd, h]

/-- Some bundle waits at the barrier, and every bundle that has not ended has arrived there. -/
def Workgroup.barrierMet (w : Workgroup) : Bool :=
  w.bundles.any (fun b => b.atBarrier) && w.bundles.all fun b => b.atBarrier || b.ended

theorem barrierMet_iff : w.barrierMet = true ↔
    (∃ b ∈ w.bundles, b.atBarrier = true) ∧ ∀ b ∈ w.bundles, b.atBarrier = true ∨ b.ended = true := by
  simp [Workgroup.barrierMet]

/-- A workgroup whose bundles all go on from the barrier. -/
def Workgroup.released (w : Workgroup) : Workgroup :=
  { w with bundles := w.bundles.map fun b => { b with atBarrier := false } }

/-- The end of the workgroup at position `i` of a tile: it is removed there, and counted. -/
def removeGroup (t i : Nat) (w : Workgroup) (s : State) : State :=
  touchTile t (endGroup w (s.modTileWork t fun x => { x with workgroups := x.workgroups.eraseIdx i }))

variable (hgroup : groupAt (s.tileWork t.val) group.val wg = some (i, w))
include hgroup

theorem barrierRelease_of_group : exec (.barrierRelease t group wg) s =
    .next (if w.barrierMet then modGroup t.val i Workgroup.released s else s) := by
  change execBarrierRelease t group wg s = _
  simp only [execBarrierRelease, hgroup]
  exact (apply_ite Host.Outcome.next (w.barrierMet = true) _ _).symm

theorem workgroupEnd_of_group : exec (.workgroupEnd t group wg) s =
    .next (if w.bundles.all fun b => b.ended then unlessHeld (removeGroup t.val i w) s else s) := by
  change execWorkgroupEnd t group wg s = _
  simp only [execWorkgroupEnd, hgroup]
  exact (apply_ite Host.Outcome.next ((w.bundles.all fun b => b.ended) = true) _ _).symm

end Group

/-! TIME_LIMIT_EXPIRY and DISPATCH_COMPLETE -/

section Complete

variable {w : Workgroup} {r : LaneRun}

theorem timeLimitExpiry_of_none_over (h : overLimit s job = none) : exec (.timeLimitExpiry job) s = .next s := by
  change execTimeLimitExpiry job s = _
  simp only [execTimeLimitExpiry, h]

theorem timeLimitExpiry_of_over (h : overLimit s job = some w) :
    exec (.timeLimitExpiry job) s = .next (laneFault w .timeLimit s) := by
  change execTimeLimitExpiry job s = _
  simp only [execTimeLimitExpiry, h]

/-- A dispatch whose every workgroup has ended, with no request of it open, asks for the writes that it posted. -/
theorem dispatchComplete_of_ended (hjob : s.job job = some b) (hlanes : b.lanes = some r) (hkind : b.kind = .dispatch)
    (hfinished : r.finished = true) (hquiet : s.jobWaits job = false) : exec (.dispatchComplete job) s =
      .next (if (settleWrites job s).2 then completeJob job (settleWrites job s).1 else (settleWrites job s).1) := by
  change execDispatchComplete job s = _
  simp only [execDispatchComplete, hjob, hlanes, hkind, hfinished, hquiet, Option.any_some]
  obtain ⟨x, settled⟩ := settleWrites job s
  cases settled <;> rfl

/-- A job that is no dispatch, has a workgroup left, or has a request open, does not complete; nor does one without a grid. -/
theorem dispatchComplete_of_not_ended (h : ∀ b r, s.job job = some b → b.lanes = some r →
    b.kind ≠ .dispatch ∨ r.finished = false ∨ s.jobWaits job = true) : exec (.dispatchComplete job) s = .next s := by
  change execDispatchComplete job s = _
  cases hjob : s.job job with
  | none => simp only [execDispatchComplete, hjob]
  | some b =>
    cases hlanes : b.lanes with
    | none => simp [execDispatchComplete, hjob, hlanes]
    | some r =>
      have not_ended := h b r hjob hlanes
      simp [execDispatchComplete, hjob, hlanes, not_ended]

end Complete

/-- Settles O45: each event asks its conditions one after another, and every clause is one answer. -/
theorem workgroupsRunAndEnd : Obligations.WorkgroupsRunAndEnd := by
  refine ⟨fun job s => ⟨workgroupPlace_of_no_job, fun b hjob => ⟨workgroupPlace_of_not_placed hjob,
      workgroupPlace_of_grid hjob, fun n v k => workgroupPlace_of_vertices hjob, workgroupPlace_of_no_vertices hjob⟩⟩,
    fun t group op sram s => ⟨bundleIssue_of_none_ready, fun a hpick => ⟨bundleIssue_of_asleep hpick,
      bundleIssue_of_capped hpick, fun w b => bundleIssue_of_awake hpick⟩⟩,
    fun t group wg s => ⟨fun hnone => ⟨barrierRelease_of_no_group hnone, workgroupEnd_of_no_group hnone⟩,
      fun i w hgroup => ?group⟩,
    fun job s => ⟨timeLimitExpiry_of_none_over, fun w => timeLimitExpiry_of_over,
      fun b r t hjob hlanes hkind hfinished hquiet => ?complete, dispatchComplete_of_not_ended⟩⟩
  case group =>
    rw [barrierRelease_of_group hgroup, workgroupEnd_of_group hgroup, ← barrierMet_iff]
    refine ⟨fun hmet => ?_, fun hunmet => ?_, fun hended => ?_, fun hruns => ?_⟩
    · rw [if_pos hmet]
      rfl
    · rw [if_neg hunmet]
    · rw [if_pos (List.all_eq_true.mpr hended)]
      rfl
    · rw [if_neg (mt List.all_eq_true.mp hruns)]
  case complete =>
    rw [dispatchComplete_of_ended hjob hlanes hkind hfinished hquiet]
    refine ⟨fun hsettled => ?_, fun hopen => ?_⟩
    · rw [hsettled, if_pos rfl]
    · rw [hopen, if_neg Bool.false_ne_true]

end Sys2Proof.Machine
end

section
/-! PROOFS. PROGRAM_LOAD and PROGRAM_UNLOAD (R130 to R132): what is read once, the checks in their order, and the slot that a
loaded program takes. -/

namespace Sys2Proof.Machine

variable {c : Cmd} {s s1 : State} {t : Ticket} {st i j n : Nat} {hd : List Byte}

/-! What the commands share that take a free number -/

theorem mem_upFrom {lo : Nat} : i ∈ upFrom lo n ↔ lo ≤ i ∧ i < lo + n := by
  induction n generalizing lo with
  | zero => simp [upFrom]
  | succ n ih => rw [upFrom, List.mem_cons, ih]; omega

theorem mem_of_pickFrom {α : Type} {xs : List α} {x : α} (h : pickFrom n xs = some x) : x ∈ xs :=
  List.mem_of_getElem? h

theorem exists_pickFrom_of_ne_nil {α : Type} {xs : List α} (h : xs ≠ []) : ∃ x, pickFrom n xs = some x :=
  ⟨_, List.getElem?_eq_getElem (Nat.mod_lt _ (List.length_pos_iff.mpr h))⟩

/-- One of the numbers below `n` that are not in use, if there is one: the device's choice. -/
def pickFree (pick : Nat) (used : Nat → Bool) (n : Nat) : Option Nat := pickFrom pick ((upFrom 0 n).filter fun i => !used i)

theorem pickFree_of_full {pick : Nat} {used : Nat → Bool} (h : ∀ i, i < n → used i = true) :
    pickFree pick used n = none := by
  have none_free : ((upFrom 0 n).filter fun i => !used i) = [] :=
    List.filter_eq_nil_iff.mpr fun i hi => by simp [h i (by simpa using (mem_upFrom.mp hi).2)]
  rw [pickFree, none_free]
  rfl

theorem pickFree_of_free {pick : Nat} {used : Nat → Bool} (hj : j < n) (hfree : used j = false) :
    ∃ i, i < n ∧ used i = false ∧ pickFree pick used n = some i := by
  have some_free : ((upFrom 0 n).filter fun i => !used i) ≠ [] :=
    List.ne_nil_of_mem (List.mem_filter.mpr ⟨mem_upFrom.mpr ⟨j.zero_le, by omega⟩, by simp [hfree]⟩)
  obtain ⟨i, hpick⟩ := exists_pickFrom_of_ne_nil some_free (n := pick)
  obtain ⟨hi, hunused⟩ := List.mem_filter.mp (mem_of_pickFrom hpick)
  exact ⟨i, by simpa using (mem_upFrom.mp hi).2, by simpa using hunused, hpick⟩

/-- A configuration command that a check refuses, on a state reached by the reads that it makes before its checks. -/
theorem acceptConfig_refuse {rule : ConfigRule} {r : Result} (hr : rule s t s.lock.opn = .refuse st r) :
    acceptConfig rule t s = writeRecord t st r s := by
  simp only [acceptConfig, hr]

/-- A ticket with what its command has read. -/
def Ticket.carrying (t : Ticket) (d : List Byte) : Ticket := { t with data := d }

/-! PROGRAM_LOAD -/

section Load

theorem programLoad_of_admits (h : Admits opProgramLoad c s = true) :
    exec (.programLoad c) s = .next (actProgramLoad (ticketOf opProgramLoad c s) (admitted c s)) :=
  carry_admitted h actProgramLoad

/-- The header that bytes spell. -/
def headerWord (d : List Byte) : BitVec 512 := BitVec.ofNat 512 (ofBytes d)

/-- Where a header says that the code stands, and its length. -/
def codeSpan (hd : List Byte) : Nat × Nat := (fldN (headerWord hd) 128 40, fldN (headerWord hd) 96 32)

/-- Checks 2 and 3 of R131 on the header that was read: its fields, and the code that it names. -/
def loadCode (t : Ticket) (hd : List Byte) (s : State) : State :=
  if !programValid (headerWord hd) then writeRecord t 0x0070 noResult s
  else if !s.readable t.cmd.berth (codeSpan hd).1 (codeSpan hd).2 then writeRecord t 0x0077 noResult s
  else
    match readVirt t.src t.cmd.berth (codeSpan hd).1 (codeSpan hd).2 s with
    | (s, .uncorrectable) => writeRecord t 0x000B noResult s
    | (s, .addressFault) => writeRecord t 0x0077 noResult s
    | (s, .ok code) => acceptConfig ruleProgramLoad (t.carrying (hd ++ code)) s

theorem loadCode_of_invalid (h : programValid (headerWord hd) = false) :
    loadCode t hd s = writeRecord t 0x0070 noResult s := by
  simp [loadCode, h]

section Code

variable (hvalid : programValid (headerWord hd) = true)
include hvalid

theorem loadCode_of_unreadable (h : s.readable t.cmd.berth (codeSpan hd).1 (codeSpan hd).2 = false) :
    loadCode t hd s = writeRecord t 0x0077 noResult s := by
  simp [loadCode, hvalid, h]

variable (hreadable : s.readable t.cmd.berth (codeSpan hd).1 (codeSpan hd).2 = true)
include hreadable

theorem loadCode_of_uncorrectable
    (hread : readVirt t.src t.cmd.berth (codeSpan hd).1 (codeSpan hd).2 s = (s1, .uncorrectable)) :
    loadCode t hd s = writeRecord t 0x000B noResult s1 := by
  simp [loadCode, hvalid, hreadable, hread]

theorem loadCode_of_addressFault
    (hread : readVirt t.src t.cmd.berth (codeSpan hd).1 (codeSpan hd).2 s = (s1, .addressFault)) :
    loadCode t hd s = writeRecord t 0x0077 noResult s1 := by
  simp [loadCode, hvalid, hreadable, hread]

theorem loadCode_of_code {code : List Byte}
    (hread : readVirt t.src t.cmd.berth (codeSpan hd).1 (codeSpan hd).2 s = (s1, .ok code)) :
    loadCode t hd s = acceptConfig ruleProgramLoad (t.carrying (hd ++ code)) s1 := by
  simp [loadCode, hvalid, hreadable, hread]

end Code

/-- Check 5 of R131: the digest in the copied header is that of the copied code. -/
def programIntact (d : List Byte) : Prop := BitVec.ofNat 256 (ofBytes (sha256 (d.drop 64))) = fld (headerWord (d.take 64)) 256 256

/-- A shadow in which slot `i` of the ticket's berth holds the program that the ticket's copy spells. -/
def Shadow.loadProgram (t : Ticket) (i : Nat) (k : Shadow) : Shadow :=
  { k with
    programs := tabPut {} k.programs (t.cmd.berth.toNat * 64 + i) (programOf (headerWord (t.data.take 64)) (t.data.drop 64)) }

/-- With every slot in use a program is refused. -/
theorem acceptProgram_of_full (h : ∀ i, i < 64 → (s.lock.opn.program t.cmd.berth i).valid = true) :
    acceptConfig ruleProgramLoad t s = writeRecord t 0x0075 noResult s := by
  have none_free := pickFree_of_full (pick := Config.pick s.free 0) h
  rw [pickFree] at none_free
  exact acceptConfig_refuse (by simp only [ruleProgramLoad, none_free])

/-- With a slot free, some free slot is picked, and the digest decides. -/
theorem acceptProgram_of_free (hj : j < 64) (hfree : (s.lock.opn.program t.cmd.berth j).valid = false) :
    ∃ i, i < 64 ∧ (s.lock.opn.program t.cmd.berth i).valid = false ∧
      (¬ programIntact t.data → acceptConfig ruleProgramLoad t s = writeRecord t 0x0071 noResult s) ∧
      (programIntact t.data → acceptConfig ruleProgramLoad t s = enter t (s.lock.opn.loadProgram t i) s) := by
  obtain ⟨i, hi, hunused, hpick⟩ := pickFree_of_free (pick := Config.pick s.free 0)
    (used := fun i => (s.lock.opn.program t.cmd.berth i).valid) hj hfree
  rw [pickFree] at hpick
  refine ⟨i, hi, hunused, fun hbroken => acceptConfig_refuse ?_,
    fun hintact => acceptConfig_pass (r := shortResult [(0, 6, i)]) ?_⟩
  · simp only [ruleProgramLoad, hpick]
    exact if_pos hbroken
  · simp only [ruleProgramLoad, hpick]
    exact if_neg (not_not_intro hintact)

section Command

variable (h : Admits opProgramLoad c s = true)
include h

theorem programLoad_of_unreadable
    (hbad : fldN c.params 0 40 % 64 ≠ 0 ∨ s.readable c.berth (fldN c.params 0 40) 64 = false) :
    exec (.programLoad c) s = .next (answered opProgramLoad c 0x0077 noResult s) := by
  rw [programLoad_of_admits h]
  rcases hbad with hoff | hunreadable
  · simp [actProgramLoad, answered, hoff]
  · simp [actProgramLoad, answered, hunreadable]

variable (haligned : fldN c.params 0 40 % 64 = 0) (hreadable : s.readable c.berth (fldN c.params 0 40) 64 = true)
include haligned hreadable

theorem programLoad_of_uncorrectable (hread : readVirt (ticketOf opProgramLoad c s).src c.berth (fldN c.params 0 40) 64
      (admitted c s) = (s1, .uncorrectable)) :
    exec (.programLoad c) s = .next (writeRecord (ticketOf opProgramLoad c s) 0x000B noResult s1) := by
  rw [programLoad_of_admits h]
  simp [actProgramLoad, haligned, hreadable, hread]

theorem programLoad_of_addressFault (hread : readVirt (ticketOf opProgramLoad c s).src c.berth (fldN c.params 0 40) 64
      (admitted c s) = (s1, .addressFault)) :
    exec (.programLoad c) s = .next (writeRecord (ticketOf opProgramLoad c s) 0x0077 noResult s1) := by
  rw [programLoad_of_admits h]
  simp [actProgramLoad, haligned, hreadable, hread]

/-- An admitted PROGRAM_LOAD whose header was read goes on to its code. -/
theorem programLoad_of_header (hread : readVirt (ticketOf opProgramLoad c s).src c.berth (fldN c.params 0 40) 64
      (admitted c s) = (s1, .ok hd)) :
    exec (.programLoad c) s = .next (loadCode (ticketOf opProgramLoad c s) hd s1) := by
  rw [programLoad_of_admits h]
  simp only [actProgramLoad, ticketOf_cmd, admitted_readable, haligned, hreadable, hread, ne_eq, not_true, decide_false,
    Bool.not_true, Bool.or_false, Bool.false_eq_true, if_false]
  rfl

end Command

end Load

/-! PROGRAM_UNLOAD -/

section Unload

/-- A shadow in which slot `i` of a berth is empty. -/
def Shadow.unloadProgram (b : BitVec 6) (i : Nat) (k : Shadow) : Shadow :=
  { k with programs := tabPut {} k.programs (b.toNat * 64 + i) {} }

theorem programUnload_of_empty (h : Admits opProgramUnload c s = true)
    (hempty : (s.lock.opn.program c.berth (fldN c.params 0 6)).valid = false) :
    exec (.programUnload c) s = .next (answered opProgramUnload c 0x0072 noResult s) :=
  config_refuse (rule := ruleProgramUnload) h (by simp only [ruleProgramUnload, ticketOf_cmd, hempty, Bool.not_false, if_true])

variable (h : Admits opProgramUnload c s = true) (hvalid : (s.lock.opn.program c.berth (fldN c.params 0 6)).valid = true)
include h hvalid

theorem programUnload_of_busy (hbusy : programBusy (admitted c s) s.lock.opn c.berth (fldN c.params 0 6) = true) :
    exec (.programUnload c) s = .next (answered opProgramUnload c 0x0073 noResult s) :=
  config_refuse (rule := ruleProgramUnload) h (by
    simp only [ruleProgramUnload, ticketOf_cmd, hvalid, hbusy, Bool.not_true, Bool.false_eq_true, if_false, if_true])

theorem programUnload_of_idle (hidle : programBusy (admitted c s) s.lock.opn c.berth (fldN c.params 0 6) = false) :
    exec (.programUnload c) s = .next (entered opProgramUnload c (s.lock.opn.unloadProgram c.berth (fldN c.params 0 6)) s) :=
  config_pass (rule := ruleProgramUnload) (r := noResult) h (by
    simp only [ruleProgramUnload, ticketOf_cmd, hvalid, hidle, Bool.not_true, Bool.false_eq_true, if_false,
      Shadow.unloadProgram])

end Unload

end Sys2Proof.Machine
end

section
/-! PROOFS. MODEL_REGISTER (R154, R155): what is read once, the checks in their order, and the handle that a registered model
takes. That want of frames in an anchor column answers as the quota does is log entry 182. -/

namespace Sys2Proof.Machine

variable {c : Cmd} {s s1 s3 : State} {t : Ticket} {k held : Shadow} {i j : Nat} {hd img rest : List Byte} {fs : List Nat}
  {m : Model}

/-! The reads -/

section Reads

theorem modelRegister_of_admits (h : Admits opModelRegister c s = true) :
    exec (.modelRegister c) s = .next (actModelRegister (ticketOf opModelRegister c s) (admitted c s)) :=
  carry_admitted h actModelRegister

/-- The length of an image by its header. -/
def imageBytes (hd : List Byte) : Nat := fldN (word 512 hd 0 64) 128 32

/-- Checks 1 and 2 of R155 on the header that was read: the whole image is copied. -/
def copyImage (t : Ticket) (hd : List Byte) (s : State) : State :=
  if !s.readable t.cmd.berth (fldN t.cmd.params 0 40) (imageBytes hd) then writeRecord t 0x008A noResult s
  else if !modelHeaderOk (word 512 hd 0 64) then writeRecord t 0x0080 noResult s
  else
    match readVirt t.src t.cmd.berth (fldN t.cmd.params 0 40 + 64) (imageBytes hd - 64) s with
    | (s, .ok rest) => if modelImageOk (hd ++ rest) then registerImage t (hd ++ rest) s else writeRecord t 0x0080 noResult s
    | (s, a) => writeRecord t (readStatus 0x008A a) noResult s

theorem copyImage_of_unreadable (h : s.readable t.cmd.berth (fldN t.cmd.params 0 40) (imageBytes hd) = false) :
    copyImage t hd s = writeRecord t 0x008A noResult s := by
  simp [copyImage, h]

theorem copyImage_of_bad_header (hreadable : s.readable t.cmd.berth (fldN t.cmd.params 0 40) (imageBytes hd) = true)
    (h : modelHeaderOk (word 512 hd 0 64) = false) : copyImage t hd s = writeRecord t 0x0080 noResult s := by
  simp [copyImage, hreadable, h]

section Image

variable (hreadable : s.readable t.cmd.berth (fldN t.cmd.params 0 40) (imageBytes hd) = true)
  (hheader : modelHeaderOk (word 512 hd 0 64) = true)
  (hread : readVirt t.src t.cmd.berth (fldN t.cmd.params 0 40 + 64) (imageBytes hd - 64) s = (s1, .ok rest))
include hreadable hheader hread

theorem copyImage_of_bad_image (h : modelImageOk (hd ++ rest) = false) :
    copyImage t hd s = writeRecord t 0x0080 noResult s1 := by
  simp only [copyImage, hreadable, hheader, hread, h, Bool.not_true, Bool.false_eq_true, if_false]

theorem copyImage_of_image (h : modelImageOk (hd ++ rest) = true) : copyImage t hd s = registerImage t (hd ++ rest) s1 := by
  simp only [copyImage, hreadable, hheader, hread, h, Bool.not_true, Bool.false_eq_true, if_false, if_true]

end Image

/-- Check 3 of R155: every declared header and every shard's weights can be read, each header on 64 bytes. -/
def imageReaches (b : BitVec 6) (img : List Byte) (s : State) : Bool :=
  (((modelSpans img).1 ++ (modelSpans img).2).all fun x => s.readable b x.1 x.2)
    && (modelSpans img).1.all fun x => x.1 % 64 == 0

/-- Check 4 of R155 fails: a SAFETY model comes off the supervisor path, or outside service. -/
def imageLocked (t : Ticket) (img : List Byte) (s : State) : Bool :=
  bitAt (word 512 img 0 64) 6 && !(t.fromSupervisor && s.inService)

theorem registerImage_of_not_reached (h : imageReaches t.cmd.berth img s = false) :
    registerImage t img s = writeRecord t 0x008A noResult s := by
  rw [imageReaches, Bool.and_eq_false_iff] at h
  rcases h with hunreadable | hoff
  · simp [registerImage, hunreadable]
  · simp [registerImage, hoff]

section Reached

variable (hreach : imageReaches t.cmd.berth img s = true)
include hreach

theorem registerImage_of_locked (h : imageLocked t img s = true) :
    registerImage t img s = writeRecord t 0x0053 noResult s := by
  rw [imageReaches, Bool.and_eq_true] at hreach
  obtain ⟨hreadable, haligned⟩ := hreach
  rw [imageLocked] at h
  simp only [registerImage, hreadable, haligned, h, Bool.not_true, Bool.or_false, Bool.false_eq_true, if_false, if_true]

/-- A model of which all has been read is judged by checks 5 to 8 of R155. -/
theorem registerImage_of_read {s4 s5 : State} {heads weights input : List Byte} (hopen : imageLocked t img s = false)
    (hheads : readSpans t.src t.cmd.berth (modelSpans img).1 s = (s3, .ok heads))
    (hweights : readSpans t.src t.cmd.berth (modelSpans img).2 s3 = (s4, .ok weights))
    (hinput : readSpans t.src t.cmd.berth (calibrationSpans img heads) s4 = (s5, .ok input)) :
    registerImage t img s = acceptConfig ruleModelRegister (t.carrying (img ++ heads ++ weights ++ input)) s5 := by
  rw [imageReaches, Bool.and_eq_true] at hreach
  obtain ⟨hreadable, haligned⟩ := hreach
  rw [imageLocked] at hopen
  simp only [registerImage, hreadable, haligned, hopen, hheads, hweights, hinput, Bool.not_true, Bool.or_false,
    Bool.false_eq_true, if_false]
  rfl

end Reached

end Reads

/-! Checks 5 to 8 of R155 and the calibration of R450 -/

section Verdict

/-- A handle of a berth holds a model. -/
def Shadow.handleUsed (k : Shadow) (b : BitVec 6) (i : Nat) : Bool := (tabGet {} k.models (b.toNat * 1024 + i)).valid

/-- The pages that the weights of a model take. -/
def Model.pages (m : Model) : Nat := (m.shards.map fun x => x.weightGranules).foldl (· + ·) 0

/-- The units of the image pool that a model needs. -/
def Model.unitsWanted (m : Model) : Nat := ceilDiv m.imageLen.toNat 0x10000

/-- There are 4,096 models, or the image pool has no room for one more image. -/
def Shadow.modelsFull (k : Shadow) (m : Model) : Bool :=
  4096 ≤ tabCount (fun _ x => x.valid) k.models || (k.freeUnits.take m.unitsWanted).length < m.unitsWanted

/-- The weights of a model pass the memory quota of a berth. -/
def Shadow.pastQuota (k : Shadow) (b : BitVec 6) (m : Model) : Bool :=
  (k.berth b).memQuota.toNat < (k.berth b).memUsed.toNat + m.pages

/-- The weights of a model have not the digest that its header gives. -/
def Model.broken (m : Model) : Bool := BitVec.ofNat 256 (ofBytes (sha256 (m.shards.flatMap fun x => x.weights))) ≠ m.digest

/-- A SAFETY model has a tile outside the safety basin, or one without room for it. -/
def Shadow.unfit (k : Shadow) (m : Model) : Bool := m.safety && !safetyFits k m

/-- The calibration of a model fails. -/
def Model.uncalibrated (m : Model) : Bool := m.calibration.isSome && Config.calibrationFails m.digest

/-- Checks 7 and 8 of R155, and the calibration. -/
def modelChecks (k : Shadow) (m : Model) : List (Bool × Nat) :=
  [(k.unfit m, 0x0086), (m.broken, 0x0081), (m.uncalibrated, 0x00F5)]

section Checks

variable (hunfit : k.unfit m = false)

theorem modelChecks_of_unfit (h : k.unfit m = true) : firstOf (modelChecks k m) = some 0x0086 := by
  rw [modelChecks, firstOf_cons, if_pos h]

include hunfit

theorem modelChecks_of_broken (h : m.broken = true) : firstOf (modelChecks k m) = some 0x0081 := by
  rw [modelChecks, firstOf_cons, if_neg (ne_true_of_eq_false hunfit), firstOf_cons, if_pos h]

variable (hintact : m.broken = false)
include hintact

theorem modelChecks_of_uncalibrated (h : m.uncalibrated = true) : firstOf (modelChecks k m) = some 0x00F5 := by
  rw [modelChecks, firstOf_cons, if_neg (ne_true_of_eq_false hunfit), firstOf_cons,
    if_neg (ne_true_of_eq_false hintact), firstOf_cons, if_pos h]

theorem modelChecks_of_calibrated (h : m.uncalibrated = false) : firstOf (modelChecks k m) = none := by
  simp only [modelChecks, hunfit, hintact, h, firstOf_cons, firstOf_nil, Bool.false_eq_true, if_false]

end Checks

/-- The shadow `held`, which holds frames `fs` for model `m` of berth `b`, with the model in handle `i`; `k` is the shadow before
the frames were held. -/
def Shadow.withModel (held k : Shadow) (b : BitVec 6) (m : Model) (fs : List Nat) (i : Nat) : Shadow :=
  { held with
    berths := tabPut {} held.berths b.toNat { k.berth b with memUsed := (k.berth b).memUsed + BitVec.ofNat 24 m.pages },
    models := tabPut {} held.models (b.toNat * 1024 + i) { m with frames := fs, units := k.freeUnits.take m.unitsWanted } }

/-- With a handle free, some free handle is picked, and the checks of the model decide. -/
theorem ruleModelRegister_of_handle (hj : j < 1024) (hfree : k.handleUsed t.cmd.berth j = false) :
    ∃ i, i < 1024 ∧ k.handleUsed t.cmd.berth i = false ∧
      ruleModelRegister s t k =
        if k.modelsFull (modelOf t k) then .refuse 0x0084 noResult
        else if k.pastQuota t.cmd.berth (modelOf t k) then .refuse 0x0085 noResult
        else (holdModel s.free t.cmd.berth (modelOf t k).shards k).elim (.refuse 0x0085 noResult) fun x =>
          (firstOf (modelChecks k (modelOf t k))).elim
            (.pass (x.1.withModel k t.cmd.berth (modelOf t k) x.2 i) (shortResult [(0, 10, i)]))
            fun st => .refuse st noResult := by
  obtain ⟨i, hi, hunused, hpick⟩ := pickFree_of_free (pick := Config.pick s.free 0) hj hfree
  refine ⟨i, hi, hunused, ?_⟩
  simp only [pickFree, Shadow.handleUsed] at hpick
  simp only [ruleModelRegister, hpick, Shadow.pastQuota, modelChecks, firstOf_elim_cons, firstOf_elim_nil, Model.broken,
    decide_eq_true_eq]
  cases holdModel s.free t.cmd.berth (modelOf t k).shards k with
  | none => rfl
  | some x => rfl

theorem acceptModel_of_no_handle (h : ∀ i, i < 1024 → s.lock.opn.handleUsed t.cmd.berth i = true) :
    acceptConfig ruleModelRegister t s = writeRecord t 0x0084 noResult s := by
  have none_free := pickFree_of_full (pick := Config.pick s.free 0) h
  simp only [pickFree, Shadow.handleUsed] at none_free
  exact acceptConfig_refuse (by simp only [ruleModelRegister, none_free])

/-- Whatever handles are free, 4,096 models or no image room refuse. -/
theorem acceptModel_of_full (h : s.lock.opn.modelsFull (modelOf t s.lock.opn) = true) :
    acceptConfig ruleModelRegister t s = writeRecord t 0x0084 noResult s := by
  by_cases hused : ∀ i, i < 1024 → s.lock.opn.handleUsed t.cmd.berth i = true
  · exact acceptModel_of_no_handle hused
  · push Not at hused
    obtain ⟨j, hj, hfree⟩ := hused
    obtain ⟨_, _, _, hverdict⟩ := ruleModelRegister_of_handle (s := s) hj (eq_false_of_ne_true hfree)
    exact acceptConfig_refuse (by rw [hverdict, if_pos h])

theorem acceptModel_of_no_room (h : (∀ i, i < 1024 → s.lock.opn.handleUsed t.cmd.berth i = true)
    ∨ s.lock.opn.modelsFull (modelOf t s.lock.opn) = true) :
    acceptConfig ruleModelRegister t s = writeRecord t 0x0084 noResult s :=
  h.elim acceptModel_of_no_handle acceptModel_of_full

section Room

variable (hj : j < 1024) (hfree : s.lock.opn.handleUsed t.cmd.berth j = false)
  (hroom : s.lock.opn.modelsFull (modelOf t s.lock.opn) = false)
include hj hfree hroom

theorem acceptModel_of_not_held (h : s.lock.opn.pastQuota t.cmd.berth (modelOf t s.lock.opn) = true
    ∨ holdModel s.free t.cmd.berth (modelOf t s.lock.opn).shards s.lock.opn = none) :
    acceptConfig ruleModelRegister t s = writeRecord t 0x0085 noResult s := by
  obtain ⟨_, _, _, hverdict⟩ := ruleModelRegister_of_handle (s := s) hj hfree
  rw [if_neg (ne_true_of_eq_false hroom)] at hverdict
  refine acceptConfig_refuse (hverdict.trans ?_)
  rcases h with hpast | hnone
  · rw [if_pos hpast]
  · rw [hnone, Option.elim_none, ite_self]

/-- A model whose frames are held is judged by its own checks, and passes into some free handle. -/
theorem acceptModel_of_held (hquota : s.lock.opn.pastQuota t.cmd.berth (modelOf t s.lock.opn) = false)
    (hheld : holdModel s.free t.cmd.berth (modelOf t s.lock.opn).shards s.lock.opn = some (held, fs)) :
    ∃ i, i < 1024 ∧ s.lock.opn.handleUsed t.cmd.berth i = false ∧
      (∀ st, firstOf (modelChecks s.lock.opn (modelOf t s.lock.opn)) = some st →
        acceptConfig ruleModelRegister t s = writeRecord t st noResult s) ∧
      (firstOf (modelChecks s.lock.opn (modelOf t s.lock.opn)) = none → acceptConfig ruleModelRegister t s =
        enter t (held.withModel s.lock.opn t.cmd.berth (modelOf t s.lock.opn) fs i) s) := by
  obtain ⟨i, hi, hunused, hverdict⟩ := ruleModelRegister_of_handle (s := s) hj hfree
  rw [if_neg (ne_true_of_eq_false hroom), if_neg (ne_true_of_eq_false hquota), hheld, Option.elim_some] at hverdict
  exact ⟨i, hi, hunused, fun st hfails => acceptConfig_refuse (by rw [hverdict, hfails, Option.elim_some]),
    fun hpasses => acceptConfig_pass (by rw [hverdict, hpasses, Option.elim_none])⟩

end Room

end Verdict

/-! The command -/

section Command

variable (h : Admits opModelRegister c s = true)
include h

theorem modelRegister_of_unreadable
    (hbad : fldN c.params 0 40 % 64 ≠ 0 ∨ s.readable c.berth (fldN c.params 0 40) 64 = false) :
    exec (.modelRegister c) s = .next (answered opModelRegister c 0x008A noResult s) := by
  rw [modelRegister_of_admits h]
  rcases hbad with hoff | hunreadable
  · simp [actModelRegister, answered, hoff]
  · simp [actModelRegister, answered, hunreadable]

variable (haligned : fldN c.params 0 40 % 64 = 0) (hreadable : s.readable c.berth (fldN c.params 0 40) 64 = true)
include haligned hreadable

theorem modelRegister_of_uncorrectable (hread : readVirt (ticketOf opModelRegister c s).src c.berth (fldN c.params 0 40) 64
      (admitted c s) = (s1, .uncorrectable)) :
    exec (.modelRegister c) s = .next (writeRecord (ticketOf opModelRegister c s) 0x000B noResult s1) := by
  rw [modelRegister_of_admits h]
  simp [actModelRegister, haligned, hreadable, hread, readStatus]

theorem modelRegister_of_addressFault (hread : readVirt (ticketOf opModelRegister c s).src c.berth (fldN c.params 0 40) 64
      (admitted c s) = (s1, .addressFault)) :
    exec (.modelRegister c) s = .next (writeRecord (ticketOf opModelRegister c s) 0x008A noResult s1) := by
  rw [modelRegister_of_admits h]
  simp [actModelRegister, haligned, hreadable, hread, readStatus]

/-- An admitted MODEL_REGISTER whose header was read goes on to its image. -/
theorem modelRegister_of_header (hread : readVirt (ticketOf opModelRegister c s).src c.berth (fldN c.params 0 40) 64
      (admitted c s) = (s1, .ok hd)) :
    exec (.modelRegister c) s = .next (copyImage (ticketOf opModelRegister c s) hd s1) := by
  rw [modelRegister_of_admits h]
  simp only [actModelRegister, ticketOf_cmd, admitted_readable, haligned, hreadable, hread, ne_eq, not_true, decide_false,
    Bool.not_true, Bool.or_false, Bool.false_eq_true, if_false]
  rfl

end Command

/-- Settles O16: each load goes on from one read to the next, and its last checks are its rule's verdict on the copies; which
of the free slots or handles it takes is what `pickFree` picks. The statement's first binders, an admitted PROGRAM_LOAD,
reach over its parts on PROGRAM_UNLOAD and MODEL_REGISTER too: these hold without them, and their proofs use none of it. -/
theorem programAndModelLoadsReadOnce : Obligations.ProgramAndModelLoadsReadOnce := by
  refine fun c s h => ⟨programLoad_of_unreadable h, fun haligned hreadable =>
      ⟨fun s1 => programLoad_of_uncorrectable h haligned hreadable,
        fun s1 => programLoad_of_addressFault h haligned hreadable, fun s1 hd hread => ?code⟩,
    fun c s i h hi => ?unload,
    fun c s h => ⟨modelRegister_of_unreadable h, fun haligned hreadable =>
      ⟨fun s1 => modelRegister_of_uncorrectable h haligned hreadable,
        fun s1 => modelRegister_of_addressFault h haligned hreadable, fun s1 hd hread => ?image⟩⟩⟩
  case code =>
    have loads := programLoad_of_header h haligned hreadable hread
    refine ⟨fun hinvalid => loads.trans (congrArg _ (loadCode_of_invalid hinvalid)),
      fun hvalid hunreadable => loads.trans (congrArg _ (loadCode_of_unreadable hvalid hunreadable)),
      fun hvalid hcode => ⟨fun s2 hread => loads.trans (congrArg _ (loadCode_of_uncorrectable hvalid hcode hread)),
        fun s2 hread => loads.trans (congrArg _ (loadCode_of_addressFault hvalid hcode hread)), fun s2 code hread => ?_⟩⟩
    have judged := loads.trans (congrArg _ (loadCode_of_code hvalid hcode hread))
    refine ⟨fun hfull => judged.trans (congrArg _ (acceptProgram_of_full hfull)), fun j hj hfree => ?_⟩
    obtain ⟨i, hi, hunused, hbroken, hintact⟩ :=
      acceptProgram_of_free (t := (ticketOf opProgramLoad c s).carrying (hd ++ code)) hj hfree
    exact ⟨fun hdigest => judged.trans (congrArg _ (hbroken hdigest)),
      fun hdigest => ⟨i, hi, hunused, judged.trans (congrArg _ (hintact hdigest))⟩⟩
  case unload =>
    subst hi
    refine ⟨programUnload_of_empty h, fun hvalid hbusy => programUnload_of_busy h hvalid ?_,
      fun hvalid hidle => programUnload_of_idle h hvalid ?_⟩ <;> rw [programBusy, admitted_work]
    · exact hbusy
    · exact hidle
  case image =>
    have copies := modelRegister_of_header h haligned hreadable hread
    refine ⟨fun hunreadable => copies.trans (congrArg _ (copyImage_of_unreadable hunreadable)),
      fun hlength hbad => copies.trans (congrArg _ (copyImage_of_bad_header hlength hbad)),
      fun s2 rest hlength hfields hrest =>
        have registers := fun hok => copies.trans (congrArg _ (copyImage_of_image hlength hfields hrest hok))
        ⟨fun hbad => copies.trans (congrArg _ (copyImage_of_bad_image hlength hfields hrest hbad)),
          fun hok hunreached => (registers hok).trans (congrArg _ (registerImage_of_not_reached hunreached)),
          fun hok hreach hlocked => (registers hok).trans (congrArg _ (registerImage_of_locked hreach hlocked)),
          fun s3 s4 s5 heads weights input hok hreach hopen hheads hweights hinput => ?_⟩⟩
    have judged := (registers hok).trans
      (congrArg _ (registerImage_of_read (t := ticketOf opModelRegister c s) hreach hopen hheads hweights hinput))
    refine ⟨fun hnone => judged.trans (congrArg _ (acceptModel_of_no_room hnone)), fun j hj hfree hroom =>
      ⟨fun hnot => judged.trans (congrArg _ (acceptModel_of_not_held hj hfree hroom hnot)), fun held fs hquota hheld => ?_⟩⟩
    obtain ⟨i, hi, hunused, hfails, hpasses⟩ := acceptModel_of_held
      (t := (ticketOf opModelRegister c s).carrying (hd ++ rest ++ heads ++ weights ++ input)) hj hfree hroom hquota hheld
    exact ⟨fun hunfit => judged.trans (congrArg _ (hfails _ (modelChecks_of_unfit hunfit))),
      fun hfit hbroken => judged.trans (congrArg _ (hfails _ (modelChecks_of_broken hfit hbroken))),
      fun hfit hintact huncal => judged.trans (congrArg _ (hfails _ (modelChecks_of_uncalibrated hfit hintact huncal))),
      fun hfit hintact hcal =>
        ⟨i, hi, hunused, judged.trans (congrArg _ (hpasses (modelChecks_of_calibrated hfit hintact hcal)))⟩⟩

end Sys2Proof.Machine
end

section
/-! PROOFS. The queue commands (R163, R167, R180): each asks its checks in their order, and one that passes writes its queue in
the open shadow. -/

namespace Sys2Proof.Machine

variable {op : OpInfo} {c : Cmd} {s : State} {t : Ticket} {k cfg : Shadow} {q st : Nat} {d old : QueueDesc}
  {checks : List (Bool × Nat)} {b : Bool}

/-! The first check of a settled command -/

section Settled

variable {i : Instr} (h : exec i s = .next (settled op c ((b, st) :: checks) cfg s))
include h

theorem exec_of_check (hb : b = true) : exec i s = .next (answered op c st noResult s) := by
  rw [h, settled_cons, if_pos hb]

theorem exec_past_check (hb : b = false) : exec i s = .next (settled op c checks cfg s) := by
  rw [h, settled_cons, if_neg (ne_true_of_eq_false hb)]

end Settled

/-- Of two checks with one status, either one refuses. -/
theorem exec_of_either_check {b' : Bool} {i : Instr}
    (h : exec i s = .next (settled op c ((b, st) :: (b', st) :: checks) cfg s)) (hb : b = true ∨ b' = true) :
    exec i s = .next (answered op c st noResult s) := by
  cases hfirst : b with
  | true => exact exec_of_check h hfirst
  | false => exact exec_of_check (exec_past_check h hfirst) (hb.resolve_left (ne_true_of_eq_false hfirst))

/-! QUEUE_CREATE -/

/-- The checks of QUEUE_CREATE (R167): the descriptor is in use or not the caller's to make, it lies outside the range of its
berth, or its fields are invalid. -/
def queueCreateChecks (t : Ticket) (q : Nat) (d : QueueDesc) (k : Shadow) : List (Bool × Nat) :=
  [ ((k.queueDesc q).valid || !(if t.fromSupervisor then (k.berth d.berth).state == .live else d.berth == t.cmd.berth), 0x0090),
    (!((k.berth d.berth).queueFirst.toNat ≤ q
        && q < (k.berth d.berth).queueFirst.toNat + (k.berth d.berth).queueCount.toNat), 0x0094),
    (!queueFieldsOk d || !d.valid || !k.cqOk d, 0x0091) ]

/-- The shadow with one queue descriptor written. -/
def Shadow.withQueue (q : Nat) (d : QueueDesc) (k : Shadow) : Shadow := { k with queues := tabPut {} k.queues q d }

/-- A new queue has its berth's generation, and the stamp of the lock cycle that makes it. -/
def Shadow.newQueue (k : Shadow) (cycle : Nat) (d : QueueDesc) : QueueDesc :=
  { d with gen := (k.berth d.berth).gen, made := cycle }

theorem ruleQueueCreate_eq (hq : q = fldN t.cmd.params 0 18) (hd : d = queueOfParams t.cmd.params) :
    ruleQueueCreate s t k = (firstOf (queueCreateChecks t q d k)).elim
      (.pass (k.withQueue q (k.newQueue (s.lock.number.toNat + 1) d)) noResult) fun st => .refuse st noResult := by
  subst hq hd
  simp only [queueCreateChecks, firstOf_elim_cons, firstOf_elim_nil]
  rfl

theorem queueCreate_settled (h : Admits opQueueCreate c s = true) (hq : q = fldN c.params 0 18)
    (hd : d = queueOfParams c.params) : exec (.queueCreate c) s = .next (settled opQueueCreate c
      (queueCreateChecks (ticketOf opQueueCreate c s) q d s.lock.opn)
      (s.lock.opn.withQueue q (s.lock.opn.newQueue (s.lock.number.toNat + 1) d)) s) :=
  config_settled h (by rw [ruleQueueCreate_eq (t := ticketOf opQueueCreate c s) hq hd, admitted_lock])

/-! QUEUE_MODIFY -/

/-- The checks of QUEUE_MODIFY (R167): the queue is not the caller's, its new fields are invalid, its ring or its kind would
change while it holds something, or its kind while something names it. -/
def queueModifyChecks (t : Ticket) (s : State) (q : Nat) (old d : QueueDesc) (k : Shadow) : List (Bool × Nat) :=
  [ (!t.ownsQueue k q, 0x0090), (!queueFieldsOk d || !d.valid || d.berth ≠ old.berth || !k.cqOk d, 0x0091),
    (!queueEmpty s old q
      && (d.ringAddr ≠ old.ringAddr || d.ringLog2 ≠ old.ringLog2 || d.kind ≠ old.kind || d.entry ≠ old.entry), 0x0093),
    ((d.kind ≠ old.kind || d.entry ≠ old.entry) && k.queueNamed q, 0x0093) ]

theorem ruleQueueModify_eq (hq : q = fldN t.cmd.params 0 18) (hold : old = k.queueDesc q)
    (hd : d = { queueOfParams t.cmd.params with gen := old.gen, made := old.made }) :
    ruleQueueModify s t k = (firstOf (queueModifyChecks t s q old d k)).elim (.pass (k.withQueue q d) noResult)
      fun st => .refuse st noResult := by
  subst hd hold hq
  simp only [queueModifyChecks, firstOf_elim_cons, firstOf_elim_nil]
  rfl

theorem queueModify_settled (h : Admits opQueueModify c s = true) (hq : q = fldN c.params 0 18)
    (hold : old = s.lock.opn.queueDesc q) (hd : d = { queueOfParams c.params with gen := old.gen, made := old.made }) :
    exec (.queueModify c) s = .next (settled opQueueModify c
      (queueModifyChecks (ticketOf opQueueModify c s) (admitted c s) q old d s.lock.opn) (s.lock.opn.withQueue q d) s) :=
  config_settled h (ruleQueueModify_eq (t := ticketOf opQueueModify c s) hq hold hd)

/-! QUEUE_DESTROY -/

/-- The checks of QUEUE_DESTROY (R167): the queue is not the caller's, or it holds something or is named. -/
def queueDestroyChecks (t : Ticket) (s : State) (q : Nat) (k : Shadow) : List (Bool × Nat) :=
  [(!t.ownsQueue k q, 0x0090), (!queueEmpty s (k.queueDesc q) q || k.queueNamed q, 0x0093)]

theorem ruleQueueDestroy_eq (hq : q = fldN t.cmd.params 0 18) : ruleQueueDestroy s t k =
    (firstOf (queueDestroyChecks t s q k)).elim (.pass (k.withQueue q {}) noResult) fun st => .refuse st noResult := by
  subst hq
  simp only [queueDestroyChecks, firstOf_elim_cons, firstOf_elim_nil]
  rfl

theorem queueDestroy_settled (h : Admits opQueueDestroy c s = true) (hq : q = fldN c.params 0 18) :
    exec (.queueDestroy c) s = .next (settled opQueueDestroy c
      (queueDestroyChecks (ticketOf opQueueDestroy c s) (admitted c s) q s.lock.opn) (s.lock.opn.withQueue q {}) s) :=
  config_settled h (ruleQueueDestroy_eq (t := ticketOf opQueueDestroy c s) hq)

/-! QUEUE_RESUME -/

/-- The shadow with the resume of a queue noted for the commit edge: 2 is with DISCARD, and it outlasts a plain resume (R180). -/
def Shadow.withResume (q : Nat) (discard : Bool) (k : Shadow) : Shadow :=
  { k with resumes := tabPut 0 k.resumes q (max (tabGet 0 k.resumes q) (if discard then 2 else 1)) }

theorem ruleQueueResume_eq (hq : q = fldN t.cmd.params 0 18) : ruleQueueResume s t k =
    (firstOf [(!t.ownsQueue k q, 0x0090)]).elim (.pass (k.withResume q (bitAt t.cmd.params 18)) noResult)
      fun st => .refuse st noResult := by
  subst hq
  simp only [firstOf_elim_cons, firstOf_elim_nil]
  rfl

theorem queueResume_settled (h : Admits opQueueResume c s = true) (hq : q = fldN c.params 0 18) :
    exec (.queueResume c) s = .next (settled opQueueResume c
      [(!(ticketOf opQueueResume c s).ownsQueue s.lock.opn q, 0x0090)]
      (s.lock.opn.withResume q (bitAt c.params 18)) s) :=
  config_settled h (ruleQueueResume_eq (t := ticketOf opQueueResume c s) hq)

/-- Settles O12: each command is settled by its list of checks, and its clauses go down that list. -/
theorem queueCommandsFollowTheirChecks : Obligations.QueueCommandsFollowTheirChecks := by
  refine ⟨fun c s q d h hq hd => ?create, fun c s q old d h hq hold hd => ?modify, fun c s q h hq => ?destroy,
    fun c s q h hq => ?resume⟩
  case create =>
    have known := exec_past_check (queueCreate_settled h hq hd)
    have inside hknown := exec_past_check (known hknown)
    exact ⟨exec_of_check (queueCreate_settled h hq hd), fun hknown => exec_of_check (known hknown),
      fun hknown hinside => exec_of_check (inside hknown hinside),
      fun hknown hinside => exec_past_check (inside hknown hinside)⟩
  case modify =>
    have owned (howned : _ = true) := exec_past_check (queueModify_settled h hq hold hd) (congrArg not howned)
    have valid howned := exec_past_check (owned howned)
    exact ⟨fun hother => exec_of_check (queueModify_settled h hq hold hd) (congrArg not hother),
      fun howned => exec_of_check (owned howned), fun howned hvalid => exec_of_either_check (valid howned hvalid),
      fun howned hvalid hstill => exec_past_check (exec_past_check (valid howned hvalid) hstill)⟩
  case destroy =>
    have owned (howned : _ = true) := exec_past_check (queueDestroy_settled h hq) (congrArg not howned)
    exact ⟨fun hother => exec_of_check (queueDestroy_settled h hq) (congrArg not hother),
      fun howned => exec_of_check (owned howned), fun howned => exec_past_check (owned howned)⟩
  case resume =>
    exact ⟨fun hother => exec_of_check (queueResume_settled h hq) (congrArg not hother),
      fun howned => exec_past_check (queueResume_settled h hq) (congrArg not howned)⟩

end Sys2Proof.Machine
end

section
/-! PROOFS. The model table's commands (R156, R157): a handle freed, a model read, a berth's residency mode set. -/

namespace Sys2Proof.Machine

variable {c : Cmd} {s : State} {t : Ticket} {k : Shadow} {n : Nat}

/-! MODEL_UNREGISTER (R156) -/

/-- The frames that berth `b` still holds among `fs` wait to be zeroed from lock cycle `cycle` on. -/
def framesFreed (b : BitVec 6) (cycle : Nat) (fs : List Nat) (t : Tab FrameState) : Tab FrameState :=
  fs.foldl (fun f k => if tabGet .free f k = .held b then tabPut .free f k (.freed b cycle) else f) t

/-- The shadow with handle `n` of berth `b` free and the frames of its weight copies freed. -/
def Shadow.withoutModel (b : BitVec 6) (n cycle : Nat) (k : Shadow) : Shadow :=
  { k with frames := framesFreed b cycle (k.model b n).frames k.frames, models := tabPut {} k.models (b.toNat * 1024 + n) {} }

/-- The checks of MODEL_UNREGISTER: the handle is not valid, or its model has work. -/
def modelUnregisterChecks (b : BitVec 6) (n : Nat) (s : State) (k : Shadow) : List (Bool × Nat) :=
  [(!(k.model b n).valid, 0x0082), (modelBusy s b n, 0x0083)]

theorem ruleModelUnregister_eq (hn : n = fldN t.cmd.params 0 10) : ruleModelUnregister s t k =
    (firstOf (modelUnregisterChecks t.cmd.berth n s k)).elim
      (.pass (k.withoutModel t.cmd.berth n (s.lock.number.toNat + 1)) noResult) fun st => .refuse st noResult := by
  subst hn
  simp only [modelUnregisterChecks, firstOf_elim_cons, firstOf_elim_nil]
  rfl

theorem modelUnregister_settled (h : Admits opModelUnregister c s = true) (hn : n = fldN c.params 0 10) :
    exec (.modelUnregister c) s = .next (settled opModelUnregister c
      (modelUnregisterChecks c.berth n (admitted c s) s.lock.opn)
      (s.lock.opn.withoutModel c.berth n (s.lock.number.toNat + 1)) s) :=
  config_settled h (by rw [ruleModelUnregister_eq (t := ticketOf opModelUnregister c s) hn, ticketOf_cmd, admitted_lock])

/-! GET_MODEL -/

/-- What GET_MODEL answers of a handle: the tiles with a resident shard, and how often the model was started. -/
def modelRecord (d : Dyn) (b : BitVec 6) (n : Nat) : Result :=
  shortResult [(0, 32, d.residentMask b n), (32, 32, (tabGet 0 d.work.started (b.toNat * 1024 + n)).toNat)]

theorem getModel_of_unknown (h : Admits opGetModel c s = true)
    (hunknown : (s.snap.cfg.model c.berth (fldN c.params 0 10)).valid = false) :
    exec (.getModel c) s = .next (answered opGetModel c 0x0082 noResult s) :=
  admitted_answer h (by simp only [actGetModel, ticketOf_cmd, admitted_snap, hunknown, Bool.not_false, if_true])

theorem getModel_of_valid (h : Admits opGetModel c s = true)
    (hvalid : (s.snap.cfg.model c.berth (fldN c.params 0 10)).valid = true) :
    exec (.getModel c) s = .next (answered opGetModel c 0 (modelRecord s.snap c.berth (fldN c.params 0 10)) s) :=
  admitted_answer h (by
    simp only [actGetModel, ticketOf_cmd, admitted_snap, hvalid, Bool.not_true, Bool.false_eq_true, if_false, modelRecord])

/-! SET_RESIDENCY (R157) -/

/-- The shadow with a berth's residency mode and hot share as the parameters carry them. -/
def Shadow.withResidency (b : BitVec 6) (p : Params) (k : Shadow) : Shadow :=
  { k with residency := tabPut {} k.residency b.toNat { hotSet := bitAt p 0, hotShare := fld p 8 8 } }

theorem setResidency_of_no_share (h : Admits opSetResidency c s = true) (hshare : fldN c.params 8 8 = 0) :
    exec (.setResidency c) s = .next (answered opSetResidency c 0x0080 noResult s) :=
  config_refuse h (if_pos hshare)

theorem setResidency_of_share (h : Admits opSetResidency c s = true) (hshare : fldN c.params 8 8 ≠ 0) :
    exec (.setResidency c) s = .next (entered opSetResidency c (s.lock.opn.withResidency c.berth c.params) s) :=
  config_pass h (if_neg hshare)

/-- Settles O15: MODEL_UNREGISTER is settled by its two checks, GET_MODEL reads the latched model, and the share decides
SET_RESIDENCY. -/
theorem modelTableCommandsFollowTheirChecks : Obligations.ModelTableCommandsFollowTheirChecks := by
  refine ⟨fun c s n h hn => ?unregister, fun c s n h hn => ?get,
    fun c s h => ⟨setResidency_of_no_share h, setResidency_of_share h⟩⟩
  case unregister =>
    have known (hvalid : _ = true) := exec_past_check (modelUnregister_settled h hn) (congrArg not hvalid)
    exact ⟨fun hunknown => exec_of_check (modelUnregister_settled h hn) (congrArg not hunknown),
      fun hvalid => exec_of_check (known hvalid), fun hvalid => exec_past_check (known hvalid)⟩
  case get =>
    subst hn
    exact ⟨getModel_of_unknown h, getModel_of_valid h⟩

end Sys2Proof.Machine
end

section
/-! PROOFS. The oldest untaken entry of a submission queue (R166 to R168, R180, R558): it has its leaf, it starts or waits, or
it is cancelled. -/

namespace Sys2Proof.Machine

variable {q : BitVec 18} {s t u : State} {n : Nat}

/-! The leaf of the head (R168) -/

/-- A queue whose head starts no job keeps no leaf. -/
theorem resolveHead_of_no_job (h : (tryHead q s).bind (startedOn s) = none) : resolveHead q.toNat s = s := by
  cases hhead : tryHead q s with
  | none => simp only [resolveHead, BitVec.ofNat_toNat, BitVec.setWidth_eq, hhead, Option.bind_none]
  | some s' =>
    rw [hhead, Option.bind_some, startedOn, Option.map_eq_none_iff] at h
    simp only [resolveHead, BitVec.ofNat_toNat, BitVec.setWidth_eq, hhead, Option.bind_some, h, Option.map_none]

/-! QUEUE_ENTRY_TAKE, from the state in which the head has its leaf -/

section Take

theorem queueEntryTake_of_none (h : takeEntry q (resolveHead q.toNat s) = none) :
    exec (.queueEntryTake q) s = .next (resolveHead q.toNat s) := by
  change execQueueEntryTake q s = _
  simp only [execQueueEntryTake, h]

variable (htake : takeEntry q (resolveHead q.toNat s) = some t)
include htake

theorem queueEntryTake_of_no_job (h : startedOn (resolveHead q.toNat s) t = none) :
    exec (.queueEntryTake q) s = .next t := by
  change execQueueEntryTake q s = _
  simp only [execQueueEntryTake, htake, h]

variable (hjob : startedOn (resolveHead q.toNat s) t = some n)
include hjob

theorem queueEntryTake_of_chosen (h : nextJobOf n (resolveHead q.toNat s) = some (q.toNat, u)) :
    exec (.queueEntryTake q) s = .next u := by
  change execQueueEntryTake q s = _
  simp only [execQueueEntryTake, htake, hjob, h, if_true]

/-- A leaf basin that chooses another queue, or none, leaves the entry where it is. -/
theorem queueEntryTake_of_not_chosen (h : ∀ u, nextJobOf n (resolveHead q.toNat s) ≠ some (q.toNat, u)) :
    exec (.queueEntryTake q) s = .next (resolveHead q.toNat s) := by
  change execQueueEntryTake q s = _
  cases hnext : nextJobOf n (resolveHead q.toNat s) with
  | none => simp only [execQueueEntryTake, htake, hjob, hnext]
  | some x =>
    have another : ¬ x.1 = q.toNat := fun hsame => h x.2 (by rw [hnext, ← hsame])
    simp only [execQueueEntryTake, htake, hjob, hnext, if_neg another]

end Take

/-! COMMAND_CANCEL (R180) -/

/-- An entry may be cancelled: a cancellation is pending, an entry is present, and its record has a slot. -/
def State.mayCancel (s : State) (q : BitVec 18) : Prop :=
  s.serves (.queue q) = true ∧ (s.queue q.toNat).toCancel ≠ 0 ∧ (s.queue q.toNat).present ≠ 0
    ∧ s.slotFree (s.dyn.cfg.queueDesc q.toNat).cq.toNat = true

theorem mayCancel_iff : s.mayCancel q ↔ (!s.serves (.queue q) || (s.queue q.toNat).toCancel = 0
    || (s.queue q.toNat).present = 0 || !s.slotFree (s.dyn.cfg.queueDesc q.toNat).cq.toNat) = false := by
  simp [State.mayCancel, and_assoc]

theorem commandCancel_of_not_may (h : ¬ s.mayCancel q) : exec (.commandCancel q) s = .next s :=
  if_pos (eq_true_of_ne_false (mt mayCancel_iff.mpr h))

/-- The entry at the head is passed, and one fewer is to be cancelled. -/
def entryCancelled (n : Nat) (s : State) : State :=
  (passHead n s).modQueue n fun y => { y with toCancel := y.toCancel - 1 }

/-- The command of the entry that bytes spell, whose record is written whatever SILENT holds. -/
def cancelledCmd (q : BitVec 18) (d : List Byte) : Cmd :=
  { packetCmd (.queue q) (BitVec.ofNat 512 (ofBytes d)) with silent := false }

/-- The record of a cancelled command. -/
def cancelRecord (q : BitVec 18) (d : List Byte) (s : State) : State :=
  writeRecord { opcode := fld (BitVec.ofNat 512 (ofBytes d)) 0 16, cmd := cancelledCmd q d, gen := s.genOf (cancelledCmd q d),
                cq := s.cqOf (.queue q) } 0x0092 noResult s

section Cancel

variable (hmay : s.mayCancel q)
include hmay

/-- What a cancellation leaves, by what the read of the entry answers. -/
theorem commandCancel_of_may : exec (.commandCancel q) s = .next (match readHead q.toNat s with
    | (u, .addressFault) => ringFault q.toNat 0x000D (entryCancelled q.toNat u)
    | (u, .uncorrectable) => ringFault q.toNat 0x000B (entryCancelled q.toNat u)
    | (u, .ok d) => cancelRecord q d (setExpected (.queue q) ((cancelledCmd q d).seq + 1) (entryCancelled q.toNat u))) := by
  refine (if_neg (ne_true_of_eq_false (mayCancel_iff.mp hmay))).trans ?_
  rcases readHead q.toNat s with ⟨u, _ | _ | _⟩ <;> rfl

theorem commandCancel_of_addressFault (hread : readHead q.toNat s = (u, .addressFault)) :
    exec (.commandCancel q) s = .next (ringFault q.toNat 0x000D (entryCancelled q.toNat u)) := by
  rw [commandCancel_of_may hmay, hread]

theorem commandCancel_of_uncorrectable (hread : readHead q.toNat s = (u, .uncorrectable)) :
    exec (.commandCancel q) s = .next (ringFault q.toNat 0x000B (entryCancelled q.toNat u)) := by
  rw [commandCancel_of_may hmay, hread]

theorem commandCancel_of_entry {d : List Byte} (hread : readHead q.toNat s = (u, .ok d)) :
    exec (.commandCancel q) s = .next
      (cancelRecord q d (setExpected (.queue q) ((cancelledCmd q d).seq + 1) (entryCancelled q.toNat u))) := by
  rw [commandCancel_of_may hmay, hread]

end Cancel

/-- Settles O37: the taking of an entry follows what `takeEntry`, `startedOn` and `nextJobOf` answer once the head has its
leaf, and a cancellation follows what the read of the entry answers. The model's readings: an entry that makes a job is taken
only when its leaf basin chooses the queue (log 81); a cancellation moves the expected SEQ on, and an entry that it cannot read
has the record of R558 (log 22). -/
theorem queueEntriesStartInOrder : Obligations.QueueEntriesStartInOrder :=
  ⟨fun _ _ => ⟨resolveHead_of_no_job, queueEntryTake_of_none, fun _ => queueEntryTake_of_no_job,
      fun _ _ _ => queueEntryTake_of_chosen, fun _ _ => queueEntryTake_of_not_chosen⟩,
    fun _ _ => ⟨commandCancel_of_not_may, fun _ => commandCancel_of_addressFault, fun _ => commandCancel_of_uncorrectable,
      fun _ _ hmay => commandCancel_of_entry hmay⟩⟩

end Sys2Proof.Machine
end

section
/-! PROOFS. CSI_TX_SEND, I3C_XFER and GET_STREAM_STATUS (R342, R345, R559): the checks, the wait for the port or the bus and for
the queue's earlier writes, and the transfer begun. -/

namespace Sys2Proof.Machine

variable {c : Cmd} {s s1 : State} {t : Ticket} {st : Nat}

/-- On the queue that a packet came by, a command earlier than number `n` still writes some of the ranges `ins` (R116). -/
def State.writesPending (s : State) (n : Nat) (p : Path) (ins : List (Nat × Nat)) : Bool :=
  match pathQueue? p with
  | some q => s.mustWait q ins n
  | none => false

/-! GET_STREAM_STATUS -/

theorem actGetStream_eq : actGetStream t s =
    (firstOf [(!t.granted s.snap.cfg (·.streamGrant) (fldN t.cmd.params 0 5), 0x00C1)]).elim
      (writeRecord t 0 (streamRecord (tabGet {} s.snap.ingest.streams (fldN t.cmd.params 0 5))) s)
      fun st => writeRecord t st noResult s := by
  rw [firstOf_elim_cons, firstOf_elim_nil, actGetStream]
  cases t.granted s.snap.cfg (·.streamGrant) (fldN t.cmd.params 0 5) with
  | true => simp only [Bool.not_true, Bool.false_eq_true, if_true, if_false]
  | false => simp only [Bool.not_false, Bool.false_eq_true, if_true, if_false]

theorem getStreamStatus_of_admits (h : Admits opGetStream c s = true) : exec (.getStreamStatus c) s = .next
    (replied opGetStream c
      [(!(c.path == .supervisor || bitAt (s.snap.cfg.berth c.berth).streamGrant (fldN c.params 0 5)), 0x00C1)]
      (streamRecord (tabGet {} s.snap.ingest.streams (fldN c.params 0 5))) s) :=
  admitted_replied h (by rw [actGetStream_eq, admitted_snap]; rfl)

/-! CSI_TX_SEND (R342) -/

/-- The lines of the frame that the parameters describe. -/
def sendLines (p : Params) : List (Nat × Nat) :=
  (upFrom 0 (fldN p 128 16)).map fun i => (fldN p 64 40 + i * fldN p 160 16, fldN p 144 16)

/-- The port sends another frame, or an earlier command of the queue still writes a line. -/
def sendWaits (t : Ticket) (s : State) : Bool :=
  s.writesPending s.dyn.work.nextJob t.cmd.path (sendLines t.cmd.params)
    || (tabGet none s.dyn.ingest.tx (fldN t.cmd.params 0 2)).isSome

theorem sendWaits_admitted {op : OpInfo} : sendWaits (ticketOf op c s) (admitted c s) =
    ((admitted c s).writesPending s.dyn.work.nextJob c.path (sendLines c.params)
      || (tabGet none s.dyn.ingest.tx (fldN c.params 0 2)).isSome) := by
  rw [sendWaits, admitted_work, admitted_ingest, ticketOf_cmd]

/-- The one read of the lines. -/
def readLines (t : Ticket) (s : State) : State × Access (List (List Byte)) :=
  eachA (fun x s => readVirt { source := 3, berth := t.cmd.berth, gen := t.gen } t.cmd.berth x.1 x.2 s)
    (sendLines t.cmd.params) s

/-- The port has the frame to send, or the read of its lines failed. -/
def sendBegun (t : Ticket) : State × Access (List (List Byte)) → State
  | (s, .ok d) => s.modIngest fun g => { g with tx := tabPut none g.tx (fldN t.cmd.params 0 2) (some (t, d)) }
  | (s, .uncorrectable) => writeRecord t 0x000B noResult s
  | (s, .addressFault) => writeRecord t 0x00C3 noResult s

theorem actSend_of_refused (h : sendChecks t s = some st) : actSend t s = some (writeRecord t st noResult s) := by
  simp only [actSend, h]

theorem actSend_of_passed (h : sendChecks t s = none) :
    actSend t s = if sendWaits t s then none else some (sendBegun t (readLines t s)) := by
  simp only [actSend, h]
  refine if_congr Iff.rfl rfl ?_
  rw [readLines, sendLines]
  split <;> simp only [sendBegun, *]

section Send

variable (h : Admits opSend c s = true)
include h

theorem csiTxSend_of_admits :
    exec (.csiTxSend c) s = .next ((actSend (ticketOf opSend c s) (admitted c s)).getD s) :=
  carryWait_admitted h actSend

theorem csiTxSend_of_refused (hfails : sendChecks (ticketOf opSend c s) (admitted c s) = some st) :
    exec (.csiTxSend c) s = .next (answered opSend c st noResult s) := by
  rw [csiTxSend_of_admits h, actSend_of_refused hfails, Option.getD_some, answered]

variable (hpasses : sendChecks (ticketOf opSend c s) (admitted c s) = none)
include hpasses

theorem csiTxSend_of_waits (hwaits : sendWaits (ticketOf opSend c s) (admitted c s) = true) :
    exec (.csiTxSend c) s = .next s := by
  rw [csiTxSend_of_admits h, actSend_of_passed hpasses, if_pos hwaits, Option.getD_none]

theorem csiTxSend_of_free (hfree : sendWaits (ticketOf opSend c s) (admitted c s) = false) :
    exec (.csiTxSend c) s
      = .next (sendBegun (ticketOf opSend c s) (readLines (ticketOf opSend c s) (admitted c s))) := by
  rw [csiTxSend_of_admits h, actSend_of_passed hpasses, if_neg (ne_true_of_eq_false hfree), Option.getD_some]

end Send

/-! I3C_XFER (R559) -/

/-- The list of entries that the parameters name: its address and its length. -/
def xferList (p : Params) : Nat × Nat := (fldN p 64 40, 16 * fldN p 128 8)

/-- The bus is not granted to the caller, the list is empty or out of line, or it is not readable. -/
def xferListChecks (t : Ticket) (s : State) : List (Bool × Nat) :=
  [ (!t.granted s.dyn.cfg (·.i3cGrant) (fldN t.cmd.params 0 2), 0x00C1),
    (fldN t.cmd.params 128 8 == 0 || fldN t.cmd.params 64 40 % 16 != 0, 0x00C0),
    (!s.readable t.cmd.berth (xferList t.cmd.params).1 (xferList t.cmd.params).2, 0x00C3) ]

/-- The one read of the list. -/
def readXferList (t : Ticket) (s : State) : State × Access (List Byte) :=
  readVirt t.src t.cmd.berth (xferList t.cmd.params).1 (xferList t.cmd.params).2 s

/-- The entries that a list of `n` spells. -/
def xferEntries (n : Nat) (d : List Byte) : List (BitVec 128) :=
  (upFrom 0 n).map fun i => BitVec.ofNat 128 (ofBytes ((d.drop (16 * i)).take 16))

/-- What a transfer reads: its list, and the data of the entries that write to the bus. -/
def xferReads (p : Params) (es : List (BitVec 128)) : List (Nat × Nat) :=
  xferList p :: (es.filter fun e => !bitAt e 7).map xferSpan

/-- The bus has another transfer, or an earlier command of the queue still writes what this one reads. -/
def xferWaits (t : Ticket) (es : List (BitVec 128)) (s : State) : Bool :=
  s.writesPending s.dyn.work.nextJob t.cmd.path (xferReads t.cmd.params es)
    || (tabGet none s.dyn.ingest.xfer (fldN t.cmd.params 0 2)).isSome

/-- The bus has the transfer, at the speeds it is configured for. -/
def xferBegun (t : Ticket) (es : List (BitVec 128)) (s : State) : State :=
  let o := fldN t.cmd.params 0 2
  s.modIngest fun g => { g with
    xfer := tabPut none g.xfer o
      (some { ticket := t, entries := es, sdrKhz := (s.dyn.cfg.bus o).sdrKhz, i2cKhz := (s.dyn.cfg.bus o).i2cKhz }) }

/-- What the entries of a list that was read lead to. -/
def xferOfEntries (t : Ticket) (es : List (BitVec 128)) (s : State) : Option State :=
  match xferChecks t s es with
  | some st => some (writeRecord t st noResult s)
  | none => if xferWaits t es s then none else some (xferBegun t es s)

/-- What the read of the list leads to. -/
def xferOfRead (t : Ticket) : State × Access (List Byte) → Option State
  | (s, .uncorrectable) => some (writeRecord t 0x000B noResult s)
  | (s, .addressFault) => some (writeRecord t 0x00C3 noResult s)
  | (s, .ok d) => xferOfEntries t (xferEntries (fldN t.cmd.params 128 8) d) s

theorem actXfer_eq : actXfer t s = (firstOf (xferListChecks t s)).elim (xferOfRead t (readXferList t s))
    fun st => some (writeRecord t st noResult s) := by
  simp only [xferListChecks, firstOf_elim_cons, firstOf_elim_nil, actXfer]
  refine if_congr Iff.rfl rfl (if_congr (by simp) rfl (if_congr Iff.rfl rfl ?_))
  rw [readXferList, xferList]
  rcases readVirt t.src t.cmd.berth (fldN t.cmd.params 64 40) (16 * fldN t.cmd.params 128 8) s with ⟨s1, _ | _ | _⟩ <;> rfl

/-- The checks before the read of the list, asked of an admitted packet. -/
theorem xferListChecks_admitted : xferListChecks (ticketOf opXfer c s) (admitted c s) =
    [ (!(c.path == .supervisor || bitAt (s.dyn.cfg.berth c.berth).i3cGrant (fldN c.params 0 2)), 0x00C1),
      (fldN c.params 128 8 == 0 || fldN c.params 64 40 % 16 != 0, 0x00C0),
      (!(admitted c s).readable c.berth (fldN c.params 64 40) (16 * fldN c.params 128 8), 0x00C3) ] := by
  rw [xferListChecks, admitted_cfg]
  rfl

section Entries

variable {es : List (BitVec 128)}

theorem xferOfEntries_of_refused (h : xferChecks t s es = some st) :
    xferOfEntries t es s = some (writeRecord t st noResult s) := by
  simp only [xferOfEntries, h]

variable (h : xferChecks t s es = none)
include h

theorem xferOfEntries_of_waits (hwaits : xferWaits t es s = true) : xferOfEntries t es s = none := by
  simp only [xferOfEntries, h, hwaits, if_true]

theorem xferOfEntries_of_free (hfree : xferWaits t es s = false) : xferOfEntries t es s = some (xferBegun t es s) := by
  simp only [xferOfEntries, h, hfree, Bool.false_eq_true, if_false]

end Entries

section Xfer

variable (h : Admits opXfer c s = true)
include h

theorem i3cXfer_of_admits : exec (.i3cXfer c) s = .next ((actXfer (ticketOf opXfer c s) (admitted c s)).getD s) :=
  carryWait_admitted h actXfer

theorem i3cXfer_of_refused (hfails : firstOf (xferListChecks (ticketOf opXfer c s) (admitted c s)) = some st) :
    exec (.i3cXfer c) s = .next (answered opXfer c st noResult s) := by
  rw [i3cXfer_of_admits h, actXfer_eq, hfails, Option.elim_some, Option.getD_some, answered]

/-- A list that passes its checks is read, and what that answers decides. -/
theorem i3cXfer_of_read {x : State × Access (List Byte)}
    (hgranted : (c.path == .supervisor || bitAt (s.dyn.cfg.berth c.berth).i3cGrant (fldN c.params 0 2)) = true)
    (hsome : fldN c.params 128 8 ≠ 0) (haligned : fldN c.params 64 40 % 16 = 0)
    (hreadable : (admitted c s).readable c.berth (fldN c.params 64 40) (16 * fldN c.params 128 8) = true)
    (hread : readXferList (ticketOf opXfer c s) (admitted c s) = x) :
    exec (.i3cXfer c) s = .next ((xferOfRead (ticketOf opXfer c s) x).getD s) := by
  have passes : firstOf (xferListChecks (ticketOf opXfer c s) (admitted c s)) = none := by
    rw [xferListChecks_admitted, hgranted, hreadable, haligned, firstOf_cons, firstOf_cons, firstOf_cons]
    simp [hsome]
  rw [i3cXfer_of_admits h, actXfer_eq, passes, Option.elim_none, hread]

end Xfer

/-- Settles O25: each transfer goes from its checks to its reads, and then waits or begins. The model's readings: a port that
is not in memory mode answers 0x00C0, and the lines are read once, when the command starts (log 107). -/
theorem transfersAndStreamStatus : Obligations.TransfersAndStreamStatus := by
  refine ⟨fun c s => getStreamStatus_of_admits, fun c s h => ?send, fun c s h => ?xfer⟩
  case send =>
    have begins {s1 d} hpasses hfree (hread : readLines (ticketOf opSend c s) (admitted c s) = (s1, d)) :=
      (csiTxSend_of_free h hpasses (sendWaits_admitted.trans hfree)).trans (by rw [hread])
    exact ⟨fun st => csiTxSend_of_refused h,
      fun hpasses hwaits => csiTxSend_of_waits h hpasses (sendWaits_admitted.trans hwaits),
      fun s1 d => begins, fun s1 => begins, fun s1 => begins⟩
  case xfer =>
    refine ⟨fun st hfails => i3cXfer_of_refused h (by rw [xferListChecks_admitted]; exact hfails),
      fun s1 hgranted hsome haligned hreadable => ⟨i3cXfer_of_read h hgranted hsome haligned hreadable,
        i3cXfer_of_read h hgranted hsome haligned hreadable⟩,
      fun s1 d hgranted hsome haligned hreadable hread => ?_⟩
    have entries {o} (ho : xferOfEntries (ticketOf opXfer c s) (xferEntries (fldN c.params 128 8) d) s1 = o) :
        exec (.i3cXfer c) s = .next (o.getD s) :=
      (i3cXfer_of_read h hgranted hsome haligned hreadable hread).trans (by rw [xferOfRead, ticketOf_cmd, ho])
    exact ⟨fun st hfails => entries (xferOfEntries_of_refused hfails),
      fun hpasses hwaits => entries (xferOfEntries_of_waits hpasses hwaits),
      fun hpasses hfree => entries (xferOfEntries_of_free hpasses hfree)⟩

end Sys2Proof.Machine
end

section
/-! PROOFS. What every step keeps: the meaning of each command, and an idle step, keep memory in canonical form and the
waiting commands as they are. -/

namespace Sys2Proof.Machine

variable {s : State} {q : List Instr}

/-- Whatever command runs, the lemma of its meaning says that it keeps memory canonical and the waiting commands. -/
theorem exec_keeps (h : Keeps q s) : ∀ c : Instr, IfNext (exec c s) (Keeps q)
  | .echo c => execEcho_keeps c h
  | .negotiate c => execNegotiate_keeps c h
  | .getDeviceStatus c => execGetDeviceStatus_keeps c h
  | .lockCommit c => execLockCommit_keeps c h
  | .getWeather c => execGetWeather_keeps c h
  | .setPowerPolicy c => execSetPowerPolicy_keeps c h
  | .modelRegister c => execModelRegister_keeps c h
  | .modelUnregister c => execModelUnregister_keeps c h
  | .modelInvoke c => execModelInvoke_keeps c h
  | .getModel c => execGetModel_keeps c h
  | .setResidency c => execSetResidency_keeps c h
  | .modelPreload c => execModelPreload_keeps c h
  | .programLoad c => execProgramLoad_keeps c h
  | .programUnload c => execProgramUnload_keeps c h
  | .laneDispatch c => execLaneDispatch_keeps c h
  | .tensorMatmul c => execTensorMatmul_keeps c h
  | .tensorConvert c => execTensorConvert_keeps c h
  | .tensorSeedSr c => execTensorSeedSr_keeps c h
  | .rasterCtxCreate c => execRasterCtxCreate_keeps c h
  | .rasterCtxDestroy c => execRasterCtxDestroy_keeps c h
  | .getRasterCtx c => execGetRasterCtx_keeps c h
  | .rasterStateLoad c => execRasterStateLoad_keeps c h
  | .rasterStateFree c => execRasterStateFree_keeps c h
  | .rasterPass c => execRasterPass_keeps c h
  | .binGrow c => execBinGrow_keeps c h
  | .binAbandon c => execBinAbandon_keeps c h
  | .imageClear c => execImageClear_keeps c h
  | .imageResolve c => execImageResolve_keeps c h
  | .displayConfigure c => execDisplayConfigure_keeps c h
  | .displayPresent c => execDisplayPresent_keeps c h
  | .getDisplay c => execGetDisplay_keeps c h
  | .cutSet c => execCutSet_keeps c h
  | .cutClear c => execCutClear_keeps c h
  | .streamConfig c => execStreamConfig_keeps c h
  | .csiRxConfig c => execCsiRxConfig_keeps c h
  | .triggerConfig c => execTriggerConfig_keeps c h
  | .csiTxConfig c => execCsiTxConfig_keeps c h
  | .csiTxSend c => execCsiTxSend_keeps c h
  | .i3cConfig c => execI3cConfig_keeps c h
  | .i3cXfer c => execI3cXfer_keeps c h
  | .getStreamStatus c => execGetStreamStatus_keeps c h
  | .fusionGroupConfig c => execFusionGroupConfig_keeps c h
  | .fusionStreamConfig c => execFusionStreamConfig_keeps c h
  | .fusionPairSet c => execFusionPairSet_keeps c h
  | .fusionPublish c => execFusionPublish_keeps c h
  | .fusionAssoc c => execFusionAssoc_keeps c h
  | .getFusionStatus c => execGetFusionStatus_keeps c h
  | .timeDomainConfig c => execTimeDomainConfig_keeps c h
  | .timePortConfig c => execTimePortConfig_keeps c h
  | .timeSelect c => execTimeSelect_keeps c h
  | .timePortMeasure c => execTimePortMeasure_keeps c h
  | .getTimeStatus c => execGetTimeStatus_keeps c h
  | .gaugeSet c => execGaugeSet_keeps c h
  | .gaugeClear c => execGaugeClear_keeps c h
  | .getGauge c => execGetGauge_keeps c h
  | .soundingSet c => execSoundingSet_keeps c h
  | .mooringStore c => execMooringStore_keeps c h
  | .selfTest c => execSelfTest_keeps c h
  | .supervisorHeartbeat c => execSupervisorHeartbeat_keeps c h
  | .doubtRelease c => execDoubtRelease_keeps c h
  | .getSafetyStatus c => execGetSafetyStatus_keeps c h
  | .serviceEnter c => execServiceEnter_keeps c h
  | .serviceLeave c => execServiceLeave_keeps c h
  | .getBringupStatus c => execGetBringupStatus_keeps c h
  | .tileTest c => execTileTest_keeps c h
  | .tileRetire c => execTileRetire_keeps c h
  | .getTileMap c => execGetTileMap_keeps c h
  | .getErrorLog c => execGetErrorLog_keeps c h
  | .getDefectLog c => execGetDefectLog_keeps c h
  | .getLinkStatus c => execGetLinkStatus_keeps c h
  | .berthCreate c => execBerthCreate_keeps c h
  | .berthModify c => execBerthModify_keeps c h
  | .berthReset c => execBerthReset_keeps c h
  | .berthDestroy c => execBerthDestroy_keeps c h
  | .getBerth c => execGetBerth_keeps c h
  | .berthGrant c => execBerthGrant_keeps c h
  | .basinCreate c => execBasinCreate_keeps c h
  | .basinModify c => execBasinModify_keeps c h
  | .basinDestroy c => execBasinDestroy_keeps c h
  | .getBasin c => execGetBasin_keeps c h
  | .queueCreate c => execQueueCreate_keeps c h
  | .queueModify c => execQueueModify_keeps c h
  | .queueDestroy c => execQueueDestroy_keeps c h
  | .getQueue c => execGetQueue_keeps c h
  | .queueResume c => execQueueResume_keeps c h
  | .memAlloc c => execMemAlloc_keeps c h
  | .memMapWindow c => execMemMapWindow_keeps c h
  | .memFree c => execMemFree_keeps c h
  | .memProtect c => execMemProtect_keeps c h
  | .getMapping c => execGetMapping_keeps c h
  | .getFwIdentity c => execGetFwIdentity_keeps c h
  | .getDeviceIdentity c => execGetDeviceIdentity_keeps c h
  | .licenceInstall c => execLicenceInstall_keeps c h
  | .getLicence c => execGetLicence_keeps c h
  | .fwUpdate c => execFwUpdate_keeps c h
  | .fwUpdateRecovery c => execFwUpdateRecovery_keeps c h
  | .doorbellWrite q value => execDoorbellWrite_keeps q value h
  | .mailboxPost m ackToo => execMailboxPost_keeps m ackToo h
  | .mailboxAck m postToo => execMailboxAck_keeps m postToo h
  | .registerWrite addr data => execRegisterWrite_keeps addr data h
  | .mailboxTake m => execMailboxTake_keeps m h
  | .queueEntryTake q => execQueueEntryTake_keeps q h
  | .commandCancel q => execCommandCancel_keeps q h
  | .i3cPrivateWrite bytes => execI3cPrivateWrite_keeps bytes h
  | .i3cReplyRead len => execI3cReplyRead_keeps len h
  | .entdaa addr => execEntdaa_keeps addr h
  | .setdasa addr => execSetdasa_keeps addr h
  | .setnewda addr => execSetnewda_keeps addr h
  | .rstdaa => execRstdaa_keeps h
  | .getpid => execGetpid_keeps h
  | .getbcr => execGetbcr_keeps h
  | .getdcr => execGetdcr_keeps h
  | .getstatus => execGetstatus_keeps h
  | .getmrl => execGetmrl_keeps h
  | .getmwl => execGetmwl_keeps h
  | .enec events => execEnec_keeps events h
  | .disec events => execDisec_keeps events h
  | .kberthWrite hart value virtualMode => execKberthWrite_keeps hart value virtualMode h
  | .shadowClose => execShadowClose_keeps h
  | .commitEdge => execCommitEdge_keeps h
  | .configFree => execConfigFree_keeps h
  | .voidRangeClear b => execVoidRangeClear_keeps b h
  | .frameZero frame => execFrameZero_keeps frame h
  | .handoverComplete t => execHandoverComplete_keeps t h
  | .memoryRead r addr len flips reserve => execMemoryRead_keeps r addr len flips reserve h
  | .memoryWrite r addr data conditional => execMemoryWrite_keeps r addr data conditional h
  | .memoryAtomic r addr op size8 operand compare => execMemoryAtomic_keeps r addr op size8 operand compare h
  | .releaseFence t job => execReleaseFence_keeps t job h
  | .patrolRead pa flips => execPatrolRead_keeps pa flips h
  | .creditReturn unit k safety => execCreditReturn_keeps unit k safety h
  | .weatherWindow t pace tj vlocal => execWeatherWindow_keeps t pace tj vlocal h
  | .governorSample ma vcore vmem vio visl => execGovernorSample_keeps ma vcore vmem vio visl h
  | .regulatorRetry => execRegulatorRetry_keeps h
  | .tileStateEnter t => execTileStateEnter_keeps t h
  | .tileWake t => execTileWake_keeps t h
  | .tileWakeDone t => execTileWakeDone_keeps t h
  | .jobChoose basin => execJobChoose_keeps basin h
  | .jobBorrow work t => execJobBorrow_keeps work t h
  | .shardSwitch job shard => execShardSwitch_keeps job shard h
  | .modelStepStart job turn step => execModelStepStart_keeps job turn step h
  | .arrayLoad job turn => execArrayLoad_keeps job turn h
  | .jobComplete job fault => execJobComplete_keeps job fault h
  | .workgroupPlace job => execWorkgroupPlace_keeps job h
  | .bundleIssue t group op sram => execBundleIssue_keeps t group op sram h
  | .barrierRelease t group wg => execBarrierRelease_keeps t group wg h
  | .workgroupEnd t group wg => execWorkgroupEnd_keeps t group wg h
  | .timeLimitExpiry job => execTimeLimitExpiry_keeps job h
  | .dispatchComplete job => execDispatchComplete_keeps job h
  | .batchDeal ctx t sram => execBatchDeal_keeps ctx t sram h
  | .chunkRequest ctx batch => execChunkRequest_keeps ctx batch h
  | .batchPublish ctx batch => execBatchPublish_keeps ctx batch h
  | .weirTimeout ctx => execWeirTimeout_keeps ctx h
  | .screenTileBind ctx t => execScreenTileBind_keeps ctx t h
  | .fragmentBundle ctx screenTile sram => execFragmentBundle_keeps ctx screenTile sram h
  | .writeOut ctx turn => execWriteOut_keeps ctx turn h
  | .passComplete ctx signal => execPassComplete_keeps ctx signal h
  | .displayLatchPoint o => execDisplayLatchPoint_keeps o h
  | .displayFrameStart o => execDisplayFrameStart_keeps o h
  | .scanOutLine o line arrived => execScanOutLine_keeps o line arrived h
  | .triggerPulse o => execTriggerPulse_keeps o h
  | .frameStart port vc fn => execFrameStart_keeps port vc fn h
  | .startPacket mac udpPort payload fragmented => execStartPacket_keeps mac udpPort payload fragmented h
  | .longPacket port vc dt payload err => execLongPacket_keeps port vc dt payload err h
  | .lidarPacket mac udpPort payload fragmented => execLidarPacket_keeps mac udpPort payload fragmented h
  | .frameEnd stream => execFrameEnd_keeps stream h
  | .missing stream => execMissing_keeps stream h
  | .i3cIbi bus addr payload => execI3cIbi_keeps bus addr payload h
  | .sampleArrive stream => execSampleArrive_keeps stream h
  | .instantClose g => execInstantClose_keeps g h
  | .level0Publish g => execLevel0Publish_keeps g h
  | .syncReceive port domainNumber origin followUp ingress => execSyncReceive_keeps port domainNumber origin followUp ingress h
  | .syncSend port d => execSyncSend_keeps port d h
  | .pdelayExchange port t1 t2 t3 t4 rateRatio => execPdelayExchange_keeps port t1 t2 t3 t4 rateRatio h
  | .portLinkUp port txPath rxPath => execPortLinkUp_keeps port txPath rxPath h
  | .syncLoss d => execSyncLoss_keeps d h
  | .holdoverExpiry d => execHoldoverExpiry_keeps d h
  | .workingClockSlew => execWorkingClockSlew_keeps h
  | .tcxoCheck ppm => execTcxoCheck_keeps ppm h
  | .beaconSend peer => execBeaconSend_keeps peer h
  | .beaconReceive peer wc stratum linkDelay => execBeaconReceive_keeps peer wc stratum linkDelay h
  | .tokenProduce pair copy tok badWord => execTokenProduce_keeps pair copy tok badWord h
  | .skewTime pair => execSkewTime_keeps pair h
  | .beatWrite pair => execBeatWrite_keeps pair h
  | .beatWatchdog pair => execBeatWatchdog_keeps pair h
  | .roleTakeover => execRoleTakeover_keeps h
  | .inputToken pair kind halfA halfB => execInputToken_keeps pair kind halfA halfB h
  | .asyncEventTake pair => execAsyncEventTake_keeps pair h
  | .readPortRead pair pa flips => execReadPortRead_keeps pair pa flips h
  | .debugHalt pair countA countB => execDebugHalt_keeps pair countA countB h
  | .debugStep pair countA countB => execDebugStep_keeps pair countA countB h
  | .debugAccess pair write addr a b => execDebugAccess_keeps pair write addr a b h
  | .islandWeatherWindow pace tj => execIslandWeatherWindow_keeps pace tj h
  | .islandStart facts => execIslandStart_keeps facts h
  | .islReset => execIslReset_keeps h
  | .playoutStart => execPlayoutStart_keeps h
  | .planEntrySend index => execPlanEntrySend_keeps index h
  | .finalRepeat channel stream => execFinalRepeat_keeps channel stream h
  | .gaugeDeadline g => execGaugeDeadline_keeps g h
  | .stampReadResponse g flips => execStampReadResponse_keeps g flips h
  | .stampReadTimeout g => execStampReadTimeout_keeps g h
  | .expiredGaugePoll g => execExpiredGaugePoll_keeps g h
  | .soundingRelease instant => execSoundingRelease_keeps instant h
  | .soundingWindowEnd => execSoundingWindowEnd_keeps h
  | .soundingComplete outputs fault => execSoundingComplete_keeps outputs fault h
  | .drizzleSlot => execDrizzleSlot_keeps h
  | .drizzleSliceEnd failed => execDrizzleSliceEnd_keeps failed h
  | .heartbeatDeadline => execHeartbeatDeadline_keeps h
  | .errorRecordSecond => execErrorRecordSecond_keeps h
  | .coldStart facts => execColdStart_keeps facts h
  | .warmResetAssert => execWarmResetAssert_keeps h
  | .warmResetRelease facts => execWarmResetRelease_keeps facts h
  | .corePwrgdFall => execCorePwrgdFall_keeps h
  | .vmemOutOfRange => execVmemOutOfRange_keeps h
  | .islPwrgdFall => execIslPwrgdFall_keeps h
  | .portTrainingDone port id => execPortTrainingDone_keeps port id h
  | .flitReceive port seq ack nak crcOk laneBad body => execFlitReceive_keeps port seq ack nak crcOk laneBad body h
  | .peerSilent port => execPeerSilent_keeps port h
  | .inboundTransaction port tx => execInboundTransaction_keeps port tx h
  | .lockRead port tx => execLockRead_keeps port tx h
  | .lockWrite port tx => execLockWrite_keeps port tx h
  | .lockTimeout column => execLockTimeout_keeps column h
  | .lockRetryReceive port tag => execLockRetryReceive_keeps port tag h
  | .lockResend tag => execLockResend_keeps tag h
  | .sideBandPoll peer => execSideBandPoll_keeps peer h
  | .sideBandRecord peer lockCycle running latch live notify =>
    execSideBandRecord_keeps peer lockCycle running latch live notify h
  | .peerCutCopy cut peerBerth record => execPeerCutCopy_keeps cut peerBerth record h
  | .txRingPoll ch => execTxRingPoll_keeps ch h
  | .rxFrame ch format pcp frame => execRxFrame_keeps ch format pcp frame h
  | .setpointReadPoint cls => execSetpointReadPoint_keeps cls h
  | .setpointSlot cls => execSetpointSlot_keeps cls h
  | .pcieInbound bus addr write len => execPcieInbound_keeps bus addr write len h
  | .pcieTimeout tag => execPcieTimeout_keeps tag h
  | .tileSelfTestEnd t failingBlock => execTileSelfTestEnd_keeps t failingBlock h
  | .i3cTransferEnd bus done result readBytes => execI3cTransferEnd_keeps bus done result readBytes h
  | .csiTxFrameEnd port => execCsiTxFrameEnd_keeps port h
  | .txFrameDone ch sent => execTxFrameDone_keeps ch sent h
  | .portLinkDown mac => execPortLinkDown_keeps mac h
  | .busOff ch entered => execBusOff_keeps ch entered h
  | .pcieCompletion tag data ok => execPcieCompletion_keeps tag data ok h
  | .debugResume pair => execDebugResume_keeps pair h
  | .flashWriteEnd readBackOk => execFlashWriteEnd_keeps readBackOk h

/-- A command leaves the commands behind it as they waited. -/
theorem exec_inv (c : Instr) (h : s.Inv) : IfNext (exec c s) fun t => t.Inv ∧ t.pending = s.pending :=
  exec_keeps ⟨h, rfl⟩ c

/-- A step is an idle one, or runs the front command on the state with the rest of the queue, whose memory is the same. -/
theorem step_inv (h : s.Inv) : IfNext (step s) State.Inv := by
  rw [step]
  cases hq : s.pending with
  | nil =>
    intro t ht
    cases ht
    exact (idle_keeps ⟨h, rfl⟩).1
  | cons c rest =>
    intro t ht
    exact (exec_inv (s := { s with pending := rest }) c h t ht).1

/-- Settles O4: each command's meaning keeps memory canonical and the commands that wait, and so does a tick. -/
theorem everyStepKeepsTheInvariant : Obligations.EveryStepKeepsTheInvariant :=
  ⟨fun _ h => step_inv h, fun c _ h => exec_inv c h⟩

end Sys2Proof.Machine
end

section
/-! PROOFS. The memory commands (R200, R216 to R220): refused at device scope, left waiting while the berth's entries may not
be judged yet, and else settled by their plan: the first check of R218 that fails, or the entries the command writes. -/

namespace Sys2Proof.Machine

variable {op : OpInfo} {c : Cmd} {s s' : State} {t : Ticket} {k : Shadow} {p : MemPlan} {i : Instr}
  {checks : List (Bool × Nat)}

/-! Waiting, and what a plan brings -/

/-- A memory command is kept among the open commands until it can be checked (R200, R219; log entry 30). -/
def memKept (op : OpInfo) (c : Cmd) (s : State) : State := (admitted c s).modLock fun k =>
  { k with openCmds := k.openCmds ++ [ticketOf op c s], waiting := k.waiting ++ [ticketOf op c s] }

/-- What a plan makes of its command: refused, or entered with its entries in the open shadow. -/
def planned (op : OpInfo) (c : Cmd) (s : State) : MemPlan → State
  | .refuse st => answered op c st noResult s
  | .plan k es => entered op c { k with xlat := putEntries k.xlat es } s

@[simp] theorem memMustWait_admitted {b : BitVec 6} : memMustWait (admitted c s) b = memMustWait s b := by
  simp only [memMustWait, admitted_lock]

theorem mem_of_device (h : Admits op c s = true) (hdevice : c.device = true) :
    carry op c (acceptConfig ruleMem) s = .next (answered op c 0x0004 noResult s) :=
  config_refuse h (by simp [ruleMem, memPlan, hdevice])

section Berth

variable (h : Admits op c s = true) (hdevice : c.device = false)
include h hdevice

theorem mem_of_waits (hwaits : memMustWait s c.berth = true) :
    carry op c (acceptConfig ruleMem) s = .next (memKept op c s) := by
  rw [carry_admitted h]
  simp [acceptConfig, ruleMem, hdevice, hwaits, memKept]

theorem mem_of_plan (hfree : memMustWait s c.berth = false)
    (hplan : memPlan (admitted c s) (ticketOf op c s) s.lock.opn = p) :
    carry op c (acceptConfig ruleMem) s = .next (planned op c s p) := by
  cases p with
  | plan k es => exact config_pass (r := noResult) h (by simp [ruleMem, hdevice, hfree, hplan])
  | refuse st => exact config_refuse (r := noResult) h (by simp [ruleMem, hdevice, hfree, hplan])

/-- A plan that asks its checks first: the first that holds refuses, and when none holds the rest of the plan decides. -/
theorem mem_of_checks (hi : exec i s = carry op c (acceptConfig ruleMem) s) (hfree : memMustWait s c.berth = false)
    (hplan : memPlan (admitted c s) (ticketOf op c s) s.lock.opn = (firstOf checks).elim p .refuse) :
    (∀ st, (checks.findSome? fun x => if x.1 then some x.2 else none) = some st →
      exec i s = .next (answered op c st noResult s))
    ∧ ((checks.findSome? fun x => if x.1 then some x.2 else none) = none → exec i s = .next (planned op c s p)) := by
  rw [findSome?_check, hi, mem_of_plan h hdevice hfree hplan]
  exact ⟨fun st hst => by rw [hst]; rfl, fun hnone => by rw [hnone]; rfl⟩

end Berth

/-! What the four plans judge -/

/-- The entries of a command's range, in ascending order of address. -/
def Ticket.entries (t : Ticket) (k : Shadow) : List Nat :=
  k.mapEntries t.cmd.berth (memVa t.cmd.params) (memPages t.cmd.params)

/-- Check 1 of R218 for a command's range. -/
def Ticket.rangeOk (t : Ticket) (k : Shadow) : Bool := k.mapRangeOk t.cmd.berth (memVa t.cmd.params) (memPages t.cmd.params)

/-- A watching Gauge's stamp lies in a command's range (R448). -/
def Ticket.watched (t : Ticket) (k : Shadow) : Bool := k.stampOn t.cmd.berth (memVa t.cmd.params) (memPages t.cmd.params)

/-- The entry of a number is valid. -/
def Shadow.entryValid (k : Shadow) (n : Nat) : Bool := (tabGet {} k.xlat n).valid

/-- The entries of a command's range, each with the frame beside it. -/
def Ticket.mapped (t : Ticket) (k : Shadow) (e : XlatEntry) (fs : List Nat) : List (Nat × XlatEntry) :=
  ((t.entries k).zip fs).map fun ef => (ef.1, { e with frame := BitVec.ofNat 32 ef.2 })

/-! MEM_ALLOC -/

/-- PLACE of MEM_ALLOC: the whole device, a basin, or one tile. -/
def Ticket.place (t : Ticket) : Nat := fldN t.cmd.params 96 2

/-- WHERE of MEM_ALLOC. -/
def Ticket.whereTo (t : Ticket) : Nat := fldN t.cmd.params 112 10

/-- An entry of MEM_ALLOC, but for its frame. -/
def allocEntry (t : Ticket) : XlatEntry := ({ valid := true, owner := t.cmd.berth } : XlatEntry).withFlags t.cmd.params

/-- The checks of MEM_ALLOC before its frames are looked for. -/
def allocChecks (t : Ticket) (k : Shadow) : List (Bool × Nat) :=
  [ (!t.rangeOk k, 0x00A0), (!entryFlagsOk (allocEntry t) || (t.place == 2 && !k.enabled t.whereTo), 0x00A1),
    (t.place == 1 && !t.ownsBasin k t.whereTo, 0x0050), ((t.entries k).any k.entryValid, 0x00A2),
    (decide ((k.berth t.cmd.berth).memQuota.toNat < (k.berth t.cmd.berth).memUsed.toNat + memPages t.cmd.params), 0x00A5) ]

/-- The columns that an allocation takes in turn (R217): those behind the berth's last one, those of the basin's tiles from
its turn on, or the one of a tile. -/
def allocColumns (t : Ticket) (k : Shadow) : List Nat :=
  let tiles := if t.place = 1 then k.tilesUnder t.whereTo else []
  let turn := tabGet 0 k.basinNext (t.cmd.berth.toNat * 1024 + t.whereTo)
  if t.place = 0 then turnAfter (fun col => col + 1 == tabGet 0 k.spreadNext t.cmd.berth.toNat) (upFrom 0 36)
  else if t.place = 2 then [t.whereTo].filterMap k.physOf
  else ((tiles.filter fun l => turn ≤ l) ++ (tiles.filter fun l => l < turn)).filterMap k.physOf

/-- A shadow that holds the frames of an allocation, once the pages are counted on the berth's descriptor `d` and the turn is
kept: `last` is the column last used. -/
def Shadow.allocated (t : Ticket) (d : BerthDesc) (last : Nat) (held : Shadow) : Shadow :=
  { held with
    berths := tabPut {} held.berths t.cmd.berth.toNat
      { d with memUsed := d.memUsed + BitVec.ofNat 24 (memPages t.cmd.params) },
    spreadNext := if t.place = 0 then tabPut 0 held.spreadNext t.cmd.berth.toNat (last + 1) else held.spreadNext,
    basinNext := if t.place = 1
      then tabPut 0 held.basinNext (t.cmd.berth.toNat * 1024 + t.whereTo) ((held.logicalOf last).getD 0 + 1)
      else held.basinNext }

/-- What the search for frames makes of an allocation. -/
def allocFound (t : Ticket) (k : Shadow) : Option (List Nat × List Nat × Shadow) → MemPlan
  | none => .refuse 0x00A6
  | some (fs, next, held) =>
    .plan (held.allocated t (k.berth t.cmd.berth) (next.getLast?.getD 0)) (t.mapped k (allocEntry t) fs)

/-- PLACE decides which columns are searched and which turn moves on; the five checks before stand alike on both sides. -/
theorem planAlloc_eq : planAlloc s t k = (firstOf (allocChecks t k)).elim
    (allocFound t k (placePages s.free t.cmd.berth (memPages t.cmd.params) (allocColumns t k) k)) .refuse := by
  simp only [allocChecks, firstOf_elim_cons, firstOf_elim_nil, decide_eq_true_eq]
  rw [planAlloc]
  iterate 5 refine if_congr Iff.rfl rfl ?_
  unfold allocColumns Ticket.place Ticket.whereTo
  obtain ⟨place, hplace⟩ : ∃ place, fldN t.cmd.params 96 2 = place := ⟨_, rfl⟩
  obtain rfl | rfl | rfl | ⟨h0, h1, h2⟩ :
      place = 0 ∨ place = 1 ∨ place = 2 ∨ (place ≠ 0 ∧ place ≠ 1 ∧ place ≠ 2) := by omega
  all_goals
    simp +decide only [*, if_true, if_false]
    generalize placePages _ _ _ _ _ = found
    cases found with
    | none => rfl
    | some x => simp +decide only [allocFound, Shadow.allocated, Ticket.place, *, if_true, if_false]; rfl

/-! MEM_MAP_WINDOW -/

/-- The frames that MEM_MAP_WINDOW maps. -/
def windowFrames (t : Ticket) : List Nat := upFrom (fldN t.cmd.params 160 32) (memPages t.cmd.params)

/-- An entry of MEM_MAP_WINDOW, but for its frame. -/
def windowEntry (t : Ticket) : XlatEntry :=
  ({ valid := true, owner := t.cmd.berth, target := fld t.cmd.params 96 2, device := fld t.cmd.params 112 2 }
    : XlatEntry).withFlags t.cmd.params

/-- The checks of MEM_MAP_WINDOW. -/
def windowChecks (s : State) (t : Ticket) (k : Shadow) : List (Bool × Nat) :=
  [ (!t.rangeOk k, 0x00A0),
    (decide (0x100000000 < fldN t.cmd.params 160 32 + memPages t.cmd.params)
      || (fldN t.cmd.params 96 2 == 2 && !(windowFrames t).all fun f => registerFrame f || pcieFrame f)
      || !(t.mapped k (windowEntry t) (windowFrames t)).all (fun x => entryFlagsOk x.2), 0x00A1),
    ((t.entries k).any k.entryValid, 0x00A2),
    (!(windowFrames t).all (windowGranted s k t.cmd.berth (fldN t.cmd.params 96 2) (fldN t.cmd.params 112 2)
      (windowEntry t).device1), 0x00A4) ]

theorem planWindow_eq : planWindow s t k = (firstOf (windowChecks s t k)).elim
    (.plan k (t.mapped k (windowEntry t) (windowFrames t))) .refuse := by
  simp only [windowChecks, firstOf_elim_cons, firstOf_elim_nil, Bool.or_eq_true, decide_eq_true_eq]
  rw [planWindow]
  simp only [Bool.or_eq_true, decide_eq_true_eq]
  rfl

/-! MEM_FREE -/

/-- The checks of MEM_FREE. -/
def freeChecks (t : Ticket) (k : Shadow) : List (Bool × Nat) :=
  [(!t.rangeOk k, 0x00A0), (!(t.entries k).all k.entryValid, 0x00A3), (t.watched k, 0x0053)]

/-- The DRAM frames that the entries of a command's range name. -/
def Ticket.dramFrames (t : Ticket) (k : Shadow) : List Nat := (t.entries k).filterMap fun n =>
  let e := tabGet {} k.xlat n
  if e.target = 0 then some e.frame.toNat else none

theorem planFree_eq : planFree s t k = (firstOf (freeChecks t k)).elim
    (.plan { k with frames := framesFreed t.cmd.berth (s.lock.number.toNat + 1) (t.dramFrames k) k.frames }
      ((t.entries k).map fun n => (n, {}))) .refuse := by
  simp only [freeChecks, firstOf_elim_cons, firstOf_elim_nil]
  rfl

/-! MEM_PROTECT -/

/-- The entries of a command's range under the flags of MEM_PROTECT. -/
def Ticket.reflagged (t : Ticket) (k : Shadow) : List (Nat × XlatEntry) :=
  (t.entries k).map fun n => (n, (tabGet {} k.xlat n).withFlags t.cmd.params)

/-- The checks of MEM_PROTECT. -/
def protectChecks (t : Ticket) (k : Shadow) : List (Bool × Nat) :=
  [ (!t.rangeOk k, 0x00A0), (!(t.reflagged k).all (fun x => entryFlagsOk x.2), 0x00A1),
    (!(t.entries k).all k.entryValid, 0x00A3), (!bitAt t.cmd.params 128 && t.watched k, 0x0053) ]

theorem planProtect_eq : planProtect t k = (firstOf (protectChecks t k)).elim (.plan k (t.reflagged k)) .refuse := by
  simp only [protectChecks, firstOf_elim_cons, firstOf_elim_nil]
  rfl

/-! Each command has its plan -/

section Plans

variable (hdevice : c.device = false)
include hdevice

theorem memPlan_memAlloc : memPlan s (ticketOf opMemAlloc c s') k = planAlloc s (ticketOf opMemAlloc c s') k := by
  simp [memPlan, hdevice, opMemAlloc]

theorem memPlan_memMapWindow :
    memPlan s (ticketOf opMemMapWindow c s') k = planWindow s (ticketOf opMemMapWindow c s') k := by
  simp [memPlan, hdevice, opMemMapWindow]

theorem memPlan_memFree : memPlan s (ticketOf opMemFree c s') k = planFree s (ticketOf opMemFree c s') k := by
  simp [memPlan, hdevice, opMemFree]

theorem memPlan_memProtect : memPlan s (ticketOf opMemProtect c s') k = planProtect (ticketOf opMemProtect c s') k := by
  simp [memPlan, hdevice, opMemProtect]

end Plans

/-- MEM_ALLOC is refused by its checks, and once they pass the search for frames decides. -/
theorem memAlloc_of_checks (h : Admits opMemAlloc c s = true) (hdevice : c.device = false)
    (hfree : memMustWait s c.berth = false) :
    let t := ticketOf opMemAlloc c s
    let search := (allocChecks t s.lock.opn).findSome? fun x => if x.1 then some x.2 else none
    (∀ st, search = some st → exec (.memAlloc c) s = .next (answered opMemAlloc c st noResult s))
    ∧ (search = none → ∀ found,
        placePages (admitted c s).free c.berth (memPages c.params) (allocColumns t s.lock.opn) s.lock.opn = found →
        exec (.memAlloc c) s = .next (planned opMemAlloc c s (allocFound t s.lock.opn found))) := by
  intro t search
  have plan := mem_of_checks (i := .memAlloc c) h hdevice rfl hfree ((memPlan_memAlloc hdevice).trans planAlloc_eq)
  exact ⟨plan.1, fun hpasses _ hfound => hfound ▸ plan.2 hpasses⟩

/-- Settles O13: a memory command is refused at device scope, waits, or is settled by its plan. Which free frame of a column is
taken is the device's choice (log entry 70), and what a command waits for is log entry 30's. -/
theorem memoryCommandsChangeTheTranslation : Obligations.MemoryCommandsChangeTheTranslation := by
  refine ⟨fun c s hdevice => ?device, fun c s hdevice hwaits => ?waits, fun c s hdevice hfree =>
    ⟨fun h => ?alloc, fun h => ?window, fun h => ?free, fun h => ?protect⟩⟩
  case device =>
    exact ⟨fun h => mem_of_device h hdevice, fun h => mem_of_device h hdevice, fun h => mem_of_device h hdevice,
      fun h => mem_of_device h hdevice⟩
  case waits =>
    exact ⟨fun h => mem_of_waits h hdevice hwaits, fun h => mem_of_waits h hdevice hwaits,
      fun h => mem_of_waits h hdevice hwaits, fun h => mem_of_waits h hdevice hwaits⟩
  case alloc =>
    have plan := memAlloc_of_checks h hdevice hfree
    exact ⟨plan.1, fun hpasses => ⟨plan.2 hpasses none, fun fs next held => plan.2 hpasses (some (fs, next, held))⟩⟩
  case window => exact mem_of_checks h hdevice rfl hfree ((memPlan_memMapWindow hdevice).trans planWindow_eq)
  case free =>
    have plan := mem_of_checks (i := .memFree c) h hdevice rfl hfree ((memPlan_memFree hdevice).trans planFree_eq)
    rw [admitted_lock] at plan
    exact plan
  case protect => exact mem_of_checks h hdevice rfl hfree ((memPlan_memProtect hdevice).trans planProtect_eq)

end Sys2Proof.Machine
end

section
/-! PROOFS. Reads and writes of DRAM whose lines are clean codewords (R190, R191, R193): a read delivers the bytes stored and
moves nothing, and a write lands line by line. -/

namespace Sys2Proof.Machine

variable {a : Src} {s : State} {m : Memory} {pa l n : Nat} {bs : List Byte} {f : Nat → Byte}

/-- Memory is canonical, every line is a codeword, and no frame is marked. -/
structure State.Clean (s : State) : Prop where
  inv : s.Inv
  errs : s.mem.errs = []
  frames : s.dyn.errors.badFrames = []

/-- The byte stored at an address. -/
def Memory.byteAt (m : Memory) (x : Nat) : Byte := tabGet 0 m.bytes x

/-! Reading -/

theorem upFrom_eq_range' {lo : Nat} : upFrom lo n = List.range' lo n := by
  induction n generalizing lo with
  | zero => rfl
  | succ n ih => rw [upFrom, List.range'_succ, ih]

theorem take_range' {lo k : Nat} : (List.range' lo n).take k = List.range' lo (min k n) :=
  List.ext_getElem (by simp) fun i _ _ => by simp

theorem lineBytes_eq : m.lineBytes l = (List.range' (64 * l) 64).map m.byteAt := by
  rw [Memory.lineBytes, upFrom_eq_range']; rfl

@[simp] theorem length_lineBytes : (m.lineBytes l).length = 64 := by simp [lineBytes_eq]

/-- Nothing differs from the codeword, so the data are the bytes stored. -/
theorem zipWith_symData_zero : List.zipWith (· ^^^ ·) (m.lineBytes l) (symData 0) = m.lineBytes l :=
  List.ext_getElem (by simp [symData, upFrom_eq_range']) fun i _ _ => by simp [symData, symAt, fld]

theorem readLine_of_errs_nil (h : m.errs = []) : m.readLine l = some (m.lineBytes l, none) := by
  have clean : m.err l = 0 := by rw [Memory.err, h]; rfl
  have verdict : lineVerdict 0 = .clean := if_pos rfl
  simp only [Memory.readLine, clean, verdict, zipWith_symData_zero]

namespace State.Clean

variable (h : s.Clean)
include h

theorem badFrame : s.badFrame n = false := by rw [State.badFrame, h.frames]; rfl

theorem readDramLine_eq : readDramLine a l s = (s, some (s.mem.lineBytes l)) := by
  simp [readDramLine, h.badFrame, readLine_of_errs_nil h.errs]

theorem readDramLines_eq {ls : List Nat} : readDramLines a ls s = (s, some (ls.flatMap s.mem.lineBytes)) := by
  induction ls with
  | nil => rfl
  | cons l ls ih => simp [readDramLines, h.readDramLine_eq, ih]

end State.Clean

/-- The bytes of consecutive lines are consecutive. -/
theorem flatMap_lineBytes : (List.range' l n).flatMap m.lineBytes = (List.range' (64 * l) (64 * n)).map m.byteAt := by
  induction n generalizing l with
  | zero => rfl
  | succ n ih =>
    rw [List.range'_succ, List.flatMap_cons, ih, lineBytes_eq, ← List.map_append, mul_add, mul_one, List.range'_append_1]
    congr 2
    omega

/-- A range of addresses lies, from its offset in its first line on, in the lines it touches. -/
theorem take_drop_linesOf :
    (((linesOf pa n).flatMap m.lineBytes).drop (pa % 64)).take n = (List.range' pa n).map m.byteAt := by
  by_cases hn : n = 0
  · simp [hn]
  rw [linesOf, if_neg hn, upFrom_eq_range', flatMap_lineBytes, ← List.map_drop, ← List.map_take, List.drop_range',
    take_range', mul_one, Nat.div_add_mod, min_eq_left (by omega)]

/-- A read of clean lines delivers the bytes of its range, and moves nothing. -/
theorem State.Clean.readDram_eq (h : s.Clean) : readDram a pa n s = (s, some ((List.range' pa n).map s.mem.byteAt)) := by
  rw [readDram, h.readDramLines_eq, ← take_drop_linesOf]

/-! Writing -/

/-- The bytes `f` with `bs` written from `pa` on. -/
def overlay (pa : Nat) (bs : List Byte) (f : Nat → Byte) (x : Nat) : Byte :=
  if pa ≤ x ∧ x < pa + bs.length then bs.getD (x - pa) 0 else f x

theorem overlay_nil : overlay pa [] f = f := by funext x; simp [overlay]

theorem overlay_take_drop : overlay (pa + n) (bs.drop n) (overlay pa (bs.take n) f) = overlay pa bs f := by
  funext x
  simp only [overlay, List.length_drop, List.length_take, List.getD_eq_getElem?_getD, List.getElem?_drop]
  by_cases hin : pa ≤ x ∧ x < pa + bs.length
  · by_cases hlater : pa + n ≤ x
    · rw [if_pos (by omega), if_pos hin, show n + (x - (pa + n)) = x - pa by omega]
    · rw [if_neg (by omega), if_pos (by omega), if_pos hin, List.getElem?_take_of_lt (by omega)]
  · rw [if_neg (by omega), if_neg (by omega), if_neg hin]

theorem overlay_cons {b : Byte} : overlay (pa + 1) bs (overlay pa [b] f) = overlay pa (b :: bs) f :=
  overlay_take_drop (n := 1) (bs := b :: bs)

theorem overlay_append {cs : List Byte} : overlay pa (bs ++ cs) f = overlay (pa + bs.length) cs (overlay pa bs f) := by
  rw [← overlay_take_drop (n := bs.length), List.drop_left, List.take_left]

/-- Writing what is there changes nothing. -/
theorem overlay_same {g : Nat → Byte} (h : ∀ x, pa ≤ x → x < pa + n → f x = g x) :
    overlay pa ((List.range' pa n).map f) g = g := by
  funext x
  rw [overlay]
  split
  · next hin =>
    rw [List.length_map, List.length_range'] at hin
    have hi : x - pa < n := by omega
    simp [hi, hin.1, h x hin.1 hin.2]
  · rfl

theorem byteAt_putBytes {bytes : Tab Byte} (hwf : tabWf 0 bytes = true) :
    tabGet 0 (putBytes bytes pa bs) = overlay pa bs (tabGet 0 bytes) := by
  induction bs generalizing bytes pa with
  | nil => rw [overlay_nil]; rfl
  | cons b bs ih =>
    have one : tabGet 0 (tabPut 0 bytes pa b) = overlay pa [b] (tabGet 0 bytes) := by
      funext x
      rw [tabGet_tabPut hwf, overlay]
      by_cases hx : x = pa
      · simp [hx]
      · rw [if_neg hx, if_neg (by simp; omega)]
    rw [putBytes, ih (tabPut_wf hwf pa b), one, overlay_cons]

theorem endLockOn_leaves : (endLockOn l s).mem = s.mem ∧ (endLockOn l s).dyn.errors = s.dyn.errors := by
  unfold endLockOn
  dsimp only
  split
  · split <;> exact ⟨rfl, rfl⟩
  · exact ⟨rfl, rfl⟩

@[simp] theorem endLockOn_mem : (endLockOn l s).mem = s.mem := endLockOn_leaves.1
@[simp] theorem endLockOn_errors : (endLockOn l s).dyn.errors = s.dyn.errors := endLockOn_leaves.2

/-- Line `pa / 64` with `bs` written into it at `pa`. -/
def Memory.merged (m : Memory) (pa : Nat) (bs : List Byte) : List Byte :=
  (m.lineBytes (pa / 64)).take (pa % 64) ++ bs ++ (m.lineBytes (pa / 64)).drop (pa % 64 + bs.length)

theorem merged_of_whole (hlength : bs.length = 64) (halign : pa % 64 = 0) : m.merged pa bs = bs := by
  simp [Memory.merged, hlength, halign]

theorem takeBytes_of_length (h : bs.length = n) : takeBytes n bs = bs := by
  induction bs generalizing n with
  | nil => subst h; rfl
  | cons b bs ih => subst h; rw [List.length_cons, takeBytes, ih rfl]

theorem length_merged (hfits : pa % 64 + bs.length ≤ 64) : (m.merged pa bs).length = 64 := by
  simp [Memory.merged]; omega

/-- The merged line over its own addresses is the bytes written, over all others. -/
theorem overlay_merged : overlay (64 * (pa / 64)) (m.merged pa bs) m.byteAt = overlay pa bs m.byteAt := by
  have before : (m.lineBytes (pa / 64)).take (pa % 64) = (List.range' (64 * (pa / 64)) (pa % 64)).map m.byteAt := by
    rw [lineBytes_eq, ← List.map_take, take_range', min_eq_left (by omega)]
  have after : (m.lineBytes (pa / 64)).drop (pa % 64 + bs.length)
      = (List.range' (pa + bs.length) (64 - (pa % 64 + bs.length))).map m.byteAt := by
    rw [lineBytes_eq, ← List.map_drop, List.drop_range', mul_one, ← add_assoc, Nat.div_add_mod]
  rw [Memory.merged, before, after, overlay_append, overlay_append, overlay_same fun _ _ _ => rfl]
  simp only [List.length_append, List.length_map, List.length_range', ← add_assoc, Nat.div_add_mod]
  refine overlay_same fun x hafter _ => ?_
  rw [overlay, if_neg (by omega)]

/-- A whole line replaces the codeword, and a part is merged into the stored line: either way the line is the merged one. -/
theorem State.Clean.writeDramLine_eq (h : s.Clean) : writeDramLine a pa bs s =
    ((endLockOn (pa / 64) s).modMem fun m => m.setLine (pa / 64) (s.mem.merged pa bs), true) := by
  have clean : (endLockOn (pa / 64) s).Clean := ⟨by rw [State.Inv, State.memOk, endLockOn_mem]; exact h.inv,
    by rw [endLockOn_mem]; exact h.errs, by rw [endLockOn_errors]; exact h.frames⟩
  rw [writeDramLine]
  by_cases hwhole : bs.length = 64 ∧ pa % 64 = 0
  · simp [clean.badFrame, hwhole, merged_of_whole hwhole.1 hwhole.2]
  · simp [clean.badFrame, hwhole, clean.readDramLine_eq, Memory.merged]

/-- The write of `bs` at `pa` is committed from `s` on and leaves `x.1`: clean lines, with the bytes written and no others. -/
structure Landed (pa : Nat) (bs : List Byte) (s : State) (x : State × Bool) : Prop where
  committed : x.2 = true
  clean : x.1.Clean
  bytes : x.1.mem.byteAt = overlay pa bs s.mem.byteAt

theorem byteAt_setLine (hwf : m.wf = true) (hlength : bs.length = 64) :
    (m.setLine l bs).byteAt = overlay (64 * l) bs m.byteAt := by
  have bytes : (m.setLine l bs).bytes = putBytes m.bytes (64 * l) bs := by rw [Memory.setLine, takeBytes_of_length hlength]
  exact (congrArg (tabGet 0) bytes).trans (byteAt_putBytes (Memory.wf_iff.mp hwf).1)

theorem State.Clean.writeDramLine_landed (h : s.Clean) (hfits : pa % 64 + bs.length ≤ 64) :
    Landed pa bs s (writeDramLine a pa bs s) := by
  have mem : (writeDramLine a pa bs s).1.mem = s.mem.setLine (pa / 64) (s.mem.merged pa bs) := by
    simp [h.writeDramLine_eq]
  constructor
  case committed => rw [h.writeDramLine_eq]
  case clean =>
    refine ⟨?_, ?_, ?_⟩
    · rw [State.Inv, State.memOk, mem]; exact Memory.setLine_wf h.inv _ _
    · simp [mem, Memory.setLine, h.errs, tabPut]
    · simp [h.writeDramLine_eq, h.frames]
  case bytes => rw [mem, byteAt_setLine h.inv (length_merged hfits), overlay_merged]

theorem State.Clean.writeDramN_landed (h : s.Clean) (hfuel : bs.length < n) : Landed pa bs s (writeDramN a n pa bs s) := by
  induction n generalizing pa bs s with
  | zero => omega
  | succ n ih =>
    rw [writeDramN]
    split
    · next hempty =>
      obtain rfl := List.isEmpty_iff.mp hempty
      exact ⟨rfl, h, overlay_nil.symm⟩
    · next hsome =>
      have hpositive : 0 < bs.length := List.length_pos_iff.mpr (by simpa using hsome)
      have first := h.writeDramLine_landed (a := a) (pa := pa) (bs := bs.take (64 - pa % 64)) (by simp; omega)
      have rest := ih (pa := pa + (64 - pa % 64)) (bs := bs.drop (64 - pa % 64)) first.clean (by simp; omega)
      exact ⟨by simp [first.committed, rest.committed], rest.clean, by rw [rest.bytes, first.bytes, overlay_take_drop]⟩

theorem State.Clean.writeDram_landed (h : s.Clean) : Landed pa bs s (writeDram a pa bs s) :=
  h.writeDramN_landed (Nat.lt_succ_self _)

/-- The bytes of a range just written are the ones written. -/
theorem map_overlay : (List.range' pa bs.length).map (overlay pa bs f) = bs :=
  List.ext_getElem (by simp) fun i hi _ => by
    have hlt : i < bs.length := by simpa using hi
    simp [overlay, hlt]

/-- Settles O41: the write goes line by line, and what it left is read back. -/
theorem aWriteChangesItsBytesAlone : Obligations.AWriteChangesItsBytesAlone := by
  intro a pa bs s hinv herrs hframes t
  have landed : Landed pa bs s (writeDram a pa bs s) := State.Clean.writeDram_landed ⟨hinv, herrs, hframes⟩
  refine ⟨landed.committed, landed.clean.errs, congrFun landed.bytes, ?_⟩
  rw [landed.clean.readDram_eq, landed.bytes, map_overlay]

end Sys2Proof.Machine
end

section
/-! PROOFS. The raster context and state commands (R223, R226, R228, R256): each asks its checks in their order, and one that
passes writes its context or its handle in the open shadow. -/

namespace Sys2Proof.Machine

variable {op : OpInfo} {c : Cmd} {s : State} {t : Ticket} {k : Shadow} {n i j : Nat}

/-- The shadow with one raster context written. -/
def Shadow.withContext (n : Nat) (x : RasterCtx) (k : Shadow) : Shadow :=
  { k with rasterCtx := tabPut {} k.rasterCtx n x }

/-- The shadow with one state handle of a berth written. -/
def Shadow.withState (b : BitVec 6) (h : Nat) (x : Option RState) (k : Shadow) : Shadow :=
  { k with rasterState := tabPut none k.rasterState (b.toNat * 1024 + h) x }

/-- What is entered does not depend on the result that the record will carry. -/
theorem config_settled_with {rule : ConfigRule} {cfg : Shadow} {checks : List (Bool × Nat)} {r : Result}
    (h : Admits op c s = true) (hr : rule (admitted c s) (ticketOf op c s) s.lock.opn
      = (firstOf checks).elim (.pass cfg r) fun st => .refuse st noResult) :
    carry op c (acceptConfig rule) s = .next (settled op c checks cfg s) := by
  cases hfirst : firstOf checks with
  | none =>
    rw [hfirst] at hr
    rw [config_pass h hr, settled_of_passed hfirst]
  | some st =>
    rw [hfirst] at hr
    rw [config_refuse h hr, settled_of_refused hfirst]

/-! RASTER_CTX_CREATE (R226) -/

/-- The context that the parameters of RASTER_CTX_CREATE describe, with the stamp of the lock cycle that makes it. -/
def contextOfParams (p : Params) (b : BitVec 6) (cycle : Nat) : RasterCtx :=
  { valid := true, compositor := bitAt p 1, berth := b, basin := fld p 16 10, eventQueue := fld p 32 18,
    binVa := fld p 64 40, binPages := fld p 128 24, weirTimeout := fld p 192 16, made := cycle }

/-- The queue is a completion queue of the berth. -/
def Shadow.completionQueueOf (k : Shadow) (b : BitVec 6) (q : Nat) : Bool :=
  (k.queueDesc q).valid && (k.queueDesc q).kind == 1 && (k.queueDesc q).berth == b

/-- The checks of RASTER_CTX_CREATE once a context is free: the basin, the event queue, the binning region. -/
def ctxCreateChecks (t : Ticket) (k : Shadow) : List (Bool × Nat) :=
  let p := t.cmd.params
  [ (!t.ownsBasin k (fldN p 16 10), 0x0050), (!k.completionQueueOf t.cmd.berth (fldN p 32 18), 0x0091),
    (fldN p 128 24 < 2 || 1048576 < fldN p 128 24 || !k.binOk t.cmd.berth (fldN p 64 40) (fldN p 128 24), 0x00B5) ]

/-- RASTER_CTX_CREATE picks one of the free contexts, and then its checks decide. -/
theorem ruleCtxCreate_eq : ruleCtxCreate s t k =
    (pickFree (Config.pick s.free 0) (fun i => (k.context i).valid) 512).elim (.refuse 0x00B1 noResult) fun n =>
      (firstOf (ctxCreateChecks t k)).elim
        (.pass (k.withContext n (contextOfParams t.cmd.params t.cmd.berth (s.lock.number.toNat + 1))) (shortResult [(0, 9, n)]))
        fun st => .refuse st noResult := by
  simp only [ctxCreateChecks, firstOf_elim_cons, firstOf_elim_nil, ruleCtxCreate, pickFree]
  cases pickFrom (Config.pick s.free 0) ((upFrom 0 512).filter fun i => !(k.context i).valid) <;> rfl

theorem rasterCtxCreate_of_full (h : Admits opCtxCreate c s = true)
    (hfull : ∀ i, i < 512 → (s.lock.opn.context i).valid = true) :
    exec (.rasterCtxCreate c) s = .next (answered opCtxCreate c 0x00B1 noResult s) :=
  config_refuse h (by rw [ruleCtxCreate_eq, pickFree_of_full hfull, Option.elim_none])

/-- With a context free, some free context is taken, and the command is settled by its checks. -/
theorem rasterCtxCreate_of_free (h : Admits opCtxCreate c s = true) (hj : j < 512)
    (hfree : (s.lock.opn.context j).valid = false) :
    ∃ n, n < 512 ∧ (s.lock.opn.context n).valid = false ∧ exec (.rasterCtxCreate c) s = .next (settled opCtxCreate c
      (ctxCreateChecks (ticketOf opCtxCreate c s) s.lock.opn)
      (s.lock.opn.withContext n (contextOfParams c.params c.berth (s.lock.number.toNat + 1))) s) := by
  obtain ⟨n, hn, hunused, hpick⟩ := pickFree_of_free (pick := Config.pick (admitted c s).free 0)
    (used := fun i => (s.lock.opn.context i).valid) hj hfree
  exact ⟨n, hn, hunused, config_settled_with h (by rw [ruleCtxCreate_eq, hpick, Option.elim_some, admitted_lock]; rfl)⟩

/-! RASTER_CTX_DESTROY (R226) -/

/-- The checks of RASTER_CTX_DESTROY: the context is not the caller's, or its pass runs or one waits for it. -/
def ctxDestroyChecks (t : Ticket) (s : State) (n : Nat) (k : Shadow) : List (Bool × Nat) :=
  [ (!t.ownsCtx k n, 0x00B0), ((s.pass n).phase != .idle || s.passWaits (k.context n).berth (· == n), 0x00B6) ]

theorem ruleCtxDestroy_eq (hn : n = fldN t.cmd.params 0 9) : ruleCtxDestroy s t k =
    (firstOf (ctxDestroyChecks t s n k)).elim (.pass (k.withContext n {}) noResult) fun st => .refuse st noResult := by
  subst hn
  simp only [ctxDestroyChecks, firstOf_elim_cons, firstOf_elim_nil]
  rfl

theorem rasterCtxDestroy_settled (h : Admits opCtxDestroy c s = true) (hn : n = fldN c.params 0 9) :
    exec (.rasterCtxDestroy c) s = .next (settled opCtxDestroy c
      (ctxDestroyChecks (ticketOf opCtxDestroy c s) (admitted c s) n s.lock.opn) (s.lock.opn.withContext n {}) s) :=
  config_settled h (ruleCtxDestroy_eq (t := ticketOf opCtxDestroy c s) hn)

/-! BIN_GROW (R256) -/

/-- The checks of BIN_GROW: the context is not the caller's, or it is a compositor, or its region would shrink, grow past the
limit or reach past what is mapped. -/
def binGrowChecks (t : Ticket) (n : Nat) (k : Shadow) : List (Bool × Nat) :=
  let x := k.context n
  let pages := fldN t.cmd.params 128 24
  [ (!t.ownsCtx k n, 0x00B0),
    (x.compositor || pages < x.binPages.toNat || 1048576 < pages
      || !k.binOk x.berth (x.binVa.toNat + x.binPages.toNat * 0x10000) (pages - x.binPages.toNat), 0x00B5) ]

/-- A context with a new page count, and the stamp of the lock cycle that grows it. -/
def RasterCtx.grownTo (x : RasterCtx) (pages cycle : Nat) : RasterCtx :=
  { x with binPages := BitVec.ofNat 24 pages, grown := cycle }

theorem ruleBinGrow_eq (hn : n = fldN t.cmd.params 0 9) : ruleBinGrow s t k = (firstOf (binGrowChecks t n k)).elim
    (.pass (k.withContext n ((k.context n).grownTo (fldN t.cmd.params 128 24) (s.lock.number.toNat + 1))) noResult)
    fun st => .refuse st noResult := by
  subst hn
  simp only [binGrowChecks, firstOf_elim_cons, firstOf_elim_nil]
  rfl

theorem binGrow_settled (h : Admits opBinGrow c s = true) (hn : n = fldN c.params 0 9) :
    exec (.binGrow c) s = .next (settled opBinGrow c (binGrowChecks (ticketOf opBinGrow c s) n s.lock.opn)
      (s.lock.opn.withContext n ((s.lock.opn.context n).grownTo (fldN c.params 128 24) (s.lock.number.toNat + 1))) s) :=
  config_settled h (by rw [ruleBinGrow_eq (t := ticketOf opBinGrow c s) hn, admitted_lock, ticketOf_cmd])

/-! RASTER_STATE_LOAD (R228) -/

/-- The state block that bytes spell. -/
def stateWord (d : List Byte) : RState := BitVec.ofNat 1024 (ofBytes d)

/-- The block that a ticket's copy spells does not fit: its fields, or the programs it names (R228). -/
def stateUnfit (t : Ticket) (k : Shadow) : Bool :=
  let x := stateWord t.data
  !stateFieldsOk x || !k.programKind t.cmd.berth (fldN x 32 6) 1
    || (rsFragEn x && !k.programKind t.cmd.berth (fldN x 40 6) 2)

theorem acceptState_of_unfit (hunfit : stateUnfit t s.lock.opn = true) :
    acceptConfig ruleStateLoad t s = writeRecord t 0x00B2 noResult s :=
  acceptConfig_refuse (if_pos hunfit)

/-- A block that fits takes one of the berth's free handles. -/
theorem ruleStateLoad_of_fit (hfit : stateUnfit t k = false) : ruleStateLoad s t k =
    (pickFree (Config.pick s.free 0) (fun h => !(k.stateBlock t.cmd.berth h).isNone) 1024).elim (.refuse 0x00B1 noResult)
      fun h => .pass (k.withState t.cmd.berth h (some (stateWord t.data))) (shortResult [(0, 10, h)]) := by
  refine (if_neg (ne_true_of_eq_false hfit)).trans ?_
  simp only [pickFree, Bool.not_not]
  cases pickFrom (Config.pick s.free 0) ((upFrom 0 1024).filter fun h => (k.stateBlock t.cmd.berth h).isNone) <;> rfl

theorem acceptState_of_full (hfit : stateUnfit t s.lock.opn = false)
    (hfull : ∀ h, h < 1024 → (s.lock.opn.stateBlock t.cmd.berth h).isNone = false) :
    acceptConfig ruleStateLoad t s = writeRecord t 0x00B1 noResult s :=
  acceptConfig_refuse (by
    rw [ruleStateLoad_of_fit hfit, pickFree_of_full fun h hh => congrArg not (hfull h hh), Option.elim_none])

theorem acceptState_of_free (hfit : stateUnfit t s.lock.opn = false) (hj : j < 1024)
    (hfree : (s.lock.opn.stateBlock t.cmd.berth j).isNone = true) :
    ∃ h, h < 1024 ∧ (s.lock.opn.stateBlock t.cmd.berth h).isNone = true ∧
      acceptConfig ruleStateLoad t s = enter t (s.lock.opn.withState t.cmd.berth h (some (stateWord t.data))) s := by
  obtain ⟨h, hh, hunused, hpick⟩ := pickFree_of_free (pick := Config.pick s.free 0)
    (used := fun h => !(s.lock.opn.stateBlock t.cmd.berth h).isNone) hj (congrArg not hfree)
  exact ⟨h, hh, by simpa using hunused, acceptConfig_pass (by rw [ruleStateLoad_of_fit hfit, hpick, Option.elim_some])⟩

/-- What the one read of the block leads to. -/
def stateOfRead (t : Ticket) : State × Access (List Byte) → State
  | (s, .uncorrectable) => writeRecord t 0x000B noResult s
  | (s, .addressFault) => writeRecord t 0x00B4 noResult s
  | (s, .ok d) => acceptConfig ruleStateLoad (t.carrying d) s

theorem actStateLoad_eq : actStateLoad t s =
    if fldN t.cmd.params 0 40 % 64 ≠ 0 ∨ s.readable t.cmd.berth (fldN t.cmd.params 0 40) 128 = false then
      writeRecord t 0x00B4 noResult s
    else stateOfRead t (readVirt t.src t.cmd.berth (fldN t.cmd.params 0 40) 128 s) := by
  refine if_congr (by rw [Bool.or_eq_true, decide_eq_true_eq, Bool.not_eq_true']) rfl ?_
  rcases readVirt t.src t.cmd.berth (fldN t.cmd.params 0 40) 128 s with ⟨s1, _ | _ | _⟩ <;> rfl

theorem rasterStateLoad_of_admits (h : Admits opStateLoad c s = true) :
    exec (.rasterStateLoad c) s = .next (actStateLoad (ticketOf opStateLoad c s) (admitted c s)) :=
  carry_admitted h actStateLoad

theorem rasterStateLoad_of_unreadable (h : Admits opStateLoad c s = true)
    (hbad : fldN c.params 0 40 % 64 ≠ 0 ∨ s.readable c.berth (fldN c.params 0 40) 128 = false) :
    exec (.rasterStateLoad c) s = .next (answered opStateLoad c 0x00B4 noResult s) := by
  rw [rasterStateLoad_of_admits h, actStateLoad_eq, ticketOf_cmd, admitted_readable, if_pos hbad, answered]

/-- A block that may be read is read once, and what that answers decides. -/
theorem rasterStateLoad_of_read {x : State × Access (List Byte)} (h : Admits opStateLoad c s = true)
    (haligned : fldN c.params 0 40 % 64 = 0) (hreadable : s.readable c.berth (fldN c.params 0 40) 128 = true)
    (hread : readVirt (ticketOf opStateLoad c s).src c.berth (fldN c.params 0 40) 128 (admitted c s) = x) :
    exec (.rasterStateLoad c) s = .next (stateOfRead (ticketOf opStateLoad c s) x) := by
  rw [rasterStateLoad_of_admits h, actStateLoad_eq, ticketOf_cmd, admitted_readable, if_neg (by simp [haligned, hreadable]),
    hread]

/-! RASTER_STATE_FREE (R228) -/

/-- The checks of RASTER_STATE_FREE: the handle is free, or a pass of the berth has not completed. -/
def stateFreeChecks (b : BitVec 6) (s : State) (i : Nat) (k : Shadow) : List (Bool × Nat) :=
  [((k.stateBlock b i).isNone, 0x00B0), (s.berthPasses b, 0x00B6)]

theorem ruleStateFree_eq (hi : i = fldN t.cmd.params 0 10) : ruleStateFree s t k =
    (firstOf (stateFreeChecks t.cmd.berth s i k)).elim (.pass (k.withState t.cmd.berth i none) noResult)
      fun st => .refuse st noResult := by
  subst hi
  simp only [stateFreeChecks, firstOf_elim_cons, firstOf_elim_nil]
  rfl

theorem rasterStateFree_settled (h : Admits opStateFree c s = true) (hi : i = fldN c.params 0 10) :
    exec (.rasterStateFree c) s = .next (settled opStateFree c (stateFreeChecks c.berth (admitted c s) i s.lock.opn)
      (s.lock.opn.withState c.berth i none) s) :=
  config_settled h (ruleStateFree_eq (t := ticketOf opStateFree c s) hi)

/-! GET_RASTER_CTX (R223) -/

theorem getRasterCtx_of_owned (h : Admits opGetCtx c s = true) (hn : n = fldN c.params 0 9)
    (howned : (ticketOf opGetCtx c s).ownsCtx s.snap.cfg n = true) : exec (.getRasterCtx c) s = .next
      (answered opGetCtx c 0 (rasterRecord (s.snap.cfg.context n) (tabGet {} s.snap.raster.passes n)) s) := by
  subst hn
  exact admitted_answer h (by simp only [actGetCtx, ticketOf_cmd, admitted_snap, howned, if_true])

theorem getRasterCtx_of_not_owned (h : Admits opGetCtx c s = true) (hn : n = fldN c.params 0 9)
    (hother : (ticketOf opGetCtx c s).ownsCtx s.snap.cfg n = false) :
    exec (.getRasterCtx c) s = .next (answered opGetCtx c 0x00B0 noResult s) := by
  subst hn
  exact admitted_answer h (by simp only [actGetCtx, ticketOf_cmd, admitted_snap, hother, Bool.false_eq_true, if_false])

/-- Settles O20: a configuration command goes down its list of checks, behind the pick of a free context or handle where it
takes one, and GET_RASTER_CTX reads what the last lock cycle latched. A BIN_GROW to the page count that stands passes, as R256
says. -/
theorem rasterContextCommandsFollowTheirChecks : Obligations.RasterContextCommandsFollowTheirChecks := by
  refine ⟨fun c s h => ⟨rasterCtxCreate_of_full h, fun j hj hfree => ?create⟩, fun c s n h hn => ?destroy,
    fun c s n h hn => ?grow, fun c s h => ⟨rasterStateLoad_of_unreadable h, fun haligned hreadable => ?load⟩,
    fun c s i h hi => ?free,
    fun c s n h hn => ⟨getRasterCtx_of_owned h hn, getRasterCtx_of_not_owned h hn⟩⟩
  case create =>
    obtain ⟨n, hn, hunused, creates⟩ := rasterCtxCreate_of_free h hj hfree
    have owned (howned : _ = true) := exec_past_check creates (congrArg not howned)
    have queued howned (hqueue : _ = true) := exec_past_check (owned howned) (congrArg not hqueue)
    exact ⟨fun hother => exec_of_check creates (congrArg not hother),
      fun howned hqueue => exec_of_check (owned howned) (congrArg not hqueue),
      fun howned hqueue => exec_of_check (queued howned hqueue),
      fun howned hqueue hbin => ⟨n, hn, hunused, exec_past_check (queued howned hqueue) hbin⟩⟩
  case destroy =>
    have destroys := rasterCtxDestroy_settled h hn
    have owned (howned : _ = true) := exec_past_check destroys (congrArg not howned)
    exact ⟨fun hother => exec_of_check destroys (congrArg not hother), fun howned => exec_of_check (owned howned),
      fun howned => exec_past_check (owned howned)⟩
  case grow =>
    have grows := binGrow_settled h hn
    have owned (howned : _ = true) := exec_past_check grows (congrArg not howned)
    exact ⟨fun hother => exec_of_check grows (congrArg not hother), fun howned => exec_of_check (owned howned),
      fun howned => exec_past_check (owned howned)⟩
  case load =>
    have reads {x} := rasterStateLoad_of_read (x := x) h haligned hreadable
    refine ⟨fun s1 => reads, fun s1 => reads, fun s1 d hread => ?_⟩
    have judged : exec (.rasterStateLoad c) s
        = .next (acceptConfig ruleStateLoad ((ticketOf opStateLoad c s).carrying d) s1) := reads hread
    refine ⟨fun hunfit => judged.trans (congrArg _ (acceptState_of_unfit hunfit)),
      fun hfit hfull => judged.trans (congrArg _ (acceptState_of_full hfit hfull)), fun j hfit hj hfree => ?_⟩
    obtain ⟨i, hi, hunused, enters⟩ :=
      acceptState_of_free (t := (ticketOf opStateLoad c s).carrying d) hfit hj hfree
    exact ⟨i, hi, hunused, judged.trans (congrArg _ enters)⟩
  case free =>
    have frees := rasterStateFree_settled h hi
    exact ⟨exec_of_check frees, fun hused => exec_of_check (exec_past_check frees hused),
      fun hused => exec_past_check (exec_past_check frees hused)⟩

end Sys2Proof.Machine
end

section
/-! PROOFS. RASTER_PASS and BIN_ABANDON (R141, R168, R230 to R232, R234, R257): a pass is refused by a check or by the read of
its targets, starts on the leaf basin of its context, or waits; a pass that bins or stands at the weir is ended. -/

namespace Sys2Proof.Machine

variable {c : Cmd} {s s1 : State} {t : Ticket} {st : Nat} {p : PassRun}

/-! RASTER_PASS -/

/-- The job of a pass whose targets have been read in state `s`: a compositor's goes first on its slices (R286). -/
def passJob (t : Ticket) (x : RasterCtx) (leaf : Nat) (s : State) : Job :=
  { kind := .pass, ticket := t, berth := t.cmd.berth, gen := t.gen, queue := pathQueue? t.cmd.path,
    priority := if x.compositor then 7 else pathPriority t s, basin := BitVec.ofNat 10 leaf, since := s.now16 }

/-- A pass whose targets have been read in state `s` starts on its leaf. -/
def passStarted (t : Ticket) (x : RasterCtx) (leaf : Nat) (p : PassRun) (s : State) : State :=
  startPass (fldN t.cmd.params 0 9) x { p with jobNo := s.dyn.work.nextJob, leaf := leaf } (addJob (passJob t x leaf s) s)

theorem rasterPass_of_admits (h : Admits opPass c s = true) : exec (.rasterPass c) s =
    .next (((actPass (ticketOf opPass c s) (admitted c s)).map (startable c s)).getD s) :=
  carryWait_admitted h fun t x => (actPass t x).map (startable c s)

section Act

variable {x : RasterCtx} (hx : s.dyn.cfg.context (fldN t.cmd.params 0 9) = x)
include hx

theorem actPass_of_refused (hfails : passChecks s t x = some st) : actPass t s = some (writeRecord t st noResult s) := by
  subst hx
  simp only [actPass, hfails]

variable (hpasses : passChecks s t x = none)
include hpasses

theorem actPass_of_not_read (hread : readTargets t x (leafFor t none x.basin.toNat s).1 = (s1, .error st)) :
    actPass t s = some (writeRecord t st noResult s1) := by
  subst hx
  simp only [actPass, hpasses, hread]

variable (hread : readTargets t x (leafFor t none x.basin.toNat s).1 = (s1, .ok p))
include hread

theorem actPass_of_ready (hready : passReady s1 (fldN t.cmd.params 0 9) (leafFor t none x.basin.toNat s).2 x t p = true) :
    actPass t s = some (passStarted t x (leafFor t none x.basin.toNat s).2 p s1) := by
  subst hx
  simp only [actPass, hpasses, hread, hready, if_true]
  rfl

theorem actPass_of_not_ready
    (hlacks : passReady s1 (fldN t.cmd.params 0 9) (leafFor t none x.basin.toNat s).2 x t p = false) :
    actPass t s = waitPass t (passJob t x (leafFor t none x.basin.toNat s).2 s1) s1 := by
  subst hx
  simp only [actPass, hpasses, hread, hlacks, Bool.false_eq_true, if_false]
  rfl

end Act

/-- A pass on a queue that waits names its leaf. -/
theorem waitPass_of_queue {j : Job} (hqueue : pathQueue? t.cmd.path ≠ none) :
    waitPass t j s = some (addJob { j with placed := false } s) := by
  obtain ⟨q, hq⟩ := Option.ne_none_iff_exists'.mp hqueue
  rw [waitPass, hq, Option.map_some]

theorem waitPass_of_no_queue {j : Job} (hqueue : pathQueue? t.cmd.path = none) : waitPass t j s = none := by
  rw [waitPass, hqueue, Option.map_none]

section Pass

variable (h : Admits opPass c s = true)
include h

/-- A pass that takes its packet leaves a state that may start, or the packet in its place. -/
theorem rasterPass_of_acts {u : State} (hacts : actPass (ticketOf opPass c s) (admitted c s) = some u) :
    exec (.rasterPass c) s = .next (startable c s u) := by
  rw [rasterPass_of_admits h, hacts, Option.map_some, Option.getD_some]

theorem rasterPass_of_waits (hwaits : actPass (ticketOf opPass c s) (admitted c s) = none) :
    exec (.rasterPass c) s = .next s := by
  rw [rasterPass_of_admits h, hwaits, Option.map_none, Option.getD_none]

end Pass

/-! BIN_ABANDON (R257) -/

/-- A pass that BIN_ABANDON does not end: a compositor's (log entry 91), or one that neither bins nor stands at the weir. -/
def State.keepsPass (s : State) (n : Nat) : Bool :=
  (s.dyn.cfg.context n).compositor || !((s.pass n).phase == .binning || (s.pass n).phase == .weir)

/-- The checks of BIN_ABANDON: the context is not the caller's, or its pass is not to be ended. -/
def abandonChecks (t : Ticket) (s : State) : List (Bool × Nat) :=
  let n := fldN t.cmd.params 0 9
  [(!t.ownsCtx s.dyn.cfg n, 0x00B0), (s.keepsPass n, 0x00B7)]

theorem actAbandon_eq : actAbandon t s = (firstOf (abandonChecks t s)).elim
    (writeRecord t 0 noResult (endPass (fldN t.cmd.params 0 9) 0x00B9 0 s)) fun st => writeRecord t st noResult s := by
  simp only [abandonChecks, firstOf_elim_cons, firstOf_elim_nil]
  rfl

theorem abandonChecks_admitted : abandonChecks (ticketOf opAbandon c s) (admitted c s) =
    [ (!(ticketOf opAbandon c s).ownsCtx s.dyn.cfg (fldN c.params 0 9), 0x00B0), (s.keepsPass (fldN c.params 0 9), 0x00B7) ] := by
  simp only [abandonChecks, State.keepsPass, State.pass, ticketOf_cmd, admitted_cfg, admitted_raster]

theorem binAbandon_of_admits (h : Admits opAbandon c s = true) :
    exec (.binAbandon c) s = .next (actAbandon (ticketOf opAbandon c s) (admitted c s)) := carry_admitted h actAbandon

section Abandon

variable (h : Admits opAbandon c s = true)
include h

theorem binAbandon_of_not_owned
    (hother : (ticketOf opAbandon c s).ownsCtx s.dyn.cfg (fldN c.params 0 9) = false) :
    exec (.binAbandon c) s = .next (answered opAbandon c 0x00B0 noResult s) := by
  rw [binAbandon_of_admits h, actAbandon_eq, abandonChecks_admitted, firstOf_elim_cons, hother, Bool.not_false, if_pos rfl,
    answered]

variable (howned : (ticketOf opAbandon c s).ownsCtx s.dyn.cfg (fldN c.params 0 9) = true)
include howned

theorem binAbandon_of_kept (hkept : s.keepsPass (fldN c.params 0 9) = true) :
    exec (.binAbandon c) s = .next (answered opAbandon c 0x00B7 noResult s) := by
  rw [binAbandon_of_admits h, actAbandon_eq, abandonChecks_admitted, firstOf_elim_cons, howned, Bool.not_true,
    if_neg Bool.false_ne_true, firstOf_elim_cons, hkept, if_pos rfl, answered]

theorem binAbandon_of_ended (hends : s.keepsPass (fldN c.params 0 9) = false) : exec (.binAbandon c) s =
    .next (writeRecord (ticketOf opAbandon c s) 0 noResult (endPass (fldN c.params 0 9) 0x00B9 0 (admitted c s))) := by
  rw [binAbandon_of_admits h, actAbandon_eq, abandonChecks_admitted, firstOf_elim_cons, howned, Bool.not_true,
    if_neg Bool.false_ne_true, firstOf_elim_cons, hends, if_neg Bool.false_ne_true, firstOf_elim_nil, ticketOf_cmd]

end Abandon

/-- Settles O21: a pass goes from its checks (R232) to the read of its targets and then starts or waits, and BIN_ABANDON goes
down its two checks. That a compositor context answers 0x00B7 is the model's reading (log 91). -/
theorem rasterPassesStartOrWait : Obligations.RasterPassesStartOrWait := by
  refine ⟨fun c s h => ?pass, fun c s h => ⟨binAbandon_of_not_owned h, binAbandon_of_kept h, binAbandon_of_ended h⟩⟩
  have named : (admitted c s).dyn.cfg.context (fldN c.params 0 9) = s.dyn.cfg.context (fldN c.params 0 9) := by
    rw [admitted_cfg]
  exact ⟨fun st hfails => rasterPass_of_acts h (actPass_of_refused named hfails),
    fun s1 p hpasses hread =>
      ⟨fun hready => rasterPass_of_acts h (actPass_of_ready named hpasses hread hready),
        fun hlacks hqueue => rasterPass_of_acts h
          ((actPass_of_not_ready named hpasses hread hlacks).trans (waitPass_of_queue hqueue)),
        fun hlacks hqueue => rasterPass_of_waits h
          ((actPass_of_not_ready named hpasses hread hlacks).trans (waitPass_of_no_queue hqueue))⟩,
    fun s1 st hpasses hread => rasterPass_of_acts h (actPass_of_not_read named hpasses hread)⟩

end Sys2Proof.Machine
end

section
/-! PROOFS. The binning events of a pass (R247, R248, R254, R257, R288): a batch is dealt to a slice, takes a chunk, publishes,
and the weir runs out. -/

namespace Sys2Proof.Machine

variable {s : State} {ctx : BitVec 9} {t : Fin 36} {sram : SramWord} {p : Nat} {f : State → State}

/-! New work of a slice (R37, R44) -/

/-- A slice of physical tile `p` takes new work: a sleeping tile starts to wake instead, and one that the issue cap holds takes
none. -/
def sliceTakes (p : Nat) (f : State → State) (s : State) : State :=
  if !s.tileAwake p then startWake p s else if !s.issues p then s else unlessHeld f s

theorem sliceTakes_of_asleep (hasleep : s.tileAwake p = false) : sliceTakes p f s = startWake p s := by
  simp only [sliceTakes, hasleep, Bool.not_false, if_true]

theorem sliceTakes_of_capped (hawake : s.tileAwake p = true) (hcapped : s.issues p = false) : sliceTakes p f s = s := by
  simp only [sliceTakes, hawake, hcapped, Bool.not_true, Bool.not_false, Bool.false_eq_true, if_false, if_true]

theorem sliceTakes_of_issues (hawake : s.tileAwake p = true) (hissues : s.issues p = true) :
    sliceTakes p f s = unlessHeld f s := by
  simp only [sliceTakes, hawake, hissues, Bool.not_true, Bool.false_eq_true, if_false]

/-! BATCH_DEAL (R247) -/

/-- The state in which a batch is dealt: binning has resumed where it may, and the tiles that joined take part. -/
def State.dealing (s : State) (n : Nat) : State := joinTiles n (tryResume n s)

theorem batchDeal_of_unmapped (hunmapped : (s.dealing ctx.toNat).dyn.cfg.logicalOf t = none) :
    exec (.batchDeal ctx t sram) s = .next s := by
  rw [State.dealing] at hunmapped
  change execBatchDeal ctx t sram s = _
  simp only [execBatchDeal, hunmapped]

section Deal

variable {l : Nat} (hl : (s.dealing ctx.toNat).dyn.cfg.logicalOf t = some l)
include hl

theorem batchDeal_of_no_batch (hnone : (s.dealing ctx.toNat).mayDeal ctx.toNat l = none) :
    exec (.batchDeal ctx t sram) s = .next (s.dealing ctx.toNat) := by
  rw [State.dealing] at hl hnone ⊢
  change execBatchDeal ctx t sram s = _
  simp only [execBatchDeal, hl, hnone]

/-- A batch for the slice is new work of its tile. -/
theorem batchDeal_of_batch {place : Nat × Nat} (hplace : (s.dealing ctx.toNat).mayDeal ctx.toNat l = some place) :
    exec (.batchDeal ctx t sram) s = .next
      (sliceTakes t (sliceSram ctx.toNat l t sram (dealNext ctx.toNat l place)) (s.dealing ctx.toNat)) := by
  rw [State.dealing] at hl hplace ⊢
  change execBatchDeal ctx t sram s = _
  simp only [execBatchDeal, hl, hplace, sliceTakes]
  split_ifs <;> rfl

end Deal

/-! CHUNK_REQUEST (R248, R254, R288) -/

section Batch

variable {n batch c : Nat} {b : Batch}

/-- In a compositor's pass a batch asks for a chunk behind every lower one that wants one (R288). -/
def State.chunkBehind (s : State) (n batch : Nat) : Bool :=
  (s.dyn.cfg.context n).compositor && (s.pass n).batches.any fun c => c.wants && c.at_.number < batch

/-- A batch asks for a chunk: its pass bins, it wants one, and no lower one goes first. -/
def State.asksChunk (s : State) (n batch : Nat) (b : Batch) : Prop :=
  (s.pass n).phase = .binning ∧ b.wants = true ∧ s.chunkBehind n batch = false

theorem asksChunk_iff : s.asksChunk n batch b ↔
    ¬ ((s.pass n).phase != .binning || !b.wants || s.chunkBehind n batch) = true := by
  simp [State.asksChunk, and_assoc]

/-- The pass with a chunk given to one of its batches, which bins on (R248). -/
def chunkGiven (n : Nat) (b : Batch) (c : Nat) (s : State) : State :=
  let b := { b with chunks := b.chunks ++ [c] }
  runBatch n b (s.modPass n fun p => { p with batches := putBatch b p.batches }.notePeak)

/-- What a batch that asks for a chunk is answered: it takes the lowest free one; with none free a compositor's pass flushes, and
the weir is raised for another. -/
def chunkAnswer (n : Nat) (b : Batch) (s : State) : State :=
  ((s.pass n).freeChunk (s.dyn.cfg.context n).binPages.toNat).elim
    (if (s.dyn.cfg.context n).compositor then unlessHeld (flush n) s else raiseWeir n s)
    fun c => unlessHeld (chunkGiven n b c) s

theorem exec_chunkRequest : exec (.chunkRequest ctx batch) s =
    ((s.pass ctx.toNat).batch batch).elim (.next s) fun b =>
      if (s.pass ctx.toNat).phase != .binning || !b.wants || s.chunkBehind ctx.toNat batch then .next s
      else .next (chunkAnswer ctx.toNat b s) := by
  change execChunkRequest ctx batch s = _
  rw [execChunkRequest]
  cases (s.pass ctx.toNat).batch batch with
  | none => rfl
  | some b =>
    refine if_congr Iff.rfl rfl ?_
    rw [chunkAnswer]
    cases (s.pass ctx.toNat).freeChunk (s.dyn.cfg.context ctx.toNat).binPages.toNat <;> rfl

theorem chunkRequest_of_no_batch (hnone : (s.pass ctx.toNat).batch batch = none) :
    exec (.chunkRequest ctx batch) s = .next s := by
  rw [exec_chunkRequest, hnone, Option.elim_none]

theorem chunkRequest_of_not_asks (hbatch : (s.pass ctx.toNat).batch batch = some b)
    (hnot : ¬ s.asksChunk ctx.toNat batch b) : exec (.chunkRequest ctx batch) s = .next s := by
  rw [exec_chunkRequest, hbatch, Option.elim_some, if_pos (not_not.mp (mt asksChunk_iff.mpr hnot))]

theorem chunkRequest_of_asks (hbatch : (s.pass ctx.toNat).batch batch = some b) (hasks : s.asksChunk ctx.toNat batch b) :
    exec (.chunkRequest ctx batch) s = .next (chunkAnswer ctx.toNat b s) := by
  rw [exec_chunkRequest, hbatch, Option.elim_some, if_neg (asksChunk_iff.mp hasks)]

/-! BATCH_PUBLISH (R252) -/

theorem batchPublish_of_no_batch (hnone : (s.pass ctx.toNat).batch batch = none) :
    exec (.batchPublish ctx batch) s = .next s := by
  change execBatchPublish ctx batch s = _
  simp only [execBatchPublish, hnone]

/-- A batch publishes: its pass bins and has come to its number, and it has binned everything and not published. -/
def State.publishes (s : State) (n batch : Nat) (b : Batch) : Prop :=
  (s.pass n).phase = .binning ∧ b.published = false ∧ (s.pass n).publishedTo = batch ∧ b.whole = true

theorem publishes_iff : s.publishes n batch b ↔
    ¬ ((s.pass n).phase != .binning || b.published || (s.pass n).publishedTo != batch || !b.whole) = true := by
  simp [State.publishes, and_assoc]

/-- A batch is published, and its pass goes on to the next number. -/
def batchPublished (n batch : Nat) (b : Batch) (s : State) : State :=
  passAccess n (publish n b s) fun _ s =>
    settlePass n (s.modPass n fun p =>
      { p with
        batches := putBatch { b with published := true, binned := [], chains := [] } p.batches,
        publishedTo := batch + 1 })

section Found

variable (hbatch : (s.pass ctx.toNat).batch batch = some b)
include hbatch

theorem batchPublish_of_not_publishes (hnot : ¬ s.publishes ctx.toNat batch b) : exec (.batchPublish ctx batch) s = .next s := by
  have refused := not_not.mp (mt publishes_iff.mpr hnot)
  change execBatchPublish ctx batch s = _
  simp only [execBatchPublish, hbatch, refused, if_true]

theorem batchPublish_of_publishes (hpublishes : s.publishes ctx.toNat batch b) :
    exec (.batchPublish ctx batch) s = .next (unlessHeld (batchPublished ctx.toNat batch b) s) := by
  have due := eq_false_of_ne_true (publishes_iff.mp hpublishes)
  change execBatchPublish ctx batch s = _
  simp only [execBatchPublish, hbatch, due, Bool.false_eq_true, if_false]
  rfl

end Found

end Batch

/-! WEIR_TIMEOUT (R257) -/

/-- A pass has stood at the weir for its context's WEIR_TIMEOUT, which is not 0, and no resume is due (log entry 92). -/
def State.weirOver (s : State) (n : Nat) : Prop :=
  (s.pass n).phase = .weir ∧ (s.pass n).resumeDue = false ∧ (s.dyn.cfg.context n).weirTimeout.toNat ≠ 0
    ∧ (s.pass n).weirAt + (s.dyn.cfg.context n).weirTimeout.toNat * 1000 * us16 ≤ s.now16

theorem weirOver_iff {n : Nat} : s.weirOver n ↔
    ((s.pass n).phase == .weir && !(s.pass n).resumeDue && (s.dyn.cfg.context n).weirTimeout.toNat != 0
      && (s.pass n).weirAt + (s.dyn.cfg.context n).weirTimeout.toNat * 1000 * us16 ≤ s.now16) = true := by
  simp [State.weirOver, and_assoc]

theorem weirTimeout_of_over (h : s.weirOver ctx.toNat) :
    exec (.weirTimeout ctx) s = .next (endPass ctx.toNat 0x00B8 6 s) := by
  change execWeirTimeout ctx s = _
  simp only [execWeirTimeout, weirOver_iff.mp h, if_true]

theorem weirTimeout_of_not_over (h : ¬ s.weirOver ctx.toNat) : exec (.weirTimeout ctx) s = .next s := by
  have not_over := eq_false_of_ne_true (mt weirOver_iff.mpr h)
  change execWeirTimeout ctx s = _
  simp only [execWeirTimeout, not_over, Bool.false_eq_true, if_false]

/-- Settles O46: each event asks its conditions one after another, and every clause is one answer. A timeout ends the pass
with RASTER_FAULT (0x00B8) and cause 6; that none comes once a resume is due is the model's reading (log 92). -/
theorem batchesBinAndPublish : Obligations.BatchesBinAndPublish := by
  refine ⟨fun ctx t sram s => ⟨batchDeal_of_unmapped, fun l => batchDeal_of_no_batch,
      fun l place hl hplace hasleep => ?asleep, fun l place hl hplace hawake hcapped => ?capped,
      fun l place hl hplace hawake hissues => ?dealt⟩,
    fun ctx batch s => ⟨fun hnone => ⟨chunkRequest_of_no_batch hnone, batchPublish_of_no_batch hnone⟩, fun b hbatch =>
      ⟨chunkRequest_of_not_asks hbatch, fun c hasks hfree => ?given, fun hasks hfull hcompositor => ?flushed,
        fun hasks hfull hcompositor => ?weir, batchPublish_of_not_publishes hbatch, batchPublish_of_publishes hbatch⟩⟩,
    fun ctx s => ⟨weirTimeout_of_over, weirTimeout_of_not_over⟩⟩
  case asleep => exact (batchDeal_of_batch hl hplace).trans (congrArg _ (sliceTakes_of_asleep hasleep))
  case capped => exact (batchDeal_of_batch hl hplace).trans (congrArg _ (sliceTakes_of_capped hawake hcapped))
  case dealt => exact (batchDeal_of_batch hl hplace).trans (congrArg _ (sliceTakes_of_issues hawake hissues))
  case given =>
    rw [chunkRequest_of_asks hbatch hasks, chunkAnswer, hfree, Option.elim_some]
    rfl
  case flushed =>
    rw [chunkRequest_of_asks hbatch hasks, chunkAnswer, hfull, Option.elim_none, if_pos hcompositor]
  case weir =>
    rw [chunkRequest_of_asks hbatch hasks, chunkAnswer, hfull, Option.elim_none, if_neg (ne_true_of_eq_false hcompositor)]

end Sys2Proof.Machine
end

section
/-! PROOFS. The drawing events of a pass (R258 to R264): a screen tile is bound, drawn and written out on its slice, and the pass
completes. -/

namespace Sys2Proof.Machine

variable {s : State} {ctx : BitVec 9} {t : Fin 36} {l k : Nat} {sram : SramWord}

/-! SCREEN_TILE_BIND (R258, R259) -/

theorem screenTileBind_of_no_tile (hnone : (joinTiles ctx.toNat s).dyn.cfg.logicalOf t = none
      ∨ ((joinTiles ctx.toNat s).pass ctx.toNat).nextTile = none) :
    exec (.screenTileBind ctx t) s = .next (joinTiles ctx.toNat s) := by
  change execScreenTileBind ctx t s = _
  rw [execScreenTileBind]
  rcases hnone with hunmapped | hbound
  · simp only [hunmapped]
  · cases (joinTiles ctx.toNat s).dyn.cfg.logicalOf t <;> simp only [hbound]

/-- A screen tile is left for the slice: binding it, where the slice may, is new work of its tile. -/
theorem screenTileBind_of_tile (hl : (joinTiles ctx.toNat s).dyn.cfg.logicalOf t = some l)
    (hk : ((joinTiles ctx.toNat s).pass ctx.toNat).nextTile = some k) : exec (.screenTileBind ctx t) s =
      .next (if (joinTiles ctx.toNat s).mayBind ctx.toNat l
        then sliceTakes t (bindTile ctx.toNat l k) (joinTiles ctx.toNat s) else joinTiles ctx.toNat s) := by
  change execScreenTileBind ctx t s = _
  simp only [execScreenTileBind, hl, hk, sliceTakes]
  cases (joinTiles ctx.toNat s).mayBind ctx.toNat l with
  | false => rfl
  | true => simp only [Bool.not_true, Bool.false_eq_true, if_false, if_true]; split_ifs <;> rfl

/-! FRAGMENT_BUNDLE (R260, R261) and WRITE_OUT (R263) -/

/-- The slice of a bound screen tile goes on with it: a sleeping tile starts to wake instead. -/
def sliceGoesOn (p : Nat) (f : State → State) (s : State) : State := if s.tileAwake p then unlessHeld f s else startWake p s

section Bound

variable {screenTile q : Nat} {m : ScreenTile}

theorem fragmentBundle_of_not_bound (hnone : tabGet none (s.pass ctx.toNat).bound screenTile = none) :
    exec (.fragmentBundle ctx screenTile sram) s = .next s := by
  change execFragmentBundle ctx screenTile sram s = _
  simp only [execFragmentBundle, hnone]

theorem writeOut_of_not_bound (hnone : tabGet none (s.pass ctx.toNat).bound screenTile = none) :
    exec (.writeOut ctx ⟨screenTile, sram⟩) s = .next s := by
  change execWriteOut ctx ⟨screenTile, sram⟩ s = _
  simp only [execWriteOut, hnone]

variable (hbound : tabGet none (s.pass ctx.toNat).bound screenTile = some m) (hq : s.dyn.cfg.physOf m.tile = some q)
include hbound hq

theorem fragmentBundle_of_bound : exec (.fragmentBundle ctx screenTile sram) s =
    .next (sliceGoesOn q (sliceSram ctx.toNat m.tile q sram (drawNext ctx.toNat screenTile m)) s) := by
  change execFragmentBundle ctx screenTile sram s = _
  simp only [execFragmentBundle, hbound, hq, sliceGoesOn]
  cases s.tileAwake q <;> rfl

/-- A bound screen tile is written out once its list is drawn. -/
theorem writeOut_of_bound : exec (.writeOut ctx ⟨screenTile, sram⟩) s =
    .next (if m.drawn (tabGet [] (s.pass ctx.toNat).lists screenTile)
      then sliceGoesOn q (sliceSram ctx.toNat m.tile q sram (writeNext ctx.toNat screenTile m)) s else s) := by
  change execWriteOut ctx ⟨screenTile, sram⟩ s = _
  simp only [execWriteOut, hbound, hq, sliceGoesOn]
  cases m.drawn (tabGet [] (s.pass ctx.toNat).lists screenTile) with
  | false => rfl
  | true => cases s.tileAwake q <;> rfl

end Bound

/-! PASS_COMPLETE (R264) -/

/-- A pass has ended: its last screen tile has been written out and its requests have completed. -/
def State.passOver (s : State) (n : Nat) : Prop :=
  (s.pass n).phase = .rendering ∧ (s.pass n).flushing = false ∧ (s.pass n).rendered = true
    ∧ s.jobWaits (s.pass n).jobNo = false

theorem passOver_iff {n : Nat} : s.passOver n ↔ ((s.pass n).phase == .rendering && !(s.pass n).flushing
    && (s.pass n).rendered && !s.jobWaits (s.pass n).jobNo) = true := by
  simp [State.passOver, and_assoc]

/-- A pass that has ended makes the signal that its end brings, if any (R141, R285; log entry 192). -/
theorem passComplete_of_over {signal : Option PassSignal} (h : s.passOver ctx.toNat) : exec (.passComplete ctx signal) s =
    .next (endPass ctx.toNat 0 0 (signal.elim s fun g => passSignal ctx.toNat g s)) := by
  change execPassComplete ctx signal s = _
  simp only [execPassComplete, passOver_iff.mp h, if_true]
  cases signal <;> rfl

theorem passComplete_of_not_over {signal : Option PassSignal} (h : ¬ s.passOver ctx.toNat) :
    exec (.passComplete ctx signal) s = .next s := by
  have not_over := eq_false_of_ne_true (mt passOver_iff.mpr h)
  change execPassComplete ctx signal s = _
  simp only [execPassComplete, not_over, Bool.false_eq_true, if_false]

/-- Settles O47: binding is new work of a slice, drawing and writing out go on with a screen tile that it has, and a pass that
is over ends. The signal that PASS_COMPLETE brings (R141, R285) is the model's choice (log 192). -/
theorem screenTilesAreDrawnAndWritten : Obligations.ScreenTilesAreDrawnAndWritten := by
  refine ⟨fun ctx t s => ⟨screenTileBind_of_no_tile, fun l k hl hk => ?bind⟩,
    fun ctx screenTile sram s => ⟨fun hnone => ⟨fragmentBundle_of_not_bound hnone, writeOut_of_not_bound hnone⟩,
      fun m q hbound hq => ?draw⟩,
    fun ctx s => ⟨fun hover => ⟨passComplete_of_over hover, fun g => passComplete_of_over hover⟩,
      fun hnot g => passComplete_of_not_over hnot⟩⟩
  case bind =>
    rw [screenTileBind_of_tile hl hk]
    refine ⟨fun hdenied => ?_, fun hmay hasleep => ?_, fun hmay hawake hcapped => ?_, fun hmay hawake hissues => ?_⟩
    · rw [if_neg (ne_true_of_eq_false hdenied)]
    · rw [if_pos hmay, sliceTakes_of_asleep hasleep]
    · rw [if_pos hmay, sliceTakes_of_capped hawake hcapped]
    · rw [if_pos hmay, sliceTakes_of_issues hawake hissues]
  case draw =>
    rw [fragmentBundle_of_bound hbound hq, writeOut_of_bound hbound hq]
    refine ⟨fun hawake => ?_, fun hasleep => ?_, fun hundrawn => ?_, fun hdrawn hawake => ?_, fun hdrawn hasleep => ?_⟩
    · rw [sliceGoesOn, if_pos hawake]
    · rw [sliceGoesOn, if_neg (ne_true_of_eq_false hasleep)]
    · rw [if_neg (ne_true_of_eq_false hundrawn)]
    · rw [if_pos hdrawn, sliceGoesOn, if_pos hawake]
    · rw [if_pos hdrawn, sliceGoesOn, if_neg (ne_true_of_eq_false hasleep)]

end Sys2Proof.Machine
end

section
/-! PROOFS. DISPLAY_CONFIGURE, DISPLAY_PRESENT and GET_DISPLAY (R292, R294, R296): an output is configured at the next lock
cycle, an image becomes its pending present, and its counters are read as the last lock cycle latched them. -/

namespace Sys2Proof.Machine

variable {c : Cmd} {s s1 : State} {t : Ticket} {k : Shadow} {o st : Nat} {d : DisplayCfg} {b : List Byte}

/-! DISPLAY_CONFIGURE (R292) -/

/-- The checks of DISPLAY_CONFIGURE: the output is not the caller's, or its timing is out of range. -/
def displayConfigureChecks (t : Ticket) (o : Nat) (d : DisplayCfg) (k : Shadow) : List (Bool × Nat) :=
  [(!t.holdsOutput k o, 0x00BD), (!d.timingOk, 0x00BE)]

/-- The shadow with the descriptor of one output written. -/
def Shadow.withDisplay (o : Nat) (d : DisplayCfg) (k : Shadow) : Shadow := { k with displays := tabPut {} k.displays o d }

theorem ruleDisplayConfigure_eq (ho : o = fldN t.cmd.params 0 2)
    (hd : d = outputOfParams t.cmd.params (s.lock.number.toNat + 1)) :
    ruleDisplayConfigure s t k = (firstOf (displayConfigureChecks t o d k)).elim (.pass (k.withDisplay o d) noResult)
      fun st => .refuse st noResult := by
  subst ho hd
  simp only [displayConfigureChecks, firstOf_elim_cons, firstOf_elim_nil]
  rfl

theorem displayConfigure_settled (h : Admits opDisplayConfigure c s = true) (ho : o = fldN c.params 0 2)
    (hd : d = outputOfParams c.params (s.lock.number.toNat + 1)) :
    exec (.displayConfigure c) s = .next (settled opDisplayConfigure c
      (displayConfigureChecks (ticketOf opDisplayConfigure c s) o d s.lock.opn) (s.lock.opn.withDisplay o d) s) :=
  config_settled h (ruleDisplayConfigure_eq ho (by rwa [admitted_lock]))

/-! DISPLAY_PRESENT (R116, R294) -/

/-- The output is not the caller's, or it is off. -/
def Ticket.lacksOutput (t : Ticket) (k : Shadow) (o : Nat) : Bool := !t.holdsOutput k o || !(k.output o).enable

/-- The checks of DISPLAY_PRESENT before its read: the output, and the place of the image's header. -/
def presentChecks (t : Ticket) (s : State) : List (Bool × Nat) :=
  let va := fldN t.cmd.params 64 40
  [ (t.lacksOutput s.dyn.cfg (fldN t.cmd.params 0 2), 0x00BD), (va % 64 ≠ 0 || !s.readable t.cmd.berth va 64, 0x00B4) ]

theorem presentChecks_of_lacks (hlacks : t.lacksOutput s.dyn.cfg (fldN t.cmd.params 0 2) = true) :
    firstOf (presentChecks t s) = some 0x00BD := by
  rw [presentChecks, firstOf_cons, if_pos hlacks]

section Shown

variable (hshown : t.lacksOutput s.dyn.cfg (fldN t.cmd.params 0 2) = false)
include hshown

theorem presentChecks_of_unreadable
    (hplace : fldN t.cmd.params 64 40 % 64 ≠ 0 ∨ s.readable t.cmd.berth (fldN t.cmd.params 64 40) 64 = false) :
    firstOf (presentChecks t s) = some 0x00B4 := by
  rw [presentChecks, firstOf_cons, if_neg (ne_true_of_eq_false hshown), firstOf_cons, if_pos (by simpa using hplace)]

theorem presentChecks_of_readable (haligned : fldN t.cmd.params 64 40 % 64 = 0)
    (hreadable : s.readable t.cmd.berth (fldN t.cmd.params 64 40) 64 = true) : firstOf (presentChecks t s) = none := by
  rw [presentChecks, firstOf_cons, if_neg (ne_true_of_eq_false hshown), firstOf_cons, if_neg (by simp [haligned, hreadable]),
    firstOf_nil]

end Shown

/-- The one read of the header. -/
def readPresented (t : Ticket) (s : State) : State × Access (List Byte) :=
  readVirt t.src t.cmd.berth (fldN t.cmd.params 64 40) 64 s

/-- The header that was read. -/
def presentedHeader (b : List Byte) : BitVec 512 := BitVec.ofNat 512 (ofBytes b)

/-- An earlier command of the queue still writes the image: its header or its planes. -/
def presentWaits (t : Ticket) (h : BitVec 512) (s : State) : Bool :=
  s.writesPending s.dyn.work.nextJob t.cmd.path ((fldN t.cmd.params 64 40, 64) :: (pictureOf h).spans)

/-- Past the checks of DISPLAY_PRESENT: the header was read, or its read failed; `d` is the output. None while it waits. -/
def presentRead (t : Ticket) (d : DisplayCfg) : State × Access (List Byte) → Option State
  | (s, .ok b) =>
    if !d.fits (presentedHeader b) then some (writeRecord t 0x00BC noResult s)
    else if presentWaits t (presentedHeader b) s then none else some (startPresent t (fldN t.cmd.params 0 2) s)
  | (s, r) => some (writeRecord t r.checkStatus noResult s)

theorem actPresent_eq : actPresent t s = (firstOf (presentChecks t s)).elim
    (presentRead t (s.dyn.cfg.output (fldN t.cmd.params 0 2)) (readPresented t s))
    fun st => some (writeRecord t st noResult s) := by
  simp only [presentChecks, firstOf_elim_cons, firstOf_elim_nil, actPresent]
  refine if_congr Iff.rfl rfl (if_congr Iff.rfl rfl ?_)
  rw [readPresented]
  cases readVirt t.src t.cmd.berth (fldN t.cmd.params 64 40) 64 s with
  | mk s1 r =>
    cases r with
    | ok b =>
      refine if_congr Iff.rfl rfl ?_
      rw [presentWaits, State.writesPending]
      cases pathQueue? t.cmd.path <;> rfl
    | addressFault => rfl
    | uncorrectable => rfl

section Present

variable (h : Admits opDisplayPresent c s = true)
include h

/-- The state before admission decides the checks: admission moves neither the outputs nor the berths' pages. -/
theorem displayPresent_of_admits : exec (.displayPresent c) s =
    .next (((firstOf (presentChecks (ticketOf opDisplayPresent c s) s)).elim
      (presentRead (ticketOf opDisplayPresent c s) (s.dyn.cfg.output (fldN c.params 0 2))
        (readPresented (ticketOf opDisplayPresent c s) (admitted c s)))
      fun st => some (writeRecord (ticketOf opDisplayPresent c s) st noResult (admitted c s))).getD s) := by
  change carryWait opDisplayPresent c actPresent s = _
  simp only [carryWait_admitted h, actPresent_eq, presentChecks, ticketOf_cmd, admitted_cfg, admitted_readable]

theorem displayPresent_of_refused (hfails : firstOf (presentChecks (ticketOf opDisplayPresent c s) s) = some st) :
    exec (.displayPresent c) s = .next (answered opDisplayPresent c st noResult s) := by
  rw [displayPresent_of_admits h, hfails, Option.elim_some, Option.getD_some, answered]

section Passed

variable (hpasses : firstOf (presentChecks (ticketOf opDisplayPresent c s) s) = none)
include hpasses

/-- A present that passes its checks goes on with what its read answers. -/
theorem displayPresent_of_passed {a : Access (List Byte)}
    (hread : readPresented (ticketOf opDisplayPresent c s) (admitted c s) = (s1, a)) : exec (.displayPresent c) s =
      .next ((presentRead (ticketOf opDisplayPresent c s) (s.dyn.cfg.output (fldN c.params 0 2)) (s1, a)).getD s) := by
  rw [displayPresent_of_admits h, hpasses, hread, Option.elim_none]

theorem displayPresent_of_not_read {a : Access (List Byte)}
    (hread : readPresented (ticketOf opDisplayPresent c s) (admitted c s) = (s1, a)) (hfailed : ∀ b, a ≠ .ok b)
    (hstatus : a.checkStatus = st) :
    exec (.displayPresent c) s = .next (writeRecord (ticketOf opDisplayPresent c s) st noResult s1) := by
  rw [← hstatus, displayPresent_of_passed h hpasses hread]
  cases a with
  | ok b => exact absurd rfl (hfailed b)
  | addressFault => rfl
  | uncorrectable => rfl

variable (hread : readPresented (ticketOf opDisplayPresent c s) (admitted c s) = (s1, .ok b))
include hread

theorem displayPresent_of_misfit (hmisfit : (s.dyn.cfg.output (fldN c.params 0 2)).fits (presentedHeader b) = false) :
    exec (.displayPresent c) s = .next (writeRecord (ticketOf opDisplayPresent c s) 0x00BC noResult s1) := by
  rw [displayPresent_of_passed h hpasses hread, presentRead, hmisfit, Bool.not_false, if_pos rfl,
    Option.getD_some]

variable (hfits : (s.dyn.cfg.output (fldN c.params 0 2)).fits (presentedHeader b) = true)
include hfits

theorem displayPresent_of_waits (hwaits : presentWaits (ticketOf opDisplayPresent c s) (presentedHeader b) s1 = true) :
    exec (.displayPresent c) s = .next s := by
  rw [displayPresent_of_passed h hpasses hread, presentRead, hfits, Bool.not_true,
    if_neg Bool.false_ne_true, if_pos hwaits, Option.getD_none]

theorem displayPresent_of_free (hfree : presentWaits (ticketOf opDisplayPresent c s) (presentedHeader b) s1 = false) :
    exec (.displayPresent c) s = .next (startPresent (ticketOf opDisplayPresent c s) (fldN c.params 0 2) s1) := by
  rw [displayPresent_of_passed h hpasses hread, presentRead, hfits, Bool.not_true,
    if_neg Bool.false_ne_true, if_neg (ne_true_of_eq_false hfree), Option.getD_some, ticketOf_cmd]

end Passed

end Present

/-- Only a packet of a queue waits. -/
theorem presentWaits_of_no_queue {h : BitVec 512} (hpath : t.cmd.path = .supervisor ∨ ∃ m, t.cmd.path = .mailbox m) :
    presentWaits t h s = false := by
  rw [presentWaits, State.writesPending]
  rcases hpath with hsup | ⟨m, hmail⟩
  · rw [hsup]; rfl
  · rw [hmail]; rfl

theorem presentWaits_of_queue {h : BitVec 512} {q : BitVec 18} (hpath : t.cmd.path = .queue q) :
    presentWaits t h s =
      s.mustWait q ((fldN t.cmd.params 64 40, 64) :: (pictureOf h).spans) s.dyn.work.nextJob := by
  rw [presentWaits, State.writesPending, hpath, pathQueue?]

/-! GET_DISPLAY (R296) -/

/-- What GET_DISPLAY returns of an output in the view `n` that a lock cycle latched. -/
def displayRecord (n : Dyn) (o : Nat) : Result :=
  let d := tabGet {} n.displays o
  shortResult [(0, 1, b2n (n.cfg.output o).enable), (32, 32, d.frame.toNat), (64, 32, d.repeats.toNat),
    (96, 32, d.underruns.toNat)]

theorem getDisplay_of_held (h : Admits opGetDisplay c s = true)
    (hheld : (ticketOf opGetDisplay c s).holdsOutput s.snap.cfg (fldN c.params 0 2) = true) :
    exec (.getDisplay c) s = .next (answered opGetDisplay c 0 (displayRecord s.snap (fldN c.params 0 2)) s) :=
  admitted_answer h (by
    simp only [actGetDisplay, ticketOf_cmd, admitted_snap, hheld, Bool.not_true, Bool.false_eq_true, if_false, displayRecord])

theorem getDisplay_of_not_held (h : Admits opGetDisplay c s = true)
    (hother : (ticketOf opGetDisplay c s).holdsOutput s.snap.cfg (fldN c.params 0 2) = false) :
    exec (.getDisplay c) s = .next (answered opGetDisplay c 0x00BD noResult s) :=
  admitted_answer h (by simp only [actGetDisplay, ticketOf_cmd, admitted_snap, hother, Bool.not_false, if_true])

/-- Settles O23: DISPLAY_CONFIGURE is settled by its two checks, DISPLAY_PRESENT goes from its checks to its read and then
starts or waits, and GET_DISPLAY reads the latched view. That the timing is checked whatever ENABLE, and what lane rate is out
of range, is the model's reading (log 101). -/
theorem displayCommandsFollowTheirChecks : Obligations.DisplayCommandsFollowTheirChecks := by
  refine ⟨fun c s o d h ho hd => ?configure, fun c s o h ho => ?present, fun c s o h ho => ?get⟩
  case configure =>
    have held (hheld : _ = true) := exec_past_check (displayConfigure_settled h ho hd) (congrArg not hheld)
    exact ⟨fun hother => exec_of_check (displayConfigure_settled h ho hd) (congrArg not hother),
      fun hheld htiming => exec_of_check (held hheld) (congrArg not htiming),
      fun hheld htiming => exec_past_check (held hheld) (congrArg not htiming)⟩
  case present =>
    subst ho
    have passes := presentChecks_of_readable (t := ticketOf opDisplayPresent c s) (s := s)
    refine ⟨fun hlacks => displayPresent_of_refused h (presentChecks_of_lacks hlacks),
      fun hshown hplace => displayPresent_of_refused h (presentChecks_of_unreadable hshown hplace),
      fun s1 r hshown haligned hreadable hread => ⟨?uncorrectable, ?addressFault⟩,
      fun s1 b hshown haligned hreadable hread =>
        have passed := passes hshown haligned hreadable
        ⟨displayPresent_of_misfit h passed hread,
          fun hfits hpath => displayPresent_of_free h passed hread hfits (presentWaits_of_no_queue hpath),
          fun q hfits hpath => ?queue⟩⟩
    case uncorrectable =>
      rintro rfl
      exact displayPresent_of_not_read h (passes hshown haligned hreadable) hread nofun rfl
    case addressFault =>
      rintro rfl
      exact displayPresent_of_not_read h (passes hshown haligned hreadable) hread nofun rfl
    case queue =>
      have waits := presentWaits_of_queue (t := ticketOf opDisplayPresent c s) (s := s1) (h := presentedHeader b) hpath
      exact ⟨fun hwaits => displayPresent_of_waits h passed hread hfits (waits.trans hwaits),
        fun hfree => displayPresent_of_free h passed hread hfits (waits.trans hfree)⟩
  case get =>
    subst ho
    exact ⟨getDisplay_of_not_held h, getDisplay_of_held h⟩

end Sys2Proof.Machine
end

section
/-! PROOFS. The events of a display output (R293 to R295): at its latch point a frame takes its image, at its time it starts, and
its lines leave one after another; after each the buffer reads ahead. -/

namespace Sys2Proof.Machine

variable {s : State} {o : Fin 4} {t : Ticket} {line arrived : Nat}

/-- The number of the frame that an output latches next. -/
def State.latchesNext (s : State) (o : Nat) : Nat := (s.dyn.cfg.output o).nextFrame (s.display o)

/-! DISPLAY_LATCH_POINT -/

/-- The output is on and the latch point of its next frame has come. -/
def State.latchDue (s : State) (o : Nat) : Prop :=
  (s.dyn.cfg.output o).enable = true ∧ (s.dyn.cfg.output o).latchPoint (s.latchesNext o) ≤ s.now16

theorem latchDue_iff {o : Nat} : s.latchDue o ↔
    ¬ (!(s.dyn.cfg.output o).enable || s.now16 < (s.dyn.cfg.output o).latchPoint (s.latchesNext o)) = true := by
  simp [State.latchDue]

/-- Frame `n` is latched with the image of the present `t`. -/
def DisplayDyn.latchImage (n : Nat) (t : Ticket) (y : DisplayDyn) : DisplayDyn :=
  { y with latched := n + 1, pending := none, image := some (t.cmd.berth, fld t.cmd.params 64 40) }

/-- Frame `n` is latched with the last image: a repeat, if there was one (log entry 102). -/
def DisplayDyn.latchRepeat (n : Nat) (y : DisplayDyn) : DisplayDyn :=
  { y with latched := n + 1, repeats := if y.image.isSome then satInc y.repeats else y.repeats }

theorem displayLatchPoint_of_not_due (h : ¬ s.latchDue o) : exec (.displayLatchPoint o) s = .next s :=
  if_pos (not_not.mp (mt latchDue_iff.mpr h))

section Latch

variable (h : s.latchDue o)
include h

theorem displayLatchPoint_of_taken
    (htaken : (s.dyn.cfg.output o).taken (s.display o) (s.latchesNext o) = some t) :
    exec (.displayLatchPoint o) s = .next (fillBuffer o (writeRecord t 0
      (shortResult [(0, 32, (satInc (s.display o).frame).toNat)]) (s.modDisplay o (.latchImage (s.latchesNext o) t)))) := by
  refine (if_neg (latchDue_iff.mp h)).trans ?_
  rw [State.latchesNext] at htaken
  simp only [htaken]
  rfl

theorem displayLatchPoint_of_not_taken
    (hnone : (s.dyn.cfg.output o).taken (s.display o) (s.latchesNext o) = none) :
    exec (.displayLatchPoint o) s = .next (fillBuffer o (s.modDisplay o (.latchRepeat (s.latchesNext o)))) := by
  refine (if_neg (latchDue_iff.mp h)).trans ?_
  rw [State.latchesNext] at hnone
  simp only [hnone]
  rfl

end Latch

/-! DISPLAY_FRAME_START -/

/-- The output is on and the time of a latched frame has come. -/
def State.frameDue (s : State) (o : Nat) : Prop :=
  (s.dyn.cfg.output o).enable = true ∧ (s.display o).started < (s.display o).latched
    ∧ (s.dyn.cfg.output o).frameStart ((s.display o).latched - 1) ≤ s.now16

theorem frameDue_iff {o : Nat} : s.frameDue o ↔
    ¬ (!(s.dyn.cfg.output o).enable || (s.display o).latched ≤ (s.display o).started
      || s.now16 < (s.dyn.cfg.output o).frameStart ((s.display o).latched - 1)) = true := by
  simp [State.frameDue, and_assoc]

/-- The latched frame becomes active with no line sent, and only its own lines stay in the buffer. -/
def DisplayDyn.startFrame (y : DisplayDyn) : DisplayDyn :=
  { y with
    started := y.latched, frame := satInc y.frame, active := true, lines := 0, sent := [],
    buffer := y.buffer.filter fun l => l.1 == y.latched,
    readImage := if y.readFrame = y.latched then y.readImage else none }

theorem displayFrameStart_of_due (h : s.frameDue o) :
    exec (.displayFrameStart o) s = .next (fillBuffer o (s.modDisplay o .startFrame)) := if_neg (frameDue_iff.mp h)

theorem displayFrameStart_of_not_due (h : ¬ s.frameDue o) : exec (.displayFrameStart o) s = .next s :=
  if_pos (not_not.mp (mt frameDue_iff.mpr h))

/-! SCAN_OUT_LINE -/

/-- The line is the next one of the active frame of an output that is on. -/
def State.lineDue (s : State) (o line : Nat) : Prop :=
  (s.dyn.cfg.output o).enable = true ∧ (s.display o).active = true ∧ line = (s.display o).lines
    ∧ line < (s.dyn.cfg.output o).vActive.toNat

theorem lineDue_iff {o : Nat} : s.lineDue o line ↔
    ¬ (!(s.dyn.cfg.output o).enable || !(s.display o).active || line ≠ (s.display o).lines
      || (s.dyn.cfg.output o).vActive.toNat ≤ line) = true := by
  simp [State.lineDue, and_assoc]

theorem scanOutLine_of_due (h : s.lineDue o line) : exec (.scanOutLine o line arrived) s =
    .next (fillBuffer o (sendLine o line arrived (s.dyn.cfg.output o).hActive.toNat s)) := if_neg (lineDue_iff.mp h)

theorem scanOutLine_of_not_due (h : ¬ s.lineDue o line) : exec (.scanOutLine o line arrived) s = .next s :=
  if_pos (not_not.mp (mt lineDue_iff.mpr h))

/-- Settles O48: each event acts when it is due and changes nothing when not, and a frame latched takes a present or repeats.
That a repeat is counted only with an image (log 102), the number that the record carries (log 100) and the reading ahead
(log 194) are the model's choices. -/
theorem framesAreLatchedStartedAndSent : Obligations.FramesAreLatchedStartedAndSent :=
  ⟨fun _ _ => ⟨displayLatchPoint_of_not_due, fun _ => displayLatchPoint_of_taken, displayLatchPoint_of_not_taken⟩,
    fun _ _ => ⟨displayFrameStart_of_due, displayFrameStart_of_not_due⟩,
    fun _ _ _ _ => ⟨scanOutLine_of_not_due, scanOutLine_of_due⟩⟩

end Sys2Proof.Machine
end

section
/-! PROOFS. The servo of a time domain (R308, R309): on a usable Sync it steps the clock of a domain that acquires, sends a
locked one back to acquiring, or steers. -/

namespace Sys2Proof.Machine

variable {g : DomainCfg} {theta : Int} {now : Nat} {d : DomainDyn}

/-- A number kept within a limit lies within it. -/
theorem clampInt_within {v lim : Int} (h : 0 ≤ lim) : -lim ≤ clampInt v lim ∧ clampInt v lim ≤ lim := by
  unfold clampInt
  split
  · omega
  · split <;> omega

/-! What the servo can do -/

/-- The offset is above STEP_NS. -/
def DomainCfg.tooFar (g : DomainCfg) (theta : Int) : Bool := (g.stepNs.toNat : Int) * 2 ^ 16 < theta.natAbs

/-- The offset is below LOCK_NS. -/
def DomainCfg.near (g : DomainCfg) (theta : Int) : Bool := (theta.natAbs : Int) < g.lockNs.toNat * 2 ^ 16

/-- The domain is in one of the two states in which its clock may step (R309). -/
def DomainDyn.maySteps (d : DomainDyn) : Prop := d.state = .acquiring ∨ d.state = .lost

/-- The domain with the usable Sync noted. -/
def DomainDyn.noted (g : DomainCfg) (theta : Int) (now : Nat) (d : DomainDyn) : DomainDyn :=
  { d with theta := theta, lastSync := now, missed := satAdd d.missed ((now - d.lastSync) / g.interval - 1) }

/-- The domain stepped by minus the offset. -/
def DomainDyn.stepped (theta : Int) (d : DomainDyn) : DomainDyn :=
  { d with clock := ((d.clock : Int) - theta * 2 ^ 32).toNat, integ := 0, good := 0, state := .acquiring }

/-- The count of near offsets in a row. -/
def DomainDyn.goodAfter (g : DomainCfg) (theta : Int) (d : DomainDyn) : Nat :=
  if g.near theta then d.good + 1 else 0

/-- The state that a steered domain goes to, before the count of near offsets is looked at. -/
def DomainDyn.steeredState (g : DomainCfg) (theta : Int) (d : DomainDyn) : DomState :=
  if d.state = .holdover then (if g.near theta then .locked else .acquiring)
  else if d.state = .lost then .acquiring else d.state

/-- The domain steered: the integrator and the frequency within the limit, and LOCKED once enough offsets were near. -/
def DomainDyn.steered (g : DomainCfg) (theta : Int) (d : DomainDyn) : DomainDyn :=
  let integ := clampInt (d.integ + g.ki.toNat * theta) g.limit
  { d with
    integ := integ, f := clampInt (-(g.kp.toNat * theta + integ)) g.limit, good := d.goodAfter g theta,
    state := if d.steeredState g theta = .acquiring ∧ g.lockCount.toNat ≤ d.goodAfter g theta then .locked
      else d.steeredState g theta }

theorem servo_of_maySteps (hstate : d.maySteps) (hfar : g.tooFar theta) :
    servo g theta now d = (d.noted g theta now).stepped theta := if_pos ⟨hstate, hfar⟩

theorem servo_of_locked_far (hstate : d.state = .locked) (hfar : g.tooFar theta) :
    servo g theta now d = { d.noted g theta now with state := .acquiring, good := 0 } :=
  (if_neg fun h => by simp [hstate] at h).trans (if_pos ⟨hstate, hfar⟩)

theorem servo_of_steered (h : ¬ (d.maySteps ∧ g.tooFar theta)) (h' : ¬ (d.state = .locked ∧ g.tooFar theta)) :
    servo g theta now d = (d.noted g theta now).steered g theta :=
  (if_neg h).trans (if_neg h')

/-- The three ways of the servo. -/
theorem servo_cases (g : DomainCfg) (theta : Int) (now : Nat) (d : DomainDyn) :
    (d.maySteps ∧ g.tooFar theta ∧ servo g theta now d = (d.noted g theta now).stepped theta)
    ∨ (¬ (d.maySteps ∧ g.tooFar theta) ∧ servo g theta now d = { d.noted g theta now with state := .acquiring, good := 0 })
    ∨ (¬ (d.maySteps ∧ g.tooFar theta) ∧ servo g theta now d = (d.noted g theta now).steered g theta) := by
  by_cases hstep : d.maySteps ∧ g.tooFar theta
  · exact .inl ⟨hstep.1, hstep.2, servo_of_maySteps hstep.1 hstep.2⟩
  · by_cases hlocked : d.state = .locked ∧ g.tooFar theta
    · exact .inr (.inl ⟨hstep, servo_of_locked_far hlocked.1 hlocked.2⟩)
    · exact .inr (.inr ⟨hstep, servo_of_steered hstep hlocked⟩)

/-! What each way leaves -/

theorem steered_f_within (h : 0 ≤ g.limit) : -g.limit ≤ (d.steered g theta).f ∧ (d.steered g theta).f ≤ g.limit :=
  clampInt_within h

/-- Only LOCKED and HOLDOVER lead to LOCKED whatever the count. -/
theorem steeredState_locked (h : d.steeredState g theta = .locked) : d.state = .locked ∨ d.state = .holdover := by
  unfold DomainDyn.steeredState at h
  by_cases hheld : d.state = .holdover
  · exact .inr hheld
  · rw [if_neg hheld] at h
    split at h
    · cases h
    · exact .inl h

theorem steered_locked (h : (d.steered g theta).state = .locked) :
    d.state = .locked ∨ d.state = .holdover ∨ g.lockCount.toNat ≤ (d.steered g theta).good := by
  by_cases hcount : g.lockCount.toNat ≤ d.goodAfter g theta
  · exact .inr (.inr hcount)
  · have hstate : d.steeredState g theta = .locked := (if_neg fun h => hcount h.2).symm.trans h
    exact (steeredState_locked hstate).imp_right .inl

/-- Settles O32: the servo steps, sends a locked domain back to acquiring, or steers; only the first moves the clock, and only
the last sets a frequency. -/
theorem aLockedDomainNeverSteps : Obligations.ALockedDomainNeverSteps := by
  intro g theta now d hlimit
  obtain ⟨hstate, hfar, hservo⟩ | ⟨hstays, hservo⟩ | ⟨hstays, hservo⟩ := servo_cases g theta now d <;> simp only [hservo]
  case inl =>
    exact ⟨fun hnot => (hnot ⟨hstate, of_decide_eq_true hfar⟩).elim, fun _ _ => ⟨rfl, rfl, rfl, rfl⟩, .inl rfl, nofun, rfl, rfl⟩
  case inr.inl =>
    exact ⟨fun _ => rfl, fun hstate hfar => (hstays ⟨hstate, decide_eq_true hfar⟩).elim, .inl rfl, nofun, rfl, rfl⟩
  case inr.inr =>
    exact ⟨fun _ => rfl, fun hstate hfar => (hstays ⟨hstate, decide_eq_true hfar⟩).elim, .inr (steered_f_within hlimit),
      steered_locked, rfl, rfl⟩

end Sys2Proof.Machine
end

section
/-! PROOFS. The time commands (R304 to R307, R311, R319, R320): a configuration command asks its checks in their order and then
writes the open shadow, a measurement starts or joins the drizzle requests, and a view is read as the last lock cycle latched
it. -/

namespace Sys2Proof.Machine

variable {c : Cmd} {s : State} {t : Ticket} {k : Shadow}

/-! The configuration commands -/

/-- The checks of R319 on a result `k'`: the path, the range of the fields, and the rules that a result may not break. -/
def timeChecks (t : Ticket) (s : State) (inRange : Bool) (k k' : Shadow) : List (Bool × Nat) :=
  [(!t.fromSupervisor, 0x00E2), (!inRange, 0x00E0), (timeConflict s k k', 0x00E1)]

theorem ruleTimeDomain_eq : ruleTimeDomain s t k =
    (firstOf (timeChecks t s (domainOk (domainOfParams t.cmd.params)) k
      (k.setDomain (fldN t.cmd.params 0 1) (domainOfParams t.cmd.params)))).elim
      (.pass (k.setDomain (fldN t.cmd.params 0 1) (domainOfParams t.cmd.params)) noResult) fun st => .refuse st noResult := by
  simp only [timeChecks, firstOf_elim_cons, firstOf_elim_nil]
  rfl

/-- The configuration of a port that TIME_PORT_CONFIG spells. -/
def timePortOfParams (p : Params) : TimePortCfg :=
  { roleA := fld p 4 2, roleB := fld p 6 2, logPdelay := fld p 8 4, nbrThresh := fld p 16 16, asym := fld p 32 32,
    txPhy := fld p 64 32, rxPhy := fld p 96 32 }

/-- LOG_PDELAY is -3 to 3. -/
def TimePortCfg.inRange (g : TimePortCfg) : Bool := g.logPdelay.toNat ≤ 3 || 13 ≤ g.logPdelay.toNat

/-- The shadow with the time configuration of one port written. -/
def Shadow.withTimePort (p : Nat) (g : TimePortCfg) (k : Shadow) : Shadow :=
  { k with timePorts := tabPut {} k.timePorts p g }

theorem ruleTimePort_eq : ruleTimePort s t k =
    (firstOf (timeChecks t s (timePortOfParams t.cmd.params).inRange k
      (k.withTimePort (fldN t.cmd.params 0 3) (timePortOfParams t.cmd.params)))).elim
      (.pass (k.withTimePort (fldN t.cmd.params 0 3) (timePortOfParams t.cmd.params)) noResult)
      fun st => .refuse st noResult := by
  simp only [timeChecks, firstOf_elim_cons, firstOf_elim_nil]
  rfl

/-- The shadow with the selected domain and AUTO written. -/
def Shadow.withSelection (p : Params) (k : Shadow) : Shadow := { k with selected := bitAt p 0, auto := bitAt p 1 }

theorem ruleTimeSelect_eq : ruleTimeSelect s t k =
    (firstOf [(!t.fromSupervisor, 0x00E2), (timeConflict s k (k.withSelection t.cmd.params), 0x00E1)]).elim
      (.pass (k.withSelection t.cmd.params) noResult) fun st => .refuse st noResult := by
  simp only [firstOf_elim_cons, firstOf_elim_nil]
  rfl

/-! TIME_PORT_MEASURE (R306, R458) -/

/-- The request waits for a drizzle slot, and the port is marked as waiting. -/
def measureWaits (t : Ticket) (p : Nat) (s : State) : State :=
  (s.modTime fun x => x.modPort p fun y => { y with measurePending := true }).modSafety fun f =>
    { f with requests := f.requests ++ [.measure t p] }

theorem timePortMeasure_of_off_path (h : Admits opTimeMeasure c s = true) (hpath : c.path ≠ .supervisor) :
    exec (.timePortMeasure c) s = .next (answered opTimeMeasure c 0x00E2 noResult s) :=
  admitted_answer h (by simp [actTimeMeasure, ticketOf_fromSupervisor, hpath])

theorem timePortMeasure_of_supervisor (h : Admits opTimeMeasure c s = true) (hpath : c.path = .supervisor) :
    exec (.timePortMeasure c) s = .next (
      if s.inService = true then measurePort (ticketOf opTimeMeasure c s) (fldN c.params 0 3) (admitted c s)
      else if s.dyn.safety.roomForRequest = true then
        measureWaits (ticketOf opTimeMeasure c s) (fldN c.params 0 3) (admitted c s)
      else answered opTimeMeasure c 0x00F8 noResult s) := by
  refine (carry_admitted h actTimeMeasure).trans (congrArg _ ?_)
  simp only [actTimeMeasure, ticketOf_fromSupervisor, hpath, beq_self_eq_true, Bool.not_true, Bool.false_eq_true, if_false,
    admitted_inService, admitted_safety, ticketOf_cmd, measureWaits, answered]

/-! GET_TIME_STATUS (R320) -/

theorem getTimeStatus_of_admits (h : Admits opGetTime c s = true) :
    exec (.getTimeStatus c) s = .next (answered opGetTime c 0 (timeRecord s.snap (fldN c.params 0 4)) s) :=
  admitted_answer h (by simp only [answer, admitted_snap])

/-- Settles O28: each configuration command is settled by its list of checks, a measurement goes by the path, the service state
and the room, and the status is of the latched state. That a rule broken before does not refuse (log 118), and that the rule on
PEER binds a disabled domain too (log 158), are the model's readings. -/
theorem timeCommandsFollowTheirChecks : Obligations.TimeCommandsFollowTheirChecks := by
  refine ⟨fun c s h => config_settled h ruleTimeDomain_eq, fun c s h => config_settled h ruleTimePort_eq,
    fun c s h => config_settled h ruleTimeSelect_eq, fun c s h => ⟨timePortMeasure_of_off_path h, ?service, ?room, ?full⟩,
    fun c s h => getTimeStatus_of_admits h⟩
  case service =>
    intro hpath hservice
    rw [timePortMeasure_of_supervisor h hpath, if_pos hservice]
  case room =>
    intro hpath hservice hroom
    rw [timePortMeasure_of_supervisor h hpath, if_neg (ne_true_of_eq_false hservice), if_pos hroom, measureWaits]
  case full =>
    intro hpath hservice hfull
    rw [timePortMeasure_of_supervisor h hpath, if_neg (ne_true_of_eq_false hservice), if_neg (ne_true_of_eq_false hfull)]

end Sys2Proof.Machine
end

section
/-! PROOFS. The events of the ports of the time block (R304 to R308): a usable Sync steers its domain, a master port sends its
Sync and measures its link in their periods, and a link comes up or goes down. -/

namespace Sys2Proof.Machine

variable {s : State} {port : Fin 8} {d : Fin 2} {number : Byte} {origin correction ingress t1 t2 t3 t4 : Int} {rate : BitVec 32}
  {e : Nat}

/-! SYNC_RECEIVE (R307, R308) -/

/-- A domain on a usable Sync or beacon: it runs its servo and keeps the stratum of the sender. -/
def DomainDyn.onSync (g : DomainCfg) (theta : Int) (now : Nat) (stratum : BitVec 4) (x : DomainDyn) : DomainDyn :=
  { servo g theta now x with stratum := stratum }

/-- The Sync of domain number `number` on a port is usable for the domain `e`. -/
def State.hearsSync (s : State) (port e : Nat) (number : Byte) : Prop :=
  (s.dyn.cfg.domain e).enable = true ∧ (s.dyn.cfg.domain e).source = 0 ∧ (s.dyn.cfg.domain e).domainNumber = number
    ∧ (s.dyn.cfg.timePort port).role e = 1 ∧ (s.dyn.time.port port).asCapable = true

theorem hearsSync_of_syncDomain (h : syncDomain s port number = some e) : s.hearsSync port e number := by
  have hfound := List.find?_some h
  simpa [State.hearsSync, and_assoc] using hfound

theorem syncReceive_of_unusable (h : syncDomain s port number = none) :
    exec (.syncReceive port number origin ⟨correction, rate⟩ ingress) s = .next s := by
  change execSyncReceive port number origin ⟨correction, rate⟩ ingress s = .next s
  simp only [execSyncReceive, h]

theorem syncReceive_of_usable (h : syncDomain s port number = some e) :
    exec (.syncReceive port number origin ⟨correction, rate⟩ ingress) s = .next (timeDoubtCheck (s.modTime fun t =>
      t.modDom e (.onSync (s.dyn.cfg.domain e) (syncOffset s port e origin correction ingress (sInt rate)) t.wc 0))) := by
  change execSyncReceive port number origin ⟨correction, rate⟩ ingress s = _
  simp only [execSyncReceive, h]
  rfl

/-! What is sent every period (R304, R317) -/

/-- `last` is kept as the time of the last one plus 1, or 0 when there was none. -/
theorem period_over_iff {last period now : Nat} :
    (last = 0 ∨ last + period ≤ now) ↔ ¬ (last != 0 && decide (now < last + period)) = true := by
  simp [or_iff_not_imp_left]

/-! SYNC_SEND (R304, R305) -/

/-- The port is a master of the enabled domain with its link up, and the period of its Sync is over. -/
def State.sendsSync (s : State) (port : Nat) (d : Fin 2) : Prop :=
  (s.dyn.cfg.domain d).enable = true ∧ (s.dyn.cfg.timePort port).role d = 2 ∧ (s.dyn.time.port port).linkUp = true
    ∧ ((s.dyn.time.port port).sent d = 0
      ∨ (s.dyn.time.port port).sent d + log2Period (s.dyn.cfg.domain d).logSync ≤ s.dyn.time.wc + 1)

theorem sendsSync_iff {port : Nat} : s.sendsSync port d ↔
    ¬ (!(s.dyn.cfg.domain d).enable || (s.dyn.cfg.timePort port).role d != 2 || !(s.dyn.time.port port).linkUp
      || ((s.dyn.time.port port).sent d != 0
        && s.dyn.time.wc + 1 < (s.dyn.time.port port).sent d + log2Period (s.dyn.cfg.domain d).logSync)) = true := by
  rw [State.sendsSync, period_over_iff]
  simp [and_assoc]

/-- A port that sent a Sync with egress stamp `x` for the domain, and its Follow_Up, at the time `now`. -/
def TimePortDyn.withSync (d : Fin 2) (x : TimeStamp) (now : Nat) (y : TimePortDyn) : TimePortDyn :=
  { y with
    syncs := { domain := d, origin := some (x.dom d) } :: { domain := d, stamp := x } :: y.syncs,
    sentA := if d = 0 then now + 1 else y.sentA, sentB := if d = 0 then y.sentB else now + 1 }

theorem syncSend_of_due (h : s.sendsSync port d) : exec (.syncSend port d) s =
    .next (s.modTime fun t => t.modPort port (.withSync d (s.egressStamp port) s.dyn.time.wc)) := if_neg (sendsSync_iff.mp h)

theorem syncSend_of_not_due (h : ¬ s.sendsSync port d) : exec (.syncSend port d) s = .next s :=
  if_pos (not_not.mp (mt sendsSync_iff.mpr h))

/-! PDELAY_EXCHANGE (R304) -/

/-- The link of the port is up, and the period of its exchange is over. -/
def State.exchanges (s : State) (port : Nat) : Prop :=
  (s.dyn.time.port port).linkUp = true ∧ ((s.dyn.time.port port).lastPdelay = 0
    ∨ (s.dyn.time.port port).lastPdelay + log2Period (s.dyn.cfg.timePort port).logPdelay ≤ s.dyn.time.wc + 1)

theorem exchanges_iff {port : Nat} : s.exchanges port ↔
    ¬ (!(s.dyn.time.port port).linkUp || ((s.dyn.time.port port).lastPdelay != 0
      && s.dyn.time.wc + 1
        < (s.dyn.time.port port).lastPdelay + log2Period (s.dyn.cfg.timePort port).logPdelay)) = true := by
  rw [State.exchanges, period_over_iff]
  simp

/-- The mean link delay of an exchange: the stamps `t1` and `t4` of the port are corrected (R305), `t2` and `t3` are the
neighbour's. -/
def State.meanDelay (s : State) (port : Nat) (t1 t2 t3 t4 rate : Int) : Int :=
  let g := s.dyn.cfg.timePort port
  let y := s.dyn.time.port port
  let own := (t4 - ps16 g.rxPhy.toNat - ps16 y.rxPath.toNat) - (t1 + ps16 g.txPhy.toNat + ps16 y.txPath.toNat)
  (own + own * rate / (2 ^ 8 * 10 ^ 9) - (t3 - t2)) / 2

/-- A port after an exchange at the time `now`: it is asCapable when the delay is at most its threshold. -/
def TimePortDyn.exchanged (g : TimePortCfg) (delay rate : Int) (now : Nat) (y : TimePortDyn) : TimePortDyn :=
  { y with
    linkDelay := delay, rateRatio := rate, lastPdelay := now + 1,
    asCapable := decide (delay ≤ (g.nbrThresh.toNat : Int) * 2 ^ 16) }

theorem pdelayExchange_of_due (h : s.exchanges port) : exec (.pdelayExchange port t1 t2 t3 t4 rate) s =
    .next (s.modTime fun t => t.modPort port
      (.exchanged (s.dyn.cfg.timePort port) (s.meanDelay port t1 t2 t3 t4 (sInt rate)) (sInt rate) s.dyn.time.wc)) :=
  if_neg (exchanges_iff.mp h)

theorem pdelayExchange_of_not_due (h : ¬ s.exchanges port) : exec (.pdelayExchange port t1 t2 t3 t4 rate) s = .next s :=
  if_pos (not_not.mp (mt exchanges_iff.mpr h))

/-- Settles O29: a Sync goes by the domain that it is usable for, what is sent every period by whether it is due, and a link
that comes up or goes down always acts. That an event not due changes nothing is the model's (log 2), as is the unit of the rate
ratios (log 172). -/
theorem syncEventsSteerTheDomains : Obligations.SyncEventsSteerTheDomains := by
  refine ⟨fun port number origin correction ingress rate s => ⟨syncReceive_of_unusable, fun e husable => ?usable⟩,
    fun _ _ _ => ⟨syncSend_of_due, syncSend_of_not_due⟩,
    fun _ _ _ _ _ _ _ => ⟨pdelayExchange_of_due, pdelayExchange_of_not_due⟩, fun _ _ _ _ => rfl, fun _ _ => rfl⟩
  case usable =>
    obtain ⟨henabled, hsource, hnumber, hslave, hcapable⟩ := hearsSync_of_syncDomain husable
    exact ⟨henabled, hsource, hnumber, hslave, hcapable, syncReceive_of_usable husable⟩

end Sys2Proof.Machine
end

section
/-! PROOFS. The losses of time (R309, R313, R315, R316): a domain without Sync, a holdover that ends, the run of the working
clock's law, and the check of the crystal. -/

namespace Sys2Proof.Machine

variable {s : State} {d : Fin 2} {ppm : Int}

/-! SYNC_LOSS (R309) -/

/-- The domain had no usable Sync for SYNC_LOSS intervals. -/
def State.syncLost (s : State) (d : Nat) : Prop :=
  (s.dyn.time.dom d).lastSync + (s.dyn.cfg.domain d).syncLoss.toNat * (s.dyn.cfg.domain d).interval ≤ s.dyn.time.wc

/-- A domain that holds over from `now`: its frequency is frozen at minus the integrator. -/
def DomainDyn.heldOver (now : Nat) (x : DomainDyn) : DomainDyn :=
  { x with state := .holdover, f := -x.integ, heldSince := now }

/-- A domain that is LOST. -/
def DomainDyn.gone (x : DomainDyn) : DomainDyn := { x with state := .lost }

theorem syncLoss_of_not_due (h : ¬ s.syncLost d) : exec (.syncLoss d) s = .next s := if_pos (not_le.mp h)

theorem syncLoss_of_locked (h : s.syncLost d) (hstate : (s.dyn.time.dom d).state = .locked) : exec (.syncLoss d) s =
    .next (timeDoubtCheck (s.modTime fun t => t.modDom d (.heldOver s.dyn.time.wc))) :=
  (if_neg (not_lt.mpr h)).trans (if_pos hstate)

theorem syncLoss_of_not_locked (h : s.syncLost d) (hstate : (s.dyn.time.dom d).state ≠ .locked) : exec (.syncLoss d) s =
    if (s.dyn.time.dom d).state = .acquiring then .next (timeDoubtCheck (s.modTime fun t => t.modDom d .gone))
    else .next s :=
  (if_neg (not_lt.mpr h)).trans (if_neg hstate)

theorem syncLoss_of_acquiring (h : s.syncLost d) (hstate : (s.dyn.time.dom d).state = .acquiring) :
    exec (.syncLoss d) s = .next (timeDoubtCheck (s.modTime fun t => t.modDom d .gone)) := by
  rw [syncLoss_of_not_locked h (by rw [hstate]; nofun), if_pos hstate]

theorem syncLoss_of_other (hlocked : (s.dyn.time.dom d).state ≠ .locked) (hacquiring : (s.dyn.time.dom d).state ≠ .acquiring) :
    exec (.syncLoss d) s = .next s := by
  by_cases h : s.syncLost d
  · rw [syncLoss_of_not_locked h hlocked, if_neg hacquiring]
  · exact syncLoss_of_not_due h

/-! HOLDOVER_EXPIRY (R309) -/

/-- The domain was in HOLDOVER for HOLD_MS. -/
def State.holdoverOver (s : State) (d : Nat) : Prop :=
  (s.dyn.time.dom d).state = .holdover
    ∧ (s.dyn.time.dom d).heldSince + (s.dyn.cfg.domain d).holdMs.toNat * 1000 * us48 ≤ s.dyn.time.wc

theorem holdoverExpiry_of_due (h : s.holdoverOver d) :
    exec (.holdoverExpiry d) s = .next (timeDoubtCheck (s.modTime fun t => t.modDom d .gone)) := if_pos h

theorem holdoverExpiry_of_not_due (h : ¬ s.holdoverOver d) : exec (.holdoverExpiry d) s = .next s := if_neg h

/-! WORKING_CLOCK_SLEW (R313) -/

theorem workingClockSlew_of_due (h : s.dyn.time.lastSlew + 100 * us48 ≤ s.dyn.time.wc) :
    exec .workingClockSlew s = .next (s.modTime (slew (b2n s.dyn.cfg.selected))) := if_neg (not_lt.mpr h)

theorem workingClockSlew_of_not_due (h : s.dyn.time.wc < s.dyn.time.lastSlew + 100 * us48) :
    exec .workingClockSlew s = .next s := if_pos h

/-! TCXO_CHECK (R316) -/

theorem tcxoCheck_of_near (h : ppm.natAbs ≤ 500) :
    exec (.tcxoCheck ppm) s = .next (s.modTime fun t => { t with tcxoRun := 0 }) := if_neg (not_lt.mpr h)

theorem tcxoCheck_of_first (h : 500 < ppm.natAbs) (hrun : s.dyn.time.tcxoRun = 0) :
    exec (.tcxoCheck ppm) s = .next (s.modTime fun t => { t with tcxoRun := 1 }) := by
  refine (if_pos h).trans ?_
  simp only [hrun]
  rfl

theorem tcxoCheck_of_again (h : 500 < ppm.natAbs) (hrun : 1 ≤ s.dyn.time.tcxoRun) : exec (.tcxoCheck ppm) s =
    .next (raiseDoubt 7 ((s.modTime fun t =>
      { t with tcxoRun := t.tcxoRun + 1, tcxoFault := true, timeDoubt := true }).modIsland fun i =>
        { i with disciplined := false })) :=
  (if_pos h).trans (if_neg (by omega))

/-- Settles O30: each event asks whether its time has come, and SYNC_LOSS then asks the state of the domain. That an event not
due changes nothing is the model's (log 2). -/
theorem timeLossAndHoldover : Obligations.TimeLossAndHoldover := by
  refine ⟨fun d s => ⟨syncLoss_of_locked, syncLoss_of_acquiring, ?stays⟩,
    fun _ _ => ⟨holdoverExpiry_of_due, holdoverExpiry_of_not_due⟩, fun _ => ⟨workingClockSlew_of_due, workingClockSlew_of_not_due⟩,
    fun _ _ => ⟨tcxoCheck_of_near, tcxoCheck_of_first, tcxoCheck_of_again⟩⟩
  case stays =>
    rintro (hnot | ⟨hlocked, hacquiring⟩)
    · exact syncLoss_of_not_due hnot
    · exact syncLoss_of_other hlocked hacquiring

end Sys2Proof.Machine
end

section
/-! PROOFS. The beacons of Isgal (R317, R318): one is sent to a peer that is up every 1 ms, and one received steers the domains
that follow its peer. -/

namespace Sys2Proof.Machine

variable {s : State} {peer : BitVec 2} {wc delay : Int} {stratum : BitVec 4}

/-! BEACON_SEND -/

/-- The peer is up, and no beacon went to it in the last 1 ms. -/
def State.sendsBeacon (s : State) (peer : BitVec 2) : Prop :=
  ((tabGet (0, 0) s.dyn.time.beacons peer.toNat).1 = 0
      ∨ (tabGet (0, 0) s.dyn.time.beacons peer.toNat).1 + 1000 * us48 ≤ s.dyn.time.wc)
    ∧ s.peerUp peer = true

theorem sendsBeacon_iff : s.sendsBeacon peer ↔
    ¬ ((tabGet (0, 0) s.dyn.time.beacons peer.toNat).1 ≠ 0
        ∧ s.dyn.time.wc < (tabGet (0, 0) s.dyn.time.beacons peer.toNat).1 + 1000 * us48
      ∨ (!s.peerUp peer) = true) := by
  simp [State.sendsBeacon, or_iff_not_imp_left]

/-- The beacon with the working clock and the stratum of the device. -/
def State.beacon (s : State) : IsgalTx :=
  { kind := 0xA, addr := 0, data := bytesOf 16 (layout80 s.now16 + ownStratum s * 2 ^ 80) }

theorem beaconSend_of_due (h : s.sendsBeacon peer) : exec (.beaconSend peer) s =
    .next (sendPeer peer s.beacon none (s.modTime fun t =>
      { t with
        beacons := tabPut (0, 0) t.beacons peer.toNat (t.wc, (tabGet (0, 0) s.dyn.time.beacons peer.toNat).2) })) :=
  if_neg (sendsBeacon_iff.mp h)

theorem beaconSend_of_not_due (h : ¬ s.sendsBeacon peer) : exec (.beaconSend peer) s = .next s :=
  if_pos (not_not.mp (mt sendsBeacon_iff.mpr h))

/-! BEACON_RECEIVE -/

/-- The domain follows the peer, and the stratum of the beacon is 0 to 2. -/
def DomainCfg.follows (g : DomainCfg) (peer : BitVec 2) (stratum : BitVec 4) : Prop :=
  g.enable = true ∧ g.source = 1 ∧ g.peer = peer ∧ stratum.toNat < 3

/-- A domain on the beacon of its peer. -/
def TimeState.steer (g : DomainCfg) (e : Nat) (wc delay : Int) (stratum : BitVec 4) (t : TimeState) : TimeState :=
  t.modDom e fun x => x.onSync g ((t16 x.clock : Int) - (wc + delay)) t.wc stratum

/-- A domain on the beacon of a peer that it may follow or not. -/
def TimeState.onBeacon (g : DomainCfg) (e : Nat) (peer : BitVec 2) (wc delay : Int) (stratum : BitVec 4) (t : TimeState) :
    TimeState :=
  if g.enable = true ∧ g.source = 1 ∧ g.peer = peer ∧ stratum.toNat < 3 then t.steer g e wc delay stratum else t

theorem onBeacon_of_follows {g : DomainCfg} (h : g.follows peer stratum) (e : Nat) (t : TimeState) :
    t.onBeacon g e peer wc delay stratum = t.steer g e wc delay stratum := if_pos h

theorem onBeacon_of_not_follows {g : DomainCfg} (h : ¬ g.follows peer stratum) (e : Nat) (t : TimeState) :
    t.onBeacon g e peer wc delay stratum = t := if_neg h

/-- The link delay of the exchange with the peer is kept. -/
def TimeState.withDelay (peer : BitVec 2) (delay : Int) (t : TimeState) : TimeState :=
  { t with beacons := tabMod (0, 0) t.beacons peer.toNat fun b => (b.1, delay) }

theorem exec_beaconReceive : exec (.beaconReceive peer wc stratum delay) s =
    .next (timeDoubtCheck ((s.modTime (.withDelay peer delay)).modTime fun t =>
      (t.onBeacon (s.dyn.cfg.domain 0) 0 peer wc delay stratum).onBeacon (s.dyn.cfg.domain 1) 1 peer wc delay stratum)) := rfl

/-- Settles O31: a beacon is sent when it is due, and one received goes to the two domains one after the other. That an event
not due changes nothing is the model's (log 2), as is the link delay that comes with the event (log 172). -/
theorem beaconsCarryTimeAcrossIsgal : Obligations.BeaconsCarryTimeAcrossIsgal := by
  refine ⟨fun peer s => ⟨beaconSend_of_due, beaconSend_of_not_due⟩,
    fun peer wc stratum delay s => ⟨?none, ?first, ?second, ?both⟩⟩ <;> intro h0 h1 <;> rw [exec_beaconReceive]
  case none => simp only [onBeacon_of_not_follows h0, onBeacon_of_not_follows h1]; rfl
  case first => simp only [onBeacon_of_follows h0, onBeacon_of_not_follows h1]; rfl
  case second => simp only [onBeacon_of_not_follows h0, onBeacon_of_follows h1]; rfl
  case both => simp only [onBeacon_of_follows h0, onBeacon_of_follows h1]; rfl

end Sys2Proof.Machine
end

section
/-! PROOFS. The configuration commands of Ingest (R322, R323, R326, R329, R341, R345, R559): each asks its checks in their order
and then writes one entry of the open shadow. -/

namespace Sys2Proof.Machine

variable {c : Cmd} {s : State} {t : Ticket} {k : Shadow}

/-! STREAM_CONFIG (R322, R329, R345) -/

/-- The shadow with one stream written. -/
def Shadow.withStream (n : Nat) (d : StreamCfg) (k : Shadow) : Shadow := { k with streams := tabPut {} k.streams n d }

/-- The checks of STREAM_CONFIG: the stream is not granted to the caller, its fields are out of range, it breaks the limits of
R322, or its buffers are not memory of the berth that holds its grant (log 157). -/
def streamConfigChecks (t : Ticket) (n : Nat) (d : StreamCfg) (k : Shadow) : List (Bool × Nat) :=
  [ (!t.granted k (·.streamGrant) n, 0x00C1), (!d.fieldsOk k, 0x00C0), (!(k.withStream n d).streamsOk, 0x00C2),
    (d.enable && !k.buffersOk n d, 0x00C3) ]

theorem ruleStreamConfig_eq : ruleStreamConfig s t k =
    (firstOf (streamConfigChecks t (fldN t.cmd.params 0 5) (streamOfParams t.cmd.params) k)).elim
      (.pass (k.withStream (fldN t.cmd.params 0 5) (streamOfParams t.cmd.params)) noResult) fun st => .refuse st noResult := by
  simp only [streamConfigChecks, firstOf_elim_cons, firstOf_elim_nil]
  rfl

/-! CSI_RX_CONFIG (R323) -/

/-- The receive port that the parameters of CSI_RX_CONFIG carry. -/
def csiRxOfParams (p : Params) : CsiRxCfg := { cphy := bitAt p 4, lanes := fld p 5 3, rate := fld p 8 16 }

/-- The lanes and the rate are those of the physical layer (R323). -/
def CsiRxCfg.inRange (d : CsiRxCfg) : Bool :=
  if d.cphy then 1 ≤ d.lanes.toNat && d.lanes.toNat ≤ 3 && 80 ≤ d.rate.toNat && d.rate.toNat ≤ 6000
  else (d.lanes.toNat == 1 || d.lanes.toNat == 2 || d.lanes.toNat == 4) && 80 ≤ d.rate.toNat && d.rate.toNat ≤ 9000

/-- The shadow with one receive port written. -/
def Shadow.withCsiRx (n : Nat) (d : CsiRxCfg) (k : Shadow) : Shadow := { k with csiRx := tabPut {} k.csiRx n d }

/-- The checks of CSI_RX_CONFIG: the path, then the number, lanes and rate of the port. -/
def csiRxChecks (t : Ticket) (n : Nat) (d : CsiRxCfg) : List (Bool × Nat) :=
  [(!t.fromSupervisor, 0x00C1), (11 < n || !d.inRange, 0x00C0)]

theorem ruleCsiRx_eq : ruleCsiRx s t k =
    (firstOf (csiRxChecks t (fldN t.cmd.params 0 4) (csiRxOfParams t.cmd.params))).elim
      (.pass (k.withCsiRx (fldN t.cmd.params 0 4) (csiRxOfParams t.cmd.params)) noResult) fun st => .refuse st noResult := by
  simp only [csiRxChecks, firstOf_elim_cons, firstOf_elim_nil]
  rfl

/-! TRIGGER_CONFIG (R326) -/

/-- The trigger output that the parameters of TRIGGER_CONFIG carry, with the stamp of the lock cycle that makes it. -/
def triggerOfParams (p : Params) (made : Nat) : TriggerCfg :=
  { enable := bitAt p 5, polarity := bitAt p 6, period := fld p 32 32, phase := fld p 64 32, width := fld p 96 16, made := made }

/-- The period is out of its range, or not above the phase and the width, or the width is 0 (R326). -/
def TriggerCfg.outOfRange (d : TriggerCfg) : Bool :=
  d.period.toNat < 1000 || 1000000 < d.period.toNat || d.period.toNat ≤ d.phase.toNat || d.width == 0
    || d.period.toNat ≤ d.width.toNat

/-- The shadow with one trigger output written. -/
def Shadow.withTrigger (n : Nat) (d : TriggerCfg) (k : Shadow) : Shadow := { k with triggers := tabPut {} k.triggers n d }

/-- The checks of TRIGGER_CONFIG: the path, then the timing. -/
def triggerChecks (t : Ticket) (d : TriggerCfg) : List (Bool × Nat) := [(!t.fromSupervisor, 0x00C1), (d.outOfRange, 0x00C0)]

theorem ruleTrigger_eq : ruleTrigger s t k =
    (firstOf (triggerChecks t (triggerOfParams t.cmd.params (s.lock.number.toNat + 1)))).elim
      (.pass (k.withTrigger (fldN t.cmd.params 0 5) (triggerOfParams t.cmd.params (s.lock.number.toNat + 1))) noResult)
      fun st => .refuse st noResult := by
  simp only [triggerChecks, firstOf_elim_cons, firstOf_elim_nil]
  rfl

theorem triggerConfig_settled (h : Admits opTrigger c s = true) :
    exec (.triggerConfig c) s = .next (settled opTrigger c
      (triggerChecks (ticketOf opTrigger c s) (triggerOfParams c.params (s.lock.number.toNat + 1)))
      (s.lock.opn.withTrigger (fldN c.params 0 5) (triggerOfParams c.params (s.lock.number.toNat + 1))) s) :=
  config_settled h (by rw [ruleTrigger_eq, admitted_lock, ticketOf_cmd])

/-! CSI_TX_CONFIG (R341) -/

/-- The transmit port that the parameters of CSI_TX_CONFIG carry. -/
def csiTxOfParams (p : Params) : CsiTxCfg :=
  { enable := bitAt p 2, memory := bitAt p 3, lanes := fld p 4 3, rate := fld p 16 16, srcPort := fld p 32 4 }

/-- The lanes, the rate or the source port is none that R341 lists. -/
def CsiTxCfg.outOfRange (d : CsiTxCfg) : Bool :=
  !(d.lanes == 1 || d.lanes == 2 || d.lanes == 4) || d.rate.toNat < 80 || 9000 < d.rate.toNat || 11 < d.srcPort.toNat

/-- The shadow with one transmit port written. -/
def Shadow.withCsiTx (n : Nat) (d : CsiTxCfg) (k : Shadow) : Shadow := { k with csiTx := tabPut {} k.csiTx n d }

/-- The checks of CSI_TX_CONFIG: the path, the fields, and a port repeated that is faster than its repeater. -/
def csiTxChecks (t : Ticket) (d : CsiTxCfg) (k : Shadow) : List (Bool × Nat) :=
  [ (!t.fromSupervisor, 0x00C1), (d.outOfRange, 0x00C0),
    (!d.memory && txTooSlow d (k.rxPort d.srcPort.toNat), 0x00C6) ]

theorem ruleCsiTx_eq : ruleCsiTx s t k =
    (firstOf (csiTxChecks t (csiTxOfParams t.cmd.params) k)).elim
      (.pass (k.withCsiTx (fldN t.cmd.params 0 2) (csiTxOfParams t.cmd.params)) noResult) fun st => .refuse st noResult := by
  simp only [csiTxChecks, firstOf_elim_cons, firstOf_elim_nil]
  rfl

/-! I3C_CONFIG (R559) -/

/-- The bus that an I3C_CONFIG packet carries, with the generation of its berth and the stamp of the lock cycle that makes it. -/
def i3cOfTicket (t : Ticket) (made : Nat) : I3cCfg :=
  { sdrKhz := fld t.cmd.params 16 16, i2cKhz := fld t.cmd.params 32 16, ibiQueue := fld t.cmd.params 64 18, owner := some t.cmd,
    gen := t.gen, made := made }

/-- The shadow with one bus written. -/
def Shadow.withBus (n : Nat) (d : I3cCfg) (k : Shadow) : Shadow := { k with i3c := tabPut {} k.i3c n d }

/-- The queue of in-band interrupts is an event queue of the caller. -/
def Ticket.ownsEventQueue (t : Ticket) (q : QueueDesc) : Bool := q.valid && q.kind == 1 && t.owns q.berth

/-- The checks of I3C_CONFIG: the bus is not granted to the caller, or its rates are too high or its queue is no event queue of
the caller. -/
def i3cConfigChecks (t : Ticket) (d : I3cCfg) (k : Shadow) : List (Bool × Nat) :=
  [ (!t.granted k (·.i3cGrant) (fldN t.cmd.params 0 2), 0x00C1),
    (12500 < d.sdrKhz.toNat || 1000 < d.i2cKhz.toNat || !t.ownsEventQueue (k.queueDesc d.ibiQueue.toNat), 0x00C0) ]

theorem ruleI3cConfig_eq : ruleI3cConfig s t k =
    (firstOf (i3cConfigChecks t (i3cOfTicket t (s.lock.number.toNat + 1)) k)).elim
      (.pass (k.withBus (fldN t.cmd.params 0 2) (i3cOfTicket t (s.lock.number.toNat + 1))) noResult)
      fun st => .refuse st noResult := by
  simp only [i3cConfigChecks, firstOf_elim_cons, firstOf_elim_nil]
  rfl

theorem i3cConfig_settled (h : Admits opI3cConfig c s = true) :
    exec (.i3cConfig c) s = .next (settled opI3cConfig c
      (i3cConfigChecks (ticketOf opI3cConfig c s) (i3cOfTicket (ticketOf opI3cConfig c s) (s.lock.number.toNat + 1)) s.lock.opn)
      (s.lock.opn.withBus (fldN c.params 0 2) (i3cOfTicket (ticketOf opI3cConfig c s) (s.lock.number.toNat + 1))) s) :=
  config_settled h (by rw [ruleI3cConfig_eq, admitted_lock, ticketOf_cmd])

/-- Settles O24: each command is settled by its list of checks. The model's readings: the buffers are checked only with ENABLE
(log 106), in the berth that holds the stream's grant (log 157). -/
theorem ingestConfigurationChecksInOrder : Obligations.IngestConfigurationChecksInOrder :=
  ⟨fun _ _ h => config_settled h ruleStreamConfig_eq, fun _ _ h => config_settled h ruleCsiRx_eq,
    fun _ _ => triggerConfig_settled, fun _ _ h => config_settled h ruleCsiTx_eq, fun _ _ => i3cConfig_settled⟩

end Sys2Proof.Machine
end

section
/-! PROOFS. The arrival of frames and scans (R324 to R337): a trigger pulse is driven when its time has come, the packets of a
camera are mirrored and then start, fill or end a frame, and the datagrams of a lidar begin and fill a scan. -/

namespace Sys2Proof.Machine

variable {s u : State} {n : Nat} {payload : List Byte}

/-! TRIGGER_PULSE (R326) -/

section Trigger

variable {o : Fin 32}

/-- The number of the next pulse of a trigger output. -/
def State.nextPulse (s : State) (o : Nat) : Nat :=
  max (tabGet {} s.dyn.ingest.triggers o).seq
    ((s.dyn.cfg.trigger o).after (tabGet {} s.dyn.ingest.triggers o).since)

/-- The output is on and the time of its next pulse has come. -/
def State.pulseDue (s : State) (o : Nat) : Prop :=
  (s.dyn.cfg.trigger o).enable = true ∧ (s.dyn.cfg.trigger o).time (s.nextPulse o) ≤ s.now16

theorem pulseDue_iff {o : Nat} : s.pulseDue o ↔
    ¬ (!(s.dyn.cfg.trigger o).enable || s.now16 < (s.dyn.cfg.trigger o).time (s.nextPulse o)) = true := by
  simp [State.pulseDue]

/-- Pulse `k` of an output is driven. -/
def TriggerDyn.driven (d : TriggerCfg) (k : Nat) (y : TriggerDyn) : TriggerDyn :=
  { y with seq := k + 1, time := d.time k, count := y.count + 1, ends := d.time k + d.width.toNat * us16 }

theorem triggerPulse_of_due (h : s.pulseDue o) : exec (.triggerPulse o) s = .next (s.modIngest fun g =>
    { g with triggers := tabMod {} g.triggers o (.driven (s.dyn.cfg.trigger o) (s.nextPulse o)) }) :=
  if_neg (pulseDue_iff.mp h)

theorem triggerPulse_of_not_due (h : ¬ s.pulseDue o) : exec (.triggerPulse o) s = .next s :=
  if_pos (not_not.mp (mt pulseDue_iff.mpr h))

end Trigger

/-! FRAME_START (R324, R332); `u` is the state once the packet is mirrored (R341) -/

section FrameStart

variable {port : Fin 12} {vc : BitVec 5} {fn : BitVec 16}
  (hu : mirror port { kind := 0, vc := vc, fn := fn } s = u)
include hu

theorem frameStart_of_no_stream (h : u.dyn.cfg.cameraOf port vc = none) : exec (.frameStart port vc fn) s = .next u := by
  change execFrameStart port vc fn s = .next u
  simp only [execFrameStart, hu, h]

variable (hn : u.dyn.cfg.cameraOf port vc = some n)
include hn

theorem frameStart_of_stream : exec (.frameStart port vc fn) s =
    if fn = 0 ∨ (u.stream n).inFrame = true then .next (u.modStream n (.countDrop .error)) else .next (startFrame n fn u) := by
  change execFrameStart port vc fn s = _
  simp only [execFrameStart, hu, hn, Bool.or_eq_true, decide_eq_true_eq]

theorem frameStart_of_bad (h : fn = 0 ∨ (u.stream n).inFrame = true) :
    exec (.frameStart port vc fn) s = .next (u.modStream n (.countDrop .error)) :=
  (frameStart_of_stream hu hn).trans (if_pos h)

theorem frameStart_of_good (hfn : fn ≠ 0) (hframe : (u.stream n).inFrame = false) :
    exec (.frameStart port vc fn) s = .next (startFrame n fn u) :=
  (frameStart_of_stream hu hn).trans (if_neg (not_or.mpr ⟨hfn, ne_true_of_eq_false hframe⟩))

end FrameStart

/-! LONG_PACKET (R324, R330, R337) -/

/-- What a long packet does to the frame `p` in progress: an error drops it, a line of a known type is stored, and any other
packet is ignored (log 106). -/
def takeLine (n : Nat) (dt : BitVec 6) (payload : List Byte) (p : Sample) (u : State) : LineError → State
  | .headerUncorrectable => dropSample n .error u
  | .payloadCrc => dropSample n .error u
  | .none =>
    if dt = 0x12 then storeLine n (u.dyn.cfg.stream n) p true payload u
    else if dt = (u.dyn.cfg.stream n).dt then storeLine n (u.dyn.cfg.stream n) p false payload u
    else u

section LongPacket

variable {port : Fin 12} {vc : BitVec 5} {dt : BitVec 6} {err : LineError} {p : Sample}
  (hu : mirror port { kind := 1, vc := vc, dt := dt, payload := payload } s = u)
include hu

theorem longPacket_of_no_stream (h : u.dyn.cfg.cameraOf port vc = none) :
    exec (.longPacket port vc dt payload err) s = .next u := by
  change execLongPacket port vc dt payload err s = .next u
  simp only [execLongPacket, hu, h]

variable (hn : u.dyn.cfg.cameraOf port vc = some n)
include hn

theorem longPacket_of_no_frame (h : (u.stream n).sample = none) :
    exec (.longPacket port vc dt payload err) s = .next u := by
  change execLongPacket port vc dt payload err s = .next u
  simp only [execLongPacket, hu, hn, h]

theorem longPacket_of_frame (hp : (u.stream n).sample = some p) :
    exec (.longPacket port vc dt payload err) s = .next (takeLine n dt payload p u err) := by
  change execLongPacket port vc dt payload err s = _
  simp only [execLongPacket, hu, hn, hp]
  cases err with
  | none => simp only [takeLine, apply_ite Host.Outcome.next]
  | headerUncorrectable => rfl
  | payloadCrc => rfl

end LongPacket

/-! FRAME_END (R330, R339) and MISSING (R333) -/

section Stream

variable {stream : BitVec 5}

/-- The stream is an enabled camera stream. -/
def State.isCamera (s : State) (n : Nat) : Prop := (s.dyn.cfg.stream n).enable = true ∧ (s.dyn.cfg.stream n).lidar = false

theorem isCamera_iff : s.isCamera n ↔ ¬ (!(s.dyn.cfg.stream n).enable || (s.dyn.cfg.stream n).lidar) = true := by
  simp [State.isCamera]

/-- The state once the Frame End of a camera stream is mirrored. -/
def State.endMirrored (s : State) (n : Nat) : State :=
  mirror (s.dyn.cfg.stream n).port.toNat { kind := 2, vc := (s.dyn.cfg.stream n).vc } s

theorem frameEnd_of_no_camera (h : ¬ s.isCamera stream.toNat) : exec (.frameEnd stream) s = .next s :=
  if_pos (not_not.mp (mt isCamera_iff.mpr h))

theorem frameEnd_of_no_frame (h : s.isCamera stream.toNat)
    (hframe : ((s.endMirrored stream.toNat).stream stream.toNat).inFrame = false) :
    exec (.frameEnd stream) s = .next (s.endMirrored stream.toNat) :=
  (if_neg (isCamera_iff.mp h)).trans (if_neg (ne_true_of_eq_false hframe))

theorem frameEnd_of_frame (h : s.isCamera stream.toNat)
    (hframe : ((s.endMirrored stream.toNat).stream stream.toNat).inFrame = true) :
    exec (.frameEnd stream) s = .next (deliverSample stream.toNat
      ((s.endMirrored stream.toNat).modStream stream.toNat fun y => { y with inFrame := false })) :=
  (if_neg (isCamera_iff.mp h)).trans (if_pos hframe)

/-- The trigger output of a stream. -/
def State.triggerOf (s : State) (n : Nat) : TriggerCfg := s.dyn.cfg.trigger (s.dyn.cfg.stream n).trigger.toNat

theorem missing_of_off (h : (s.dyn.cfg.stream stream.toNat).enable = false ∨ (s.triggerOf stream.toNat).enable = false) :
    exec (.missing stream) s = .next s := if_pos (by simpa [State.triggerOf] using h)

theorem missing_of_on (hstream : (s.dyn.cfg.stream stream.toNat).enable = true)
    (htrigger : (s.triggerOf stream.toNat).enable = true) : exec (.missing stream) s = .next (s.modStream stream.toNat
      (.passMissing (s.dyn.cfg.stream stream.toNat) (s.triggerOf stream.toNat) s.now16)) :=
  if_neg (by simpa using ⟨hstream, htrigger⟩)

end Stream

/-! START_PACKET and LIDAR_PACKET (R325, R334, R335) -/

section Lidar

variable {mac : Fin 8} {udp : BitVec 16} {fragmented : Bool} {x : Scan}

/-- A fragment of a stream counts as ERROR (R325). -/
def StreamDyn.countFragment (y : StreamDyn) : StreamDyn := { y with error := satInc y.error }

theorem startPacket_of_no_stream (h : s.dyn.cfg.lidarOf mac udp = none) :
    exec (.startPacket mac udp payload fragmented) s = .next s := by
  change execStartPacket mac udp payload fragmented s = .next s
  simp only [execStartPacket, h]

theorem lidarPacket_of_no_stream (h : s.dyn.cfg.lidarOf mac udp = none) :
    exec (.lidarPacket mac udp payload fragmented) s = .next s := by
  change execLidarPacket mac udp payload fragmented s = .next s
  simp only [execLidarPacket, h]

variable (hn : s.dyn.cfg.lidarOf mac udp = some n)
include hn

theorem startPacket_of_stream : exec (.startPacket mac udp payload fragmented) s =
    if fragmented = true then .next (s.modStream n .countFragment)
    else if (!(s.dyn.cfg.stream n).isStart payload) = true then .next s
    else .next (startScan n payload s) := by
  change execStartPacket mac udp payload fragmented s = _
  simp only [execStartPacket, hn]
  rfl

theorem startPacket_of_fragment : exec (.startPacket mac udp payload true) s = .next (s.modStream n .countFragment) := by
  rw [startPacket_of_stream hn, if_pos rfl]

theorem startPacket_of_no_marker (h : (s.dyn.cfg.stream n).isStart payload = false) :
    exec (.startPacket mac udp payload false) s = .next s := by
  rw [startPacket_of_stream hn, if_neg Bool.false_ne_true, if_pos (by rw [h, Bool.not_false])]

theorem startPacket_of_marker (h : (s.dyn.cfg.stream n).isStart payload = true) :
    exec (.startPacket mac udp payload false) s = .next (startScan n payload s) := by
  rw [startPacket_of_stream hn, if_neg Bool.false_ne_true, if_neg (by rw [h]; exact Bool.false_ne_true)]

theorem lidarPacket_of_fragment : exec (.lidarPacket mac udp payload true) s = .next (s.modStream n .countFragment) := by
  change execLidarPacket mac udp payload true s = _
  simp only [execLidarPacket, hn, if_true]
  rfl

theorem lidarPacket_of_no_scan (h : (s.stream n).scan = none) : exec (.lidarPacket mac udp payload false) s = .next s := by
  change execLidarPacket mac udp payload false s = .next s
  simp only [execLidarPacket, hn, h, Bool.false_eq_true, if_false]

theorem lidarPacket_of_scan (hx : (s.stream n).scan = some x) : exec (.lidarPacket mac udp payload false) s =
    .next (storePacket n payload (if x.packets = 0 then startSegment n x s else s)) := by
  change execLidarPacket mac udp payload false s = _
  simp only [execLidarPacket, hn, hx, Bool.false_eq_true, if_false]

end Lidar

/-- Settles O49: each event asks its conditions one after another, and every clause is one answer. The model's readings: an event
not due changes nothing (log 2), a data type that no stream lists is ignored (log 106), a Frame Start inside a
frame drops the new frame untracked (log 103), a fragment counts as ERROR only and a start packet needs its marker (log 104), and
the row MISSING counts too (log 105). -/
theorem framesAndScansArrive : Obligations.FramesAndScansArrive := by
  refine ⟨fun o s => ⟨triggerPulse_of_due, triggerPulse_of_not_due⟩,
    fun port vc fn s => ⟨frameStart_of_no_stream rfl, fun n => frameStart_of_bad rfl, fun n => frameStart_of_good rfl⟩,
    fun port vc dt payload s => ⟨fun err => longPacket_of_no_stream rfl,
      fun n hn => ⟨fun err => longPacket_of_no_frame rfl hn, fun p hp => ?line⟩⟩,
    fun stream s => ⟨frameEnd_of_no_camera, frameEnd_of_no_frame, frameEnd_of_frame, missing_of_off, missing_of_on⟩,
    fun mac udp payload s => ⟨fun h fragmented => ⟨startPacket_of_no_stream h, lidarPacket_of_no_stream h⟩,
      fun n hn => ⟨startPacket_of_fragment hn, lidarPacket_of_fragment hn, startPacket_of_no_marker hn,
        startPacket_of_marker hn, lidarPacket_of_no_scan hn, fun x hx hfirst => ?first, fun x hx hlater => ?later⟩⟩⟩
  case line =>
    have line (err : LineError) := longPacket_of_frame (err := err) rfl hn hp
    refine ⟨line .headerUncorrectable, line .payloadCrc, fun hembedded => (line .none).trans ?_,
      fun hother himage => (line .none).trans ?_, fun hother hunlisted => (line .none).trans ?_⟩
    · rw [takeLine, if_pos hembedded]
    · rw [takeLine, if_neg hother, if_pos himage]
    · rw [takeLine, if_neg hother, if_neg hunlisted]
  case first => rw [lidarPacket_of_scan hn hx, if_pos hfirst]
  case later => rw [lidarPacket_of_scan hn hx, if_neg hlater]

end Sys2Proof.Machine
end

section
/-! PROOFS. The events of Confluence (R350 to R361): a sample that arrives is assigned or excluded, an instant closes, and the run
closed first is published. -/

namespace Sys2Proof.Machine

variable {s : State} {stream : BitVec 5} {c : Contribution} {i : Nat} {g : Fin 4} {r : ClosedRun} {runs : List ClosedRun}

/-! SAMPLE_ARRIVE (R350 to R354): the samples that arrive are judged one at a time -/

/-- The oldest sample of a stream on its way. -/
def State.oldestArriving (s : State) (n : Nat) : Option Contribution :=
  s.dyn.fusion.arriving.find? fun x => x.stream == n

/-- A sample leaves the way. -/
def State.leftWay (c : Contribution) (s : State) : State := s.modFusion fun f => { f with arriving := f.arriving.erase c }

/-- The fusion group that the live configuration gives a sample. -/
def State.groupFor (s : State) (c : Contribution) : Nat := (s.dyn.cfg.fusionStream c.stream).group.toNat

/-- The instants of its group whose window holds the sample's time (R351). -/
def State.windows (s : State) (c : Contribution) : List Nat :=
  windowInstants (s.dyn.cfg.fusionStream c.stream) (s.dyn.cfg.group (s.groupFor c)) c.time

/-- Instant `j` of group `g` has closed. -/
def State.hasClosed (s : State) (g j : Nat) : Bool :=
  decide (j < (s.group g).next) || decide ((s.dyn.cfg.group g).closes j ≤ s.now16)

/-- The first pending instant whose window holds the sample's time (R352). -/
def State.placeFor (s : State) (c : Contribution) : Option Nat :=
  (s.windows c).find? fun j => ((s.group (s.groupFor c)).pendingAt (s.dyn.cfg.group (s.groupFor c)) s.now16).contains j

/-- The sample with its mark: it is carried when the window of an earlier instant that has closed holds its time (R353). -/
def State.marked (s : State) (i : Nat) (c : Contribution) : Contribution :=
  { c with carried := (s.windows c).any fun j => decide (j < i) && s.hasClosed (s.groupFor c) j }

/-- Why a sample without a place is excluded (R353). -/
def State.exclusionOf (s : State) (c : Contribution) : Exclusion :=
  if s.windows c = [] then .outside else if (s.windows c).any (s.hasClosed (s.groupFor c)) = true then .late else .early

/-- The sample goes to its place, or is excluded. -/
def State.placed (s : State) (c : Contribution) : State :=
  match s.placeFor c with
  | some i => assignSample (s.groupFor c) i (s.marked i c) (s.leftWay c)
  | none => excludeFrom (s.groupFor c) (s.exclusionOf c) c (s.leftWay c)

theorem placed_of_place (h : s.placeFor c = some i) :
    s.placed c = assignSample (s.groupFor c) i (s.marked i c) (s.leftWay c) := by
  simp only [State.placed, h]

theorem placed_of_no_place (h : s.placeFor c = none) :
    s.placed c = excludeFrom (s.groupFor c) (s.exclusionOf c) c (s.leftWay c) := by
  simp only [State.placed, h]

theorem exclusionOf_outside (h : s.windows c = []) : s.exclusionOf c = .outside := if_pos h

theorem exclusionOf_late (h : s.windows c ≠ []) (hclosed : (s.windows c).any (s.hasClosed (s.groupFor c)) = true) :
    s.exclusionOf c = .late := (if_neg h).trans (if_pos hclosed)

theorem exclusionOf_early (h : s.windows c ≠ []) (hopen : (s.windows c).any (s.hasClosed (s.groupFor c)) = false) :
    s.exclusionOf c = .early := (if_neg h).trans (if_neg (ne_true_of_eq_false hopen))

theorem sampleArrive_of_none (h : s.oldestArriving stream.toNat = none) : exec (.sampleArrive stream) s = .next s := by
  change execSampleArrive stream s = .next s
  rw [State.oldestArriving] at h
  simp only [execSampleArrive, h]

section Arrive

variable (hc : s.oldestArriving stream.toNat = some c)
include hc

theorem sampleArrive_of_some : exec (.sampleArrive stream) s =
    if (s.dyn.cfg.fusionStream c.stream).join = false ∨ (s.dyn.cfg.group (s.groupFor c)).enable = false then
      .next (excludeSample c (s.leftWay c))
    else if c.lock = false then .next (excludeFrom (s.groupFor c) .unlocked c (s.leftWay c))
    else .next (s.placed c) := by
  change execSampleArrive stream s = _
  rw [State.oldestArriving] at hc
  simp only [execSampleArrive, hc]
  refine if_congr (by simp [State.groupFor]) rfl (if_congr (by simp) rfl ?_)
  split
  next i hplace => exact congrArg Host.Outcome.next (placed_of_place (s := s) hplace).symm
  next hplace =>
    rw [placed_of_no_place (s := s) hplace]
    split
    next hnone => rw [exclusionOf_outside (s := s) (List.isEmpty_iff.mp hnone)]; rfl
    next hsome =>
      have hwindows : s.windows c ≠ [] := mt List.isEmpty_iff.mpr hsome
      split
      next hclosed => rw [exclusionOf_late hwindows hclosed]; rfl
      next hopen => rw [exclusionOf_early hwindows (eq_false_of_ne_true hopen)]; rfl

theorem sampleArrive_of_no_group
    (h : (s.dyn.cfg.fusionStream c.stream).join = false ∨ (s.dyn.cfg.group (s.groupFor c)).enable = false) :
    exec (.sampleArrive stream) s = .next (excludeSample c (s.leftWay c)) :=
  (sampleArrive_of_some hc).trans (if_pos h)

variable (hjoin : (s.dyn.cfg.fusionStream c.stream).join = true) (hon : (s.dyn.cfg.group (s.groupFor c)).enable = true)
include hjoin hon

theorem sampleArrive_of_group : exec (.sampleArrive stream) s =
    if c.lock = false then .next (excludeFrom (s.groupFor c) .unlocked c (s.leftWay c)) else .next (s.placed c) :=
  (sampleArrive_of_some hc).trans (if_neg (by simp [hjoin, hon]))

theorem sampleArrive_of_unlocked (hlock : c.lock = false) :
    exec (.sampleArrive stream) s = .next (excludeFrom (s.groupFor c) .unlocked c (s.leftWay c)) :=
  (sampleArrive_of_group hc hjoin hon).trans (if_pos hlock)

theorem sampleArrive_of_locked (hlock : c.lock = true) : exec (.sampleArrive stream) s = .next (s.placed c) :=
  (sampleArrive_of_group hc hjoin hon).trans (if_neg (by simp [hlock]))

end Arrive

/-! INSTANT_CLOSE (R355) and LEVEL0_PUBLISH (R356, R361) -/

/-- The lowest open instant of an enabled group has reached its close. -/
def State.instantDue (s : State) (g : Nat) : Prop :=
  (s.dyn.cfg.group g).enable = true ∧ (s.dyn.cfg.group g).closes (s.group g).next ≤ s.now16

theorem instantDue_iff {g : Nat} : s.instantDue g ↔
    ¬ (!(s.dyn.cfg.group g).enable || s.now16 < (s.dyn.cfg.group g).closes (s.group g).next) = true := by
  simp [State.instantDue]

theorem instantClose_of_due (h : s.instantDue g) :
    exec (.instantClose g) s = .next (closeInstant g (s.group g).next (s.dyn.cfg.group g) false s) :=
  if_neg (instantDue_iff.mp h)

theorem instantClose_of_not_due (h : ¬ s.instantDue g) : exec (.instantClose g) s = .next s :=
  if_pos (not_not.mp (mt instantDue_iff.mpr h))

theorem level0Publish_of_none (h : s.dyn.fusion.runs = []) : exec (.level0Publish g) s = .next s := by
  change execLevel0Publish g s = .next s
  simp only [execLevel0Publish, h]

section Publish

variable (h : s.dyn.fusion.runs = r :: runs)
include h

theorem level0Publish_of_some : exec (.level0Publish g) s =
    if r.group ≠ g then .next s else .next (publishRun r (s.modFusion fun f => { f with runs := runs })).bump := by
  change execLevel0Publish g s = _
  simp only [execLevel0Publish, h]

theorem level0Publish_of_own (hown : r.group = g) :
    exec (.level0Publish g) s = .next (publishRun r (s.modFusion fun f => { f with runs := runs })).bump :=
  (level0Publish_of_some h).trans (if_neg (not_not.mpr hown))

theorem level0Publish_of_other (hother : r.group ≠ g) : exec (.level0Publish g) s = .next s :=
  (level0Publish_of_some h).trans (if_pos hother)

end Publish

end Sys2Proof.Machine
end

section
/-! PROOFS. The ends of what Ingest sends and transfers, and the in-band interrupts of its I3C buses (R342, R376, R559). -/

namespace Sys2Proof.Machine

variable {s : State} {t : Ticket}

/-! CSI_TX_FRAME_END (R342) -/

section Sent

variable {port : Fin 4} {lines : List (List Byte)}

/-- The packets of a frame from memory, in the order they are sent. -/
def framePackets (p : Params) (lines : List (List Byte)) : List TxPacket :=
  [{ kind := 0, vc := fld p 2 5, fn := fld p 16 16 }]
    ++ (lines.map fun d => { kind := 1, vc := fld p 2 5, dt := fld p 7 6, payload := d })
    ++ [{ kind := 2, vc := fld p 2 5, fn := fld p 16 16 }]

/-- The packets have left a transmit port, which is free again. -/
def Ingest.sent (port : Nat) (packets : List TxPacket) (g : Ingest) : Ingest :=
  { g with tx := tabPut none g.tx port none, txSent := tabMod [] g.txSent port (packets.reverse ++ ·) }

theorem csiTxFrameEnd_of_none (h : tabGet none s.dyn.ingest.tx port = none) : exec (.csiTxFrameEnd port) s = .next s := by
  change execCsiTxFrameEnd port s = .next s
  simp only [execCsiTxFrameEnd, h]

theorem csiTxFrameEnd_of_some (h : tabGet none s.dyn.ingest.tx port = some (t, lines)) : exec (.csiTxFrameEnd port) s =
    .next (writeRecord t 0 noResult (s.modIngest (.sent port (framePackets t.cmd.params lines)))) := by
  change execCsiTxFrameEnd port s = _
  simp only [execCsiTxFrameEnd, h]
  rfl

end Sent

/-! I3C_TRANSFER_END (R559) -/

section Transfer

variable {bus : Fin 4} {x : XferRun} {done : Nat} {result : Option Bool} {data : List (List Byte)} {v : List Unit}

/-- The entries among the first `done` that read. -/
def XferRun.readsOf (x : XferRun) (done : Nat) : List (BitVec 128) := (x.entries.take done).filter fun e => bitAt e 7

/-- An end after `done` entries with `data` read fits the transfer. -/
def XferRun.endsSo (x : XferRun) (done : Nat) (result : Option Bool) (data : List (List Byte)) : Prop :=
  (if result = none then done = x.entries.length else done < x.entries.length)
    ∧ (x.readsOf done).length = data.length ∧ ∀ r ∈ (x.readsOf done).zip data, r.2.length ≤ (xferSpan r.1).2

theorem endsSo_iff : x.endsSo done result data ↔
    ¬ (!((if result.isNone then done == x.entries.length else decide (done < x.entries.length))
        && (x.readsOf done).length == data.length
        && ((x.readsOf done).zip data).all fun r => decide (r.2.length ≤ (xferSpan r.1).2))) = true := by
  cases result <;> simp [XferRun.endsSo, and_assoc]

/-- The bus is free again. -/
def Ingest.freeBus (bus : Nat) (g : Ingest) : Ingest := { g with xfer := tabPut none g.xfer bus none }

/-- What was read goes to memory. -/
def writeReads (t : Ticket) (reads : List (BitVec 128 × List Byte)) (s : State) : State × Access (List Unit) :=
  eachA (fun r y => writeVirt { source := 3, berth := t.cmd.berth, gen := t.gen } t.cmd.berth (xferSpan r.1).1 r.2 y) reads s

/-- The record of a transfer that ended after `done` entries. -/
def xferAnswered (t : Ticket) (done : Nat) (result : Option Bool) (s : State) : State :=
  match result with
  | none => writeRecord t 0 noResult s
  | some b => writeRecord t (if b then 0x00C5 else 0x00C4) (shortResult [(0, 8, done)]) s

/-- The record of a transfer, by what the writes of what it read came to. -/
def xferEnded (t : Ticket) (done : Nat) (result : Option Bool) : State × Access (List Unit) → State
  | (s, .uncorrectable) => writeRecord t 0x000B noResult s
  | (s, .addressFault) => writeRecord t 0x00C3 noResult s
  | (s, .ok _) => xferAnswered t done result s

theorem i3cTransferEnd_of_none (h : tabGet none s.dyn.ingest.xfer bus = none) :
    exec (.i3cTransferEnd bus done result data) s = .next s := by
  change execI3cTransferEnd bus done result data s = .next s
  simp only [execI3cTransferEnd, h]

variable (hx : tabGet none s.dyn.ingest.xfer bus = some x)
include hx

theorem i3cTransferEnd_of_misfit (h : ¬ x.endsSo done result data) :
    exec (.i3cTransferEnd bus done result data) s = .next s := by
  change execI3cTransferEnd bus done result data s = .next s
  simp only [execI3cTransferEnd, hx]
  exact if_pos (not_not.mp (mt endsSo_iff.mpr h))

theorem i3cTransferEnd_of_fit (h : x.endsSo done result data) : exec (.i3cTransferEnd bus done result data) s =
    .next (xferEnded x.ticket done result
      (writeReads x.ticket ((x.readsOf done).zip data) (s.modIngest (.freeBus bus)))) := by
  change execI3cTransferEnd bus done result data s = _
  simp only [execI3cTransferEnd, hx]
  refine (if_neg (endsSo_iff.mp h)).trans ?_
  have ends {y} (hy : writeReads x.ticket ((x.readsOf done).zip data) (s.modIngest (.freeBus bus)) = y) :
      xferEnded x.ticket done result y
        = xferEnded x.ticket done result (writeReads x.ticket ((x.readsOf done).zip data) (s.modIngest (.freeBus bus))) := by
    rw [hy]
  split
  next y hy => exact congrArg Host.Outcome.next (ends hy)
  next y hy => exact congrArg Host.Outcome.next (ends hy)
  next y v hy => cases result <;> exact congrArg Host.Outcome.next (ends hy)

end Transfer

/-! I3C_IBI (R376, R559) -/

section Interrupt

variable {bus : Fin 4} {addr : BitVec 7} {payload : BitVec 64} {o : Cmd}

/-- The ticket that the records of a bus's in-band interrupts carry: that of the I3C_CONFIG `o` that set its queue. -/
def I3cCfg.ibiTicket (d : I3cCfg) (o : Cmd) : Ticket := { opcode := 0x4040, cmd := o, gen := d.gen }

/-- An in-band interrupt is written: its record takes a slot of the queue, and the bus counts it. -/
def ibiWritten (bus q : Nat) (t : Ticket) (addr : BitVec 7) (payload : BitVec 64) (s : State) : State :=
  let k := tabGet 0 s.dyn.ingest.ibiCount bus
  moreRecord q t 0x00C7 (longResult 32 [(0, 7, addr.toNat), (64, 64, payload.toNat), (128, 80, layout80 s.now16)]) (k % 256)
    (reserveSlot q (s.modIngest fun g => { g with ibiCount := tabPut 0 g.ibiCount bus (k + 1) }))

theorem i3cIbi_of_no_owner (h : (s.dyn.cfg.bus bus).owner = none) : exec (.i3cIbi bus addr payload) s = .next s := by
  change execI3cIbi bus addr payload s = .next s
  simp only [execI3cIbi, h]

variable (ho : (s.dyn.cfg.bus bus).owner = some o)
include ho

theorem i3cIbi_of_owner : exec (.i3cIbi bus addr payload) s =
    if s.stale ((s.dyn.cfg.bus bus).ibiTicket o) = true ∨ s.slotFree (s.dyn.cfg.bus bus).ibiQueue.toNat = false then .next s
    else .next (ibiWritten bus (s.dyn.cfg.bus bus).ibiQueue.toNat ((s.dyn.cfg.bus bus).ibiTicket o) addr payload s) := by
  change execI3cIbi bus addr payload s = _
  simp only [execI3cIbi, ho, Bool.or_eq_true, Bool.not_eq_true']
  rfl

theorem i3cIbi_of_dropped
    (h : s.stale ((s.dyn.cfg.bus bus).ibiTicket o) = true ∨ s.slotFree (s.dyn.cfg.bus bus).ibiQueue.toNat = false) :
    exec (.i3cIbi bus addr payload) s = .next s := (i3cIbi_of_owner ho).trans (if_pos h)

theorem i3cIbi_of_slot (hgen : s.stale ((s.dyn.cfg.bus bus).ibiTicket o) = false)
    (hslot : s.slotFree (s.dyn.cfg.bus bus).ibiQueue.toNat = true) : exec (.i3cIbi bus addr payload) s =
      .next (ibiWritten bus (s.dyn.cfg.bus bus).ibiQueue.toNat ((s.dyn.cfg.bus bus).ibiTicket o) addr payload s) :=
  (i3cIbi_of_owner ho).trans (if_neg (by simp [hgen, hslot]))

end Interrupt

/-- Settles O50: each event asks its conditions one after another, and every clause is one answer. The model's readings: an event
not due changes nothing (log 2), a sample of a disabled group is let go uncounted (log 110), one is judged by the live
configuration of its group (log 109), and an in-band interrupt without a free slot is dropped (log 108). -/
theorem samplesReachTheirInstant : Obligations.SamplesReachTheirInstant := by
  refine ⟨fun stream s => ⟨sampleArrive_of_none, fun c hc => ⟨sampleArrive_of_no_group hc, sampleArrive_of_unlocked hc,
      fun hjoin hon hlock => ?placed⟩⟩,
    fun g s => ⟨instantClose_of_due, instantClose_of_not_due, level0Publish_of_none, fun r runs => level0Publish_of_own,
      fun r runs => level0Publish_of_other⟩,
    fun port s => ⟨csiTxFrameEnd_of_none, fun t lines => csiTxFrameEnd_of_some⟩,
    fun bus done result data s => ⟨i3cTransferEnd_of_none, fun x hx => ?ended⟩,
    fun bus addr payload s => ⟨i3cIbi_of_no_owner, fun o ho => ⟨i3cIbi_of_dropped ho, i3cIbi_of_slot ho⟩⟩⟩
  case placed =>
    have goes {y} (hy : s.placed c = y) := (sampleArrive_of_locked hc hjoin hon hlock).trans (congrArg _ hy)
    have excluded (hplace : s.placeFor c = none) {e} (he : s.exclusionOf c = e) :=
      goes ((placed_of_no_place hplace).trans (by rw [he]))
    exact ⟨fun i hplace => goes (placed_of_place hplace),
      fun hplace hnone => excluded hplace (exclusionOf_outside hnone),
      fun hplace hsome hclosed => excluded hplace (exclusionOf_late hsome hclosed),
      fun hplace hsome hopen => excluded hplace (exclusionOf_early hsome hopen)⟩
  case ended =>
    have ends {y} (hfits : x.endsSo done result data)
        (hy : writeReads x.ticket ((x.readsOf done).zip data) (s.modIngest (.freeBus bus)) = y) :=
      (i3cTransferEnd_of_fit hx hfits).trans (by rw [hy])
    exact ⟨i3cTransferEnd_of_misfit hx, fun y => ends, fun y => ends, fun y v => ends⟩

end Sys2Proof.Machine
end

section
/-! PROOFS. One step with a command waiting, and the state at reset. -/

namespace Sys2Proof.Machine

/-- Settles O1: a step looks at the front of the queue alone, and no word of the table spells a command. -/
theorem aStepRunsTheFrontCommand : Obligations.AStepRunsTheFrontCommand := ⟨fun _ _ _ => rfl, fun _ _ _ => rfl⟩

/-- A table that lists nothing is read as its default. -/
theorem tabGet_nil {α : Type} (d : α) (n : Nat) : tabGet d [] n = d := rfl

/-- Settles O3: no table of the state at reset lists anything, so a mailbox, a berth or a queue is read as its default. -/
theorem resetLeavesTheBlockUnready : Obligations.ResetLeavesTheBlockUnready := by
  refine ⟨?memory, rfl, rfl, fun m => ?mailbox, fun b => ?berth, rfl, fun q => ?queue, rfl, rfl⟩
  case memory => rfl
  case mailbox =>
    have reads_default : State.reset.mailbox m = {} := tabGet_nil _ m
    exact ⟨by rw [reads_default], by rw [reads_default]⟩
  case berth =>
    have reads_default : State.reset.dyn.cfg.berth b = {} := tabGet_nil _ b.toNat
    rw [reads_default]
  case queue =>
    have reads_default : State.reset.dyn.cfg.queueDesc q = {} := tabGet_nil _ q
    rw [reads_default]

end Sys2Proof.Machine
end

section
/-! PROOFS. The configuration commands of Confluence (R348, R350, R357, R367): a group or a stream is settled by its checks,
and a pair asks its checks, reads its calibration block once and is then judged as the shadow stands. -/

namespace Sys2Proof.Machine

variable {c : Cmd} {s s1 : State} {t : Ticket} {k : Shadow} {st : Nat}

/-! FUSION_GROUP_CONFIG (R348) -/

/-- The shadow with one fusion group written. -/
def Shadow.withGroup (g : Nat) (d : GroupCfg) (k : Shadow) : Shadow := { k with groups := tabPut {} k.groups g d }

/-- The contributions that the four groups take in together. -/
def Shadow.intakeSum (k : Shadow) : Nat := ((upFrom 0 4).map fun i => (k.group i).intake.toNat).foldl (· + ·) 0

/-- A stream that has joined group `g` has a window outside its bounds for the period. -/
def Shadow.breaksWindow (g : Nat) (period : BitVec 32) (k : Shadow) : Bool :=
  tabAny (fun _ f => f.join && f.group.toNat == g && !f.windowOk period) k.fusionStreams

/-- The blocks and the table of a group lie on pages that its berth may write. -/
def Shadow.groupPagesOk (d : GroupCfg) (k : Shadow) : Bool :=
  k.pagesOk d.berth d.blockAddr.toNat (d.blockCount.toNat * d.blockBytes) true
    && k.pagesOk d.berth d.tableAddr.toNat 0x20000 true

/-- The checks of FUSION_GROUP_CONFIG. -/
def groupChecks (t : Ticket) (g : Nat) (d : GroupCfg) (k : Shadow) : List (Bool × Nat) :=
  [ (!t.fromSupervisor, 0x00D1), (!d.fieldsOk, 0x00D0),
    (4096 < (k.withGroup g d).intakeSum || k.breaksWindow g d.period, 0x00D2), (d.enable && !k.groupPagesOk d, 0x00D6) ]

theorem ruleFusionGroup_eq : ruleFusionGroup s t k =
    (firstOf (groupChecks t (fldN t.cmd.params 0 2) (groupOfParams t.cmd.params) k)).elim
      (.pass (k.withGroup (fldN t.cmd.params 0 2) (groupOfParams t.cmd.params)) noResult) fun st => .refuse st noResult := by
  simp only [groupChecks, firstOf_elim_cons, firstOf_elim_nil]
  rfl

/-! FUSION_STREAM_CONFIG (R350) -/

/-- The fusion configuration of a stream that the parameters of FUSION_STREAM_CONFIG spell. -/
def fusionStreamOfParams (p : Params) : FusionStreamCfg :=
  { join := bitAt p 5, group := fld p 6 2, project := bitAt p 8, ptFmt := fld p 9 2, ptOffset := fld p 16 10,
    ptStride := fld p 32 8, winLo := fld p 64 32, winHi := fld p 96 32 }

/-- The shadow with the fusion configuration of one stream written. -/
def Shadow.withFusionStream (n : Nat) (d : FusionStreamCfg) (k : Shadow) : Shadow :=
  { k with fusionStreams := tabPut {} k.fusionStreams n d }

/-- The caller lacks the stream, or does not own the group that it joins. -/
def fusionStreamDenied (t : Ticket) (n : Nat) (d : FusionStreamCfg) (k : Shadow) : Bool :=
  !t.granted k (·.streamGrant) n || (d.join && !t.ownsGroup k d.group.toNat)

/-- The point format, the stride or the window is out of range. -/
def FusionStreamCfg.outOfRange (period : BitVec 32) (d : FusionStreamCfg) : Bool :=
  1 < d.ptFmt.toNat || d.ptStride.toNat < 6 || !d.windowOk period

/-- The checks of FUSION_STREAM_CONFIG. -/
def fusionStreamChecks (t : Ticket) (n : Nat) (d : FusionStreamCfg) (k : Shadow) : List (Bool × Nat) :=
  [(fusionStreamDenied t n d k, 0x00D1), (d.outOfRange (k.group d.group.toNat).period, 0x00D0)]

theorem ruleFusionStream_eq : ruleFusionStream s t k =
    (firstOf (fusionStreamChecks t (fldN t.cmd.params 0 5) (fusionStreamOfParams t.cmd.params) k)).elim
      (.pass (k.withFusionStream (fldN t.cmd.params 0 5) (fusionStreamOfParams t.cmd.params)) noResult)
      fun st => .refuse st noResult := by
  simp only [fusionStreamChecks, firstOf_elim_cons, firstOf_elim_nil]
  rfl

theorem fusionStreamConfig_settled (h : Admits opFusionStream c s = true) : exec (.fusionStreamConfig c) s =
    .next (settled opFusionStream c
      (fusionStreamChecks (ticketOf opFusionStream c s) (fldN c.params 0 5) (fusionStreamOfParams c.params) s.lock.opn)
      (s.lock.opn.withFusionStream (fldN c.params 0 5) (fusionStreamOfParams c.params)) s) :=
  config_settled h ruleFusionStream_eq

/-! FUSION_PAIR_SET (R357) -/

/-- The pair that the parameters spell, with the 16 words of the calibration block `d`. -/
def pairOfParams (p : Params) (d : List Byte) : PairCfg :=
  { valid := bitAt p 6, lidar := fld p 8 5, camera := fld p 16 5, w := fld p 32 16, h := fld p 48 16,
    cal := (upFrom 0 16).map fun i => BitVec.ofNat 32 (ofBytes ((d.drop (4 * i)).take 4)) }

/-- A side of the image has 1 to 4,096 pixels. -/
def pairSizeOk (x : BitVec 16) : Bool := 1 ≤ x.toNat && x.toNat ≤ 4096

/-- The shadow with one pair written. -/
def Shadow.withPair (n : Nat) (d : PairCfg) (k : Shadow) : Shadow := { k with pairs := tabPut {} k.pairs n d }

/-- Another valid pair joins the same two streams. -/
def Shadow.pairTaken (n : Nat) (lidar camera : BitVec 5) (k : Shadow) : Bool :=
  tabAny (fun j x => j != n && x.valid && x.lidar == lidar && x.camera == camera) k.pairs

/-- The sizes, the address or the kinds of the two streams are none that R357 takes. -/
def pairOutOfRange (p : Params) (k : Shadow) : Bool :=
  !pairSizeOk (fld p 32 16) || !pairSizeOk (fld p 48 16) || fldN p 64 40 % 64 != 0 || !(k.stream (fldN p 8 5)).lidar
    || (k.stream (fldN p 16 5)).lidar

/-- The checks of FUSION_PAIR_SET before its block is read. -/
def pairChecks (t : Ticket) (k : Shadow) : List (Bool × Nat) :=
  let p := t.cmd.params
  [ (!t.granted k (·.streamGrant) (fldN p 8 5) || !t.granted k (·.streamGrant) (fldN p 16 5), 0x00D1),
    (pairOutOfRange p k, 0x00D0), (bitAt p 6 && k.pairTaken (fldN p 0 6) (fld p 8 5) (fld p 16 5), 0x00D2) ]

theorem rulePair_eq : rulePair s t k = (firstOf (pairChecks t k)).elim
    (.pass (k.withPair (fldN t.cmd.params 0 6) (pairOfParams t.cmd.params t.data)) noResult)
    fun st => .refuse st noResult := by
  simp only [pairChecks, firstOf_elim_cons, firstOf_elim_nil]
  rfl

/-- The one read of the calibration block. -/
def readPairBlock (t : Ticket) (s : State) : State × Access (List Byte) :=
  readVirt t.src t.cmd.berth (fldN t.cmd.params 64 40) 64 s

/-- What the read of the block leads to. -/
def pairOfRead (t : Ticket) : State × Access (List Byte) → State
  | (s, .uncorrectable) => writeRecord t 0x000B noResult s
  | (s, .addressFault) => writeRecord t 0x00D6 noResult s
  | (s, .ok d) => acceptConfig rulePair { t with data := d } s

theorem actPair_of_refused (h : firstOf (pairChecks t s.lock.opn) = some st) : actPair t s = writeRecord t st noResult s := by
  rw [actPair, rulePair_eq, h]
  rfl

section Passed

variable (h : firstOf (pairChecks t s.lock.opn) = none)
include h

theorem actPair_of_unreadable (hread : s.readable t.cmd.berth (fldN t.cmd.params 64 40) 64 = false) :
    actPair t s = writeRecord t 0x00D6 noResult s := by
  rw [actPair, rulePair_eq, h, hread]
  rfl

theorem actPair_of_readable (hread : s.readable t.cmd.berth (fldN t.cmd.params 64 40) 64 = true) :
    actPair t s = pairOfRead t (readPairBlock t s) := by
  rw [actPair, rulePair_eq, h, hread, readPairBlock]
  rcases readVirt t.src t.cmd.berth (fldN t.cmd.params 64 40) 64 s with ⟨s1, _ | _ | _⟩ <;> rfl

end Passed

/-- A block that was read is judged once more, as the shadow then stands, and entered. -/
theorem pairOfRead_of_passed {d : List Byte} (h : firstOf (pairChecks t s1.lock.opn) = none) :
    pairOfRead t (s1, .ok d) = enter { t with data := d }
      (s1.lock.opn.withPair (fldN t.cmd.params 0 6) (pairOfParams t.cmd.params d)) s1 := by
  have passes : firstOf (pairChecks { t with data := d } s1.lock.opn) = none := h
  exact acceptConfig_pass (r := noResult) (by rw [rulePair_eq, passes]; rfl)

section Pair

variable (h : Admits opPair c s = true)
include h

theorem fusionPairSet_of_admits :
    exec (.fusionPairSet c) s = .next (actPair (ticketOf opPair c s) (admitted c s)) := carry_admitted h actPair

theorem fusionPairSet_of_refused (hfails : firstOf (pairChecks (ticketOf opPair c s) s.lock.opn) = some st) :
    exec (.fusionPairSet c) s = .next (answered opPair c st noResult s) := by
  rw [fusionPairSet_of_admits h, actPair_of_refused (by rwa [admitted_lock]), answered]

variable (hpasses : firstOf (pairChecks (ticketOf opPair c s) s.lock.opn) = none)
include hpasses

theorem fusionPairSet_of_unreadable (hread : (admitted c s).readable c.berth (fldN c.params 64 40) 64 = false) :
    exec (.fusionPairSet c) s = .next (answered opPair c 0x00D6 noResult s) := by
  rw [fusionPairSet_of_admits h, actPair_of_unreadable (t := ticketOf opPair c s) (by rwa [admitted_lock]) hread, answered]

theorem fusionPairSet_of_read {x : State × Access (List Byte)}
    (hreadable : (admitted c s).readable c.berth (fldN c.params 64 40) 64 = true)
    (hread : readPairBlock (ticketOf opPair c s) (admitted c s) = x) :
    exec (.fusionPairSet c) s = .next (pairOfRead (ticketOf opPair c s) x) := by
  rw [fusionPairSet_of_admits h, actPair_of_readable (t := ticketOf opPair c s) (by rwa [admitted_lock]) hreadable, hread]

end Pair

/-- Settles O26: a group and a stream are settled by their lists of checks, and a pair goes from its checks to the one read of
its block. -/
theorem fusionConfigurationChecksInOrder : Obligations.FusionConfigurationChecksInOrder :=
  ⟨fun _ _ h => config_settled h ruleFusionGroup_eq, fun _ _ => fusionStreamConfig_settled, fun _ _ h =>
    ⟨fun _ => fusionPairSet_of_refused h, fusionPairSet_of_unreadable h, fun _ hpasses => fusionPairSet_of_read h hpasses,
      fun _ hpasses => fusionPairSet_of_read h hpasses, fun _ _ hpasses hreadable hread hstill =>
        (fusionPairSet_of_read h hpasses hreadable hread).trans (congrArg _ (pairOfRead_of_passed hstill))⟩⟩

end Sys2Proof.Machine
end

section
/-! PROOFS. The output and the association of Confluence (R361, R363 to R367): a record is published or waits, a list of
operations is read once and then applied or refused, and the counters are read as the last lock cycle latched them. -/

namespace Sys2Proof.Machine

variable {c : Cmd} {s s1 : State} {t : Ticket} {st : Nat} {x : Stamp}

/-! GET_FUSION_STATUS (R367) -/

/-- What GET_FUSION_STATUS returns of group `g` in the view `n` that a lock cycle latched. -/
def groupView (n : Dyn) (g : Nat) : Result := fusionRecord (n.cfg.group g) (t16 n.time.wc) (tabGet {} n.fusion.groups g)

theorem actGetFusion_eq : actGetFusion t s =
    (firstOf [(!t.ownsGroup s.snap.cfg (fldN t.cmd.params 0 2), 0x00D1)]).elim
      (writeRecord t 0 (groupView s.snap (fldN t.cmd.params 0 2)) s) fun st => writeRecord t st noResult s := by
  simp only [firstOf_elim_cons, firstOf_elim_nil]
  rfl

theorem getFusionStatus_of_admits (h : Admits opGetFusion c s = true) : exec (.getFusionStatus c) s =
    .next (replied opGetFusion c [(!(ticketOf opGetFusion c s).ownsGroup s.snap.cfg (fldN c.params 0 2), 0x00D1)]
      (groupView s.snap (fldN c.params 0 2)) s) :=
  admitted_replied h (by rw [actGetFusion_eq, admitted_snap, ticketOf_cmd])

/-! FUSION_PUBLISH (R361, R363) -/

@[simp] theorem admitted_group (g : Nat) : (admitted c s).group g = s.group g := by
  rw [State.group, admitted_fusion, State.group]

/-- The bytes that a record of FUSION_PUBLISH names. -/
def publishSpan (p : Params) : Nat × Nat := (fldN p 128 40, fldN p 168 32)

/-- The class, the level or the address of the data is none that R363 takes. -/
def publishOutOfRange (p : Params) : Bool :=
  fldN p 0 6 < 4 || !(fldN p 8 2 == 1 || fldN p 8 2 == 2) || fldN p 128 40 % 64 != 0

/-- The checks of FUSION_PUBLISH before it may wait. -/
def publishChecks (t : Ticket) (s : State) : List (Bool × Nat) :=
  [ (!t.ownsGroup s.dyn.cfg (fldN t.cmd.params 6 2), 0x00D1), (publishOutOfRange t.cmd.params, 0x00D0),
    (!s.spansOk t.cmd.berth [publishSpan t.cmd.params] false, 0x00D6) ]

/-- An earlier command of the queue still writes the data. -/
def publishWaits (t : Ticket) (s : State) : Bool :=
  s.writesPending s.dyn.work.nextJob t.cmd.path [publishSpan t.cmd.params]

/-- The stamp of the instant that the packet names, when it is among the last published. -/
def publishStamp (t : Ticket) (s : State) : Option Stamp :=
  (s.group (fldN t.cmd.params 6 2)).stampOf (fld t.cmd.params 32 32)

/-- The answer to a record whose checks passed and that need not wait. -/
def publishNow (t : Ticket) (s : State) : State :=
  match publishStamp t s with
  | none => writeRecord t 0x00D3 noResult s
  | some x => writeRecord t 0 noResult (publishLevel t.cmd.params x s)

theorem actPublish_eq : actPublish t s = (firstOf (publishChecks t s)).elim
    (if publishWaits t s = true then none else some (publishNow t s)) fun st => some (writeRecord t st noResult s) := by
  change (match firstOf (publishChecks t s) with
    | some st => some (writeRecord t st noResult s)
    | none => if publishWaits t s = true then none
      else match publishStamp t s with
        | none => some (writeRecord t 0x00D3 noResult s)
        | some x => some (writeRecord t 0 noResult (publishLevel t.cmd.params x s))) = _
  rw [publishNow]
  cases firstOf (publishChecks t s) with
  | some st => rfl
  | none => cases publishStamp t s <;> rfl

section Publish

variable (h : Admits opPublish c s = true)
include h

theorem fusionPublish_of_admits : exec (.fusionPublish c) s =
    .next ((actPublish (ticketOf opPublish c s) (admitted c s)).getD s) := carryWait_admitted h actPublish

theorem fusionPublish_of_refused (hfails : firstOf (publishChecks (ticketOf opPublish c s) (admitted c s)) = some st) :
    exec (.fusionPublish c) s = .next (answered opPublish c st noResult s) := by
  rw [fusionPublish_of_admits h, actPublish_eq, hfails, Option.elim_some, Option.getD_some, answered]

variable (hpasses : firstOf (publishChecks (ticketOf opPublish c s) (admitted c s)) = none)
include hpasses

theorem fusionPublish_of_waits (hwaits : publishWaits (ticketOf opPublish c s) (admitted c s) = true) :
    exec (.fusionPublish c) s = .next s := by
  rw [fusionPublish_of_admits h, actPublish_eq, hpasses, Option.elim_none, if_pos hwaits, Option.getD_none]

theorem fusionPublish_of_free (hfree : publishWaits (ticketOf opPublish c s) (admitted c s) = false) :
    exec (.fusionPublish c) s = .next (publishNow (ticketOf opPublish c s) (admitted c s)) := by
  rw [fusionPublish_of_admits h, actPublish_eq, hpasses, Option.elim_none, if_neg (ne_true_of_eq_false hfree),
    Option.getD_some]

end Publish

theorem publishNow_of_unknown (h : publishStamp t s = none) : publishNow t s = writeRecord t 0x00D3 noResult s := by
  rw [publishNow, h]

theorem publishNow_of_known (h : publishStamp t s = some x) :
    publishNow t s = writeRecord t 0 noResult (publishLevel t.cmd.params x s) := by
  rw [publishNow, h]

/-- Admission moves no fusion group, so the stamps are those of the state before it. -/
theorem publishStamp_admitted {o : Option Stamp} (h : (s.group (fldN c.params 6 2)).stampOf (fld c.params 32 32) = o) :
    publishStamp (ticketOf opPublish c s) (admitted c s) = o := by
  rw [publishStamp, admitted_group, ← h, ticketOf_cmd]

/-- The checks and the wait of an admitted packet, with the configuration of the state before admission. -/
theorem publishChecks_admitted : publishChecks (ticketOf opPublish c s) (admitted c s) =
    [ (!(c.path == .supervisor || c.berth == (s.dyn.cfg.group (fldN c.params 6 2)).berth), 0x00D1),
      (publishOutOfRange c.params, 0x00D0), (!(admitted c s).spansOk c.berth [publishSpan c.params] false, 0x00D6) ] := by
  rw [publishChecks, admitted_cfg]
  rfl

theorem publishWaits_admitted : publishWaits (ticketOf opPublish c s) (admitted c s) =
    (admitted c s).writesPending s.dyn.work.nextJob c.path [publishSpan c.params] := by
  rw [publishWaits, admitted_work, ticketOf_cmd]

/-! FUSION_ASSOC (R364, R365) -/

/-- The checks of FUSION_ASSOC before its list is read. -/
def assocListChecks (t : Ticket) (s : State) : List (Bool × Nat) :=
  let list := fldN t.cmd.params 64 40
  let n := fldN t.cmd.params 128 16
  [ (!t.ownsGroup s.dyn.cfg (fldN t.cmd.params 0 2), 0x00D1), (list % 16 != 0 || n == 0 || 4096 < n, 0x00D0),
    (!s.readable t.cmd.berth list (16 * n), 0x00D6) ]

/-- The one read of the list. -/
def readAssocList (t : Ticket) (s : State) : State × Access (List Byte) :=
  readVirt t.src t.cmd.berth (fldN t.cmd.params 64 40) (16 * fldN t.cmd.params 128 16) s

/-- The operations that a list of `n` spells. -/
def assocOps (n : Nat) (b : List Byte) : List (BitVec 128) :=
  (upFrom 0 n).map fun i => BitVec.ofNat 128 (ofBytes ((b.drop (16 * i)).take 16))

/-- An association that the group made last is at the instant or past it. -/
def GroupDyn.assocStale (i : Stamp) (y : GroupDyn) : Bool := match y.lastAssoc with
  | some l => decide (i.number ≤ l)
  | none => false

/-- The checks of a list on a published instant: no association has passed it, and the slots take the operations. -/
def assocInstantChecks (os : List (BitVec 128)) (i : Stamp) (y : GroupDyn) : List (Bool × Nat) :=
  [(y.assocStale i, 0x00D4), (!y.assocOk os, 0x00D5)]

/-- What a list leads to on its published instant. -/
def assocAt (t : Ticket) (os : List (BitVec 128)) (i : Stamp) (s : State) : State :=
  (firstOf (assocInstantChecks os i (s.group (fldN t.cmd.params 0 2)))).elim (associate t (fldN t.cmd.params 0 2) i os s)
    fun st => writeRecord t st noResult s

/-- The stamp of the instant that the packet names. -/
def assocStamp (t : Ticket) (s : State) : Option Stamp :=
  (s.group (fldN t.cmd.params 0 2)).stampOf (fld t.cmd.params 32 32)

/-- The checks of a list that was read, up to the search for its instant; `d` is the group. -/
def assocOpsChecks (t : Ticket) (d : GroupCfg) (os : List (BitVec 128)) (s : State) : List (Bool × Nat) :=
  [ (!os.all assocDefined, 0x00D0), (!s.writable d.berth d.tableAddr.toNat 0x20000, 0x00D6),
    (!(assocStamp t s).isSome, 0x00D3) ]

/-- What a list that was read leads to. -/
def assocOfOps (t : Ticket) (d : GroupCfg) (os : List (BitVec 128)) (s : State) : State :=
  if !os.all assocDefined then writeRecord t 0x00D0 noResult s
  else if !s.writable d.berth d.tableAddr.toNat 0x20000 then writeRecord t 0x00D6 noResult s
  else match assocStamp t s with
    | none => writeRecord t 0x00D3 noResult s
    | some i => assocAt t os i s

/-- What the read of the list leads to. -/
def assocOfRead (t : Ticket) (d : GroupCfg) : State × Access (List Byte) → State
  | (s, .uncorrectable) => writeRecord t 0x000B noResult s
  | (s, .addressFault) => writeRecord t 0x00D6 noResult s
  | (s, .ok b) => assocOfOps t d (assocOps (fldN t.cmd.params 128 16) b) s

theorem assocAt_eq {os : List (BitVec 128)} {i : Stamp} : assocAt t os i s =
    if (s.group (fldN t.cmd.params 0 2)).assocStale i = true then writeRecord t 0x00D4 noResult s
    else if (!(s.group (fldN t.cmd.params 0 2)).assocOk os) = true then writeRecord t 0x00D5 noResult s
    else associate t (fldN t.cmd.params 0 2) i os s := by
  simp only [assocAt, assocInstantChecks, firstOf_elim_cons, firstOf_elim_nil]

theorem actAssoc_eq : actAssoc t s = (firstOf (assocListChecks t s)).elim
    (assocOfRead t (s.dyn.cfg.group (fldN t.cmd.params 0 2)) (readAssocList t s)) fun st => writeRecord t st noResult s := by
  simp only [assocListChecks, firstOf_elim_cons, firstOf_elim_nil, actAssoc]
  refine if_congr Iff.rfl rfl (if_congr (by simp [or_assoc]) rfl (if_congr Iff.rfl rfl ?_))
  rw [readAssocList]
  rcases readVirt t.src t.cmd.berth (fldN t.cmd.params 64 40) (16 * fldN t.cmd.params 128 16) s with ⟨s1, b | _ | _⟩
  case ok =>
    refine if_congr Iff.rfl rfl (if_congr Iff.rfl rfl ?_)
    rw [assocStamp]
    cases (s1.group (fldN t.cmd.params 0 2)).stampOf (fld t.cmd.params 32 32) with
    | none => rfl
    | some i => exact assocAt_eq.symm
  case addressFault => rfl
  case uncorrectable => rfl

section Ops

variable {d : GroupCfg} {os : List (BitVec 128)} {i : Stamp}

/-- The first of the checks up to the instant refuses the list. -/
theorem assocOfOps_of_refused (h : firstOf (assocOpsChecks t d os s) = some st) :
    assocOfOps t d os s = writeRecord t st noResult s := by
  simp only [assocOpsChecks, firstOf_cons, firstOf_nil] at h
  rw [assocOfOps]
  split_ifs at h ⊢ with hundefined hunwritable hunknown
  · cases h; rfl
  · cases h; rfl
  · have no_stamp : assocStamp t s = none := by simpa using hunknown
    cases h; rw [no_stamp]

theorem assocOfOps_of_known (hdefined : os.all assocDefined = true)
    (hwritable : s.writable d.berth d.tableAddr.toNat 0x20000 = true) (hstamp : assocStamp t s = some i) :
    assocOfOps t d os s = assocAt t os i s := by
  simp only [assocOfOps, hdefined, hwritable, hstamp, Bool.not_true, Bool.false_eq_true, if_false]

theorem assocAt_of_refused (h : firstOf (assocInstantChecks os i (s.group (fldN t.cmd.params 0 2))) = some st) :
    assocAt t os i s = writeRecord t st noResult s := by
  rw [assocAt, h, Option.elim_some]

theorem assocAt_of_passed (hnew : (s.group (fldN t.cmd.params 0 2)).assocStale i = false)
    (hslots : (s.group (fldN t.cmd.params 0 2)).assocOk os = true) :
    assocAt t os i s = associate t (fldN t.cmd.params 0 2) i os s := by
  rw [assocAt_eq, hnew, hslots, if_neg Bool.false_ne_true, Bool.not_true, if_neg Bool.false_ne_true]

end Ops

/-- The checks before the read, asked of an admitted packet. -/
theorem assocListChecks_admitted : assocListChecks (ticketOf opAssoc c s) (admitted c s) =
    [ (!(c.path == .supervisor || c.berth == (s.dyn.cfg.group (fldN c.params 0 2)).berth), 0x00D1),
      (fldN c.params 64 40 % 16 != 0 || fldN c.params 128 16 == 0 || 4096 < fldN c.params 128 16, 0x00D0),
      (!(admitted c s).readable c.berth (fldN c.params 64 40) (16 * fldN c.params 128 16), 0x00D6) ] := by
  rw [assocListChecks, admitted_cfg]
  rfl

section Assoc

variable (h : Admits opAssoc c s = true)
include h

theorem fusionAssoc_of_admits :
    exec (.fusionAssoc c) s = .next (actAssoc (ticketOf opAssoc c s) (admitted c s)) := carry_admitted h actAssoc

theorem fusionAssoc_of_refused (hfails : firstOf (assocListChecks (ticketOf opAssoc c s) (admitted c s)) = some st) :
    exec (.fusionAssoc c) s = .next (answered opAssoc c st noResult s) := by
  rw [fusionAssoc_of_admits h, actAssoc_eq, hfails, Option.elim_some, answered]

/-- A list that passes its checks is read, and what that answers decides. -/
theorem fusionAssoc_of_read {x : State × Access (List Byte)}
    (howned : (c.path == .supervisor || c.berth == (s.dyn.cfg.group (fldN c.params 0 2)).berth) = true)
    (haligned : fldN c.params 64 40 % 16 = 0) (hsome : fldN c.params 128 16 ≠ 0) (hfew : fldN c.params 128 16 ≤ 4096)
    (hreadable : (admitted c s).readable c.berth (fldN c.params 64 40) (16 * fldN c.params 128 16) = true)
    (hread : readAssocList (ticketOf opAssoc c s) (admitted c s) = x) : exec (.fusionAssoc c) s =
      .next (assocOfRead (ticketOf opAssoc c s) (s.dyn.cfg.group (fldN c.params 0 2)) x) := by
  have passes : firstOf (assocListChecks (ticketOf opAssoc c s) (admitted c s)) = none := by
    rw [assocListChecks_admitted, howned, hreadable, haligned, firstOf_cons, firstOf_cons, firstOf_cons]
    simp [hsome, hfew]
  rw [fusionAssoc_of_admits h, actAssoc_eq, passes, Option.elim_none, hread, admitted_cfg, ticketOf_cmd]

end Assoc

/-- Settles O27: the status is of the latched view, FUSION_PUBLISH goes from its checks to the wait and then to its instant, and
FUSION_ASSOC from its checks to the read of its list and then to its instant. That an association does not wait, has its
operations checked after the list is read, and needs a writable table are the model's readings (log 114). -/
theorem fusionOutputAndAssociation : Obligations.FusionOutputAndAssociation := by
  refine ⟨fun c s => getFusionStatus_of_admits, fun c s h => ?publish, fun c s h => ?assoc⟩
  case publish =>
    have admitted_checks {o} (ho : firstOf _ = o) : firstOf (publishChecks (ticketOf opPublish c s) (admitted c s)) = o :=
      (congrArg firstOf publishChecks_admitted).trans ho
    have now hpasses hfree {y} (hy : publishNow (ticketOf opPublish c s) (admitted c s) = y) :=
      (fusionPublish_of_free h (admitted_checks hpasses) (publishWaits_admitted.trans hfree)).trans (congrArg _ hy)
    exact ⟨fun st hfails => fusionPublish_of_refused h (admitted_checks hfails),
      fun hpasses hwaits => fusionPublish_of_waits h (admitted_checks hpasses) (publishWaits_admitted.trans hwaits),
      fun hpasses hfree hunknown => now hpasses hfree (publishNow_of_unknown (publishStamp_admitted hunknown)),
      fun x hpasses hfree hknown => now hpasses hfree (publishNow_of_known (publishStamp_admitted hknown))⟩
  case assoc =>
    refine ⟨fun st hfails => fusionAssoc_of_refused h (by rw [assocListChecks_admitted]; exact hfails),
      fun s1 howned haligned hsome hfew hreadable => ⟨fusionAssoc_of_read h howned haligned hsome hfew hreadable,
        fusionAssoc_of_read h howned haligned hsome hfew hreadable⟩,
      fun s1 b howned haligned hsome hfew hreadable hread => ?_⟩
    have goes {y} (hy : assocOfOps (ticketOf opAssoc c s) (s.dyn.cfg.group (fldN c.params 0 2))
        (assocOps (fldN c.params 128 16) b) s1 = y) : exec (.fusionAssoc c) s = .next y :=
      (fusionAssoc_of_read h howned haligned hsome hfew hreadable hread).trans (congrArg _ hy)
    refine ⟨fun st hfails => goes (assocOfOps_of_refused hfails), fun i hdefined hwritable hstamp => ?_⟩
    have known := assocOfOps_of_known (t := ticketOf opAssoc c s) (s := s1) hdefined hwritable hstamp
    exact ⟨fun st hfails => goes (known.trans (assocAt_of_refused hfails)),
      fun hnew hslots => goes (known.trans (assocAt_of_passed hnew hslots))⟩

end Sys2Proof.Machine
end

section
/-! PROOFS. The checks on every packet (R373, R374): a packet that its path takes is judged by its SEQ, then by checks 6 to 13,
and acts in the state in which it is admitted. -/

namespace Sys2Proof.Machine

variable {op : OpInfo} {c : Cmd} {s : State} {t : Ticket} {act : Ticket → State → State} {st : Nat} {r : Result}
  {e : BitVec 32} {m n : Nat} {q : BitVec 18} {failure : Option (Nat × Result)}

/-! SEQ (check 5) and what follows it -/

theorem passChecks5_of_out_of_turn (he : s.expected t.cmd.path = some e) (hseq : t.cmd.seq ≠ e) :
    passChecks5 t failure s = (writeRecord t 0x0006 (shortResult [(0, 32, e.toNat)]) s, none) := by
  simp only [passChecks5, he, if_pos hseq]

theorem passChecks5_of_failure (hturn : s.inTurn t.cmd = true) :
    passChecks5 t (some (st, r)) s = (writeRecord t st r (setExpected t.cmd.path (t.cmd.seq + 1) s), none) := by
  unfold State.inTurn at hturn
  cases he : s.expected t.cmd.path with
  | none => simp only [passChecks5, he]
  | some e =>
    rw [he] at hturn
    have hseq : ¬ t.cmd.seq ≠ e := not_not.mpr (beq_iff_eq.mp hturn)
    simp only [passChecks5, he, if_neg hseq]

/-- Taking a packet leaves its turn. -/
theorem taken_inTurn : (s.taken c).inTurn c = s.inTurn c := by rw [State.inTurn, taken_expected, State.inTurn]

section Carry

variable (h : s.takes c = true)
include h

theorem carry_of_takes : carry op c act s = .next (carryTaken op c act (s.taken c)) := by
  rw [carry, arrive_takes h]

theorem carry_of_out_of_turn (he : s.expected c.path = some e) (hseq : c.seq ≠ e) :
    carry op c act s = .next (writeRecord (ticketOf op c s) 0x0006 (shortResult [(0, 32, e.toNat)]) (s.taken c)) := by
  have expects : (s.taken c).expected (ticketOf op c s).cmd.path = some e := (taken_expected c s).trans he
  rw [carry_of_takes h, carryTaken, ticketOf_taken, passChecks5_of_out_of_turn expects hseq]

theorem carry_of_failure (hturn : s.inTurn c = true) (hfails : firstFailure op c (s.taken c) = some (st, r)) :
    carry op c act s = .next (writeRecord (ticketOf op c s) st r (admitted c s)) := by
  have in_turn : (s.taken c).inTurn (ticketOf op c s).cmd = true := taken_inTurn.trans hturn
  rw [carry_of_takes h, carryTaken, hfails, ticketOf_taken, passChecks5_of_failure in_turn, ticketOf_cmd, admitted]

end Carry

/-! Checks 6 to 13 -/

/-- The checks in their order, as the statement writes them. -/
theorem firstFailure_eq : firstFailure op c s =
    if berthSuits c s = false then some (0x0004, noResult)
    else if c.gen ≠ s.genOf c then some (0x0005, shortResult [(0, 16, c.gen.toNat), (16, 16, (s.genOf c).toNat)])
    else if exempt op c = false ∧ s.hasNegotiated c = false then some (0x0008, noResult)
    else if pathPermits op c s = false then some (0x0003, noResult)
    else if featuresHeld c s = false then some (0x0009, noResult)
    else if op.wellFormed c.params = false then some (0x0001, noResult)
    else if areaOk op c s = false then some (0x000A, noResult)
    else if op.needsBerth = true ∧ c.device = true then some (0x0004, noResult)
    else none := by
  simp only [firstFailure, Bool.not_eq_true', Bool.and_eq_true]

/-! What an admitted packet finds -/

theorem modMailbox_mailbox_same {f : Mailbox → Mailbox} (hne : f (s.mailbox n) ≠ {}) :
    (s.modMailbox n f).mailbox n = f (s.mailbox n) := tabGet_tabPut_same _ _ _ _ hne

theorem modQueue_queue_same {f : QueueDyn → QueueDyn} (hne : f (s.queue n) ≠ {}) :
    (s.modQueue n f).queue n = f (s.queue n) := tabGet_tabPut_same _ _ _ _ hne

theorem setExpected_expected (p : Path) (v : BitVec 32) (s : State) : (setExpected p v s).expected p = some v := by
  have mailbox_expects {n} : ((s.modMailbox n fun x => { x with expSeq := some v }).mailbox n).expSeq = some v := by
    rw [modMailbox_mailbox_same]
    exact fun he => nomatch congrArg Mailbox.expSeq he
  cases p with
  | queue q =>
    rw [setExpected, State.expected, modQueue_queue_same]
    exact fun he => nomatch congrArg QueueDyn.expSeq he
  | mailbox m => exact mailbox_expects
  | supervisor => exact mailbox_expects

theorem modMailbox_mailbox_other {f : Mailbox → Mailbox} (hne : f (s.mailbox n) ≠ {}) (h : m ≠ n) :
    (s.modMailbox n f).mailbox m = s.mailbox m := tabGet_tabPut_other _ _ _ _ _ hne h

theorem setExpected_mailbox_other {p : Path} {v : BitVec 32} (h : pathMailbox? p ≠ some m) :
    (setExpected p v s).mailbox m = s.mailbox m := by
  have moves {n} (hn : m ≠ n) : (s.modMailbox n fun x => { x with expSeq := some v }).mailbox m = s.mailbox m :=
    modMailbox_mailbox_other (fun he => nomatch congrArg Mailbox.expSeq he) hn
  cases p with
  | queue q => rfl
  | mailbox k => exact moves fun e => h (congrArg some e.symm)
  | supervisor => exact moves fun e => h (congrArg some e.symm)

theorem taken_mailbox_other (h : pathMailbox? c.path ≠ some m) : (s.taken c).mailbox m = s.mailbox m := by
  have moves {n} (hn : m ≠ n) : (s.modMailbox n fun x => { x with state := .taken }).mailbox m = s.mailbox m :=
    modMailbox_mailbox_other (fun he => nomatch congrArg Mailbox.state he) hn
  unfold State.taken
  cases hp : c.path with
  | queue q => rfl
  | mailbox k => exact moves fun e => h (by rw [hp, e]; rfl)
  | supervisor => exact moves fun e => h (by rw [hp, e]; rfl)

/-- Admission leaves every mailbox but the packet's own. -/
theorem admitted_mailbox_other (h : pathMailbox? c.path ≠ some m) : (admitted c s).mailbox m = s.mailbox m := by
  rw [admitted, setExpected_mailbox_other h, taken_mailbox_other h]

/-- A packet that comes neither by the supervisor path nor by mailbox `m` has another mailbox, or none. -/
theorem pathMailbox?_ne {p : Path} {m : BitVec 6} (h : p ≠ .supervisor ∧ p ≠ .mailbox m) : pathMailbox? p ≠ some m.toNat := by
  obtain ⟨hsupervisor, hmailbox⟩ := h
  cases p with
  | queue q => exact nofun
  | mailbox k => exact fun e => hmailbox (congrArg Path.mailbox (BitVec.eq_of_toNat_eq (Option.some.inj e)))
  | supervisor => exact absurd rfl hsupervisor

/-- A queue that does not take its packet leaves everything as it is. -/
theorem carry_of_queue_not_taken (hpath : c.path = .queue q) (h : s.takes c = false) : carry op c act s = .next s := by
  have not_taken : arrive c s = (none, s) := by
    unfold State.takes at h
    simp only [arrive, hpath, pathMailbox?] at h ⊢
    cases hserves : s.serves (.queue q) with
    | false => rfl
    | true =>
      rw [hserves, Bool.true_and] at h
      simp [h]
  rw [carry, not_taken]

/-- Settles O33: SEQ is judged before the later checks, their order is that of `firstFailure`, and an admitted packet moves only
its own path. That a packet needing a berth is refused at device scope after check 13 is the model's reading (log 144). -/
theorem packetsAreCheckedInOrder : Obligations.PacketsAreCheckedInOrder :=
  ⟨fun _ _ act _ h => ⟨fun _ => carry_of_out_of_turn h, fun _ _ => carry_of_failure h,
      fun hadmits => carry_admitted hadmits act⟩,
    fun _ _ _ => firstFailure_eq, fun _ _ h => ⟨fun _ => carry_of_out_of_turn h, fun _ _ => carry_of_failure h⟩,
    fun c s => ⟨setExpected_expected _ _ _, admitted_cfg s c, admitted_lock s c, admitted_mem s c, admitted_snap s c,
      fun _ hpath => admitted_mailbox_other (pathMailbox?_ne hpath)⟩,
    fun _ _ _ => carry_of_queue_not_taken⟩

end Sys2Proof.Machine
end

section
/-! PROOFS. Doorbells (R386): the word that a queue's 4 KB begin with, and what a write to it does under the limits of R165. -/

namespace Sys2Proof.Machine

variable {s : State} {q : BitVec 18} {v : BitVec 64}

/-- A write to the register range below the mailboxes is a doorbell write at the start of a queue's 4 KB, and else nothing. -/
theorem registerWrite_below_mailboxes {off : Nat} {bs : List Byte} (h : off < 0x40000000) : registerWrite off bs s =
    if off % 0x1000 = 0 then doorbell (off / 0x1000) (BitVec.ofNat 64 (ofBytes (bs.take 8))) s else s := if_pos h

theorem registerWrite_of_doorbell {data : List Byte} (hlen : data.length = 8) :
    exec (.registerWrite (BitVec.ofNat 32 (q.toNat * 0x1000)) data) s
      = exec (.doorbellWrite q (BitVec.ofNat 64 (ofBytes data))) s := by
  have hq : q.toNat < 2 ^ 18 := q.isLt
  have haddr : (BitVec.ofNat 32 (q.toNat * 0x1000)).toNat = q.toNat * 0x1000 := by
    rw [BitVec.toNat_ofNat]; omega
  change Host.Outcome.next (registerWrite _ data s) = Host.Outcome.next (doorbell _ _ s)
  rw [haddr, registerWrite_below_mailboxes (by omega), if_pos (Nat.mul_mod_left _ _), Nat.mul_div_cancel _ (by omega),
    List.take_of_length_le (Nat.le_of_eq hlen)]

/-- The write is ignored, and the queue counts it. -/
def State.overran (q : Nat) (s : State) : State := s.modQueue q fun y => { y with overrun := satInc y.overrun }

/-- INDEX is the new PROD of a submission queue; the time is noted when the queue was empty. -/
def State.produced (q : Nat) (i : BitVec 21) (s : State) : State :=
  s.modQueue q fun y => { y with prod := i, headSince := if y.prod = y.cons then s.now16 else y.headSince }

/-- INDEX is the new CONS of a completion or sample queue, and the buffers that it passes are free. -/
def State.consumed (q : Nat) (i : BitVec 21) (s : State) : State :=
  freeConsumed q i (s.modQueue q fun y => { y with cons := i })

/-- The limits of R165 as they are asked of an index. -/
theorem indexOk_iff {slots : Nat} {oldIndex newIndex newProd newCons : BitVec 21} :
    indexOk slots oldIndex newIndex newProd newCons = true
      ↔ (newProd - newCons).toNat ≤ slots ∧ (newIndex - oldIndex).toNat ≤ slots := by
  rw [indexOk, Bool.and_eq_true]
  exact and_congr decide_eq_true_iff decide_eq_true_iff

/-- R165 allows INDEX as the new PROD. -/
def State.mayProduce (s : State) (q : Nat) (i : BitVec 21) : Prop :=
  (i - (s.queue q).cons).toNat ≤ 2 ^ (s.dyn.cfg.queueDesc q).ringLog2.toNat
    ∧ (i - (s.queue q).prod).toNat ≤ 2 ^ (s.dyn.cfg.queueDesc q).ringLog2.toNat

/-- R165 allows INDEX as the new CONS. -/
def State.mayConsume (s : State) (q : Nat) (i : BitVec 21) : Prop :=
  ((s.queue q).prod - i).toNat ≤ 2 ^ (s.dyn.cfg.queueDesc q).ringLog2.toNat
    ∧ (i - (s.queue q).cons).toNat ≤ 2 ^ (s.dyn.cfg.queueDesc q).ringLog2.toNat

section Write

variable (hvalid : (s.dyn.cfg.queueDesc q.toNat).valid = true)
include hvalid

theorem doorbellWrite_of_high_bits (hhigh : fldN v 21 43 ≠ 0) : exec (.doorbellWrite q v) s = .next (s.overran q.toNat) := by
  change Host.Outcome.next (doorbell q.toNat v s) = _
  rw [doorbell, if_neg (by simp [hvalid]), if_pos hhigh, State.overran]

variable (hhigh : fldN v 21 43 = 0)
include hhigh

theorem doorbell_of_submission (hkind : (s.dyn.cfg.queueDesc q.toNat).kind = 0) : doorbell q.toNat v s =
    if indexOk (s.dyn.cfg.queueDesc q.toNat).slots (s.queue q.toNat).prod (fld v 0 21) (fld v 0 21) (s.queue q.toNat).cons
    then s.produced q.toNat (fld v 0 21) else s.overran q.toNat := by
  rw [doorbell, if_neg (by simp [hvalid]), if_neg (not_not.mpr hhigh), if_pos hkind, State.overran, State.produced]

theorem doorbell_of_other (hkind : (s.dyn.cfg.queueDesc q.toNat).kind ≠ 0) : doorbell q.toNat v s =
    if indexOk (s.dyn.cfg.queueDesc q.toNat).slots (s.queue q.toNat).cons (fld v 0 21) (s.queue q.toNat).prod (fld v 0 21)
    then s.consumed q.toNat (fld v 0 21) else s.overran q.toNat := by
  rw [doorbell, if_neg (by simp [hvalid]), if_neg (not_not.mpr hhigh), if_neg hkind, State.overran, State.consumed]

theorem doorbellWrite_of_produced (hkind : (s.dyn.cfg.queueDesc q.toNat).kind = 0) (h : s.mayProduce q.toNat (fld v 0 21)) :
    exec (.doorbellWrite q v) s = .next (s.produced q.toNat (fld v 0 21)) :=
  congrArg _ ((doorbell_of_submission hvalid hhigh hkind).trans (if_pos (indexOk_iff.mpr h)))

theorem doorbellWrite_of_not_produced (hkind : (s.dyn.cfg.queueDesc q.toNat).kind = 0)
    (h : ¬ s.mayProduce q.toNat (fld v 0 21)) : exec (.doorbellWrite q v) s = .next (s.overran q.toNat) :=
  congrArg _ ((doorbell_of_submission hvalid hhigh hkind).trans (if_neg (mt indexOk_iff.mp h)))

theorem doorbellWrite_of_consumed (hkind : (s.dyn.cfg.queueDesc q.toNat).kind ≠ 0) (h : s.mayConsume q.toNat (fld v 0 21)) :
    exec (.doorbellWrite q v) s = .next (s.consumed q.toNat (fld v 0 21)) :=
  congrArg _ ((doorbell_of_other hvalid hhigh hkind).trans (if_pos (indexOk_iff.mpr h)))

theorem doorbellWrite_of_not_consumed (hkind : (s.dyn.cfg.queueDesc q.toNat).kind ≠ 0)
    (h : ¬ s.mayConsume q.toNat (fld v 0 21)) : exec (.doorbellWrite q v) s = .next (s.overran q.toNat) :=
  congrArg _ ((doorbell_of_other hvalid hhigh hkind).trans (if_neg (mt indexOk_iff.mp h)))

end Write

/-- Settles O35: the doorbell word is found by its address, and a write is judged by its high bits, the kind of its queue and
the two distances of R165. -/
theorem doorbellsMoveTheirIndex : Obligations.DoorbellsMoveTheirIndex :=
  ⟨fun _ _ _ => registerWrite_of_doorbell, fun _ _ _ hvalid => ⟨doorbellWrite_of_high_bits hvalid,
    fun hhigh => doorbellWrite_of_produced hvalid hhigh, fun hhigh => doorbellWrite_of_not_produced hvalid hhigh,
    fun hhigh => doorbellWrite_of_consumed hvalid hhigh, fun hhigh => doorbellWrite_of_not_consumed hvalid hhigh⟩⟩

end Sys2Proof.Machine
end

section
/-! PROOFS. Mailboxes (R388 to R390): what POST and ACK do in each state, where a mailbox's words lie in the register range,
and how Veldon takes a posted message. -/

namespace Sys2Proof.Machine

variable {s u : State} {m : Fin 65} {n off : Nat} {bs data : List Byte} {x : Mailbox}

/-! CONTROL (R388), judged against the state before the write -/

theorem satAdd_zero {w : Nat} (x : BitVec w) : satAdd x 0 = x := by
  have fits : x.toNat ≤ 2 ^ w - 1 := Nat.le_sub_one_of_lt x.isLt
  rw [satAdd, Nat.add_zero, Nat.min_eq_left fits, BitVec.ofNat_toNat, BitVec.setWidth_eq]

theorem control_post_of_empty (h : x.state = .empty) : x.control true false = { x with state := .posted } := by
  simp [Mailbox.control, h, b2n, satAdd_zero]

theorem control_post_of_not_empty (h : x.state ≠ .empty) :
    x.control true false = { x with overrun := satAdd x.overrun 1 } := by
  simp [Mailbox.control, h, b2n]

theorem control_ack_of_replied (h : x.state = .replied) : x.control false true = { x with state := .empty, outb := [] } := by
  simp [Mailbox.control, h, b2n, satAdd_zero]

theorem control_ack_of_not_replied (h : x.state ≠ .replied) :
    x.control false true = { x with overrun := satAdd x.overrun 1 } := by
  simp [Mailbox.control, h, b2n]

theorem control_both_of_empty (h : x.state = .empty) :
    x.control true true = { x with state := .posted, overrun := satAdd x.overrun 1 } := by
  simp [Mailbox.control, h, b2n]

theorem control_both_of_replied (h : x.state = .replied) :
    x.control true true = { x with state := .empty, outb := [], overrun := satAdd x.overrun 1 } := by
  simp [Mailbox.control, h, b2n]

theorem control_both_of_neither (h : x.state = .posted ∨ x.state = .taken) :
    x.control true true = { x with overrun := satAdd x.overrun 2 } := by
  rcases h with h | h <;> simp [Mailbox.control, h, b2n]

/-- An update of a mailbox is what it does to that mailbox as it stands. -/
theorem next_modMailbox_congr {f g : Mailbox → Mailbox} (h : f (s.mailbox n) = g (s.mailbox n)) :
    (.next (s.modMailbox n f) : Host.Outcome State Fault Refusal) = .next (s.modMailbox n g) := by
  have updates (k : Mailbox → Mailbox) : s.modMailbox n k = s.modMailboxes fun t => tabPut {} t n (k (s.mailbox n)) := rfl
  rw [updates, updates, h]

/-! The register range (R386, R388) -/

/-- A write within a mailbox's 64 KB is one to its inbound slot, to its CONTROL, or nothing. -/
theorem registerWrite_of_mailbox {o : Nat} (hn : n < 65) (ho : o < 0x10000) :
    registerWrite (0x40000000 + n * 0x10000 + o) bs s =
      if o < 0x80 then s.modMailbox n (Mailbox.fill o bs)
      else if o = 0x100 then
        controlWrite n (bitAt (BitVec.ofNat 64 (ofBytes (bs.take 8))) 0) (bitAt (BitVec.ofNat 64 (ofBytes (bs.take 8))) 1) s
      else s := by
  have hnumber : (0x40000000 + n * 0x10000 + o - 0x40000000) / 0x10000 = n := by omega
  have hoffset : (0x40000000 + n * 0x10000 + o) % 0x10000 = o := by omega
  have hbase : ¬ 0x40000000 + n * 0x10000 + o < 0x40000000 := by omega
  have hend : 0x40000000 + n * 0x10000 + o < 0x40410000 := by omega
  simp only [registerWrite, if_neg hbase, if_pos hend, hnumber, hoffset]

/-- The address of offset `o` of a mailbox is within 32 bits. -/
theorem mailboxAddr_toNat {o : Nat} (ho : o < 0x10000) :
    (BitVec.ofNat 32 (0x40000000 + m * 0x10000 + o)).toNat = 0x40000000 + m * 0x10000 + o := by
  rw [BitVec.toNat_ofNat]
  omega

theorem registerWrite_of_control (hlen : data.length = 8) :
    exec (.registerWrite (BitVec.ofNat 32 (0x40000000 + m * 0x10000 + 0x100)) data) s =
      .next (s.modMailbox m (Mailbox.control (bitAt (BitVec.ofNat 64 (ofBytes data)) 0)
        (bitAt (BitVec.ofNat 64 (ofBytes data)) 1))) := by
  change Host.Outcome.next (registerWrite _ data s) = _
  rw [mailboxAddr_toNat (by omega), registerWrite_of_mailbox m.isLt (by omega), if_neg (by omega), if_pos rfl,
    List.take_of_length_le (Nat.le_of_eq hlen), controlWrite]

theorem registerWrite_of_slot (hoff : off < 0x80) :
    exec (.registerWrite (BitVec.ofNat 32 (0x40000000 + m * 0x10000 + off)) data) s =
      .next (s.modMailbox m (Mailbox.fill off data)) := by
  change Host.Outcome.next (registerWrite _ data s) = _
  rw [mailboxAddr_toNat (by omega), registerWrite_of_mailbox m.isLt (by omega), if_pos hoff]

theorem fill_of_not_empty (h : x.state ≠ .empty) : x.fill off bs = x := if_neg h

theorem fill_of_empty (h : x.state = .empty) :
    x.fill off bs = { x with inb := putBytes x.inb off (bs.take (128 - off)) } := if_pos h

/-- Where neither a doorbell nor a slot nor a CONTROL lies. -/
def registerIdle (a : Nat) : Prop :=
  (a < 0x40000000 ∧ a % 0x1000 ≠ 0) ∨ 0x40410000 ≤ a
    ∨ (0x40000000 ≤ a ∧ a < 0x40410000 ∧ 0x80 ≤ a % 0x10000 ∧ a % 0x10000 ≠ 0x100)

theorem registerWrite_of_idle (h : registerIdle off) : registerWrite off bs s = s := by
  rcases h with ⟨hbelow, hinside⟩ | habove | ⟨hbase, hend, hpast, hcontrol⟩
  · rw [registerWrite_below_mailboxes hbelow, if_neg hinside]
  · rw [registerWrite, if_neg (by omega), if_neg (by omega)]
  · rw [registerWrite, if_neg (by omega), if_pos hend, if_neg (by omega), if_neg hcontrol]

/-! MAILBOX_TAKE (R374, R389) -/

/-- The bytes of the packet in an inbound slot. -/
def Mailbox.packet (x : Mailbox) : List Byte := (upFrom 16 64).map (tabGet (0 : Byte) x.inb)

/-- What the carrying of a posted message's packet through the later checks leads to; none: it may not start yet. -/
def takePosted (m : Fin 65) (s : State) : Option State :=
  takePacket (mailboxPath m) (BitVec.ofNat 512 (ofBytes (s.mailbox m).packet))
    (s.modMailbox m fun x => { x with state := .taken })

theorem mailboxTake_of_nothing (h : s.serves (mailboxPath m) = false ∨ (s.mailbox m).state ≠ .posted) :
    exec (.mailboxTake m) s = .next s := if_pos (by simpa using h)

section Take

variable (hserves : s.serves (mailboxPath m) = true) (hposted : (s.mailbox m).state = .posted)
include hserves hposted

theorem mailboxTake_of_refused {st : Nat} (hfails : messageFailure (s.mailbox m).inb = some st) :
    exec (.mailboxTake m) s = .next (refuseMessage m (s.mailbox m).packet st s) := by
  refine (if_neg (by simp [hserves, hposted])).trans ?_
  simp only [hfails]
  rfl

theorem mailboxTake_of_passed (hpasses : messageFailure (s.mailbox m).inb = none) :
    exec (.mailboxTake m) s = .next ((takePosted m s).getD s) := by
  refine (if_neg (by simp [hserves, hposted])).trans ?_
  simp only [hpasses]
  rfl

end Take

/-- Settles O36: POST and ACK are judged against the state before them, a write of the register range by where it falls, and a
take by what stands in the slot. -/
theorem mailboxesMoveBetweenTheirStates : Obligations.MailboxesMoveBetweenTheirStates := by
  refine ⟨fun m s => ⟨fun h => next_modMailbox_congr (control_post_of_empty h),
      fun h => next_modMailbox_congr (control_post_of_not_empty h),
      fun h => next_modMailbox_congr (control_ack_of_replied h),
      fun h => next_modMailbox_congr (control_ack_of_not_replied h), rfl,
      fun h => next_modMailbox_congr (control_both_of_empty h),
      fun h => next_modMailbox_congr (control_both_of_replied h),
      fun h => next_modMailbox_congr (control_both_of_neither h)⟩,
    fun m data s => registerWrite_of_control,
    fun m off data s hoff =>
      ⟨fun h => (registerWrite_of_slot hoff).trans (next_modMailbox_congr (fill_of_not_empty h)),
        fun h => (registerWrite_of_slot hoff).trans (next_modMailbox_congr (fill_of_empty h))⟩,
    fun addr data s h => congrArg Host.Outcome.next (registerWrite_of_idle h),
    fun m s => ⟨mailboxTake_of_nothing, fun st hserves hposted => mailboxTake_of_refused hserves hposted, fun hserves hposted hpasses hwaits => ?waits,
      fun t hserves hposted hpasses htakes => ?takes⟩⟩
  case waits =>
    have waits : takePosted m s = none := hwaits
    rw [mailboxTake_of_passed hserves hposted hpasses, waits, Option.getD_none]
  case takes =>
    have takes : takePosted m s = some t := htakes
    rw [mailboxTake_of_passed hserves hposted hpasses, takes, Option.getD_some]

end Sys2Proof.Machine
end

section
/-! PROOFS. The supervisor's I3C target port (R391 to R393): a private write goes by its index, a read by the index selected, and
a common command code moves only the port's own state. -/

namespace Sys2Proof.Machine

variable {s : State} {bytes : List Byte} {len : Nat} {a : BitVec 7} {e : Byte}

/-! Private writes (R392) -/

/-- No index is selected. -/
def State.unselected (s : State) : State := s.modI3c fun x => { x with index := none }

/-- A packet refused on the supervisor's mailbox is answered with a record of KIND 2 that copies its fields. -/
theorem refuseMessage_supervisor {packet : List Byte} {st : Nat} : refuseMessage 64 packet st s =
    mailboxReply 64 (outMessage 2 (recordBytes
      { opcode := fld (BitVec.ofNat 512 (ofBytes packet)) 0 16,
        cmd := { path := .supervisor, berth := fld (BitVec.ofNat 512 (ofBytes packet)) 16 6,
                 seq := fld (BitVec.ofNat 512 (ofBytes packet)) 64 32 },
        gen := 0 } st noResult false 0)) s := rfl

theorem i3cPrivateWrite_post : exec (.i3cPrivateWrite (0x00 :: bytes)) s = .next (i3cPost bytes s.unselected) := rfl

theorem i3cPost_of_busy (h : (s.mailbox 64).state ≠ .empty) :
    i3cPost bytes s.unselected = s.unselected.modMailbox 64 fun x => { x with overrun := satInc x.overrun } := if_pos h

theorem i3cPost_of_packet (h : (s.mailbox 64).state = .empty) (hlen : bytes.length = 80) : i3cPost bytes s.unselected =
    s.unselected.modMailbox 64 fun x => { x with inb := putBytes x.inb 0 bytes, state := .posted } :=
  (if_neg (not_not.mpr h)).trans (if_pos hlen)

theorem i3cPost_of_wrong_length (h : (s.mailbox 64).state = .empty) (hlen : bytes.length ≠ 80) :
    i3cPost bytes s.unselected = refuseMessage 64 (takeBytes 64 (bytes.drop 16)) 0x0001 s.unselected :=
  (if_neg (not_not.mpr h)).trans (if_neg hlen)

theorem i3cPrivateWrite_of_other {i : Byte} (hpost : i ≠ 0x00) (hslot : i ≠ 0x01) (htime : i ≠ 0x10) :
    exec (.i3cPrivateWrite (i :: bytes)) s = .next (s.modI3c fun x => { x with reply := none }) :=
  (if_neg hpost).trans (if_neg (not_or.mpr ⟨hslot, htime⟩))

/-! Private reads (R392) -/

/-- The port answers with the bytes `d`. -/
def State.said (d : List Byte) (s : State) : State := s.modI3c fun i => { i with reply := some d }

theorem i3cReplyRead_of_time (h : s.i3c.index = some 0x10) : exec (.i3cReplyRead len) s =
    .next (s.said ((bytesOf 16 (layout80 s.now16 + b2n s.dyn.time.acquired * 2 ^ 80)).take len)) := if_pos h

theorem i3cReplyRead_of_slot (hindex : s.i3c.index = some 0x01) (hstate : (s.mailbox 64).state = .replied) :
    exec (.i3cReplyRead len) s = if (s.mailbox 64).outb.length ≤ len then
        .next ((s.said ((s.mailbox 64).outb.take len)).modMailbox 64 fun x => { x with state := .empty, outb := [] })
      else .next (s.said ((s.mailbox 64).outb.take len)) :=
  (if_neg (by rw [hindex]; decide)).trans (if_pos ⟨hindex, hstate⟩)

theorem i3cReplyRead_of_unanswered (htime : s.i3c.index ≠ some 0x10)
    (hslot : s.i3c.index ≠ some 0x01 ∨ (s.mailbox 64).state ≠ .replied) :
    exec (.i3cReplyRead len) s = .next (s.modI3c fun i => { i with reply := none }) :=
  (if_neg htime).trans (if_neg (not_and_or.mpr hslot))

/-- Settles O38: a private write goes by its index and, to post, by the state of mailbox 64 and its length; a read goes by the
index selected. That a read which nothing answers gives no reply is the model's reading (log 26). -/
theorem privateWritesSelectByTheirIndex : Obligations.PrivateWritesSelectByTheirIndex := by
  refine ⟨fun bytes s => ⟨fun h => ?busy, fun h hlen => ?packet, fun h hlen => ?wrong_length, rfl, rfl,
      fun i => i3cPrivateWrite_of_other⟩,
    fun len s => ⟨i3cReplyRead_of_time, fun hindex hstate hwhole => ?whole, fun hindex hstate hpart => ?part,
      i3cReplyRead_of_unanswered⟩⟩
  case busy => exact congrArg Host.Outcome.next (i3cPost_of_busy h)
  case packet => exact congrArg Host.Outcome.next (i3cPost_of_packet h hlen)
  case wrong_length =>
    exact congrArg Host.Outcome.next ((i3cPost_of_wrong_length h hlen).trans refuseMessage_supervisor)
  case whole => exact (i3cReplyRead_of_slot hindex hstate).trans (if_pos hwhole)
  case part => exact (i3cReplyRead_of_slot hindex hstate).trans (if_neg (not_le.mpr hpart))

/-! Common command codes (R391, R393) -/

/-- The port has the dynamic address `a`. -/
def State.addressed (a : BitVec 7) (s : State) : State := s.modI3c fun i => { i with dynAddr := some a }

section Free

variable (h : s.i3c.dynAddr = none)
include h

theorem entdaa_of_free : exec (.entdaa a) s = .next (s.addressed a) := if_pos (by rw [h]; rfl)

theorem setdasa_of_free : exec (.setdasa a) s = .next (s.addressed a) := if_pos (by rw [h]; rfl)

theorem setnewda_of_free : exec (.setnewda a) s = .next s := if_neg (by rw [h]; nofun)

end Free

section Held

variable (h : s.i3c.dynAddr ≠ none)
include h

theorem entdaa_of_held : exec (.entdaa a) s = .next s := if_neg (mt Option.isNone_iff_eq_none.mp h)

theorem setdasa_of_held : exec (.setdasa a) s = .next s := if_neg (mt Option.isNone_iff_eq_none.mp h)

theorem setnewda_of_held : exec (.setnewda a) s = .next (s.addressed a) := if_pos (Option.isSome_iff_ne_none.mpr h)

end Held

theorem enec_of_event (h : bitAt e 0 = true) : exec (.enec e) s = .next (s.modI3c fun i => { i with ibiOn := true }) := if_pos h

theorem enec_of_no_event (h : bitAt e 0 = false) : exec (.enec e) s = .next s := if_neg (ne_true_of_eq_false h)

theorem disec_of_event (h : bitAt e 0 = true) : exec (.disec e) s = .next (s.modI3c fun i => { i with ibiOn := false }) :=
  if_pos h

theorem disec_of_no_event (h : bitAt e 0 = false) : exec (.disec e) s = .next s := if_neg (ne_true_of_eq_false h)

/-- Settles O39: an address is given by whether the port has one, events go by bit 0, and the GET codes answer at once. The model's
readings: GETSTATUS and event bit 0 (log 24), and the identity values (log 25). -/
theorem commonCommandCodesAnswer : Obligations.CommonCommandCodesAnswer :=
  ⟨fun _ _ => ⟨fun h => ⟨entdaa_of_free h, setdasa_of_free h, setnewda_of_free h⟩,
      fun h => ⟨entdaa_of_held h, setdasa_of_held h, setnewda_of_held h⟩⟩,
    fun _ => ⟨rfl, rfl, rfl, rfl, rfl, rfl, rfl⟩,
    fun _ _ => ⟨fun h => ⟨enec_of_event h, disec_of_event h⟩, fun h => ⟨enec_of_no_event h, disec_of_no_event h⟩⟩⟩

end Sys2Proof.Machine
end

section
/-! PROOFS. The berth commands (R402 to R409): the checks of R407 in their order, the descriptor that a command writes, and the
generation that it raises. -/

namespace Sys2Proof.Machine

variable {op : OpInfo} {c : Cmd} {s : State} {t : Ticket} {k cfg : Shadow} {b n st : Nat} {old d : BerthDesc}
  {checks : List (Bool × Nat)} {i : Instr}

/-! Who may send them (check 1 of R407) -/

theorem berthPathOk_of_supervisor {own : Bool} (hpath : c.path = .supervisor) :
    berthPathOk (ticketOf op c s) b own = true := by
  simp [berthPathOk, ticketOf_fromSupervisor, hpath]

theorem berthPathOk_of_other (hpath : c.path ≠ .supervisor) : berthPathOk (ticketOf op c s) b false = false := by
  simp [berthPathOk, ticketOf_fromSupervisor, hpath]

/-! A check that carries its own status -/

theorem refuse_own_status {o : Option Nat} {p : Verdict} :
    (if o.isSome = true then .refuse (o.getD 0) noResult else p) = match o with
      | some st => .refuse st noResult
      | none => p := by
  cases o <;> rfl

/-- A change to the safety basin's tiles passes in the service state, and one that touches none passes always. -/
theorem safetyCheck_of_allowed {touches : Bool} (h : s.inService = true ∨ touches = false) :
    (!s.inService && touches) = false := by
  rcases h with h | h <;> simp [h]

/-! BERTH_CREATE -/

/-- The descriptor that BERTH_CREATE makes: LIVE, of the generation after the berth's last. -/
def berthMade (p : Params) (gen : BitVec 16) : BerthDesc :=
  { (({} : BerthDesc).withParams p) with state := .live, gen := gen + 1 }

/-- The shadow with a berth created, and marked as raised in this shadow. -/
def Shadow.withBerthMade (b : Nat) (d : BerthDesc) (k : Shadow) : Shadow :=
  { k with berths := tabPut {} k.berths b d, genRaise := tabPut 0 k.genRaise b 1 }

/-- The checks of BERTH_CREATE: the path, the state, the safety basin's tiles, and checks 4 to 8 of R407. -/
def berthCreateChecks (t : Ticket) (s : State) (b : Nat) (d : BerthDesc) (k : Shadow) : List (Bool × Nat) :=
  [ (!berthPathOk t b false, 0x0115), (decide ((tabGet {} k.berths b).state ≠ .free), 0x0111),
    (!s.inService && k.touchesSafety d.tileGrant, 0x0053), ((berthChecks k b {} d).isSome, (berthChecks k b {} d).getD 0) ]

theorem ruleBerthCreate_eq (hb : b = fldN t.cmd.params 8 6) (hd : d = berthMade t.cmd.params (tabGet {} k.berths b).gen) :
    ruleBerthCreate s t k = (firstOf (berthCreateChecks t s b d k)).elim (.pass (k.withBerthMade b d) noResult)
      fun st => .refuse st noResult := by
  subst hd hb
  simp only [berthCreateChecks, firstOf_elim_cons, firstOf_elim_nil, refuse_own_status, decide_eq_true_eq]
  rfl

theorem berthCreate_settled (h : Admits opBerthCreate c s = true) (hb : b = fldN c.params 8 6)
    (hd : d = berthMade c.params (tabGet {} s.lock.opn.berths b).gen) : exec (.berthCreate c) s = .next
      (settled opBerthCreate c (berthCreateChecks (ticketOf opBerthCreate c s) s b d s.lock.opn)
        (s.lock.opn.withBerthMade b d) s) :=
  config_settled h (by
    rw [ruleBerthCreate_eq (t := ticketOf opBerthCreate c s) hb hd, berthCreateChecks, berthCreateChecks, admitted_inService])

/-! BERTH_MODIFY -/

/-- The shadow with a berth's RW fields rewritten; the tiles that its grant loses leave their basins (R409). -/
def Shadow.withBerthResized (b : Nat) (old d : BerthDesc) (k : Shadow) : Shadow :=
  { k.takeTiles (old.tileGrant &&& ~~~ d.tileGrant) with
    berths := tabPut {} (k.takeTiles (old.tileGrant &&& ~~~ d.tileGrant)).berths b d }

/-- The checks of BERTH_MODIFY. -/
def berthModifyChecks (t : Ticket) (s : State) (b : Nat) (old d : BerthDesc) (k : Shadow) : List (Bool × Nat) :=
  [ (!berthPathOk t b false, 0x0115), (decide (old.state ≠ .live), 0x0111),
    (!s.inService && k.touchesSafety (old.tileGrant ^^^ d.tileGrant), 0x0053),
    ((berthChecks k b old d).isSome, (berthChecks k b old d).getD 0) ]

theorem ruleBerthModify_eq (hb : b = fldN t.cmd.params 8 6) (hold : old = tabGet {} k.berths b)
    (hd : d = old.withParams t.cmd.params) : ruleBerthModify s t k = (firstOf (berthModifyChecks t s b old d k)).elim
      (.pass (k.withBerthResized b old d) noResult) fun st => .refuse st noResult := by
  subst hd hold hb
  simp only [berthModifyChecks, firstOf_elim_cons, firstOf_elim_nil, refuse_own_status, decide_eq_true_eq]
  rfl

theorem berthModify_settled (h : Admits opBerthModify c s = true) (hb : b = fldN c.params 8 6)
    (hold : old = tabGet {} s.lock.opn.berths b) (hd : d = old.withParams c.params) : exec (.berthModify c) s = .next
      (settled opBerthModify c (berthModifyChecks (ticketOf opBerthModify c s) s b old d s.lock.opn)
        (s.lock.opn.withBerthResized b old d) s) :=
  config_settled h (by
    rw [ruleBerthModify_eq (t := ticketOf opBerthModify c s) hb hold hd, berthModifyChecks, berthModifyChecks,
      admitted_inService])

/-! BERTH_RESET and BERTH_DESTROY -/

/-- The checks that the two share: the path, the state, and the owner of the safety basin. -/
def endCheckList (t : Ticket) (s : State) (b : Nat) (own : Bool) (k : Shadow) : List (Bool × Nat) :=
  [ (!berthPathOk t b own, 0x0115), (decide ((tabGet {} k.berths b).state ≠ .live), 0x0111),
    (!s.inService && k.ownsSafety b, 0x0053) ]

theorem endChecks_eq {own : Bool} : endChecks s t k b own = firstOf (endCheckList t s b own k) := by
  simp only [endCheckList, firstOf_cons, firstOf_nil, decide_eq_true_eq]
  rfl

theorem elim_eq_match {α : Type} {o : Option Nat} {p : α} {f : Nat → α} :
    o.elim p f = match o with
      | some st => f st
      | none => p := by
  cases o <;> rfl

theorem ruleBerthReset_eq (hb : b = fldN t.cmd.params 0 6) : ruleBerthReset s t k =
    (firstOf (endCheckList t s b true k)).elim (.pass (k.raiseGen b .live (s.lock.number.toNat + 1)) noResult)
      fun st => .refuse st noResult := by
  subst hb
  rw [← endChecks_eq, elim_eq_match]
  rfl

theorem berthReset_settled (h : Admits opBerthReset c s = true) (hb : b = fldN c.params 0 6) : exec (.berthReset c) s = .next
    (settled opBerthReset c (endCheckList (ticketOf opBerthReset c s) s b true s.lock.opn)
      (s.lock.opn.raiseGen b .live (s.lock.number.toNat + 1)) s) :=
  config_settled h (by
    rw [ruleBerthReset_eq (t := ticketOf opBerthReset c s) hb, endCheckList, endCheckList, admitted_inService, admitted_lock])

/-- The shadow with a berth closed: its generation rises, and its weight copies wait to be zeroed (R406). -/
def Shadow.withBerthClosed (b cycle : Nat) (k : Shadow) : Shadow := (k.raiseGen b .closing cycle).dropWeights b cycle

theorem ruleBerthDestroy_eq (hb : b = fldN t.cmd.params 0 6) : ruleBerthDestroy s t k =
    (firstOf (endCheckList t s b false k)).elim (.pass (k.withBerthClosed b (s.lock.number.toNat + 1)) noResult)
      fun st => .refuse st noResult := by
  subst hb
  rw [← endChecks_eq, elim_eq_match]
  rfl

theorem berthDestroy_settled (h : Admits opBerthDestroy c s = true) (hb : b = fldN c.params 0 6) :
    exec (.berthDestroy c) s = .next
      (settled opBerthDestroy c (endCheckList (ticketOf opBerthDestroy c s) s b false s.lock.opn)
        (s.lock.opn.withBerthClosed b (s.lock.number.toNat + 1)) s) :=
  config_settled h (by
    rw [ruleBerthDestroy_eq (t := ticketOf opBerthDestroy c s) hb, endCheckList, endCheckList, admitted_inService,
      admitted_lock])

/-! The answers -/

section Path

variable (h : exec i s = .next (settled op c ((!berthPathOk (ticketOf op c s) b false, 0x0115) :: checks) cfg s))
include h

theorem berth_refused_off_path (hpath : c.path ≠ .supervisor) : exec i s = .next (answered op c 0x0115 noResult s) :=
  exec_of_check h (by rw [berthPathOk_of_other hpath]; rfl)

theorem berth_past_path (hpath : c.path = .supervisor) : exec i s = .next (settled op c checks cfg s) :=
  exec_past_check h (by rw [berthPathOk_of_supervisor hpath]; rfl)

end Path

/-- A command of which only its own status is left to check passes when that status is none. -/
theorem exec_of_no_status {o : Option Nat} (h : exec i s = .next (settled op c [(o.isSome, o.getD 0)] cfg s))
    (ho : o = none) : exec i s = .next (entered op c cfg s) := by
  subst ho
  exact (exec_past_check h rfl).trans (by rw [settled_nil])

/-- Settles O9: each command's rule is its list of checks, whose first asks the path. -/
theorem berthCommandsMoveTheLifecycle : Obligations.BerthCommandsMoveTheLifecycle := by
  refine ⟨fun c s b d h hpath hb hd => ?create, fun c s b old d h hpath hb hold hd => ?modify,
    fun c s b h hb hpath => ?reset, fun c s b h hpath hb => ?destroy, fun c s hpath =>
      ⟨fun h => berth_refused_off_path (berthCreate_settled h rfl rfl) hpath,
        fun h => berth_refused_off_path (berthModify_settled h rfl rfl rfl) hpath,
        fun h => berth_refused_off_path (berthDestroy_settled h rfl) hpath⟩⟩
  case create =>
    have past := berth_past_path (berthCreate_settled h hb hd) hpath
    exact ⟨fun hstate => exec_of_check past (decide_eq_true hstate), fun hstate hsafety hchecks =>
      exec_of_no_status (exec_past_check (exec_past_check past (decide_eq_false (not_not.mpr hstate)))
        (safetyCheck_of_allowed hsafety)) hchecks⟩
  case modify =>
    have past := berth_past_path (berthModify_settled h hb hold hd) hpath
    exact ⟨fun hstate => exec_of_check past (decide_eq_true hstate), fun hstate hsafety hchecks =>
      exec_of_no_status (exec_past_check (exec_past_check past (decide_eq_false (not_not.mpr hstate)))
        (safetyCheck_of_allowed hsafety)) hchecks⟩
  case reset =>
    have path_ok : berthPathOk (ticketOf opBerthReset c s) b true = true := berthPathOk_iff.mpr hpath
    have past := exec_past_check (berthReset_settled h hb) (by rw [path_ok]; rfl)
    have live (hstate : (tabGet {} s.lock.opn.berths b).state = .live) :=
      exec_past_check past (decide_eq_false (not_not.mpr hstate))
    exact ⟨fun hstate => exec_of_check past (decide_eq_true hstate),
      fun hstate hservice howns => exec_of_check (live hstate) (by rw [hservice, howns]; rfl),
      fun hstate hsafety => exec_past_check (live hstate) (safetyCheck_of_allowed hsafety)⟩
  case destroy =>
    have past := berth_past_path (berthDestroy_settled h hb) hpath
    exact fun hstate hsafety => exec_past_check (exec_past_check past (decide_eq_false (not_not.mpr hstate)))
      (safetyCheck_of_allowed hsafety)

/-! The generation (R406, R412) -/

/-- What a mapped table lists comes from an entry, and is not the default. -/
theorem mem_tabMap {α : Type} [DecidableEq α] {d : α} {f : Nat → α → α} {t : Tab α} {kv : Nat × α}
    (h : kv ∈ tabMap d f t) : ∃ v, kv.2 = f kv.1 v ∧ kv.2 ≠ d := by
  induction t with
  | nil => exact absurd h List.not_mem_nil
  | cons e t ih =>
    unfold tabMap at h
    split at h
    next => exact ih h
    next hlisted =>
      rcases List.mem_cons.mp h with rfl | h
      · exact ⟨e.2, rfl, hlisted⟩
      · exact ih h

/-- A table cleared of the entries whose `key` is `b` lists none of them. -/
theorem key_ne_of_mem_cleared {α : Type} [DecidableEq α] {d : α} {key : α → Nat} {t : Tab α} {kv : Nat × α}
    (h : kv ∈ tabMap d (fun _ x => if key x = b then d else x) t) : key kv.2 ≠ b := by
  obtain ⟨v, hv, hlisted⟩ := mem_tabMap h
  by_cases hkey : key v = b
  · exact absurd (hv.trans (if_pos hkey)) hlisted
  · rwa [hv, if_neg hkey]

section Raise

variable {state : BerthState} {cycle : Nat}

/-- The shadow that a raise starts from: the first in a shadow takes the berth its objects (R412). -/
def Shadow.raisedFrom (b cycle : Nat) (k : Shadow) : Shadow :=
  if tabGet 0 k.genRaise b = 0 then k.dropBerth b cycle else k

/-- The descriptor that a raise leaves: its state is set, and its generation is one higher at the first raise. -/
def Shadow.raisedBerth (b : Nat) (state : BerthState) (k : Shadow) : BerthDesc :=
  { tabGet {} k.berths b with
    state := state,
    gen := if tabGet 0 k.genRaise b = 0 then (tabGet {} k.berths b).gen + 1 else (tabGet {} k.berths b).gen }

theorem raisedFrom_berths : (k.raisedFrom b cycle).berths = k.berths := by unfold Shadow.raisedFrom; split <;> rfl

theorem raisedFrom_genRaise : (k.raisedFrom b cycle).genRaise = k.genRaise := by unfold Shadow.raisedFrom; split <;> rfl

theorem raisedFrom_of_first (h : tabGet 0 k.genRaise b = 0) : k.raisedFrom b cycle = k.dropBerth b cycle := if_pos h

/-- The descriptor is read before the berth's objects are taken, and they are not the descriptors. -/
theorem raiseGen_eq : k.raiseGen b state cycle = { k.raisedFrom b cycle with
    berths := tabPut {} k.berths b (k.raisedBerth b state), genRaise := tabPut 0 k.genRaise b 1 } := by
  have unfolds : k.raiseGen b state cycle = { k.raisedFrom b cycle with
    berths := tabPut {} (k.raisedFrom b cycle).berths b (k.raisedBerth b state),
    genRaise := tabPut 0 (k.raisedFrom b cycle).genRaise b 1 } := rfl
  rw [unfolds, raisedFrom_berths, raisedFrom_genRaise]

end Raise

/-- Settles O10: a raise writes one descriptor and one mark, and at the first it clears the tables of the berth's entries. -/
theorem generationRisesOncePerShadow : Obligations.GenerationRisesOncePerShadow := by
  intro k b state cycle hberths hraise
  have reads (n : Nat) : tabGet {} (k.raiseGen b state cycle).berths n
      = if n = b then k.raisedBerth b state else tabGet {} k.berths n := by
    rw [raiseGen_eq, tabGet_tabPut hberths]
  have own : tabGet {} (k.raiseGen b state cycle).berths b = k.raisedBerth b state := (reads b).trans (if_pos rfl)
  refine ⟨fun hfresh => ?first, fun hagain => ?again, by rw [own, Shadow.raisedBerth], ?mark,
    fun n hn => (reads n).trans (if_neg hn), fun hfresh => ?cleared⟩
  case first => rw [own, Shadow.raisedBerth, if_pos hfresh]
  case again => rw [own, Shadow.raisedBerth, if_neg hagain]
  case mark => rw [raiseGen_eq, tabGet_tabPut hraise, if_pos rfl]
  case cleared =>
    rw [raiseGen_eq, raisedFrom_of_first hfresh]
    exact ⟨fun _ => key_ne_of_mem_cleared, fun _ => key_ne_of_mem_cleared, fun _ => key_ne_of_mem_cleared,
      fun _ => key_ne_of_mem_cleared⟩

/-! BERTH_GRANT (R403, R405) -/

/-- The grant that the parameters of BERTH_GRANT spell. -/
def grantOfParams (p : Params) : HostGrant :=
  { valid := true, berth := fld p 8 6, first := fld p 32 32, frames := fld p 64 32 }

/-- The shadow with one host-window grant written. -/
def Shadow.withGrant (n : Nat) (g : HostGrant) (k : Shadow) : Shadow := { k with grants := tabPut {} k.grants n g }

/-- The frames lie outside the PCIe range, or there are none. -/
def HostGrant.outside (g : HostGrant) : Bool :=
  g.first.toNat < 0xC0000000 || g.frames == 0 || 0x100000000 < g.first.toNat + g.frames.toNat

/-- The frames meet a grant of another berth. -/
def Shadow.grantOverlaps (n : Nat) (g : HostGrant) (k : Shadow) : Bool :=
  tabAny (fun i e => i != n && e.valid && e.berth != g.berth
    && rangesMeet g.first.toNat g.frames.toNat e.first.toNat e.frames.toNat) k.grants

/-- The checks of a grant that is written. -/
def grantSetChecks (t : Ticket) (n b : Nat) (g : HostGrant) (k : Shadow) : List (Bool × Nat) :=
  [ (!berthPathOk t b false, 0x0115), (decide ((tabGet {} k.berths b).state ≠ .live), 0x0111), (g.outside, 0x0110),
    (k.grantOverlaps n g, 0x0112),
    ((tabGet {} k.grants n).valid && (k.withGrant n g).grantInUse 128 (tabGet {} k.grants n), 0x0113) ]

/-- The checks of a grant that is revoked. -/
def grantRevokeChecks (t : Ticket) (n b : Nat) (k : Shadow) : List (Bool × Nat) :=
  [ (!berthPathOk t b false, 0x0115),
    (!((tabGet {} k.grants n).valid && (tabGet {} k.grants n).berth.toNat == b), 0x0110),
    (k.grantInUse n (tabGet {} k.grants n), 0x0113) ]

section Grant

variable {g : HostGrant}

theorem ruleBerthGrant_of_set (hn : n = fldN t.cmd.params 0 7) (hb : b = fldN t.cmd.params 8 6)
    (hg : g = grantOfParams t.cmd.params) (hset : bitAt t.cmd.params 7 = true) : ruleBerthGrant s t k =
      (firstOf (grantSetChecks t n b g k)).elim (.pass (k.withGrant n g) noResult) fun st => .refuse st noResult := by
  subst hn hb hg
  simp only [grantSetChecks, firstOf_elim_cons, firstOf_elim_nil, decide_eq_true_eq]
  refine if_congr Iff.rfl rfl ((if_pos hset).trans ?_)
  rfl

theorem ruleBerthGrant_of_revoke (hn : n = fldN t.cmd.params 0 7) (hb : b = fldN t.cmd.params 8 6)
    (hset : bitAt t.cmd.params 7 = false) : ruleBerthGrant s t k =
      (firstOf (grantRevokeChecks t n b k)).elim (.pass (k.withGrant n {}) noResult) fun st => .refuse st noResult := by
  subst hn hb
  simp only [grantRevokeChecks, firstOf_elim_cons, firstOf_elim_nil]
  refine if_congr Iff.rfl rfl ((if_neg (ne_true_of_eq_false hset)).trans ?_)
  rfl

variable (h : Admits opBerthGrant c s = true) (hn : n = fldN c.params 0 7) (hb : b = fldN c.params 8 6)
include h hn hb

theorem berthGrant_of_set (hg : g = grantOfParams c.params) (hset : bitAt c.params 7 = true) : exec (.berthGrant c) s = .next
    (settled opBerthGrant c (grantSetChecks (ticketOf opBerthGrant c s) n b g s.lock.opn) (s.lock.opn.withGrant n g) s) :=
  config_settled h (ruleBerthGrant_of_set (t := ticketOf opBerthGrant c s) hn hb hg hset)

theorem berthGrant_of_revoke (hset : bitAt c.params 7 = false) : exec (.berthGrant c) s = .next
    (settled opBerthGrant c (grantRevokeChecks (ticketOf opBerthGrant c s) n b s.lock.opn) (s.lock.opn.withGrant n {}) s) :=
  config_settled h (ruleBerthGrant_of_revoke (t := ticketOf opBerthGrant c s) hn hb hset)

/-- Whether it writes or revokes, a grant off the supervisor path is refused. -/
theorem berthGrant_off_path (hpath : c.path ≠ .supervisor) :
    exec (.berthGrant c) s = .next (answered opBerthGrant c 0x0115 noResult s) := by
  cases hset : bitAt c.params 7 with
  | true => exact berth_refused_off_path (berthGrant_of_set h hn hb rfl hset) hpath
  | false => exact berth_refused_off_path (berthGrant_of_revoke h hn hb hset) hpath

end Grant

/-- Settles O11: VALID says which list of checks is asked, and both ask the path first. -/
theorem berthGrantWritesOneGrant : Obligations.BerthGrantWritesOneGrant := by
  refine fun c s n b g h hn hb hg => ⟨berthGrant_off_path h hn hb, fun hpath hset => ?set, fun hpath hset => ?revoke⟩
  case set =>
    have past := berth_past_path (berthGrant_of_set h hn hb hg hset) hpath
    have live (hlive : (tabGet {} s.lock.opn.berths b).state = .live) :=
      exec_past_check past (decide_eq_false (not_not.mpr hlive))
    exact ⟨fun hlive => exec_of_check past (decide_eq_true hlive), fun hlive houtside => exec_of_check (live hlive) houtside,
      fun hlive houtside hoverlap => exec_of_check (exec_past_check (live hlive) houtside) hoverlap,
      fun hlive houtside hoverlap hfree =>
        exec_past_check (exec_past_check (exec_past_check (live hlive) houtside) hoverlap) hfree⟩
  case revoke =>
    have past := berth_past_path (berthGrant_of_revoke h hn hb hset) hpath
    have held (hheld : _ = true) := exec_past_check past (congrArg not hheld)
    exact ⟨fun hother => exec_of_check past (congrArg not hother), fun hheld hused => exec_of_check (held hheld) hused,
      fun hheld hfree => exec_past_check (held hheld) hfree⟩

end Sys2Proof.Machine
end

section
/-! PROOFS. The starts and resets of the fabric (R484, R485, R496, R549): when a power event acts, and what a stopped fabric
keeps. -/

namespace Sys2Proof.Machine

variable {s : State} {facts : StartFacts}

/-! COLD_START (R484, R486) -/

/-- A cold start runs: CORE_PWRGD was low, and the island is operational. -/
def State.coldStarts (s : State) : Prop := s.dyn.power.corePwrgd = false ∧ s.dyn.island.operational = true

theorem coldStarts_iff : s.coldStarts ↔ ¬ (s.dyn.power.corePwrgd || !s.dyn.island.operational) = true := by
  simp [State.coldStarts]

/-- The stopped fabric that a cold start begins with: the time block is at zero, the island's timer is steered to it, and the
island's token is read anew. -/
def State.coldStopped (s : State) : State :=
  (((stopFabric s).modTime fun _ => {}).modIsland fun i => { i with disciplined := true }).modBring fun b =>
    { b with islandLicence := takeToken b.fuses.uid b.islandToken0 b.islandToken1 }

theorem coldStart_of_starts (h : s.coldStarts) : exec (.coldStart facts) s = .next (runStart 0 none facts s.coldStopped) :=
  if_neg (coldStarts_iff.mp h)

theorem coldStart_of_not_starts (h : ¬ s.coldStarts) : exec (.coldStart facts) s = .next s :=
  if_pos (not_not.mp (mt coldStarts_iff.mpr h))

/-! WARM_RESET_ASSERT and WARM_RESET_RELEASE (R484, R496) -/

/-- The fabric has power and is not held. -/
def State.runsOnPower (s : State) : Prop := s.dyn.power.corePwrgd = true ∧ s.dyn.power.warmReset = false

theorem runsOnPower_iff : s.runsOnPower ↔ ¬ (!s.dyn.power.corePwrgd || s.dyn.power.warmReset) = true := by
  simp [State.runsOnPower]

theorem not_runsOnPower_iff : ¬ s.runsOnPower ↔ s.dyn.power.corePwrgd = false ∨ s.dyn.power.warmReset = true := by
  rw [runsOnPower_iff, not_not, Bool.or_eq_true, Bool.not_eq_true']

theorem warmResetAssert_of_running (h : s.runsOnPower) : exec .warmResetAssert s = .next (holdFabric s) :=
  if_neg (runsOnPower_iff.mp h)

theorem warmResetAssert_of_held (h : ¬ s.runsOnPower) : exec .warmResetAssert s = .next s :=
  if_pos (not_not.mp (mt runsOnPower_iff.mpr h))

/-- WARM_RESET_N may rise: it was low for 100 us, without a thermal trip, and the island is operational. -/
def State.mayRestart (s : State) : Prop :=
  s.dyn.power.warmReset = true ∧ s.dyn.power.corePwrgd = true ∧ s.dyn.power.thermTrip = false
    ∧ s.dyn.island.operational = true ∧ s.dyn.power.heldSince + 100 * us48 ≤ s.dyn.time.wc

theorem mayRestart_iff : s.mayRestart ↔ ¬ (!s.dyn.power.warmReset || !s.dyn.power.corePwrgd || s.dyn.power.thermTrip
    || !s.dyn.island.operational || s.dyn.time.wc < s.dyn.power.heldSince + 100 * us48) = true := by
  simp [State.mayRestart, and_assoc]

/-- The warm-valid record that a restart goes by: memory was kept refreshed, and a copy is good. -/
def State.keptRecord (facts : StartFacts) (s : State) : Option WarmRecord :=
  if s.dyn.bring.refreshKept then bestRecord facts s.dyn.bring else none

theorem warmResetRelease_of_not_due (h : ¬ s.mayRestart) : exec (.warmResetRelease facts) s = .next s :=
  if_pos (not_not.mp (mt mayRestart_iff.mpr h))

theorem warmResetRelease_of_due (h : s.mayRestart) : exec (.warmResetRelease facts) s =
    .next (runStart (if (s.keptRecord facts).isSome then 1 else 2) (s.keptRecord facts) facts s) :=
  if_neg (mayRestart_iff.mp h)

theorem warmResetRelease_fast (h : s.mayRestart) (hrecord : s.keptRecord facts ≠ none) :
    exec (.warmResetRelease facts) s = .next (runStart 1 (s.keptRecord facts) facts s) := by
  rw [warmResetRelease_of_due h, if_pos (Option.isSome_iff_ne_none.mpr hrecord)]

theorem warmResetRelease_slow (h : s.mayRestart) (hrecord : s.keptRecord facts = none) :
    exec (.warmResetRelease facts) s = .next (runStart 2 none facts s) := by
  rw [warmResetRelease_of_due h, hrecord]
  rfl

/-! The supplies (R549) -/

theorem corePwrgdFall_of_high (h : s.dyn.power.corePwrgd = true) : exec .corePwrgdFall s =
    .next ((stopFabric s).modPower fun p => { p with corePwrgd := false, warmReset := false }) := if_neg (by simp [h])

theorem corePwrgdFall_of_low (h : s.dyn.power.corePwrgd = false) : exec .corePwrgdFall s = .next s := if_pos (by simp [h])

theorem islPwrgdFall_of_unpowered (h : s.dyn.island.powered = false) : exec .islPwrgdFall s = .next s := if_pos (by simp [h])

/-- Stopping the island leaves the power of the fabric. -/
@[simp] theorem stopIsland_power (powered : Bool) (s : State) : (stopIsland powered s).dyn.power = s.dyn.power := rfl

theorem islPwrgdFall_of_powered (h : s.dyn.island.powered = true) : exec .islPwrgdFall s =
    .next (if s.dyn.power.corePwrgd && !s.dyn.power.warmReset then holdFabric (stopIsland false s) else stopIsland false s) :=
  if_neg (by simp [h])

theorem islPwrgdFall_holds (h : s.dyn.island.powered = true) (hruns : s.runsOnPower) :
    exec .islPwrgdFall s = .next (holdFabric (stopIsland false s)) := by
  obtain ⟨hpower, hheld⟩ := hruns
  rw [islPwrgdFall_of_powered h, hpower, hheld]
  rfl

theorem islPwrgdFall_stops (h : s.dyn.island.powered = true) (hstands : ¬ s.runsOnPower) :
    exec .islPwrgdFall s = .next (stopIsland false s) := by
  rw [islPwrgdFall_of_powered h, if_neg (by simpa [State.runsOnPower] using hstands)]

/-! The stopped fabric (R388, R485) -/

/-- Every mailbox of a stopped fabric is read as the default. -/
theorem stopFabric_mailbox (m : Nat) : (stopFabric s).mailbox m = {} := rfl

/-- Settles O57: each event asks its conditions, and what a stopped fabric holds is written out in `stopFabric`. The model's
readings: the island's time is steered without a step at a cold start (log 161), the island's token is read anew there (log 174),
and ISL_PWRGD falling holds the fabric (log 122). -/
theorem resetsStopTheFabric : Obligations.ResetsStopTheFabric :=
  ⟨fun _ _ => ⟨coldStart_of_starts, coldStart_of_not_starts⟩,
    fun _ _ => ⟨warmResetRelease_fast, warmResetRelease_slow, warmResetRelease_of_not_due⟩,
    fun _ => ⟨fun hpower hheld => warmResetAssert_of_running ⟨hpower, hheld⟩,
      fun hstands => warmResetAssert_of_held (not_runsOnPower_iff.mpr hstands), corePwrgdFall_of_high, corePwrgdFall_of_low, rfl,
      islPwrgdFall_of_unpowered, fun h hpower hheld => islPwrgdFall_holds h ⟨hpower, hheld⟩,
      fun h hstands => islPwrgdFall_stops h (not_runsOnPower_iff.mpr hstands)⟩,
    fun _ => ⟨rfl, fun m => ⟨by rw [stopFabric_mailbox m], by rw [stopFabric_mailbox m]⟩, rfl, rfl, rfl, rfl, rfl, rfl, rfl, rfl,
      rfl, rfl⟩⟩

end Sys2Proof.Machine
end

section
/-! PROOFS. The pairs of the island (R420 to R438): what a token, a beat, an input, a read and the debug port do on a pair that
runs, and that they do nothing on one that does not. -/

namespace Sys2Proof.Machine

variable {s : State} {pair copy : Fin 2} {tok : Token} {bad : Bool} {ch since : Nat} {kind : IslandInput} {a b : BitVec 64}
  {pa ca cb : BitVec 48} {flips : BitVec 544} {addr : BitVec 32}

/-! TOKEN_PRODUCE (R427, R428, R436) -/

theorem tokenProduce_of_ignored (h : ¬ s.copyRuns pair copy = true ∨ 4 < tok.channel.toNat) :
    exec (.tokenProduce pair copy tok bad) s = .next s := if_pos (by simpa using h)

section Token

variable (hruns : s.copyRuns pair copy = true) (hchannel : tok.channel.toNat ≤ 4)
include hruns hchannel

theorem tokenProduce_of_taken : exec (.tokenProduce pair copy tok bad) s =
    if s.dyn.island.split then .next (releaseToken pair tok bad s) else .next (compareToken pair copy tok bad s) :=
  if_neg (by simpa [hruns] using hchannel)

theorem tokenProduce_of_split (hsplit : s.dyn.island.split = true) :
    exec (.tokenProduce pair copy tok bad) s = .next (releaseToken pair tok bad s) := by
  rw [tokenProduce_of_taken hruns hchannel, if_pos hsplit]

theorem tokenProduce_of_lockstep (hsplit : s.dyn.island.split = false) :
    exec (.tokenProduce pair copy tok bad) s = .next (compareToken pair copy tok bad s) := by
  rw [tokenProduce_of_taken hruns hchannel, if_neg (ne_true_of_eq_false hsplit)]

end Token

/-! SKEW_TIME (R429) -/

/-- A token that has waited since `since` is late: its pair runs in lockstep, without a halt, and 2 us are over. -/
def State.tokenLate (s : State) (pair : Fin 2) (since : Nat) : Prop :=
  s.pairRuns pair = true ∧ s.dyn.island.split = false ∧ (s.pair pair).halted = none ∧ since + 2 * us16 < s.island16

theorem tokenLate_iff : s.tokenLate pair since ↔ ¬ (!s.pairRuns pair || s.dyn.island.split || (s.pair pair).halted.isSome
    || s.island16 ≤ since + 2 * us16) = true := by
  simp [State.tokenLate, and_assoc]

/-- The longest wait of a token counts one that began at `since`. -/
def Island.waited (now since : Nat) (i : Island) : Island :=
  { i with maxWait := bvMax i.maxWait (satOf 16 (waitNs now since)) }

theorem skewTime_of_none (h : (s.pair pair).oldest = none) : exec (.skewTime pair) s = .next s := by
  change execSkewTime pair s = .next s
  simp only [execSkewTime, h]

theorem skewTime_of_late (h : (s.pair pair).oldest = some (ch, since)) (hlate : s.tokenLate pair since) :
    exec (.skewTime pair) s = .next (fence pair 3 (BitVec.ofNat 3 ch) (s.modIsland (.waited s.island16 since))) := by
  change execSkewTime pair s = _
  simp only [execSkewTime, h]
  exact if_neg (tokenLate_iff.mp hlate)

theorem skewTime_of_not_late (h : (s.pair pair).oldest = some (ch, since)) (hlate : ¬ s.tokenLate pair since) :
    exec (.skewTime pair) s = .next s := by
  change execSkewTime pair s = .next s
  simp only [execSkewTime, h]
  exact if_pos (not_not.mp (mt tokenLate_iff.mpr hlate))

/-! BEAT_WRITE and BEAT_WATCHDOG (R426) -/

theorem beatWrite_of_runs (h : s.pairRuns pair = true) : exec (.beatWrite pair) s =
    .next (s.modPair pair fun y => { y with beat := !y.beat, lastBeat := s.island16 }) := if_neg (by simp [h])

theorem beatWrite_of_stopped (h : ¬ s.pairRuns pair = true) : exec (.beatWrite pair) s = .next s := if_pos (by simpa using h)

/-- The pair runs, its watchdog is on, and 1,000 us have passed without a beat write. -/
def State.beatSilent (s : State) (pair : Fin 2) : Prop :=
  s.pairRuns pair = true ∧ s.dyn.island.watchdogOff = false ∧ (s.pair pair).lastBeat + 1000 * us16 ≤ s.island16

theorem beatSilent_iff : s.beatSilent pair ↔ ¬ (!s.pairRuns pair || s.dyn.island.watchdogOff
    || s.island16 < (s.pair pair).lastBeat + 1000 * us16) = true := by
  simp [State.beatSilent, and_assoc]

theorem beatWatchdog_of_silent (h : s.beatSilent pair) : exec (.beatWatchdog pair) s = .next (fence pair 5 0 s) :=
  if_neg (beatSilent_iff.mp h)

theorem beatWatchdog_of_heard (h : ¬ s.beatSilent pair) : exec (.beatWatchdog pair) s = .next s :=
  if_pos (not_not.mp (mt beatSilent_iff.mpr h))

/-! ROLE_TAKEOVER (R424) -/

/-- The pair that takes the roles. -/
def State.heir (s : State) : Fin 2 := if s.dyn.island.pair0.state = .healthy then 0 else 1

theorem roleTakeover_of_none (h : s.dyn.island.takeover = false) : exec .roleTakeover s = .next s := if_pos (by simp [h])

theorem roleTakeover_of_heir (h : s.dyn.island.takeover = true) (hruns : s.pairRuns s.heir = true) : exec .roleTakeover s =
    .next (s.modIsland fun i => { i with takeover := false, roleMonitor := s.heir, rolePlayout := s.heir }) :=
  (if_neg (by simp [h])).trans (if_neg (by unfold State.heir at hruns; simp [hruns]))

theorem roleTakeover_of_no_heir (h : s.dyn.island.takeover = true) (hruns : s.pairRuns s.heir = false) :
    exec .roleTakeover s = .next (s.modIsland fun i => { i with takeover := false }) :=
  (if_neg (by simp [h])).trans (if_pos (by unfold State.heir at hruns; simp [hruns]))

/-! INPUT_TOKEN and ASYNC_EVENT_TAKE (R432 to R434) -/

/-- An asynchronous event waits for both copies, 4,096 instructions after the larger retire count. -/
def PairDyn.stamped (kind : IslandInput) (payload : BitVec 64) (y : PairDyn) : PairDyn :=
  { y with events := y.events ++ [{ kind := kind, payload := payload, takeAt := max y.retiredA y.retiredB + 4096 }] }

theorem inputToken_of_stopped (h : ¬ s.someCopyRuns pair = true) : exec (.inputToken pair kind a b) s = .next s :=
  if_pos (by simpa using h)

section Input

variable (h : s.someCopyRuns pair = true)
include h

theorem inputToken_of_differs (hhalves : a ≠ b) : exec (.inputToken pair kind a b) s = .next (fence pair 4 0 s) :=
  (if_neg (by simp [h])).trans (if_pos hhalves)

theorem inputToken_of_read : exec (.inputToken pair .readPort a a) s =
    .next (deliver pair (some (bytesOf 8 a.toNat)) s) :=
  (if_neg (by simp [h])).trans ((if_neg (not_not.mpr rfl)).trans (if_pos rfl))

theorem inputToken_of_event (hkind : kind ≠ .readPort) :
    exec (.inputToken pair kind a a) s = .next (s.modPair pair (.stamped kind a)) :=
  (if_neg (by simp [h])).trans ((if_neg (not_not.mpr rfl)).trans (if_neg hkind))

end Input

/-- The oldest event is handed to both copies, which then stand before its instruction at least. -/
def PairDyn.tookEvent (e : InEvent) (rest : List InEvent) (y : PairDyn) : PairDyn :=
  { y with
    events := rest, inputs := some (bytesOf 8 e.payload.toNat) :: y.inputs,
    retiredA := max y.retiredA (e.takeAt - 1), retiredB := max y.retiredB (e.takeAt - 1) }

theorem asyncEventTake_of_none (h : (s.pair pair).events = []) : exec (.asyncEventTake pair) s = .next s := by
  change execAsyncEventTake pair s = .next s
  simp only [execAsyncEventTake, h]

section Event

variable {e : InEvent} {rest : List InEvent} (h : (s.pair pair).events = e :: rest)
include h

theorem asyncEventTake_of_event : exec (.asyncEventTake pair) s =
    if !s.someCopyRuns pair then .next s else .next (s.modPair pair (.tookEvent e rest)) := by
  change execAsyncEventTake pair s = _
  simp only [execAsyncEventTake, h]
  rfl

theorem asyncEventTake_of_runs (hruns : s.someCopyRuns pair = true) :
    exec (.asyncEventTake pair) s = .next (s.modPair pair (.tookEvent e rest)) :=
  (asyncEventTake_of_event h).trans (if_neg (by simp [hruns]))

end Event

theorem asyncEventTake_of_idle (h : (s.pair pair).events = [] ∨ ¬ s.someCopyRuns pair = true) :
    exec (.asyncEventTake pair) s = .next s := by
  cases hevents : (s.pair pair).events with
  | nil => exact asyncEventTake_of_none hevents
  | cons e rest =>
    have stopped := h.resolve_left (by rw [hevents]; nofun)
    exact (asyncEventTake_of_event hevents).trans (if_pos (by simpa using stopped))

/-! READ_PORT_READ (R421, R434) -/

/-- The line of a read, after the disturbance that it meets in DRAM. -/
def State.lineMet (pa : BitVec 48) (flips : BitVec 544) (s : State) : State :=
  if inDram pa.toNat then flipLine (pa.toNat / 64) flips s else s

/-- The oldest read of a pair is made, and its line handed to both copies. -/
def State.lineRead (pair : Fin 2) (pa : BitVec 48) (s : State) : State :=
  deliver pair (readPort pa.toNat false s).2 (readPort pa.toNat false s).1

section Read

variable {x : BitVec 48} {rest : List (BitVec 48)} (h : (s.pair pair).reads = x :: rest)
include h

theorem readPortRead_of_read : exec (.readPortRead pair pa flips) s =
    if !s.someCopyRuns pair || x ≠ pa then .next s
    else .next (((s.modPair pair fun y => { y with reads := rest }).lineMet pa flips).lineRead pair pa) := by
  change execReadPortRead pair pa flips s = _
  simp only [execReadPortRead, h]
  rfl

end Read

theorem readPortRead_of_oldest {rest : List (BitVec 48)} (hruns : s.someCopyRuns pair = true)
    (h : (s.pair pair).reads = pa :: rest) : exec (.readPortRead pair pa flips) s =
      .next (((s.modPair pair fun y => { y with reads := rest }).lineMet pa flips).lineRead pair pa) :=
  (readPortRead_of_read h).trans (if_neg (by simp [hruns]))

theorem readPortRead_of_other (h : s.someCopyRuns pair = false ∨ (s.pair pair).reads.head? ≠ some pa) :
    exec (.readPortRead pair pa flips) s = .next s := by
  cases hreads : (s.pair pair).reads with
  | nil =>
    change execReadPortRead pair pa flips s = .next s
    simp only [execReadPortRead, hreads]
  | cons x rest =>
    rw [hreads, List.head?_cons, Ne, Option.some_inj] at h
    exact (readPortRead_of_read hreads).trans (if_pos (by simpa using h))

/-! The debug port (R437, R438) -/

/-- The debug port is open, and the pair runs. -/
def State.mayDebug (s : State) (pair : Fin 2) : Prop := s.debugOpen = true ∧ s.pairRuns pair = true

theorem mayDebug_iff : s.mayDebug pair ↔ ¬ (!s.debugOpen || !s.pairRuns pair) = true := by simp [State.mayDebug]

/-- What a debug event does on a pair that may be debugged and is in the state that it asks for. -/
theorem debug_of_refused {x : Bool} {y : Host.Outcome State Fault Refusal} (h : ¬ s.mayDebug pair ∨ x = true) :
    (if !s.debugOpen || !s.pairRuns pair || x then .next s else y) = .next s := by
  refine if_pos ?_
  rcases h with hclosed | hx
  · rw [not_not.mp (mt mayDebug_iff.mpr hclosed), Bool.true_or]
  · rw [hx, Bool.or_true]

theorem debug_of_allowed {x : Bool} {y : Host.Outcome State Fault Refusal} (h : s.mayDebug pair) (hx : x = false) :
    (if !s.debugOpen || !s.pairRuns pair || x then .next s else y) = y := by
  obtain ⟨hopen, hruns⟩ := h
  exact if_neg (by simp [hopen, hruns, hx])

theorem debugHalt_of_running (h : s.mayDebug pair) (hhalted : (s.pair pair).halted = none) :
    exec (.debugHalt pair ca cb) s = .next (debugCounts pair ca cb s) :=
  debug_of_allowed h (by rw [hhalted]; rfl)

theorem debugHalt_of_refused (h : ¬ s.mayDebug pair ∨ (s.pair pair).halted ≠ none) :
    exec (.debugHalt pair ca cb) s = .next s := debug_of_refused (h.imp_right Option.isSome_iff_ne_none.mpr)

theorem debugStep_of_halted (h : s.mayDebug pair) (hhalted : (s.pair pair).halted ≠ none) :
    exec (.debugStep pair ca cb) s = .next (debugCounts pair ca cb s) :=
  debug_of_allowed h (Bool.eq_false_iff.mpr (mt Option.isNone_iff_eq_none.mp hhalted))

theorem debugStep_of_refused (h : ¬ s.mayDebug pair ∨ (s.pair pair).halted = none) :
    exec (.debugStep pair ca cb) s = .next s := debug_of_refused (h.imp_right Option.isNone_iff_eq_none.mpr)

/-- A queue of waiting tokens as a halt since `t0` leaves it: none of them ages over the halt. -/
def TokenQueue.shifted (t0 now : Nat) (q : TokenQueue) : TokenQueue :=
  { q with toks := q.toks.map fun x => (x.1, if x.2 ≤ t0 then x.2 + (now - t0) else now) }

/-- A pair that resumes from a halt since `t0`. -/
def PairDyn.resumed (t0 now : Nat) (y : PairDyn) : PairDyn :=
  { y with halted := none, chans := tabMap {} (fun _ q => q.shifted t0 now) y.chans }

theorem debugResume_of_running (h : (s.pair pair).halted = none) : exec (.debugResume pair) s = .next s := by
  change execDebugResume pair s = .next s
  simp only [execDebugResume, h]

section Resume

variable {t0 : Nat} (h : (s.pair pair).halted = some t0)
include h

theorem debugResume_of_halted : exec (.debugResume pair) s =
    if !s.debugOpen || !s.pairRuns pair then .next s else .next (s.modPair pair (.resumed t0 s.island16)) := by
  change execDebugResume pair s = _
  simp only [execDebugResume, h]
  rfl

theorem debugResume_of_allowed (hmay : s.mayDebug pair) :
    exec (.debugResume pair) s = .next (s.modPair pair (.resumed t0 s.island16)) :=
  (debugResume_of_halted h).trans (if_neg (mayDebug_iff.mp hmay))

end Resume

theorem debugResume_of_refused (h : ¬ s.mayDebug pair ∨ (s.pair pair).halted = none) :
    exec (.debugResume pair) s = .next s := by
  cases hhalted : (s.pair pair).halted with
  | none => exact debugResume_of_running hhalted
  | some t0 =>
    have closed := h.resolve_right (by rw [hhalted]; nofun)
    exact (debugResume_of_halted hhalted).trans (if_pos (not_not.mp (mt mayDebug_iff.mpr closed)))

theorem debugAccess_of_refused {w : Bool} (h : ¬ s.mayDebug pair) : exec (.debugAccess pair w addr a b) s = .next s :=
  if_pos (not_not.mp (mt mayDebug_iff.mpr h))

section Access

variable (h : s.mayDebug pair)
include h

theorem debugAccess_of_write : exec (.debugAccess pair true addr a b) s =
    .next (deliver pair (some (bytesOf 8 a.toNat))
      (s.modIsland fun i => { i with watchdogOff := Config.debugWatchdog addr a i.watchdogOff })) :=
  (if_neg (mayDebug_iff.mp h)).trans (if_pos rfl)

theorem debugAccess_of_agreed (hagree : a = b ∨ s.dyn.island.split = true) : exec (.debugAccess pair false addr a b) s =
    .next (s.modPair pair fun y => { y with debugRead := some (some a) }) :=
  (if_neg (mayDebug_iff.mp h)).trans ((if_neg Bool.false_ne_true).trans (if_pos hagree))

theorem debugAccess_of_differs (hdiffer : a ≠ b) (hsplit : s.dyn.island.split = false) :
    exec (.debugAccess pair false addr a b) s =
      .next (fence pair 1 4 (s.modPair pair fun y => { y with debugRead := some none })) :=
  (if_neg (mayDebug_iff.mp h)).trans ((if_neg Bool.false_ne_true).trans
    (if_neg (not_or.mpr ⟨hdiffer, ne_true_of_eq_false hsplit⟩)))

end Access

/-- Settles O53: each event asks whether its pair, or a copy of it, runs, and then its own condition. That an event not due
changes nothing is the model's (log 2). -/
theorem pairsCompareAndAreFenced : Obligations.PairsCompareAndAreFenced :=
  ⟨fun _ _ _ _ _ => ⟨tokenProduce_of_ignored, tokenProduce_of_split, tokenProduce_of_lockstep,
      fun _ _ h => ⟨skewTime_of_late h, skewTime_of_not_late h⟩, skewTime_of_none, beatWrite_of_runs, beatWrite_of_stopped,
      beatWatchdog_of_silent, beatWatchdog_of_heard⟩,
    fun _ => ⟨roleTakeover_of_none, roleTakeover_of_heir, roleTakeover_of_no_heir⟩,
    fun _ _ _ _ _ => ⟨inputToken_of_stopped, inputToken_of_differs, inputToken_of_read, inputToken_of_event,
      asyncEventTake_of_idle, fun _ _ hruns h => asyncEventTake_of_runs h hruns⟩,
    fun _ _ _ _ => ⟨readPortRead_of_other, fun _ => readPortRead_of_oldest⟩,
    fun _ _ _ _ => ⟨debugHalt_of_running, debugHalt_of_refused, debugStep_of_halted, debugStep_of_refused,
      debugResume_of_refused, fun _ hmay h => debugResume_of_allowed h hmay⟩,
    fun _ _ _ _ _ => ⟨fun _ => debugAccess_of_refused, debugAccess_of_write, debugAccess_of_agreed, debugAccess_of_differs⟩⟩

end Sys2Proof.Machine
end

section
/-! PROOFS. The island's start and reset, its weather window, the heartbeat deadline and the playout of the mooring plan (R420,
R436 to R441, R461, R462). -/

namespace Sys2Proof.Machine

variable {s : State} {facts : IslandFacts} {one : Bool} {pace tj : BitVec 16} {d i k last : Nat} {p : Plan} {e : PlanEntry}
  {channel : BitVec 2} {stream : BitVec 5}

/-! ISLAND_START and ISL_RESET (R436, R439 to R441) -/

/-- The licence that the island starts with: a token stored since is read only while the fabric is without power (R8). -/
def State.startLicence (s : State) : Option Licence :=
  if s.dyn.power.corePwrgd then s.dyn.bring.islandLicence
  else takeToken s.dyn.bring.fuses.uid s.dyn.bring.islandToken0 s.dyn.bring.islandToken1

/-- The island starts in split mode: its licence is of the grade PV3236-D. -/
def State.startSplit (s : State) : Bool := match s.startLicence with
  | some l => l.grade.toNat == gradeD
  | none => false

/-- The time that the island starts from. -/
def State.startTime (s : State) : Nat := if s.dyn.time.tcxoFault then s.dyn.island.time else s.dyn.time.wc

/-- The island has its licence, its monitors start again and its Gauges are free. -/
def State.restarted (s : State) : State :=
  clearGauges ((s.modBring fun b => { b with islandLicence := s.startLicence }).modSafety Safety.restart)

/-- The image slot that the island takes. -/
def State.startSlot (s : State) : Option Bool := takeImage s.dyn.bring.islandSlot0 s.dyn.bring.islandSlot1 0

/-- A pair after its start test. -/
def State.startPair (fails : Option (Fin 7)) (s : State) : PairDyn := testedPair s.startSplit fails (t16 s.startTime)

/-- The island that has taken the image of slot `one` and tested its pairs. -/
def State.booted (facts : IslandFacts) (one : Bool) (s : State) : Island :=
  let img := if one then s.dyn.bring.islandSlot1 else s.dyn.bring.islandSlot0
  let h0 := (s.startPair facts.pair0Fails).state == .healthy
  let h1 := (s.startPair facts.pair1Fails).state == .healthy
  { powered := true, operational := h0 || h1, split := s.startSplit, pair0 := s.startPair facts.pair0Fails,
    pair1 := s.startPair facts.pair1Fails, roleMonitor := if h0 then 0 else 1, rolePlayout := if h1 then 1 else 0,
    time := s.startTime, disciplined := !s.dyn.time.tcxoFault, imageSlot := one, fwVersion := fld img.header 0 32,
    digest := img.digest }

theorem islandStart_of_operational (h : s.dyn.island.operational = true) : exec (.islandStart facts) s = .next s := if_pos h

theorem islandStart_of_no_image (h : s.dyn.island.operational = false) (hslot : s.startSlot = none) :
    exec (.islandStart facts) s = .next (s.restarted.modIsland fun _ =>
      { powered := true, split := s.startSplit, time := s.startTime, disciplined := !s.dyn.time.tcxoFault }) := by
  unfold State.startSlot at hslot
  refine (if_neg (ne_true_of_eq_false h)).trans ?_
  simp only [hslot]
  rfl

theorem islandStart_of_image (h : s.dyn.island.operational = false) (hslot : s.startSlot = some one) :
    exec (.islandStart facts) s = .next (s.restarted.modIsland fun _ => s.booted facts one) := by
  unfold State.startSlot at hslot
  refine (if_neg (ne_true_of_eq_false h)).trans ?_
  simp only [hslot]
  rfl

theorem booted_operational : (s.booted facts one).operational = true ↔
    (s.startPair facts.pair0Fails).state = .healthy ∨ (s.startPair facts.pair1Fails).state = .healthy := by
  simp only [State.booted, Bool.or_eq_true, beq_iff_eq]

theorem booted_roleMonitor : (s.booted facts one).roleMonitor =
    if (s.startPair facts.pair0Fails).state = .healthy then 0 else 1 := by
  simp only [State.booted, beq_iff_eq]

theorem booted_rolePlayout : (s.booted facts one).rolePlayout =
    if (s.startPair facts.pair1Fails).state = .healthy then 1 else 0 := by
  simp only [State.booted, beq_iff_eq]

theorem islReset_of_unpowered (h : s.dyn.island.powered = false) : exec .islReset s = .next s := if_pos (by simp [h])

theorem islReset_of_powered (h : s.dyn.island.powered = true) : exec .islReset s = .next (stopIsland true s) :=
  if_neg (by simp [h])

/-! ISLAND_WEATHER_WINDOW (R420) -/

/-- The island keeps what its station measured, and counts the windows in a row below 500 and at or above it. -/
def State.paced (pace tj : BitVec 16) (s : State) : State :=
  s.modIsland fun i =>
    { i with
      pace := pace, tj := tj, lowRun := if pace.toNat < 500 then i.lowRun + 1 else 0,
      okRun := if pace.toNat < 500 then 0 else i.okRun + 1 }

theorem islandWeatherWindow_of_unpowered (h : s.dyn.island.powered = false) :
    exec (.islandWeatherWindow pace tj) s = .next s := if_pos (by simp [h])

theorem islandWeatherWindow_of_powered (h : s.dyn.island.powered = true) : exec (.islandWeatherWindow pace tj) s =
    if 2 ≤ (s.paced pace tj).dyn.island.lowRun then
      .next (raiseDoubt 9 ((s.paced pace tj).modIsland fun i => { i with paceLow := true }))
    else .next (settle (s.paced pace tj)) := by
  refine (if_neg (by simp [h])).trans ?_
  simp only [decide_eq_true_eq]
  rfl

theorem paced_lowRun : (s.paced pace tj).dyn.island.lowRun = if pace.toNat < 500 then s.dyn.island.lowRun + 1 else 0 := rfl

theorem islandWeatherWindow_raises (h : s.dyn.island.powered = true) (hlow : pace.toNat < 500)
    (hrun : 1 ≤ s.dyn.island.lowRun) : exec (.islandWeatherWindow pace tj) s =
      .next (raiseDoubt 9 ((s.paced pace tj).modIsland fun i => { i with paceLow := true })) := by
  rw [islandWeatherWindow_of_powered h, paced_lowRun, if_pos hlow, if_pos (by omega)]

theorem islandWeatherWindow_settles (h : s.dyn.island.powered = true)
    (hrun : ¬ pace.toNat < 500 ∨ s.dyn.island.lowRun = 0) :
    exec (.islandWeatherWindow pace tj) s = .next (settle (s.paced pace tj)) := by
  rw [islandWeatherWindow_of_powered h, paced_lowRun]
  rcases hrun with hfast | hfirst
  · rw [if_neg hfast, if_neg (by omega)]
  · rw [hfirst, if_neg (by split <;> omega)]

/-! HEARTBEAT_DEADLINE (R462) -/

theorem heartbeatDeadline_of_none (h : s.dyn.safety.hbDeadline = none) : exec .heartbeatDeadline s = .next s := by
  change execHeartbeatDeadline s = .next s
  simp only [execHeartbeatDeadline, h]

theorem heartbeatDeadline_of_some (h : s.dyn.safety.hbDeadline = some d) : exec .heartbeatDeadline s =
    if s.island16 ≤ d then .next s
    else .next (raiseDoubt 8 (s.modSafety fun f => { f with hbDeadline := none, hbInTurn := 0 })) := by
  change execHeartbeatDeadline s = _
  simp only [execHeartbeatDeadline, h]

theorem heartbeatDeadline_of_passed (h : s.dyn.safety.hbDeadline = some d) (hpast : d < s.island16) :
    exec .heartbeatDeadline s = .next (raiseDoubt 8 (s.modSafety fun f => { f with hbDeadline := none, hbInTurn := 0 })) := by
  rw [heartbeatDeadline_of_some h, if_neg (by omega)]

theorem heartbeatDeadline_of_waits (h : ∀ d, s.dyn.safety.hbDeadline = some d → s.island16 ≤ d) :
    exec .heartbeatDeadline s = .next s := by
  cases hd : s.dyn.safety.hbDeadline with
  | none => exact heartbeatDeadline_of_none hd
  | some d => rw [heartbeatDeadline_of_some hd, if_pos (h d hd)]

/-! PLAYOUT_START (R461) -/

/-- Playout begins: the latch is set, it has not begun and has not found itself without a plan, and a pair can play. -/
def State.playoutStarts (s : State) : Prop :=
  s.dyn.safety.latch = true ∧ s.dyn.safety.playing = false ∧ s.dyn.safety.noPlan = false ∧ s.canPlay = true

theorem playoutStarts_iff : s.playoutStarts ↔
    ¬ (!s.dyn.safety.latch || s.dyn.safety.playing || s.dyn.safety.noPlan || !s.canPlay) = true := by
  simp [State.playoutStarts, and_assoc]

/-- Playout has found no plan to play. -/
def State.withoutPlan (s : State) : State := s.modSafety fun f => { f with noPlan := true }

/-- The entries of a plan up to a time. -/
def Plan.past (p : Plan) (time : Nat) : List Nat :=
  (upFrom 0 p.entries.length).filter fun i => match p.entries[i]? with
    | some e => decide (p.at e ≤ time)
    | none => false

/-- The plan plays from the time that the latch was set; past entries but the latest of a stream count as sent. -/
def State.playsFrom (p : Plan) (s : State) : State :=
  s.modSafety fun f =>
    { f with
      playing := true, playPlan := some p, playFrom := s.dyn.safety.setAt, finals := [],
      playSent := (p.past s.dyn.safety.setAt).filter fun i => !p.latest s.dyn.safety.setAt i }

/-- The latest past entry of each stream is sent. -/
def State.playedPast (p : Plan) (s : State) : State :=
  ((p.past s.dyn.safety.setAt).filter fun i => p.latest s.dyn.safety.setAt i).foldl (fun s i => playEntry p i s) (s.playsFrom p)

theorem playoutStart_of_not_starts (h : ¬ s.playoutStarts) : exec .playoutStart s = .next s :=
  if_pos (not_not.mp (mt playoutStarts_iff.mpr h))

section Starts

variable (h : s.playoutStarts)
include h

theorem playoutStart_of_no_plan (hplan : s.dyn.safety.activePlan = none) : exec .playoutStart s = .next s.withoutPlan := by
  refine (if_neg (playoutStarts_iff.mp h)).trans ?_
  simp only [hplan]
  rfl

variable (hplan : s.dyn.safety.activePlan = some p)
include hplan

theorem playoutStart_of_plan : exec .playoutStart s =
    if p.validity + p.horizon.toNat * us16 ≤ s.dyn.safety.setAt then .next s.withoutPlan else .next (s.playedPast p) := by
  refine (if_neg (playoutStarts_iff.mp h)).trans ?_
  simp only [hplan]
  rfl

theorem playoutStart_of_over (hover : p.validity + p.horizon.toNat * us16 ≤ s.dyn.safety.setAt) :
    exec .playoutStart s = .next s.withoutPlan := (playoutStart_of_plan h hplan).trans (if_pos hover)

theorem playoutStart_of_within (hwithin : s.dyn.safety.setAt < p.validity + p.horizon.toNat * us16) :
    exec .playoutStart s = .next (s.playedPast p) := (playoutStart_of_plan h hplan).trans (if_neg (not_le.mpr hwithin))

end Starts

/-! PLAN_ENTRY_SEND and FINAL_REPEAT (R461) -/

/-- Playout runs, a pair can play, and the time `t` has come. -/
def State.playsAt (s : State) (t : Nat) : Prop := s.dyn.safety.playing = true ∧ s.canPlay = true ∧ t ≤ s.island16

theorem playsAt_iff {t : Nat} : s.playsAt t ↔ ¬ (!s.dyn.safety.playing || !s.canPlay || s.island16 < t) = true := by
  simp [State.playsAt, and_assoc]

/-- Entry `i` of the plan that plays is to be sent now: its time has come, and it has not been sent. -/
def State.sendsEntry (s : State) (p : Plan) (e : PlanEntry) (i : Nat) : Prop :=
  s.dyn.safety.playing = true ∧ s.canPlay = true ∧ p.at e ≤ s.island16 ∧ i ∉ s.dyn.safety.playSent

theorem sendsEntry_iff : s.sendsEntry p e i ↔ ¬ (!s.dyn.safety.playing || !s.canPlay || s.island16 < p.at e
    || s.dyn.safety.playSent.contains i) = true := by
  simp [State.sendsEntry, and_assoc]

section Entry

variable (hplan : s.dyn.safety.playPlan = some p) (hentry : p.entries[i]? = some e)
include hplan hentry

theorem planEntrySend_of_entry : exec (.planEntrySend i) s =
    if !s.dyn.safety.playing || !s.canPlay || s.island16 < p.at e || s.dyn.safety.playSent.contains i then .next s
    else .next (playEntry p i s) := by
  change execPlanEntrySend i s = _
  simp only [execPlanEntrySend, hplan, hentry]

theorem planEntrySend_of_due (h : s.sendsEntry p e i) : exec (.planEntrySend i) s = .next (playEntry p i s) :=
  (planEntrySend_of_entry hplan hentry).trans (if_neg (sendsEntry_iff.mp h))

theorem planEntrySend_of_not_due (h : ¬ s.sendsEntry p e i) : exec (.planEntrySend i) s = .next s :=
  (planEntrySend_of_entry hplan hentry).trans (if_pos (not_not.mp (mt sendsEntry_iff.mpr h)))

end Entry

theorem planEntrySend_of_no_entry (h : ∀ p, s.dyn.safety.playPlan = some p → p.entries[i]? = none) :
    exec (.planEntrySend i) s = .next s := by
  change execPlanEntrySend i s = .next s
  cases hplan : s.dyn.safety.playPlan with
  | none => simp only [execPlanEntrySend, hplan]
  | some p => simp only [execPlanEntrySend, hplan, h p hplan]

/-- The number of a stream of a channel in the table of finals. -/
def streamKey (channel : BitVec 2) (stream : BitVec 5) : Nat := channel.toNat * 32 + stream.toNat

/-- The final entry of a stream. -/
def Plan.finalOf (p : Plan) (channel : BitVec 2) (stream : BitVec 5) : Option PlanEntry :=
  p.entries.find? fun e => e.final && e.channel == channel && e.stream == stream

/-- A final entry is sent again. -/
def State.repeated (k : Nat) (e : PlanEntry) (s : State) : State :=
  (sendEntry e s).modSafety fun f => { f with finals := tabPut none f.finals k (some s.island16) }

theorem finalRepeat_of_none
    (h : s.dyn.safety.playPlan = none ∨ tabGet none s.dyn.safety.finals (streamKey channel stream) = none) :
    exec (.finalRepeat channel stream) s = .next s := by
  change execFinalRepeat channel stream s = .next s
  unfold streamKey at h
  unfold execFinalRepeat
  rcases h with hplan | hfinal
  · simp only [hplan]
  · simp only [hfinal]
    cases s.dyn.safety.playPlan <;> rfl

section Final

variable (hplan : s.dyn.safety.playPlan = some p)
  (hlast : tabGet none s.dyn.safety.finals (streamKey channel stream) = some last)
include hplan hlast

theorem finalRepeat_of_no_entry (hentry : p.finalOf channel stream = none) :
    exec (.finalRepeat channel stream) s = .next s := by
  change execFinalRepeat channel stream s = .next s
  unfold streamKey at hlast
  unfold Plan.finalOf at hentry
  simp only [execFinalRepeat, hplan, hlast, hentry]

variable (hentry : p.finalOf channel stream = some e)
include hentry

theorem finalRepeat_of_entry : exec (.finalRepeat channel stream) s =
    if !s.dyn.safety.playing || !s.canPlay || s.island16 < last + e.repeatMs.toNat * 1000 * us16 then .next s
    else .next (s.repeated (streamKey channel stream) e) := by
  change execFinalRepeat channel stream s = _
  unfold streamKey at hlast
  unfold Plan.finalOf at hentry
  simp only [execFinalRepeat, hplan, hlast, hentry]
  rfl

theorem finalRepeat_of_due (h : s.playsAt (last + e.repeatMs.toNat * 1000 * us16)) :
    exec (.finalRepeat channel stream) s = .next (s.repeated (streamKey channel stream) e) :=
  (finalRepeat_of_entry hplan hlast hentry).trans (if_neg (playsAt_iff.mp h))

theorem finalRepeat_of_not_due (h : ¬ s.playsAt (last + e.repeatMs.toNat * 1000 * us16)) :
    exec (.finalRepeat channel stream) s = .next s :=
  (finalRepeat_of_entry hplan hlast hentry).trans (if_pos (not_not.mp (mt playsAt_iff.mpr h)))

end Final

end Sys2Proof.Machine
end

section
/-! PROOFS. Setpoint classes (R536 to R540): the read point 200 us before a slot, and the frame that leaves at it. -/

namespace Sys2Proof.Machine

variable {s v : State} {cls : Fin 16} {frame : List Byte} {age : Nat}

/-! SETPOINT_READ_POINT (R537) -/

/-- The slot that a read point is for. -/
def State.slotAhead (s : State) : Nat := s.nowUs + 200

/-- The class is read now: it is valid in a running fabric, its slot is 200 us ahead, and it has not been read for it. -/
def State.readsPoint (s : State) (cls : Nat) : Prop :=
  s.fabricUp = true ∧ (s.spClass cls).valid = true ∧ (s.spClass cls).period ≠ 0
    ∧ s.slotAhead % (s.spClass cls).period = (s.spClass cls).phase ∧ (s.spClass cls).readFor ≠ some s.slotAhead

theorem readsPoint_iff {cls : Nat} : s.readsPoint cls ↔ ¬ (!s.fabricUp || !(s.spClass cls).valid || (s.spClass cls).period = 0
    || s.slotAhead % (s.spClass cls).period ≠ (s.spClass cls).phase || (s.spClass cls).readFor = some s.slotAhead) = true := by
  simp [State.readsPoint, and_assoc]

/-- The class has no frame, and its read point for the slot is taken. -/
def State.pointTaken (cls : Nat) (s : State) : State :=
  s.modClass cls fun c => { c with readFor := some s.slotAhead, built := none }

/-- The class counts a fault. -/
def State.classFault (cls : Nat) (s : State) : State := s.modClass cls fun c => { c with faults := satInc c.faults }

/-- What the judgement of a trajectory leaves in its class. -/
def State.pointJudged (cls : Nat) (s : State) : PointVerdict → State
  | .fault => s.classFault cls
  | .stale => s.modClass cls fun c => { c with stale := satInc c.stale }
  | .noPoint => s.modClass cls fun c => { c with noPoint := satInc c.noPoint }
  | .frame e age => s.modClass cls fun c =>
      { c with built := some (c.frameOf e age, age), count := if c.insert then c.count + 1 else c.count }

/-- What the read of the trajectory of a class `c` leads to. -/
def pointOfRead (cls : Nat) (c : SetpointClass) (slot : Nat) : State × Option (List Byte × List PlanEntry) → State
  | (s, none) => s.classFault cls
  | (s, some (head, es)) => s.pointJudged cls (judgePoint c (slot * us16) head es)

theorem setpointReadPoint_of_not_due (h : ¬ s.readsPoint cls) : exec (.setpointReadPoint cls) s = .next s :=
  if_pos (not_not.mp (mt readsPoint_iff.mpr h))

theorem setpointReadPoint_of_due (h : s.readsPoint cls) {x : State × Option (List Byte × List PlanEntry)}
    (hread : readTrajectory (s.spClass cls) (s.pointTaken cls) = x) :
    exec (.setpointReadPoint cls) s = .next (pointOfRead cls (s.spClass cls) s.slotAhead x) := by
  unfold State.pointTaken State.slotAhead at hread
  refine (if_neg (readsPoint_iff.mp h)).trans ?_
  simp only [hread]
  obtain ⟨v, _ | ⟨head, es⟩⟩ := x
  · rfl
  · cases hverdict : judgePoint (s.spClass cls) ((s.nowUs + 200) * us16) head es <;>
      simp only [pointOfRead, State.slotAhead, State.pointJudged, State.classFault, hverdict]

/-! SETPOINT_SLOT (R537, R540) -/

/-- A frame built for the slot of now leaves: its class is valid in a running fabric. -/
def State.leavesNow (s : State) (cls : Nat) : Prop :=
  s.fabricUp = true ∧ (s.spClass cls).valid = true ∧ (s.spClass cls).readFor = some s.nowUs

theorem leavesNow_iff {cls : Nat} : s.leavesNow cls ↔
    ¬ (!s.fabricUp || !(s.spClass cls).valid || (s.spClass cls).readFor ≠ some s.nowUs) = true := by
  simp [State.leavesNow, and_assoc]

/-- The frame of the class is taken from it. -/
def State.unbuilt (cls : Nat) (s : State) : State := s.modClass cls fun c => { c with built := none }

/-- The frame leaves on its channel, and the class notes it. -/
def State.frameSent (cls channel : Nat) (frame : List Byte) (age : Nat) (s : State) : State :=
  (s.modGateway fun g => { g with sent := (channel, frame, s.now16) :: g.sent }).modClass cls fun c =>
    { c with sent := satInc c.sent, lastAge := BitVec.ofNat 32 age, lastPin := s.now16 }

theorem setpointSlot_of_none (h : (s.spClass cls).built = none) : exec (.setpointSlot cls) s = .next s := by
  change execSetpointSlot cls s = .next s
  simp only [execSetpointSlot, h]

section Built

variable (h : (s.spClass cls).built = some (frame, age))
include h

theorem setpointSlot_of_not_due (hnow : ¬ s.leavesNow cls) : exec (.setpointSlot cls) s = .next s := by
  change execSetpointSlot cls s = .next s
  simp only [execSetpointSlot, h]
  exact if_pos (not_not.mp (mt leavesNow_iff.mpr hnow))

variable (hnow : s.leavesNow cls)
include hnow

theorem setpointSlot_of_due : exec (.setpointSlot cls) s =
    if (s.unbuilt cls).gateClosed then .next ((s.unbuilt cls).modClass cls fun c => { c with gated := satInc c.gated })
    else if ((s.unbuilt cls).channel (s.spClass cls).channel).dead (s.spClass cls).channel then
      .next ((s.unbuilt cls).classFault cls)
    else .next ((s.unbuilt cls).frameSent cls (s.spClass cls).channel frame age) := by
  change execSetpointSlot cls s = _
  simp only [execSetpointSlot, h]
  exact if_neg (leavesNow_iff.mp hnow)

theorem setpointSlot_of_gated (hgate : (s.unbuilt cls).gateClosed = true) : exec (.setpointSlot cls) s =
    .next ((s.unbuilt cls).modClass cls fun c => { c with gated := satInc c.gated }) :=
  (setpointSlot_of_due h hnow).trans (if_pos hgate)

variable (hgate : (s.unbuilt cls).gateClosed = false)
include hgate

theorem setpointSlot_of_dead
    (hdead : ((s.unbuilt cls).channel (s.spClass cls).channel).dead (s.spClass cls).channel = true) :
    exec (.setpointSlot cls) s = .next ((s.unbuilt cls).classFault cls) :=
  (setpointSlot_of_due h hnow).trans ((if_neg (ne_true_of_eq_false hgate)).trans (if_pos hdead))

theorem setpointSlot_of_sent
    (hdead : ((s.unbuilt cls).channel (s.spClass cls).channel).dead (s.spClass cls).channel = false) :
    exec (.setpointSlot cls) s = .next ((s.unbuilt cls).frameSent cls (s.spClass cls).channel frame age) :=
  (setpointSlot_of_due h hnow).trans
    ((if_neg (ne_true_of_eq_false hgate)).trans (if_neg (ne_true_of_eq_false hdead)))

end Built

/-- Settles O54: each event asks its conditions one after another, and every clause is one answer. The model's readings: an event
not due changes nothing (log 2), the stored token is used only before CORE_PWRGD (log 174), the Gauges are free after the
island's start (log 123), and a dead channel counts in FAULTS (log 200). -/
theorem theIslandStartsPlaysAndSends : Obligations.TheIslandStartsPlaysAndSends := by
  refine ⟨fun facts s => ⟨islandStart_of_operational, islandStart_of_no_image, fun one h hslot => ?boots,
      islReset_of_unpowered, islReset_of_powered⟩,
    fun pace tj s => ⟨islandWeatherWindow_of_unpowered, islandWeatherWindow_raises, islandWeatherWindow_settles⟩,
    fun s => ⟨fun d => heartbeatDeadline_of_passed, heartbeatDeadline_of_waits⟩,
    fun s => ⟨playoutStart_of_not_starts, playoutStart_of_no_plan, fun p => playoutStart_of_over,
      fun p => playoutStart_of_within⟩,
    fun i s => ⟨fun p e hplan hentry => ⟨planEntrySend_of_due hplan hentry, planEntrySend_of_not_due hplan hentry⟩,
      planEntrySend_of_no_entry⟩,
    fun channel stream s => ⟨finalRepeat_of_none, fun p last hplan hlast => ⟨finalRepeat_of_no_entry hplan hlast,
      fun e hentry => ⟨finalRepeat_of_due hplan hlast hentry, finalRepeat_of_not_due hplan hlast hentry⟩⟩⟩,
    fun cls s => ⟨setpointReadPoint_of_not_due, fun v h => setpointReadPoint_of_due h, fun v head es h hread => ?judged,
      fun frame age h => ⟨setpointSlot_of_not_due h, setpointSlot_of_gated h, setpointSlot_of_dead h, setpointSlot_of_sent h⟩,
      setpointSlot_of_none⟩⟩
  case boots =>
    exact ⟨_, islandStart_of_image h hslot, booted_operational, rfl, rfl, rfl, rfl, booted_roleMonitor, booted_rolePlayout, rfl⟩
  case judged =>
    rw [setpointReadPoint_of_due h hread]
    cases hverdict : judgePoint (s.spClass cls) ((s.nowUs + 200) * us16) head es <;>
      simp only [pointOfRead, State.slotAhead, State.pointJudged, State.classFault, hverdict]

end Sys2Proof.Machine
end

section
/-! PROOFS. The commands of the safety class: Gauges, soundings, self-tests, the heartbeat, the release and the mooring store (R444
to R446, R451, R452, R458, R460 to R464). -/

namespace Sys2Proof.Machine

variable {c : Cmd} {s s1 : State} {t : Ticket} {k : Shadow} {p : Params}

/-! GAUGE_SET, GAUGE_CLEAR and SOUNDING_SET (R446, R451, R463) -/

/-- The Gauge that the parameters spell, made by lock cycle `cycle`. -/
def gaugeOfParams (p : Params) (cycle : Nat) : GaugeCfg :=
  { valid := true, mooring := bitAt p 65, cls := fld p 80 16, deadline := fld p 96 32, stampVa := fld p 128 40, made := cycle }

/-- The deadline is out of range, or the fields are none that the kind takes. -/
def GaugeCfg.fieldsBad (g : GaugeCfg) : Bool :=
  g.deadline.toNat < 1000 || 10000000 < g.deadline.toNat
    || (if g.mooring then g.cls ≠ 0 || g.stampVa ≠ 0 else g.stampVa.toNat % 64 ≠ 0)

/-- The address of a Gauge's stamp line; a KIND 1 Gauge has none. -/
def Shadow.gaugeStamp (g : GaugeCfg) (k : Shadow) : Nat := if g.mooring then 0 else (k.stampAddr g.stampVa.toNat).getD 0

/-- The shadow with one Gauge written, with the address of its stamp. -/
def Shadow.withGauge (n : Nat) (g : GaugeCfg) (k : Shadow) : Shadow :=
  { k with gauges := tabPut {} k.gauges n { g with stampPa := BitVec.ofNat 48 (k.gaugeStamp g) } }

/-- The checks of GAUGE_SET. -/
def gaugeSetChecks (t : Ticket) (g : GaugeCfg) (k : Shadow) : List (Bool × Nat) :=
  [ (!t.fromSupervisor, 0x00F0), (g.fieldsBad, 0x00F1), (!g.mooring && (k.stampAddr g.stampVa.toNat).isNone, 0x00F2),
    (!(k.withGauge (fldN t.cmd.params 0 12) g).fttiOk, 0x00F3) ]

theorem ruleGaugeSet_eq : ruleGaugeSet s t k =
    (firstOf (gaugeSetChecks t (gaugeOfParams t.cmd.params (s.lock.number.toNat + 1)) k)).elim
      (.pass (k.withGauge (fldN t.cmd.params 0 12) (gaugeOfParams t.cmd.params (s.lock.number.toNat + 1))) noResult)
      fun st => .refuse st noResult := by
  simp only [gaugeSetChecks, firstOf_elim_cons, firstOf_elim_nil]
  rfl

theorem gaugeSet_settled (h : Admits opGaugeSet c s = true) : exec (.gaugeSet c) s = .next (settled opGaugeSet c
    (gaugeSetChecks (ticketOf opGaugeSet c s) (gaugeOfParams c.params (s.lock.number.toNat + 1)) s.lock.opn)
    (s.lock.opn.withGauge (fldN c.params 0 12) (gaugeOfParams c.params (s.lock.number.toNat + 1))) s) :=
  config_settled h (by rw [ruleGaugeSet_eq, admitted_lock, ticketOf_cmd])

theorem ruleGaugeClear_eq : ruleGaugeClear s t k =
    (firstOf [(!t.fromSupervisor, 0x00F0), (!(tabGet {} k.gauges (fldN t.cmd.params 0 12)).valid, 0x00F1)]).elim
      (.pass { k with gauges := tabPut {} k.gauges (fldN t.cmd.params 0 12) {} } noResult) fun st => .refuse st noResult := by
  simp only [firstOf_elim_cons, firstOf_elim_nil]
  rfl

/-- The shadow with the soundings configured. -/
def Shadow.withSounding (x : SoundingCfg) (k : Shadow) : Shadow := { k with sounding := x }

theorem ruleSoundingSet_eq : ruleSoundingSet s t k =
    (firstOf [ (!t.fromSupervisor, 0x00F0), (!soundingOk k (soundingOfParams t.cmd.params), 0x00F4),
      (!(k.withSounding (soundingOfParams t.cmd.params)).fttiOk, 0x00F3) ]).elim
      (.pass (k.withSounding (soundingOfParams t.cmd.params)) noResult) fun st => .refuse st noResult := by
  simp only [firstOf_elim_cons, firstOf_elim_nil]
  rfl

/-! SELF_TEST (R458) -/

section SelfTest

variable (hpath : t.fromSupervisor = true)

theorem actSelfTest_of_denied (hdenied : t.fromSupervisor = false) : actSelfTest t s = writeRecord t 0x00F0 noResult s :=
  if_pos (by simp [hdenied])

include hpath

theorem actSelfTest_of_supervisor : actSelfTest t s =
    if (decide (fldN t.cmd.params 0 8 = 0xFF) && !s.inService) = true then writeRecord t 0x0053 noResult s
    else if s.inService = true then
      if s.dyn.safety.slice.isNone = true then beginSelfTest t (fldN t.cmd.params 0 8) s
      else s.modSafety fun f => { f with serviceTests := f.serviceTests ++ [(t, fldN t.cmd.params 0 8)] }
    else if s.dyn.safety.roomForRequest = true then
      s.modSafety fun f => { f with requests := f.requests ++ [.selfTest t (fldN t.cmd.params 0 8)] }
    else writeRecord t 0x00F8 noResult s := by
  rw [actSelfTest, hpath, Bool.not_true, if_neg Bool.false_ne_true]

theorem actSelfTest_of_whole (hservice : s.inService = false) (hall : fldN t.cmd.params 0 8 = 0xFF) :
    actSelfTest t s = writeRecord t 0x0053 noResult s := by
  rw [actSelfTest_of_supervisor hpath, if_pos (by simp [hservice, hall])]

theorem actSelfTest_begins (hservice : s.inService = true) (hslice : s.dyn.safety.slice = none) :
    actSelfTest t s = beginSelfTest t (fldN t.cmd.params 0 8) s := by
  rw [actSelfTest_of_supervisor hpath, if_neg (by simp [hservice]), if_pos hservice, if_pos (by simp [hslice])]

/-- A test of the service state waits for the slice that runs (log entry 150). -/
theorem actSelfTest_waits (hservice : s.inService = true) (hslice : s.dyn.safety.slice ≠ none) : actSelfTest t s =
    s.modSafety fun f => { f with serviceTests := f.serviceTests ++ [(t, fldN t.cmd.params 0 8)] } := by
  rw [actSelfTest_of_supervisor hpath, if_neg (by simp [hservice]), if_pos hservice, if_neg (by simpa using hslice)]

theorem actSelfTest_of_running (hservice : s.inService = false) (hone : fldN t.cmd.params 0 8 ≠ 0xFF) : actSelfTest t s =
    if s.dyn.safety.roomForRequest = true then
      s.modSafety fun f => { f with requests := f.requests ++ [.selfTest t (fldN t.cmd.params 0 8)] }
    else writeRecord t 0x00F8 noResult s := by
  rw [actSelfTest_of_supervisor hpath, if_neg (by simp [hone]), if_neg (by simp [hservice])]

theorem actSelfTest_joins (hservice : s.inService = false) (hone : fldN t.cmd.params 0 8 ≠ 0xFF)
    (hroom : s.dyn.safety.roomForRequest = true) : actSelfTest t s =
      s.modSafety fun f => { f with requests := f.requests ++ [.selfTest t (fldN t.cmd.params 0 8)] } :=
  (actSelfTest_of_running hpath hservice hone).trans (if_pos hroom)

theorem actSelfTest_of_full (hservice : s.inService = false) (hone : fldN t.cmd.params 0 8 ≠ 0xFF)
    (hroom : s.dyn.safety.roomForRequest = false) : actSelfTest t s = writeRecord t 0x00F8 noResult s :=
  (actSelfTest_of_running hpath hservice hone).trans (if_neg (ne_true_of_eq_false hroom))

end SelfTest

theorem selfTest_of_admits (h : Admits opSelfTest c s = true) :
    exec (.selfTest c) s = .next (actSelfTest (ticketOf opSelfTest c s) (admitted c s)) := carry_admitted h actSelfTest

/-! SUPERVISOR_HEARTBEAT (R462) -/

/-- The counter is the first, or follows the last one. -/
def Safety.counterInTurn (counter : BitVec 32) (f : Safety) : Bool := match f.hbCounter with
  | none => true
  | some k => counter == k + 1

theorem counterInTurn_iff {counter : BitVec 32} {f : Safety} : f.counterInTurn counter = true ↔
    f.hbCounter = none ∨ f.hbCounter = some (counter - 1) := by
  unfold Safety.counterInTurn
  cases f.hbCounter with
  | none => simp
  | some n =>
    simp only [reduceCtorEq, false_or, Option.some.injEq, beq_iff_eq, eq_sub_iff_add_eq]
    exact eq_comm

/-- The timeout is in range and the counter in turn. -/
def State.heartbeatOk (p : Params) (s : State) : Prop :=
  1000 ≤ fldN p 32 32 ∧ fldN p 32 32 ≤ s.dyn.cfg.sounding.fttiMs.toNat * 1000 - 2000
    ∧ (s.dyn.safety.hbCounter = none ∨ s.dyn.safety.hbCounter = some (fld p 0 32 - 1))

theorem heartbeatOk_iff : s.heartbeatOk p ↔ ¬ (decide (fldN p 32 32 < 1000)
    || decide (s.dyn.cfg.sounding.fttiMs.toNat * 1000 - 2000 < fldN p 32 32)
    || !s.dyn.safety.counterInTurn (fld p 0 32)) = true := by
  rw [State.heartbeatOk, ← counterInTurn_iff]
  simp [and_assoc]

/-- The last deadline has not passed. -/
def State.deadlineKept (s : State) : Bool := match s.dyn.safety.hbDeadline with
  | some d => decide (s.island16 ≤ d)
  | none => false

theorem deadlineKept_iff : s.deadlineKept = true ↔ ∃ d, s.dyn.safety.hbDeadline = some d ∧ s.island16 ≤ d := by
  unfold State.deadlineKept
  cases s.dyn.safety.hbDeadline with
  | none => simp
  | some d => simp

/-- The heartbeat is armed and its deadline moved; the count in turn goes on or starts again. -/
def State.heartbeatTaken (p : Params) (s : State) : State := settle (s.modSafety fun f =>
  { f with hbArmed := true, hbCounter := some (fld p 0 32), hbDeadline := some (s.island16 + fldN p 32 32 * us16),
           hbInTurn := if s.deadlineKept then f.hbInTurn + 1 else 1 })

/-- The record of a heartbeat: its counter, the latch and the sources. -/
def heartbeatDone (t : Ticket) (u : State) : State := writeRecord t 0 (shortResult [(0, 32, (fld t.cmd.params 0 32).toNat),
  (32, 1, b2n u.dyn.safety.latch), (48, 10, u.dyn.safety.sources.toNat)]) u

theorem actHeartbeat_of_denied (hpath : t.fromSupervisor = false) : actHeartbeat t s = writeRecord t 0x00F0 noResult s :=
  if_pos (by simp [hpath])

theorem actHeartbeat_of_bad (hpath : t.fromSupervisor = true) (h : ¬ s.heartbeatOk t.cmd.params) :
    actHeartbeat t s = writeRecord t 0x00FA noResult s :=
  (if_neg (by simp [hpath])).trans (if_pos (not_not.mp (mt heartbeatOk_iff.mpr h)))

theorem actHeartbeat_of_ok (hpath : t.fromSupervisor = true) (h : s.heartbeatOk t.cmd.params) :
    actHeartbeat t s = heartbeatDone t (s.heartbeatTaken t.cmd.params) :=
  (if_neg (by simp [hpath])).trans (if_neg (heartbeatOk_iff.mp h))

theorem heartbeatOk_admitted : (admitted c s).heartbeatOk p ↔ s.heartbeatOk p := by
  rw [State.heartbeatOk, admitted_cfg, admitted_safety, State.heartbeatOk]

theorem deadlineKept_admitted : (admitted c s).deadlineKept = s.deadlineKept := by
  rw [State.deadlineKept, admitted_safety, admitted_island16, State.deadlineKept]

/-- A heartbeat taken by the state in which its packet acts, with the count in turn that results. -/
theorem heartbeatTaken_admitted {n : Nat} (hn : (if s.deadlineKept then s.dyn.safety.hbInTurn + 1 else 1) = n) :
    (admitted c s).heartbeatTaken p = settle ((admitted c s).modSafety fun f =>
      { f with hbArmed := true, hbCounter := some (fld p 0 32), hbDeadline := some (s.island16 + fldN p 32 32 * us16),
               hbInTurn := n }) := by
  rw [State.heartbeatTaken, deadlineKept_admitted, admitted_island16, ← hn, ← admitted_safety s c]
  rfl

theorem supervisorHeartbeat_of_admits (h : Admits opHeartbeat c s = true) :
    exec (.supervisorHeartbeat c) s = .next (actHeartbeat (ticketOf opHeartbeat c s) (admitted c s)) :=
  carry_admitted h actHeartbeat

section Heartbeat

variable (h : Admits opHeartbeat c s = true)
include h

theorem supervisorHeartbeat_of_denied (hpath : c.path ≠ .supervisor) :
    exec (.supervisorHeartbeat c) s = .next (answered opHeartbeat c 0x00F0 noResult s) := by
  rw [supervisorHeartbeat_of_admits h, actHeartbeat_of_denied (t := ticketOf opHeartbeat c s)
    (by simpa [ticketOf_fromSupervisor] using hpath), answered]

theorem supervisorHeartbeat_of_bad (hpath : c.path = .supervisor) (hbad : ¬ s.heartbeatOk c.params) :
    exec (.supervisorHeartbeat c) s = .next (answered opHeartbeat c 0x00FA noResult s) := by
  rw [supervisorHeartbeat_of_admits h, actHeartbeat_of_bad (t := ticketOf opHeartbeat c s)
    (by simp [ticketOf_fromSupervisor, hpath]) (mt heartbeatOk_admitted.mp hbad), answered]

theorem supervisorHeartbeat_of_ok (hpath : c.path = .supervisor) (hok : s.heartbeatOk c.params) :
    exec (.supervisorHeartbeat c) s =
      .next (heartbeatDone (ticketOf opHeartbeat c s) ((admitted c s).heartbeatTaken c.params)) := by
  rw [supervisorHeartbeat_of_admits h, actHeartbeat_of_ok (t := ticketOf opHeartbeat c s)
    (by simp [ticketOf_fromSupervisor, hpath]) (heartbeatOk_admitted.mpr hok), ticketOf_cmd]

end Heartbeat

/-! DOUBT_RELEASE (R445) -/

/-- What a release does to a state whose sources have settled. -/
def releaseSettled (t : Ticket) (a : State) : State :=
  if unmet a.dyn.safety ≠ 0 then writeRecord t 0x00FB (shortResult [(0, 16, unmet a.dyn.safety)]) a
  else writeRecord t 0 noResult (if (a.modSafety Safety.release).ibiDoubt then requestIbi 0x02 (a.modSafety Safety.release)
    else a.modSafety Safety.release)

theorem actDoubtRelease_of_denied (hpath : t.fromSupervisor = false) : actDoubtRelease t s = writeRecord t 0x00F0 noResult s := by
  rw [actDoubtRelease, hpath, Bool.not_false, if_pos rfl]

theorem actDoubtRelease_of_supervisor (hpath : t.fromSupervisor = true) :
    actDoubtRelease t s = releaseSettled t (settle s) := by
  rw [actDoubtRelease, hpath, Bool.not_true, if_neg Bool.false_ne_true]
  rfl

theorem doubtRelease_of_supervisor (h : Admits opDoubtRelease c s = true) (hpath : c.path = .supervisor) :
    exec (.doubtRelease c) s = .next (releaseSettled (ticketOf opDoubtRelease c s) (settle (admitted c s))) :=
  (carry_admitted h actDoubtRelease).trans
    (congrArg _ (actDoubtRelease_of_supervisor (by simp [ticketOf_fromSupervisor, hpath])))

/-! MOORING_STORE (R460) -/

/-- A path is the endpoint queue of a basin in the safety basin. -/
def isSafetyPath (k : Shadow) : Path → Bool
  | .queue q => k.safetyQueue q.toNat
  | _ => false

theorem isSafetyPath_of_none {q : Path} (h : ∀ n, q = .queue n → k.safetyQueue n.toNat = false) :
    isSafetyPath k q = false := by
  cases q with
  | queue n => exact h n rfl
  | _ => rfl

/-- A plan that was judged. -/
def planJudged (t : Ticket) (u : State) : Except Nat Plan → State
  | .error st => writeRecord t st noResult u
  | .ok p => writeRecord t 0 noResult (storePlan p u)

/-- What the read of a plan's entries leads to. -/
def planBodyRead (t : Ticket) (head : List Byte) : State × Option (List Byte) → State
  | (u, none) => writeRecord t 0x00F6 noResult u
  | (u, some body) => planJudged t u (judgePlan (head ++ body) u.dyn.safety.newestPlan u.island16)

/-- The entries that a header counts. -/
def planCount (head : List Byte) : Nat := fldN (BitVec.ofNat 512 (ofBytes head)) 16 13

/-- What the read of a plan's header leads to. -/
def planHeadRead (t : Ticket) : State × Option (List Byte) → State
  | (u, none) => writeRecord t 0x00F6 noResult u
  | (u, some head) =>
    if planCount head = 0 ∨ 4096 < planCount head then writeRecord t 0x00F6 noResult u
    else planBodyRead t head
      (readPlan t.cmd.berth (pageParts 16 (fldN t.cmd.params 0 40 + 64) (128 * planCount head)) u)

theorem actMooringStore_eq : actMooringStore t s =
    if (!isSafetyPath s.dyn.cfg t.cmd.path) = true then writeRecord t 0x00F0 noResult s
    else if fldN t.cmd.params 0 40 % 64 ≠ 0 then writeRecord t 0x00F6 noResult s
    else planHeadRead t (readPlan t.cmd.berth [(fldN t.cmd.params 0 40, 64)] s) := by
  refine if_congr Iff.rfl rfl (if_congr Iff.rfl rfl ?_)
  rcases readPlan t.cmd.berth [(fldN t.cmd.params 0 40, 64)] s with ⟨u, _ | head⟩
  · rfl
  · refine if_congr Iff.rfl rfl ?_
    rw [planCount]
    rcases readPlan t.cmd.berth _ u with ⟨v, _ | body⟩
    · rfl
    · rfl

section Mooring

variable {q : BitVec 18} {x : State × Option (List Byte)} (h : Admits opMooringStore c s = true)
include h

theorem mooringStore_of_admits :
    exec (.mooringStore c) s = .next (actMooringStore (ticketOf opMooringStore c s) (admitted c s)) :=
  carry_admitted h actMooringStore

theorem mooringStore_of_denied (hpath : isSafetyPath s.dyn.cfg c.path = false) :
    exec (.mooringStore c) s = .next (answered opMooringStore c 0x00F0 noResult s) := by
  rw [mooringStore_of_admits h, actMooringStore_eq, admitted_cfg, if_pos (by simpa using hpath), answered]

variable (hqueue : c.path = .queue q) (hsafety : s.dyn.cfg.safetyQueue q.toNat = true)
include hqueue hsafety

theorem mooringStore_of_queue : exec (.mooringStore c) s =
    .next (if fldN c.params 0 40 % 64 ≠ 0 then answered opMooringStore c 0x00F6 noResult s
      else planHeadRead (ticketOf opMooringStore c s) (readPlan c.berth [(fldN c.params 0 40, 64)] (admitted c s))) := by
  rw [mooringStore_of_admits h, actMooringStore_eq, admitted_cfg, ticketOf_cmd, hqueue,
    if_neg (by simpa [isSafetyPath] using hsafety), answered]

theorem mooringStore_of_unaligned (halign : fldN c.params 0 40 % 64 ≠ 0) :
    exec (.mooringStore c) s = .next (answered opMooringStore c 0x00F6 noResult s) := by
  rw [mooringStore_of_queue h hqueue hsafety, if_pos halign]

theorem mooringStore_of_read (halign : fldN c.params 0 40 % 64 = 0)
    (hread : readPlan c.berth [(fldN c.params 0 40, 64)] (admitted c s) = x) :
    exec (.mooringStore c) s = .next (planHeadRead (ticketOf opMooringStore c s) x) := by
  rw [mooringStore_of_queue h hqueue hsafety, if_neg (not_not.mpr halign), hread]

end Mooring

section Plan

variable {head : List Byte} {x : State × Option (List Byte)}

theorem planHeadRead_of_miscounted (h : planCount head = 0 ∨ 4096 < planCount head) :
    planHeadRead t (s, some head) = writeRecord t 0x00F6 noResult s := if_pos h

theorem planHeadRead_of_body (hsome : 1 ≤ planCount head) (hfew : planCount head ≤ 4096)
    (hread : readPlan t.cmd.berth (pageParts 16 (fldN t.cmd.params 0 40 + 64) (128 * planCount head)) s = x) :
    planHeadRead t (s, some head) = planBodyRead t head x :=
  (if_neg (by omega)).trans (congrArg _ hread)

end Plan

/-! The statement -/

/-- Settles O51: a Gauge and the soundings are settled by their lists of checks, the other commands by their cases, and a plan is
judged after its header and then its entries are read. That a SELF_TEST in the service state waits for the slice that runs is the
model's reading (log entry 150). -/
theorem safetyCommandsFollowTheirChecks : Obligations.SafetyCommandsFollowTheirChecks := by
  refine ⟨fun c s => gaugeSet_settled, fun c s h => config_settled h ruleGaugeClear_eq,
    fun c s h => admitted_answer h (by rw [admitted_snap]; rfl), fun c s h => admitted_answer h (by rw [admitted_snap]; rfl),
    fun c s h => config_settled h ruleSoundingSet_eq, ?selfTest, ?heartbeat, ?release, ?mooring⟩
  case selfTest =>
    intro c s h
    have goes {y} (hy : actSelfTest (ticketOf opSelfTest c s) (admitted c s) = y) : exec (.selfTest c) s = .next y :=
      (selfTest_of_admits h).trans (congrArg _ hy)
    have fromSupervisor (hpath : c.path = .supervisor) : (ticketOf opSelfTest c s).fromSupervisor = true := by
      simp [ticketOf_fromSupervisor, hpath]
    refine ⟨fun hpath => goes (actSelfTest_of_denied (by simpa [ticketOf_fromSupervisor] using hpath)),
      fun hpath hservice hall => ?_, fun hpath hservice hslice => ?_, fun hpath hservice hslice => ?_,
      fun hpath hservice hone hroom => ?_, fun hpath hservice hone hroom => ?_⟩
    · exact goes (actSelfTest_of_whole (fromSupervisor hpath) (by rwa [admitted_inService]) hall)
    · exact goes (actSelfTest_begins (fromSupervisor hpath) (by rwa [admitted_inService]) (by rwa [admitted_safety]))
    · exact goes (actSelfTest_waits (fromSupervisor hpath) (by rwa [admitted_inService]) (by rwa [admitted_safety]))
    · exact goes (actSelfTest_joins (fromSupervisor hpath) (by rwa [admitted_inService]) hone (by rwa [admitted_safety]))
    · exact goes (actSelfTest_of_full (fromSupervisor hpath) (by rwa [admitted_inService]) hone (by rwa [admitted_safety]))
  case heartbeat =>
    refine fun c s h => ⟨supervisorHeartbeat_of_denied h, supervisorHeartbeat_of_bad h, fun hpath hok hkept => ?_,
      fun hpath hok hlate => ?_⟩
    · rw [supervisorHeartbeat_of_ok h hpath hok, heartbeatTaken_admitted (if_pos (deadlineKept_iff.mpr hkept))]
      rfl
    · rw [supervisorHeartbeat_of_ok h hpath hok, heartbeatTaken_admitted (if_neg (mt deadlineKept_iff.mp hlate))]
      rfl
  case release =>
    refine fun c s h => ⟨fun hpath => ?_, fun hpath hunmet => ?_, fun hpath hmet hquiet => ?_, fun hpath hmet hibi => ?_⟩
    · exact admitted_answer h (actDoubtRelease_of_denied (by simpa [ticketOf_fromSupervisor] using hpath))
    · rw [doubtRelease_of_supervisor h hpath, releaseSettled, if_pos hunmet]
    · rw [doubtRelease_of_supervisor h hpath, releaseSettled, if_neg (not_not.mpr hmet), if_neg (ne_true_of_eq_false hquiet)]
    · rw [doubtRelease_of_supervisor h hpath, releaseSettled, if_neg (not_not.mpr hmet), if_pos hibi]
  case mooring =>
    refine fun c s h => ⟨fun hnone => mooringStore_of_denied h (isSafetyPath_of_none hnone), fun q => mooringStore_of_unaligned h,
      fun q s1 => mooringStore_of_read h, fun q s1 head hqueue hsafety halign hread => ?_⟩
    have goes {y} (hy : planHeadRead (ticketOf opMooringStore c s) (s1, some head) = y) :
        exec (.mooringStore c) s = .next y :=
      (mooringStore_of_read h hqueue hsafety halign hread).trans (congrArg _ hy)
    refine ⟨fun hcount => goes (planHeadRead_of_miscounted hcount),
      fun s2 hsome hfew hbody => goes (planHeadRead_of_body (x := (s2, none)) hsome hfew hbody),
      fun s2 body hsome hfew hbody => ?_⟩
    have judged {y} (hy : planJudged (ticketOf opMooringStore c s) s2
        (judgePlan (head ++ body) s2.dyn.safety.newestPlan s2.island16) = y) : exec (.mooringStore c) s = .next y :=
      goes ((planHeadRead_of_body (x := (s2, some body)) hsome hfew hbody).trans hy)
    exact ⟨fun st hverdict => judged (by rw [hverdict, planJudged]), fun p hverdict => judged (by rw [hverdict, planJudged])⟩

end Sys2Proof.Machine
end

section
/-! PROOFS. Gauges, soundings, drizzle, tile self-tests and the counts of a second (R447 to R458, R477, R502). -/

namespace Sys2Proof.Machine

variable {s : State} {g : BitVec 12} {flips : BitVec 544} {t i p element tile : Nat} {h : BitVec 10} {r : SoundingRun}
  {outs : List (BitVec 32)} {x : Slice} {column : Fin 36} {bad : Option Byte} {k : Ticket} {rest : List Ticket} {failed f : Bool}

/-! GAUGE_DEADLINE, EXPIRED_GAUGE_POLL and the stamp reads (R447, R449) -/

/-- The configuration of a Gauge. -/
def State.gaugeCfg (g : BitVec 12) (s : State) : GaugeCfg := tabGet {} s.dyn.cfg.gauges g.toNat

/-- A watching Gauge has reached its deadline with no read in progress, and the edge is a reference edge. -/
def State.gaugeDue (g : BitVec 12) (s : State) : Prop :=
  (s.gaugeCfg g).valid = true ∧ (s.dyn.safety.gaugeOf g.toNat).state = .watching
    ∧ (s.dyn.safety.gaugeOf g.toNat).expireAt ≤ s.island16 ∧ (s.dyn.safety.gaugeOf g.toNat).readSince = none
    ∧ s.dyn.time.onEdge = true

theorem gaugeDue_iff : s.gaugeDue g ↔ ¬ (!(s.gaugeCfg g).valid
    || decide ((s.dyn.safety.gaugeOf g.toNat).state ≠ .watching)
    || decide (s.island16 < (s.dyn.safety.gaugeOf g.toNat).expireAt) || (s.dyn.safety.gaugeOf g.toNat).readSince.isSome
    || !s.dyn.time.onEdge) = true := by
  simp [State.gaugeDue, and_assoc]

theorem gaugeDeadline_of_not_due (h : ¬ s.gaugeDue g) : exec (.gaugeDeadline g) s = .next s :=
  if_pos (not_not.mp (mt gaugeDue_iff.mpr h))

theorem gaugeDeadline_expires (h : s.gaugeDue g) (hkind : (s.gaugeCfg g).mooring = true) :
    exec (.gaugeDeadline g) s = .next (settle (expireGauge g.toNat s)) :=
  (if_neg (gaugeDue_iff.mp h)).trans (if_pos hkind)

theorem gaugeDeadline_reads (h : s.gaugeDue g) (hkind : (s.gaugeCfg g).mooring = false) : exec (.gaugeDeadline g) s =
    .next (s.modGauge g.toNat fun y => { y with readSince := some s.island16 }) :=
  (if_neg (gaugeDue_iff.mp h)).trans (if_neg (ne_true_of_eq_false hkind))

/-- An expired KIND 0 Gauge was read 1 ms ago or longer, and no read is in progress. -/
def State.gaugePolls (g : BitVec 12) (s : State) : Prop :=
  (s.gaugeCfg g).valid = true ∧ (s.gaugeCfg g).mooring = false ∧ (s.dyn.safety.gaugeOf g.toNat).state = .expired
    ∧ (s.dyn.safety.gaugeOf g.toNat).readSince = none ∧ (s.dyn.safety.gaugeOf g.toNat).lastPoll + 1000 * us16 ≤ s.island16
    ∧ s.dyn.time.onEdge = true

theorem gaugePolls_iff : s.gaugePolls g ↔ ¬ (!(s.gaugeCfg g).valid || (s.gaugeCfg g).mooring
    || decide ((s.dyn.safety.gaugeOf g.toNat).state ≠ .expired) || (s.dyn.safety.gaugeOf g.toNat).readSince.isSome
    || decide (s.island16 < (s.dyn.safety.gaugeOf g.toNat).lastPoll + 1000 * us16) || !s.dyn.time.onEdge) = true := by
  simp [State.gaugePolls, and_assoc]

theorem expiredGaugePoll_of_polls (h : s.gaugePolls g) : exec (.expiredGaugePoll g) s =
    .next (s.modGauge g.toNat fun y => { y with readSince := some s.island16, lastPoll := s.island16 }) :=
  if_neg (gaugePolls_iff.mp h)

theorem expiredGaugePoll_of_not_polls (h : ¬ s.gaugePolls g) : exec (.expiredGaugePoll g) s = .next s :=
  if_pos (not_not.mp (mt gaugePolls_iff.mpr h))

/-- The stamp line as the response finds it. -/
def State.stampLine (g : BitVec 12) (flips : BitVec 544) (s : State) : State × Option (List Byte) :=
  readPort (s.gaugeCfg g).stampPa.toNat true (flipLine ((s.gaugeCfg g).stampPa.toNat / 64) flips s)

/-- The line is judged at the moment of its read, and the verdict applied. -/
def State.stampJudged (g : BitVec 12) (flips : BitVec 544) (s : State) : State :=
  let u := s.stampLine g flips
  settle (applyStamp g.toNat (judgeStamp (s.gaugeCfg g) (s.dyn.safety.gaugeOf g.toNat).lastValidity u.1.island16 u.2) u.1)

theorem stampReadResponse_of_unread (h : (s.gaugeCfg g).valid = false ∨ (s.dyn.safety.gaugeOf g.toNat).readSince = none) :
    exec (.stampReadResponse g flips) s = .next s :=
  if_pos (by simpa [State.gaugeCfg] using h)

theorem stampReadResponse_of_read (h : (s.gaugeCfg g).valid = true) (hread : (s.dyn.safety.gaugeOf g.toNat).readSince ≠ none) :
    exec (.stampReadResponse g flips) s = .next (s.stampJudged g flips) :=
  if_neg (by simpa [State.gaugeCfg] using And.intro h hread)

theorem stampReadTimeout_of_none (h : (s.dyn.safety.gaugeOf g.toNat).readSince = none) :
    exec (.stampReadTimeout g) s = .next s := by
  change execStampReadTimeout g s = _
  simp only [execStampReadTimeout, h]

theorem stampReadTimeout_of_some (h : (s.dyn.safety.gaugeOf g.toNat).readSince = some t) : exec (.stampReadTimeout g) s =
    if (decide (s.island16 < t + 10 * us16) || !s.dyn.time.onEdge) = true then .next s
    else .next (settle (applyStamp g.toNat .bad s)) := by
  change execStampReadTimeout g s = _
  simp only [execStampReadTimeout, h]

theorem stampReadTimeout_of_due (h : (s.dyn.safety.gaugeOf g.toNat).readSince = some t) (hdue : t + 10 * us16 ≤ s.island16)
    (hedge : s.dyn.time.onEdge = true) : exec (.stampReadTimeout g) s = .next (settle (applyStamp g.toNat .bad s)) := by
  rw [stampReadTimeout_of_some h, if_neg (by simpa [hedge] using hdue)]

theorem stampReadTimeout_of_waits (h : ∀ t, (s.dyn.safety.gaugeOf g.toNat).readSince = some t →
    s.island16 < t + 10 * us16 ∨ s.dyn.time.onEdge = false) : exec (.stampReadTimeout g) s = .next s := by
  cases ht : (s.dyn.safety.gaugeOf g.toNat).readSince with
  | none => exact stampReadTimeout_of_none ht
  | some t => rw [stampReadTimeout_of_some ht, if_pos (by simpa using h t ht)]

/-! SOUNDING_RELEASE (R453) -/

/-- No sounding of this instant or a later one has been released. -/
def State.soundingFresh (i : Nat) (s : State) : Prop := ∀ l, s.dyn.safety.soundingLast = some l → l < i

/-- The test of a fresh instant, as the release makes it. -/
def State.soundingLate (i : Nat) (s : State) : Bool := match s.dyn.safety.soundingLast with
  | some l => l < i
  | none => true

theorem soundingFresh_iff : s.soundingFresh i ↔ s.soundingLate i = true := by
  unfold State.soundingFresh State.soundingLate
  cases s.dyn.safety.soundingLast with
  | none => simp
  | some l => simp

/-- The release of the instant has come, once. -/
def State.soundingDue (i : Nat) (s : State) : Prop :=
  s.dyn.cfg.sounding.enable = true ∧ s.dyn.cfg.soundingRelease i ≤ s.now16 ∧ s.soundingFresh i

theorem soundingDue_iff : s.soundingDue i ↔
    ¬ (!s.dyn.cfg.sounding.enable || decide (s.now16 < s.dyn.cfg.soundingRelease i) || !s.soundingLate i) = true := by
  simp [State.soundingDue, soundingFresh_iff, and_assoc]

/-- A sounding still running at the release is missed. -/
def State.soundingStopped (s : State) : State := match s.dyn.safety.sounding with
  | some r => missSounding r s
  | none => s

theorem soundingRelease_of_not_due (hdue : ¬ s.soundingDue i) : exec (.soundingRelease i) s = .next s :=
  if_pos (not_not.mp (mt soundingDue_iff.mpr hdue))

theorem soundingRelease_of_no_pick (hdue : s.soundingDue i) (hpick : s.dyn.cfg.soundingPick i = none) :
    exec (.soundingRelease i) s = .next s.soundingStopped := by
  refine (if_neg (soundingDue_iff.mp hdue)).trans ?_
  simp only [hpick]
  rfl

theorem soundingRelease_of_pick (hdue : s.soundingDue i) (hpick : s.dyn.cfg.soundingPick i = some (tile, h)) :
    exec (.soundingRelease i) s =
      .next (startSounding i tile h (s.dyn.cfg.soundingRelease i) false s.soundingStopped) := by
  refine (if_neg (soundingDue_iff.mp hdue)).trans ?_
  simp only [hpick]
  rfl

/-! SOUNDING_WINDOW_END and SOUNDING_COMPLETE (R454) -/

theorem soundingWindowEnd_of_none (hnone : s.dyn.safety.sounding = none) : exec .soundingWindowEnd s = .next s := by
  change execSoundingWindowEnd s = _
  simp only [execSoundingWindowEnd, hnone]

/-- A sounding has not started by the end of its window; a re-run has none (log entry 148). -/
def State.soundingLapsed (r : SoundingRun) (s : State) : Prop :=
  r.started = false ∧ r.rerun = false ∧ r.release + s.dyn.cfg.sounding.window.toNat * us16 ≤ s.now16

theorem soundingLapsed_iff : s.soundingLapsed r ↔ ¬ (r.started || r.rerun
    || decide (s.now16 < r.release + s.dyn.cfg.sounding.window.toNat * us16)) = true := by
  simp [State.soundingLapsed, and_assoc]

theorem soundingWindowEnd_of_some (hsome : s.dyn.safety.sounding = some r) : exec .soundingWindowEnd s =
    if (r.started || r.rerun || decide (s.now16 < r.release + s.dyn.cfg.sounding.window.toNat * us16)) = true then .next s
    else .next (missSounding r s) := by
  change execSoundingWindowEnd s = _
  simp only [execSoundingWindowEnd, hsome]

theorem soundingWindowEnd_misses (hsome : s.dyn.safety.sounding = some r) (h : s.soundingLapsed r) :
    exec .soundingWindowEnd s = .next (missSounding r s) := by
  rw [soundingWindowEnd_of_some hsome, if_neg (soundingLapsed_iff.mp h)]

theorem soundingWindowEnd_waits (hsome : s.dyn.safety.sounding = some r) (h : ¬ s.soundingLapsed r) :
    exec .soundingWindowEnd s = .next s := by
  rw [soundingWindowEnd_of_some hsome, if_pos (not_not.mp (mt soundingLapsed_iff.mpr h))]

/-- The physical tile of a sounding. -/
def State.soundingTile (r : SoundingRun) (s : State) : Nat := (s.dyn.cfg.physOf r.tile).getD 0

/-- The key of a sounding's model. -/
def State.soundingModel (r : SoundingRun) (s : State) : Nat := (s.dyn.cfg.safetyOwner.getD 0).toNat * 1024 + r.handle.toNat

/-- The bands of a sounding's model. -/
def State.soundingBands (r : SoundingRun) (s : State) : List (BitVec 32 × BitVec 32) :=
  match (tabGet {} s.dyn.cfg.models (s.soundingModel r)).calibration with
  | some k => k.bands
  | none => []

/-- The job of a sounding does not stand, or its bands were lost. -/
def State.soundingGone (r : SoundingRun) (s : State) : Prop :=
  s.job r.job = none ∨ s.soundingModel r ∈ (releaseJob r.job s).dyn.errors.lostBands

theorem soundingGone_iff : s.soundingGone r ↔
    ((s.job r.job).isNone || (releaseJob r.job s).dyn.errors.lostBands.contains (s.soundingModel r)) = true := by
  simp [State.soundingGone]

/-- The verdict of the band comparator on a sounding that stands. -/
def State.soundingJudged (r : SoundingRun) (outs : List (BitVec 32)) (s : State) : State :=
  match firstOutside 0 outs (s.soundingBands r) with
  | some i => failSounding r (s.soundingTile r) i (releaseJob r.job s)
  | none => passSounding r (s.soundingTile r) (releaseJob r.job s)

theorem soundingComplete_of_none (hnone : s.dyn.safety.sounding = none) : exec (.soundingComplete outs f) s = .next s := by
  change execSoundingComplete outs f s = _
  simp only [execSoundingComplete, hnone]

section Sounding

variable (hsome : s.dyn.safety.sounding = some r)
include hsome

theorem soundingComplete_of_not_started (hstarted : r.started = false) : exec (.soundingComplete outs f) s = .next s := by
  change execSoundingComplete outs f s = _
  simp only [execSoundingComplete, hsome, hstarted, Bool.not_false, if_true]

theorem soundingComplete_of_started (hstarted : r.started = true) : exec (.soundingComplete outs f) s =
    if (f || (s.job r.job).isNone || (releaseJob r.job s).dyn.errors.lostBands.contains (s.soundingModel r)) = true then
      .next (failSounding r (s.soundingTile r) 0 (releaseJob r.job s))
    else .next (s.soundingJudged r outs) := by
  change execSoundingComplete outs f s = _
  simp only [execSoundingComplete, hsome, hstarted, Bool.not_true, Bool.false_eq_true, if_false]
  refine if_congr Iff.rfl rfl ?_
  change (match firstOutside 0 outs (s.soundingBands r) with | some i => _ | none => _) = _
  rw [State.soundingJudged]
  cases firstOutside 0 outs (s.soundingBands r) <;> rfl

theorem soundingComplete_of_gone (hstarted : r.started = true) (hgone : f = true ∨ s.soundingGone r) :
    exec (.soundingComplete outs f) s = .next (failSounding r (s.soundingTile r) 0 (releaseJob r.job s)) := by
  rw [soundingComplete_of_started hsome hstarted, Bool.or_assoc, if_pos (by rwa [Bool.or_eq_true, ← soundingGone_iff])]

theorem soundingComplete_of_stands (hstarted : r.started = true) (hgone : ¬ s.soundingGone r) :
    exec (.soundingComplete outs false) s = .next (s.soundingJudged r outs) := by
  rw [soundingComplete_of_started hsome hstarted, Bool.or_assoc, Bool.false_or, if_neg (mt soundingGone_iff.mpr hgone)]

end Sounding

/-! DRIZZLE_SLOT (R457) -/

/-- The multiple of 250 us at or before the time. -/
def State.drizzleTime (s : State) : Nat := s.now16 / (250 * us16) * (250 * us16)

/-- The request whose turn it is, if one waits. -/
def State.drizzleReq (s : State) : Option DrizzleReq := s.dyn.safety.requests.head?

/-- The checker whose turn it is: that of the oldest request, else the one longest not tested. -/
def State.drizzleChecker (s : State) : Nat := match s.drizzleReq with
  | some r => r.checker
  | none => oldestChecker s.dyn

/-- A slot has come since the last one, on a device that is READY. -/
def State.drizzleDue (s : State) : Prop := s.dyn.safety.lastSlot < s.drizzleTime ∧ s.dyn.bring.ready = true

theorem drizzleDue_iff : s.drizzleDue ↔
    ¬ (decide (s.drizzleTime ≤ s.dyn.safety.lastSlot) || !s.dyn.bring.ready) = true := by
  simp [State.drizzleDue]

/-- A safety release falls within the slice and 20 us after it. -/
def State.releaseNear (s : State) : Prop := ∃ r ∈ safetyReleases s.dyn.cfg s.drizzleTime,
  r < s.drizzleTime + sliceTime s.drizzleChecker s.drizzleReq + 20 * us16

theorem releaseNear_iff : s.releaseNear ↔ ((safetyReleases s.dyn.cfg s.drizzleTime).any fun r =>
    r < s.drizzleTime + sliceTime s.drizzleChecker s.drizzleReq + 20 * us16) = true := by
  simp [State.releaseNear]

/-- The slice that begins at a slot. -/
def State.sliceBegins (s : State) : State := s.modSafety fun f => refillRequests
  { f with
    lastSlot := s.drizzleTime, slice := some { checker := s.drizzleChecker, req := s.drizzleReq, at16 := s.drizzleTime },
    requests := f.requests.drop 1 }

/-- What a slot that is due does before lapses are judged. -/
def State.slotTaken (s : State) : State :=
  let v := s.modSafety fun f => { f with lastSlot := s.drizzleTime }
  if (safetyReleases s.dyn.cfg s.drizzleTime).any fun r =>
      r < s.drizzleTime + sliceTime s.drizzleChecker s.drizzleReq + 20 * us16
    then v.modSafety fun f => { f with deferrals := satInc f.deferrals }
  else if s.dyn.safety.slice.isSome then v
  else s.sliceBegins

theorem drizzleSlot_of_not_due (hdue : ¬ s.drizzleDue) : exec .drizzleSlot s = .next s :=
  if_pos (not_not.mp (mt drizzleDue_iff.mpr hdue))

theorem drizzleSlot_of_due (hdue : s.drizzleDue) : exec .drizzleSlot s = .next (lapseCheck s.drizzleTime s.slotTaken) :=
  if_neg (drizzleDue_iff.mp hdue)

theorem slotTaken_of_near (h : s.releaseNear) : s.slotTaken =
    s.modSafety fun f => { f with lastSlot := s.drizzleTime, deferrals := satInc f.deferrals } :=
  if_pos (releaseNear_iff.mp h)

theorem slotTaken_of_busy (h : ¬ s.releaseNear) (hslice : s.dyn.safety.slice ≠ none) :
    s.slotTaken = s.modSafety fun f => { f with lastSlot := s.drizzleTime } :=
  (if_neg (mt releaseNear_iff.mpr h)).trans (if_pos (Option.isSome_iff_ne_none.mpr hslice))

theorem slotTaken_of_free (h : ¬ s.releaseNear) (hslice : s.dyn.safety.slice = none) : s.slotTaken = s.sliceBegins :=
  (if_neg (mt releaseNear_iff.mpr h)).trans (if_neg (by simp [hslice]))

/-! DRIZZLE_SLICE_END (R457, R458) -/

theorem drizzleSliceEnd_of_none (h : s.dyn.safety.slice = none) : exec (.drizzleSliceEnd failed) s = .next s := by
  change execDrizzleSliceEnd failed s = _
  simp only [execDrizzleSliceEnd, h]

theorem drizzleSliceEnd_of_some (h : s.dyn.safety.slice = some x) : exec (.drizzleSliceEnd failed) s =
    if x.checker = 116 then .next (finishSlice x none s)
    else if failed = true then
      .next (finishSlice x (some (x.bad.getD x.checker)) (noteFitness x true (checkerFails x.checker s)))
    else .next (settle (finishSlice x x.bad (noteFitness x false (checkerPasses x.checker x.at16 s)))) := by
  change execDrizzleSliceEnd failed s = _
  simp only [execDrizzleSliceEnd, h]

/-! TILE_SELF_TEST_END (R502) -/

/-- The test at the front is over: the tile is zeroed and takes its safety copies. -/
def State.testOver (p : Nat) (rest : List Ticket) (s : State) : State :=
  (loadSafety p (zeroTile p s)).modTile p fun d =>
    { d with tests := rest, testDrain := !rest.isEmpty, idleSince := (loadSafety p (zeroTile p s)).dyn.time.wc }

/-- The record of a tile test, and the failure that it counts. -/
def testResult (p : Nat) (k : Ticket) (bad : Option Byte) (u : State) : State := match bad with
  | none => recordLoads (writeRecord k 0 noResult u)
  | some b => recordLoads (tileFailure p { source := 7 } (writeRecord k 0x0108 (shortResult [(0, 8, b.toNat)]) u))

theorem tileSelfTestEnd_of_some (h : (s.tile column.val).tests = k :: rest) : exec (.tileSelfTestEnd column bad) s =
    if (!(s.tile column.val).testDrain || !s.tasksOver column.val) = true then .next s
    else .next (testResult column.val k bad (s.testOver column.val rest)) := by
  change execTileSelfTestEnd column bad s = _
  simp only [execTileSelfTestEnd, h]
  refine if_congr Iff.rfl rfl ?_
  cases bad <;> rfl

theorem tileSelfTestEnd_of_idle
    (h : (s.tile column.val).tests = [] ∨ (s.tile column.val).testDrain = false ∨ s.tasksOver column.val = false) :
    exec (.tileSelfTestEnd column bad) s = .next s := by
  cases htests : (s.tile column.val).tests with
  | nil =>
    change execTileSelfTestEnd column bad s = _
    simp only [execTileSelfTestEnd, htests]
  | cons k rest =>
    rw [tileSelfTestEnd_of_some htests, if_pos (by simpa [htests] using h)]

theorem tileSelfTestEnd_of_drained (h : (s.tile column.val).tests = k :: rest) (hdrain : (s.tile column.val).testDrain = true)
    (hover : s.tasksOver column.val = true) :
    exec (.tileSelfTestEnd column bad) s = .next (testResult column.val k bad (s.testOver column.val rest)) := by
  rw [tileSelfTestEnd_of_some h, if_neg (by simp [hdrain, hover])]

/-! The statement -/

/-- Settles O55: each event by whether it is due and then by what it finds: the verdict on a stamp, the pick of an instant, the
bands of a sounding, the slot and the slice of the drizzle. Log entries: 2 (an event not due changes nothing), 148 (a re-run has
no start window), 130 (the time stamp of the record of a second). -/
theorem gaugesSoundingsAndDrizzleRun : Obligations.GaugesSoundingsAndDrizzleRun := by
  refine ⟨fun g s => ⟨gaugeDeadline_expires, gaugeDeadline_reads, gaugeDeadline_of_not_due, expiredGaugePoll_of_polls,
      expiredGaugePoll_of_not_polls, fun flips => stampReadResponse_of_unread, fun flips => stampReadResponse_of_read,
      fun t => stampReadTimeout_of_due, stampReadTimeout_of_waits⟩,
    fun i s => ⟨soundingRelease_of_not_due, soundingRelease_of_no_pick, fun t h => soundingRelease_of_pick⟩,
    fun s => ⟨fun hnone => ⟨soundingWindowEnd_of_none hnone, fun outs f => soundingComplete_of_none hnone⟩,
      fun r hsome => ⟨soundingWindowEnd_misses hsome, soundingWindowEnd_waits hsome,
        fun outs f => soundingComplete_of_not_started hsome, fun outs f => soundingComplete_of_gone hsome, ?outside, ?inside⟩⟩,
    fun s => ⟨drizzleSlot_of_not_due, ?near, ?busy, ?begins, fun failed => drizzleSliceEnd_of_none, ?slice⟩,
    fun t bad s => ⟨tileSelfTestEnd_of_idle, fun k rest h hdrain hover =>
      ⟨tileSelfTestEnd_of_drained h hdrain hover, fun b => tileSelfTestEnd_of_drained h hdrain hover⟩⟩,
    fun s => rfl⟩
  case outside =>
    intro outs k hstarted hgone houtside
    have hout : firstOutside 0 outs (s.soundingBands r) = some k := houtside
    rw [soundingComplete_of_stands hsome hstarted hgone, State.soundingJudged, hout]
    rfl
  case inside =>
    intro outs hstarted hgone hinside
    have hin : firstOutside 0 outs (s.soundingBands r) = none := hinside
    rw [soundingComplete_of_stands hsome hstarted hgone, State.soundingJudged, hin]
    rfl
  case near =>
    intro hdue hnear
    rw [drizzleSlot_of_due hdue, slotTaken_of_near hnear]
    rfl
  case busy =>
    intro hdue hnear hslice
    rw [drizzleSlot_of_due hdue, slotTaken_of_busy hnear hslice]
    rfl
  case begins =>
    intro hdue hnear hslice
    rw [drizzleSlot_of_due hdue, slotTaken_of_free hnear hslice]
    rfl
  case slice =>
    intro x h
    refine ⟨fun failed hmeasure => ?_, fun htest => ?_, fun htest => ?_⟩
    · rw [drizzleSliceEnd_of_some h, if_pos hmeasure]
    · rw [drizzleSliceEnd_of_some h, if_neg htest, if_pos rfl]
    · rw [drizzleSliceEnd_of_some h, if_neg htest, if_neg Bool.false_ne_true]

end Sys2Proof.Machine
end

section
/-! PROOFS. The service state, the maintenance reads, tile tests and retirement, licences and firmware (R478 to R480, R493, R499
to R510, R527). -/

namespace Sys2Proof.Machine

variable {c : Cmd} {s u : State} {t : Ticket} {k : Shadow} {op : OpInfo} {act : Ticket → State → State} {st : Nat} {r : Result}
  {l : Licence} {rest : List FlashJob} {ok raise : Bool} {x : ImageSlot}

/-! SERVICE_ENTER and SERVICE_LEAVE (R500, R501) -/

/-- The checks of SERVICE_ENTER. -/
def serviceEnterChecks (t : Ticket) (s : State) (k : Shadow) : List (Bool × Nat) :=
  [(!t.fromSupervisor, 0x0100), (!k.running, 0x0109), (!s.dyn.safety.latch, 0x0102)]

theorem ruleServiceEnter_eq : ruleServiceEnter s t k = (firstOf (serviceEnterChecks t s k)).elim
    (.pass { k with running := false } noResult) fun st => .refuse st noResult := by
  simp only [serviceEnterChecks, firstOf_elim_cons, firstOf_elim_nil]
  rfl

theorem serviceEnter_settled (h : Admits opServiceEnter c s = true) : exec (.serviceEnter c) s =
    .next (settled opServiceEnter c (serviceEnterChecks (ticketOf opServiceEnter c s) s s.lock.opn)
      { s.lock.opn with running := false } s) :=
  config_settled h (by rw [ruleServiceEnter_eq, serviceEnterChecks, serviceEnterChecks, admitted_safety])

/-- The checks of SERVICE_LEAVE without a licence. -/
def unlicensedChecks (t : Ticket) (s : State) : List (Bool × Nat) :=
  [(!t.fromSupervisor, 0x0100), (!s.dyn.bring.ready, 0x0103), (true, 0x0107)]

/-- The checks of SERVICE_LEAVE under the licence `l`. -/
def licensedChecks (t : Ticket) (s : State) (l : Licence) (k : Shadow) : List (Bool × Nat) :=
  [ (!t.fromSupervisor, 0x0100), (!s.dyn.bring.ready, 0x0103), (!s.dyn.safety.checkersFit, 0x0105),
    (decide (s.dyn.island.pair0.state ≠ .healthy ∧ s.dyn.island.pair1.state ≠ .healthy), 0x0106),
    ((k.tilesUnder 0).length < l.safetyMin, 0x0104) ]

theorem ruleServiceLeave_of_unlicensed (hl : licenceHeld s.dyn.bring = none) : ruleServiceLeave s t k =
    (firstOf (unlicensedChecks t s)).elim (.pass { k with running := true } noResult) fun st => .refuse st noResult := by
  simp only [unlicensedChecks, firstOf_elim_cons, firstOf_elim_nil, ruleServiceLeave, hl, if_true]

theorem ruleServiceLeave_of_licensed (hl : licenceHeld s.dyn.bring = some l) : ruleServiceLeave s t k =
    (firstOf (licensedChecks t s l k)).elim (.pass { k with running := true } noResult) fun st => .refuse st noResult := by
  simp only [licensedChecks, firstOf_elim_cons, firstOf_elim_nil, decide_eq_true_eq, ruleServiceLeave, hl]

section Leave

variable (h : Admits opServiceLeave c s = true)
include h

theorem serviceLeave_of_unlicensed (hl : licenceHeld s.dyn.bring = none) : exec (.serviceLeave c) s =
    .next (settled opServiceLeave c (unlicensedChecks (ticketOf opServiceLeave c s) s) s.lock.opn s) := by
  have settles := config_settled (rule := ruleServiceLeave) (cfg := { s.lock.opn with running := true })
    (checks := unlicensedChecks (ticketOf opServiceLeave c s) s) h
    (by rw [ruleServiceLeave_of_unlicensed (by rwa [admitted_bring]), unlicensedChecks, unlicensedChecks, admitted_bring])
  refine settles.trans (congrArg _ ?_)
  simp only [unlicensedChecks, settled_cons, if_true]

theorem serviceLeave_of_licensed (hl : licenceHeld s.dyn.bring = some l) : exec (.serviceLeave c) s =
    .next (settled opServiceLeave c (licensedChecks (ticketOf opServiceLeave c s) s l s.lock.opn)
      { s.lock.opn with running := true } s) :=
  config_settled h (by
    rw [ruleServiceLeave_of_licensed (by rwa [admitted_bring]), licensedChecks, licensedChecks, admitted_bring, admitted_safety,
      admitted_island])

end Leave

/-! The maintenance reads (R478 to R480, R493, R499, R508 to R510, R527) -/

section Maintenance

variable (h : Admits op c s = true)
include h

theorem maintenance_refused (hpath : c.path ≠ .supervisor) :
    carry op c (maintenance act) s = .next (answered op c 0x0100 noResult s) :=
  admitted_answer h (by rw [maintenance, ticketOf_fromSupervisor, if_neg (by simpa using hpath)])

theorem maintenance_of_supervisor (hpath : c.path = .supervisor) :
    carry op c (maintenance act) s = .next (act (ticketOf op c s) (admitted c s)) := by
  rw [carry_admitted h, maintenance, ticketOf_fromSupervisor, if_pos (by simp [hpath])]

theorem maintenance_answered (hpath : c.path = .supervisor)
    (hact : act (ticketOf op c s) (admitted c s) = writeRecord (ticketOf op c s) st r (admitted c s)) :
    carry op c (maintenance act) s = .next (answered op c st r s) := by
  rw [maintenance_of_supervisor h hpath, hact, answered]

theorem maintenance_replied
    (hact : act (ticketOf op c s) (admitted c s) = writeRecord (ticketOf op c s) 0 r (admitted c s)) :
    carry op c (maintenance act) s = .next (replied op c [(!(c.path == .supervisor), 0x0100)] r s) := by
  refine admitted_replied h ?_
  rw [firstOf_elim_cons, firstOf_elim_nil, maintenance, ticketOf_fromSupervisor, hact]
  by_cases hpath : (c.path == .supervisor) = true
  · rw [if_pos hpath, if_neg (by simp [hpath])]
  · rw [if_neg hpath, if_pos (by simp [hpath])]

end Maintenance

theorem bringView_bring_admitted : (admitted c s).bringView.bring = s.bringView.bring := by
  rw [State.bringView, admitted_bring, admitted_snap, State.bringView]
  split
  · rfl
  · exact admitted_bring s c

theorem bringView_cfg_admitted : (admitted c s).bringView.cfg = s.bringView.cfg := by
  rw [State.bringView, admitted_bring, admitted_snap, State.bringView]
  split
  · rfl
  · exact admitted_cfg s c

theorem bringupRecord_admitted : bringupRecord (admitted c s).bringView = bringupRecord s.bringView := by
  simp only [bringupRecord, Dyn.spares, bringView_bring_admitted, bringView_cfg_admitted]

/-- The lowest record at or above the number that the packet names, among those of the snapshot. -/
def State.errorFound (n : Nat) (s : State) : Option (Nat × Option ErrRec) := s.snap.errors.ring.find? fun e => n ≤ e.1

theorem actGetErrorLog_of_record {n : Nat} {e : ErrRec} (h : s.errorFound (fldN t.cmd.params 0 32) = some (n, some e)) :
    actGetErrorLog t s = writeRecord t 0 (errorRecord n e) s := by
  unfold State.errorFound at h
  simp only [actGetErrorLog, h]

theorem actGetErrorLog_of_none
    (h : s.errorFound (fldN t.cmd.params 0 32) = none ∨ ∃ n, s.errorFound (fldN t.cmd.params 0 32) = some (n, none)) :
    actGetErrorLog t s = writeRecord t 0x0101 noResult s := by
  unfold State.errorFound at h
  rcases h with hnone | ⟨n, hlost⟩
  · simp only [actGetErrorLog, hnone]
  · simp only [actGetErrorLog, hlost]

theorem errorFound_admitted {n : Nat} : (admitted c s).errorFound n = s.errorFound n := by
  rw [State.errorFound, admitted_snap, State.errorFound]

theorem actGetDefectLog_of_some {e : DefectEntry} (h : s.snap.errors.defects[fldN t.cmd.params 0 16]? = some e) :
    actGetDefectLog t s = writeRecord t 0 (defectRecord (fldN t.cmd.params 0 16) e) s := by
  simp only [actGetDefectLog, h]

theorem actGetDefectLog_of_none (h : s.snap.errors.defects[fldN t.cmd.params 0 16]? = none) :
    actGetDefectLog t s = writeRecord t 0x0101 noResult s := by
  simp only [actGetDefectLog, h]

/-! TILE_TEST and TILE_RETIRE (R493, R502) -/

/-- The kind of the tile that X and Y name. -/
def State.tileKind (p : Nat) (s : State) : TileKind := tabGet TileKind.spare s.dyn.cfg.tiles p

/-- A test joins those of its tile; a spare is drained for it at once. -/
def State.testJoins (t : Ticket) (p : Nat) (s : State) : State := s.modTile p fun d =>
  { d with tests := d.tests ++ [t], testDrain := d.testDrain || s.tileKind p == .spare }

theorem actTileTest_of_retired (h : (s.tileKind (tileOfXY t.cmd.params)).isRetired = true) :
    actTileTest t s = writeRecord t 0x0056 noResult s := if_pos h

theorem actTileTest_of_present (h : (s.tileKind (tileOfXY t.cmd.params)).isRetired = false) :
    actTileTest t s = s.testJoins t (tileOfXY t.cmd.params) := if_neg (ne_true_of_eq_false h)

theorem tileKind_admitted {p : Nat} : (admitted c s).tileKind p = s.tileKind p := by
  rw [State.tileKind, admitted_cfg, State.tileKind]

theorem testJoins_admitted {p : Nat} : (admitted c s).testJoins t p = (admitted c s).modTile p fun d =>
    { d with tests := d.tests ++ [t], testDrain := d.testDrain || s.tileKind p == .spare } := by
  rw [State.testJoins, tileKind_admitted]

theorem ruleTileRetire_of_refused (hpath : t.fromSupervisor = false) : ruleTileRetire s t k = .refuse 0x0100 noResult :=
  if_pos (by simp [hpath])

theorem ruleTileRetire_of_none (hpath : t.fromSupervisor = true) (h : k.retireTile (tileOfXY t.cmd.params) = none) :
    ruleTileRetire s t k = .refuse 0x0056 noResult := by
  simp only [ruleTileRetire, hpath, h, Bool.not_true, Bool.false_eq_true, if_false]

theorem ruleTileRetire_of_some {cfg : Shadow} {y : Retirement} (hpath : t.fromSupervisor = true)
    (h : k.retireTile (tileOfXY t.cmd.params) = some (cfg, y)) : ruleTileRetire s t k = .pass cfg noResult := by
  simp only [ruleTileRetire, hpath, h, Bool.not_true, Bool.false_eq_true, if_false]

/-! LICENCE_INSTALL and FW_UPDATE (R506) -/

section Source

variable {size : Nat → Bool} {take : List Byte → State → State} {takes : Ticket → List Byte → State → State}
  {y : State × Access (List Byte)}

/-- Checks 1 to 3 of R506. -/
def sourceChecks (size : Nat → Bool) (t : Ticket) (s : State) : List (Bool × Nat) :=
  [ (!t.fromSupervisor, 0x0120), (t.cmd.device, 0x0004),
    (!s.readable t.cmd.berth (fldN t.cmd.params 0 40) (fldN t.cmd.params 64 32), 0x0127), (!size (fldN t.cmd.params 64 32), 0x0126) ]

/-- The one read of the source. -/
def readSource (t : Ticket) (s : State) : State × Access (List Byte) :=
  readVirt t.src t.cmd.berth (fldN t.cmd.params 0 40) (fldN t.cmd.params 64 32) s

/-- What the read of the source leads to. -/
def sourceOfRead (t : Ticket) (take : List Byte → State → State) : State × Access (List Byte) → State
  | (s, .ok bs) => take bs s
  | (s, .uncorrectable) => writeRecord t 0x000B noResult s
  | (s, .addressFault) => writeRecord t 0x0127 noResult s

theorem withSource_eq : withSource size t take s = (firstOf (sourceChecks size t s)).elim (sourceOfRead t take (readSource t s))
    fun st => writeRecord t st noResult s := by
  simp only [sourceChecks, firstOf_elim_cons, firstOf_elim_nil]
  refine if_congr Iff.rfl rfl (if_congr Iff.rfl rfl (if_congr Iff.rfl rfl (if_congr Iff.rfl rfl ?_)))
  rw [readSource]
  rcases readVirt t.src t.cmd.berth (fldN t.cmd.params 0 40) (fldN t.cmd.params 64 32) s with ⟨s1, _ | _ | _⟩ <;> rfl

variable (h : Admits op c s = true)
include h

theorem carry_source_refused (hfails : firstOf (sourceChecks size (ticketOf op c s) (admitted c s)) = some st) :
    carry op c (fun t => withSource size t (takes t)) s = .next (answered op c st noResult s) :=
  admitted_answer h (by rw [withSource_eq, hfails, Option.elim_some])

theorem carry_source_read (hpasses : firstOf (sourceChecks size (ticketOf op c s) (admitted c s)) = none)
    (hread : readSource (ticketOf op c s) (admitted c s) = y) :
    carry op c (fun t => withSource size t (takes t)) s = .next (sourceOfRead (ticketOf op c s) (takes (ticketOf op c s)) y) := by
  rw [carry_admitted h, withSource_eq, hpasses, Option.elim_none, hread]

end Source

/-- A token that was read: its checks, then the flash write. -/
def tokenTaken (t : Ticket) (bs : List Byte) (s : State) : State :=
  let l := tokenOf bs s.dyn.bring.fuses.licKey
  if tokenStatus s.dyn.bring l ≠ 0 then writeRecord t (tokenStatus s.dyn.bring l) noResult s else queueFlash (.licence t l) s

/-- An image that was read: its checks, then the flash write. -/
def imageTaken (t : Ticket) (bs : List Byte) (s : State) : State :=
  let x := imageOf bs s.dyn.bring.fuses.fwKey
  if imageStatus s.dyn.bring x ≠ 0 then writeRecord t (imageStatus s.dyn.bring x) noResult s
  else queueFlash (.firmware t x (bitAt t.cmd.params 96)) s

theorem licenceInstall_eq : exec (.licenceInstall c) s =
    carry opLicenceInstall c (fun t => withSource (· == 3152) t (tokenTaken t)) s := rfl

theorem fwUpdate_of_running (h : s.halted = false) : exec (.fwUpdate c) s =
    carry (opFwUpdate false) c (fun t => withSource (· ≤ imageMax) t (imageTaken t)) s := by
  change carryUpdate c s = _
  rw [carryUpdate, h]
  rfl

section Stores

variable {y : State × Access (List Byte)}

theorem licenceInstall_of_refused (h : Admits opLicenceInstall c s = true)
    (hfails : firstOf (sourceChecks (· == 3152) (ticketOf opLicenceInstall c s) (admitted c s)) = some st) :
    exec (.licenceInstall c) s = .next (answered opLicenceInstall c st noResult s) := by
  rw [licenceInstall_eq, carry_source_refused h hfails]

theorem licenceInstall_of_read (h : Admits opLicenceInstall c s = true)
    (hpasses : firstOf (sourceChecks (· == 3152) (ticketOf opLicenceInstall c s) (admitted c s)) = none)
    (hread : readSource (ticketOf opLicenceInstall c s) (admitted c s) = y) : exec (.licenceInstall c) s =
      .next (sourceOfRead (ticketOf opLicenceInstall c s) (tokenTaken (ticketOf opLicenceInstall c s)) y) := by
  rw [licenceInstall_eq, carry_source_read h hpasses hread]

theorem fwUpdate_of_refused (hrunning : s.halted = false) (h : Admits (opFwUpdate false) c s = true)
    (hfails : firstOf (sourceChecks (· ≤ imageMax) (ticketOf (opFwUpdate false) c s) (admitted c s)) = some st) :
    exec (.fwUpdate c) s = .next (answered (opFwUpdate false) c st noResult s) := by
  rw [fwUpdate_of_running hrunning, carry_source_refused h hfails]

theorem fwUpdate_of_read (hrunning : s.halted = false) (h : Admits (opFwUpdate false) c s = true)
    (hpasses : firstOf (sourceChecks (· ≤ imageMax) (ticketOf (opFwUpdate false) c s) (admitted c s)) = none)
    (hread : readSource (ticketOf (opFwUpdate false) c s) (admitted c s) = y) : exec (.fwUpdate c) s =
      .next (sourceOfRead (ticketOf (opFwUpdate false) c s) (imageTaken (ticketOf (opFwUpdate false) c s)) y) := by
  rw [fwUpdate_of_running hrunning, carry_source_read h hpasses hread]

end Stores

/-! The recovery form of FW_UPDATE (R507) -/

/-- A chunk is the first, or follows the one accepted last. -/
def State.chunkInTurn (off : Nat) (s : State) : Bool :=
  off == 0 || s.dyn.bring.lastChunk == some (off - 32) && 32 ≤ off

/-- The checks of a chunk. -/
def chunkChecks (p : Params) (s : State) : List (Bool × Nat) :=
  let off := fldN p 0 23
  let len := fldN p 32 32
  [ (decide (s.dyn.bring.haltCause = 1), 0x0003), (!s.chunkInTurn off, 0x0129),
    (imageMax < off + 32 || (bitAt p 23 && (len ≤ off || off + 32 < len)), 0x0126) ]

/-- A chunk that passed its checks; the first erases the slot. -/
def chunkTaken (t : Ticket) (s : State) : State :=
  queueFlash (.chunk t) (if fldN t.cmd.params 0 23 = 0 then s.modBring fun b => b.putSpareSlot {} else s)

theorem actRecovery_eq : actRecovery t s =
    (firstOf (chunkChecks t.cmd.params s)).elim (chunkTaken t s) fun st => writeRecord t st noResult s := by
  simp only [chunkChecks, firstOf_elim_cons, firstOf_elim_nil, decide_eq_true_eq]
  rfl

theorem chunkChecks_admitted {p : Params} : chunkChecks p (admitted c s) = chunkChecks p s := by
  rw [chunkChecks, State.chunkInTurn, admitted_bring, chunkChecks, State.chunkInTurn]

section Recovery

variable (hhalted : s.halted = true) (h : Admits (opFwUpdate true) c s = true)
include hhalted h

theorem fwUpdateRecovery_of_admits : exec (.fwUpdateRecovery c) s =
    .next (actRecovery (ticketOf (opFwUpdate true) c s) (admitted c s)) := by
  change carryUpdate c s = _
  rw [carryUpdate, hhalted, if_pos rfl, carry_admitted h]

theorem fwUpdateRecovery_of_refused (hfails : firstOf (chunkChecks c.params s) = some st) :
    exec (.fwUpdateRecovery c) s = .next (answered (opFwUpdate true) c st noResult s) := by
  rw [fwUpdateRecovery_of_admits hhalted h, actRecovery_eq, ticketOf_cmd, chunkChecks_admitted, hfails, Option.elim_some, answered]

theorem fwUpdateRecovery_of_passed (hpasses : firstOf (chunkChecks c.params s) = none) :
    exec (.fwUpdateRecovery c) s = .next (chunkTaken (ticketOf (opFwUpdate true) c s) (admitted c s)) := by
  rw [fwUpdateRecovery_of_admits hhalted h, actRecovery_eq, ticketOf_cmd, chunkChecks_admitted, hpasses, Option.elim_none]

end Recovery

/-! FLASH_WRITE_END (R506, R507) -/

theorem flashWriteEnd_of_idle (h : s.dyn.bring.flash = []) : exec (.flashWriteEnd ok) s = .next s := by
  change execFlashWriteEnd ok s = _
  simp only [execFlashWriteEnd, h]

/-- The write that ended is off the list. -/
def State.flashLeft (rest : List FlashJob) (s : State) : State := s.modBring fun b => { b with flash := rest }

theorem flashWriteEnd_of_chunk (h : s.dyn.bring.flash = .chunk t :: rest) : exec (.flashWriteEnd ok) s =
    .next (if ok then chunkWritten t (s.flashLeft rest) else writeRecord t 0x0128 noResult (s.flashLeft rest)) := by
  change execFlashWriteEnd ok s = _
  simp only [execFlashWriteEnd, h]
  rfl

/-- The image goes to the slot that is not preferred, unsigned when it did not read back (log entry 127). -/
def State.imageStored (x : ImageSlot) (ok : Bool) (s : State) : State :=
  s.modBring fun b => b.putSpareSlot { x with signed := x.signed && ok }

theorem flashWriteEnd_of_firmware (h : s.dyn.bring.flash = .firmware t x raise :: rest) : exec (.flashWriteEnd ok) s =
    if ok = true then .next (writeRecord t 0 noResult
      (((s.flashLeft rest).imageStored x ok).modBring fun b => b.prefer (fldN x.header 32 6) raise))
    else .next (writeRecord t 0x0128 noResult ((s.flashLeft rest).imageStored x ok)) := by
  change execFlashWriteEnd ok s = _
  simp only [execFlashWriteEnd, h]
  rfl

/-- The token goes to this device's slot of the lower SERIAL, unsigned when it did not read back (log entry 127), and to the
island's when it did. -/
def Bring.storeToken (l : Licence) (ok : Bool) (b : Bring) : Bring :=
  let own := putToken b.token0 b.token1 { l with signed := l.signed && ok }
  let isl := if ok then putToken b.islandToken0 b.islandToken1 l else (b.islandToken0, b.islandToken1)
  { b with token0 := own.1, token1 := own.2, islandToken0 := isl.1, islandToken1 := isl.2 }

theorem flashWriteEnd_of_licence (h : s.dyn.bring.flash = .licence t l :: rest) : exec (.flashWriteEnd ok) s =
    .next (writeRecord t (if ok then 0 else 0x0128) noResult ((s.flashLeft rest).modBring (Bring.storeToken l ok))) := by
  change execFlashWriteEnd ok s = _
  simp only [execFlashWriteEnd, h]
  rfl

/-! The statement -/

/-- Settles O56: each command by its list of checks and then its read, its rule or its flash write. Log entries: 124
(SERVICE_STATE is judged before LATCH_CLEAR), 128 (DEVICE 1 answers 0x0004), 127 (a slot is unsigned after a failed
read-back). -/
theorem serviceCommandsFollowTheirChecks : Obligations.ServiceCommandsFollowTheirChecks := by
  refine ⟨fun c s => serviceEnter_settled, fun c s h => ⟨serviceLeave_of_unlicensed h, fun l => serviceLeave_of_licensed h⟩,
    ?bringup, ?tileMap, ?errorLog, ?defectLog, ?identity, ?licence, ?link, ?tileTest, ?tileRetire, ?install, ?update, ?recovery,
    ?flash⟩
  case bringup => exact fun c s h => maintenance_replied h (by rw [bringupRecord_admitted]; rfl)
  case tileMap => exact fun c s h => maintenance_replied h (by rw [admitted_snap]; rfl)
  case errorLog =>
    refine fun c s h => ⟨maintenance_refused h, fun n e hpath hfound => ?_, fun hpath hnone => ?_⟩
    · exact maintenance_answered h hpath (actGetErrorLog_of_record (errorFound_admitted.trans hfound))
    · refine maintenance_answered h hpath (actGetErrorLog_of_none ?_)
      rw [errorFound_admitted]
      exact hnone
  case defectLog =>
    refine fun c s h => ⟨maintenance_refused h, fun e hpath hfound => ?_, fun hpath hnone => ?_⟩
    · exact maintenance_answered h hpath (actGetDefectLog_of_some (by rw [admitted_snap]; exact hfound))
    · exact maintenance_answered h hpath (actGetDefectLog_of_none (by rw [admitted_snap]; exact hnone))
  case identity => exact fun c s h => admitted_answer h (by rw [bringView_bring_admitted]; rfl)
  case licence => exact fun c s h => admitted_answer h (by rw [bringView_bring_admitted]; rfl)
  case link =>
    rintro c s p h rfl
    exact maintenance_replied h (by rw [actGetLink, admitted_snap]; rfl)
  case tileTest =>
    rintro c s p h rfl
    refine ⟨maintenance_refused h, fun hpath hretired => ?_, fun hpath hpresent => ?_⟩
    · exact maintenance_answered h hpath (actTileTest_of_retired (by rw [tileKind_admitted]; exact hretired))
    · refine (maintenance_of_supervisor h hpath).trans (congrArg _ ?_)
      exact (actTileTest_of_present (by rw [tileKind_admitted]; exact hpresent)).trans testJoins_admitted
  case tileRetire =>
    refine fun c s h => ⟨fun hpath => ?_, fun hpath hnone => ?_, fun cfg y hpath hsome => ?_⟩
    · exact config_refuse h (ruleTileRetire_of_refused (by simpa [ticketOf_fromSupervisor] using hpath))
    · exact config_refuse h (ruleTileRetire_of_none (by simp [ticketOf_fromSupervisor, hpath]) hnone)
    · exact config_pass h (ruleTileRetire_of_some (by simp [ticketOf_fromSupervisor, hpath]) hsome)
  case install =>
    refine fun c s h => ⟨fun st => licenceInstall_of_refused h, fun u bs hpasses hread => ⟨fun hbad => ?_, fun hgood => ?_⟩,
      fun u => licenceInstall_of_read h, fun u => licenceInstall_of_read h⟩
    · exact (licenceInstall_of_read h hpasses hread).trans (congrArg _ (if_pos hbad))
    · exact (licenceInstall_of_read h hpasses hread).trans (congrArg _ (if_neg (not_not.mpr hgood)))
  case update =>
    refine fun c s hrunning h => ⟨fun st => fwUpdate_of_refused hrunning h,
      fun u bs hpasses hread => ⟨fun hbad => ?_, fun hgood => ?_⟩, fun u => fwUpdate_of_read hrunning h,
      fun u => fwUpdate_of_read hrunning h⟩
    · exact (fwUpdate_of_read hrunning h hpasses hread).trans (congrArg _ (if_pos hbad))
    · exact (fwUpdate_of_read hrunning h hpasses hread).trans (congrArg _ (if_neg (not_not.mpr hgood)))
  case recovery =>
    refine fun c s hhalted h => ⟨fun st => fwUpdateRecovery_of_refused hhalted h, fun hpasses hlater => ?_,
      fun hpasses hfirst => ?_⟩
    · rw [fwUpdateRecovery_of_passed hhalted h hpasses, chunkTaken, ticketOf_cmd, if_neg hlater]
      rfl
    · rw [fwUpdateRecovery_of_passed hhalted h hpasses, chunkTaken, ticketOf_cmd, if_pos hfirst]
      rfl
  case flash =>
    refine fun ok s => ⟨flashWriteEnd_of_idle, fun t rest h => ⟨flashWriteEnd_of_chunk h, flashWriteEnd_of_chunk h⟩,
      fun t x raise rest h => ⟨?_, ?_⟩, fun t l rest h => ⟨_, flashWriteEnd_of_licence h, _, rfl, rfl, rfl, ?_, ?_⟩⟩
    · exact flashWriteEnd_of_firmware h
    · rw [flashWriteEnd_of_firmware h, if_neg Bool.false_ne_true, State.imageStored, Bool.and_false]
      rfl
    · rintro rfl
      exact ⟨rfl, rfl⟩
    · rintro rfl
      rfl

end Sys2Proof.Machine
end

section
/-! PROOFS. Isgal ports: training, flits, silence, received transactions, the side band and the copies of peers' cuts (R488, R514,
R516, R520, R524, R525). -/

namespace Sys2Proof.Machine

variable {s u : State} {port : Fin 6} {id : PeerIdentity} {seq ack : BitVec 16} {nak ok : Bool} {laneBad : BitVec 8}
  {body : FlitBody} {tx : IsgalTx} {peer : BitVec 2} {cycle live notify : BitVec 64} {running latch : Bool} {cut : BitVec 12}
  {berth : BitVec 6} {record : List Byte} {p : Nat}

/-! PORT_TRAINING_DONE (R488, R514) -/

/-- The port goes down with a cause, and keeps who its peer is. -/
def State.trainedDown (port : Fin 6) (id : PeerIdentity) (cause : Nat) (s : State) : State := s.modPort port.val fun d =>
  { d with state := .down, cause := BitVec.ofNat 3 cause, peer := id.devId, peerPort := id.port }

/-- The first refusal of a link is kept, with the ports that refused theirs. -/
def State.linkRefused (port : Fin 6) (cause : Nat) (s : State) : State := s.modBring fun b =>
  { b with
    isgalRefused := b.isgalRefused ||| BitVec.ofNat 6 (2 ^ port.val),
    refuseCause := if b.isgalRefused = 0 then BitVec.ofNat 2 cause else b.refuseCause }

/-- The lanes that the fuses leave to a port. -/
def State.goodLanes (port : Fin 6) (s : State) : BitVec 8 := ~~~(s.dyn.bring.fusedBad port.val)

/-- The good lanes that trained. -/
def State.trainedLanes (port : Fin 6) (id : PeerIdentity) (s : State) : BitVec 8 := id.lanes &&& s.goodLanes port

/-- Each good lane that did not train is a defect. -/
def State.lanesNoted (port : Fin 6) (id : PeerIdentity) (s : State) : State :=
  ((setBits (s.goodLanes port) 8).filter fun l => !bitAt (s.trainedLanes port id) l).foldl
    (fun u l => addDefect 2 0 (port.val + 8 * l) u) s

/-- The port is up, and its traffic starts from nothing. -/
def State.portUp (port : Fin 6) (id : PeerIdentity) (lanes : BitVec 8) (s : State) : State := s.modPort port.val fun d =>
  { d with
    state := .up, cause := 0, peer := id.devId, peerPort := id.port, lanes := lanes, rxSeq := 0, txSeq := 0,
    replay := [], slots := [], laneFails := [], replayRun := 0, nak := false, received := [], heard := s.now16 }

theorem portTrainingDone_of_not_training (h : (s.port port.val).state ≠ .training) :
    exec (.portTrainingDone port id) s = .next s := if_pos h

theorem portTrainingDone_of_refused (h : (s.port port.val).state = .training) (hcause : refuseCause s.dyn.bring port.val id ≠ 0) :
    exec (.portTrainingDone port id) s = .next (State.trainedDown port id (refuseCause s.dyn.bring port.val id)
      (if refuseCause s.dyn.bring port.val id = 4 then s else s.linkRefused port (refuseCause s.dyn.bring port.val id))) :=
  (if_neg (not_not.mpr h)).trans (if_pos hcause)

theorem portTrainingDone_of_accepted (h : (s.port port.val).state = .training) (hcause : refuseCause s.dyn.bring port.val id = 0) :
    exec (.portTrainingDone port id) s =
      if popCount (s.trainedLanes port id) 8 < 6 then .next (State.trainedDown port id 5 (s.lanesNoted port id))
      else .next ((s.lanesNoted port id).portUp port id (s.trainedLanes port id)) :=
  (if_neg (not_not.mpr h)).trans (if_neg (not_not.mpr hcause))

/-! FLIT_RECEIVE (R516) -/

/-- The lanes of the port that failed in a flit. -/
def State.failedLanes (port : Fin 6) (laneBad : BitVec 8) (s : State) : List Nat :=
  setBits (laneBad &&& ((s.modPort port.val fun d => { d with heard := s.now16 }).port port.val).lanes) 8

/-- The port has heard its peer, and its failed lanes are counted. -/
def State.flitHeard (port : Fin 6) (laneBad : BitVec 8) (s : State) : State :=
  (s.failedLanes port laneBad).foldl (fun u l => laneFailed port.val l u) (s.modPort port.val fun d => { d with heard := s.now16 })

/-- A flit with a wrong CRC: its failed lanes may retire and a NAK is owed. -/
def State.flitSpoiled (port : Fin 6) (laneBad : BitVec 8) (s : State) : State :=
  (s.failedLanes port laneBad).foldl (fun u l => retireLane port.val l u)
    ((s.flitHeard port laneBad).modPort port.val fun d => { d with nak := true })

/-- The flit is the next in order. -/
def State.flitNext (port : Fin 6) (laneBad : BitVec 8) (seq : BitVec 16) (s : State) : Prop :=
  seq = ((s.flitHeard port laneBad).port port.val).rxSeq + 1

/-- An intact flit acknowledges; the next in order gives its credits back first. -/
def State.flitAcked (port : Fin 6) (laneBad : BitVec 8) (seq ack : BitVec 16) (nak : Bool) (body : FlitBody) (s : State) : State :=
  takeAck port.val ack nak (if seq = ((s.flitHeard port laneBad).port port.val).rxSeq + 1
    then takeFlitCredits port.val body.credits (s.flitHeard port laneBad) else s.flitHeard port laneBad)

theorem flitReceive_of_not_up (h : (s.port port.val).state ≠ .up) :
    exec (.flitReceive port seq ack nak ok laneBad body) s = .next s := if_pos h

section Up

variable (h : (s.port port.val).state = .up)
include h

theorem flitReceive_of_spoiled :
    exec (.flitReceive port seq ack nak false laneBad body) s = .next (s.flitSpoiled port laneBad) :=
  (if_neg (not_not.mpr h)).trans (if_pos rfl)

theorem flitReceive_of_intact : exec (.flitReceive port seq ack nak true laneBad body) s =
    let v := s.flitAcked port laneBad seq ack nak body
    if (v.port port.val).state ≠ .up then .next v
    else if seq = ((s.flitHeard port laneBad).port port.val).rxSeq + 1 then
      .next (afterFlit (takeTransactions port.val body.txs (v.modPort port.val fun d => { d with rxSeq := seq, nak := false })))
    else if seqUpTo seq (v.port port.val).rxSeq = true then .next v
    else .next (v.modPort port.val fun d => { d with nak := true }) := by
  refine ((if_neg (not_not.mpr h)).trans (if_neg (by decide))).trans ?_
  simp only [beq_iff_eq]
  rfl

theorem flitReceive_of_downed (hdown : ((s.flitAcked port laneBad seq ack nak body).port port.val).state ≠ .up) :
    exec (.flitReceive port seq ack nak true laneBad body) s = .next (s.flitAcked port laneBad seq ack nak body) :=
  (flitReceive_of_intact h).trans (if_pos hdown)

variable (hup : ((s.flitAcked port laneBad seq ack nak body).port port.val).state = .up)
include hup

theorem flitReceive_of_next (hnext : s.flitNext port laneBad seq) : exec (.flitReceive port seq ack nak true laneBad body) s =
    .next (afterFlit (takeTransactions port.val body.txs
      ((s.flitAcked port laneBad seq ack nak body).modPort port.val fun d => { d with rxSeq := seq, nak := false }))) :=
  ((flitReceive_of_intact h).trans (if_neg (not_not.mpr hup))).trans (if_pos hnext)

theorem flitReceive_of_other (hnext : ¬ s.flitNext port laneBad seq) : exec (.flitReceive port seq ack nak true laneBad body) s =
    if seqUpTo seq ((s.flitAcked port laneBad seq ack nak body).port port.val).rxSeq = true then
      .next (s.flitAcked port laneBad seq ack nak body)
    else .next ((s.flitAcked port laneBad seq ack nak body).modPort port.val fun d => { d with nak := true }) :=
  ((flitReceive_of_intact h).trans (if_neg (not_not.mpr hup))).trans (if_neg hnext)

end Up

/-! PEER_SILENT and INBOUND_TRANSACTION (R516, R520) -/

/-- A port that is up has heard nothing for 10 us. -/
def State.portSilent (port : Fin 6) (s : State) : Prop :=
  (s.port port.val).state = .up ∧ (s.port port.val).heard + 10 * us16 ≤ s.now16

theorem portSilent_iff : s.portSilent port ↔
    ¬ ((s.port port.val).state ≠ .up ∨ s.now16 < (s.port port.val).heard + 10 * us16) := by
  rw [State.portSilent, not_or, not_not, Nat.not_lt]

theorem peerSilent_of_silent (h : s.portSilent port) : exec (.peerSilent port) s = .next (portDown port.val 7 true s) :=
  if_neg (portSilent_iff.mp h)

theorem peerSilent_of_heard (h : ¬ s.portSilent port) : exec (.peerSilent port) s = .next s :=
  if_pos (not_not.mp (mt portSilent_iff.mpr h))

theorem inboundTransaction_of_not_received (h : takeReceived port.val tx [0, 1, 2, 3, 8, 9] s = none) :
    exec (.inboundTransaction port tx) s = .next s := by
  change execInboundTransaction port tx s = _
  simp only [execInboundTransaction, h]

theorem inboundTransaction_of_received (h : takeReceived port.val tx [0, 1, 2, 3, 8, 9] s = some u) :
    exec (.inboundTransaction port tx) s = .next (serveInbound u.lock.number.toNat port tx (serveHeld u)) := by
  change execInboundTransaction port tx s = _
  simp only [execInboundTransaction, h]

/-! The side band (R524) -/

/-- When a peer was polled last, and whether its record is owed. -/
def State.polledAt (peer : BitVec 2) (s : State) : Nat × Bool := tabGet (0, false) s.dyn.isgal.polled peer.toNat

/-- A peer that is up is to be polled: it never was, or POLL_US has passed. -/
def State.pollDue (peer : BitVec 2) (s : State) : Prop :=
  ((s.polledAt peer).1 = 0 ∨ ((s.polledAt peer).1 - 1) + s.dyn.isgal.pollUs.toNat * us16 ≤ s.now16) ∧ s.peerUp peer = true

theorem pollDue_iff : s.pollDue peer ↔ ¬ (!(decide ((s.polledAt peer).1 = 0)
    || decide (((s.polledAt peer).1 - 1) + s.dyn.isgal.pollUs.toNat * us16 ≤ s.now16)) || !s.peerUp peer) = true := by
  simp [State.pollDue, or_iff_not_imp_left]

theorem sideBandPoll_of_not_due (h : ¬ s.pollDue peer) : exec (.sideBandPoll peer) s = .next s :=
  if_pos (not_not.mp (mt pollDue_iff.mpr h))

theorem sideBandPoll_of_due (h : s.pollDue peer) : exec (.sideBandPoll peer) s = .next (sendPeer peer
    { kind := 9, cls := 2, safety := true, addr := BitVec.ofNat 50 (peer.toNat * 2 ^ 48), tag := s.dyn.isgal.nextTag } none
    (s.modIsgal fun g =>
      { g with polled := tabPut (0, false) g.polled peer.toNat (s.now16 + 1, true), nextTag := g.nextTag + 1 })) :=
  if_neg (pollDue_iff.mp h)

theorem sideBandRecord_of_not_owed (h : (s.polledAt peer).2 = false) :
    exec (.sideBandRecord peer cycle running latch live notify) s = .next s :=
  if_pos (by simpa [State.polledAt] using h)

theorem sideBandRecord_of_owed (h : (s.polledAt peer).2 = true) :
    exec (.sideBandRecord peer cycle running latch live notify) s =
      .next ((setBits notify 64).foldl (fun u b => raiseBerth b 1 u) (s.modIsgal fun g =>
        { g with
          polled := tabPut (0, false) g.polled peer.toNat ((s.polledAt peer).1, false),
          peerLock := tabPut 0 g.peerLock peer.toNat cycle, peerRunning := tabPut false g.peerRunning peer.toNat running,
          peerLatch := tabPut false g.peerLatch peer.toNat latch, peerLive := tabPut 0 g.peerLive peer.toNat live })) :=
  if_neg (by simpa [State.polledAt] using h)

/-! PEER_CUT_COPY (R525) -/

/-- The entry of a cut in the live configuration. -/
def State.cutEntry (cut : BitVec 12) (s : State) : CutEntry := tabGet {} s.dyn.cfg.cuts cut.toNat

/-- The peer whose cut an entry names. -/
def CutEntry.peerDev (e : CutEntry) : BitVec 2 := fld e.src 16 2

/-- A valid cut of its berth's generation names a cut of a peer that is up. -/
def State.cutCopies (cut : BitVec 12) (s : State) : Prop :=
  (s.cutEntry cut).valid = true ∧ (s.cutEntry cut).srcKind = 3
    ∧ (s.cutEntry cut).gen = (s.dyn.cfg.berth (s.cutEntry cut).berth).gen ∧ s.peerUp (s.cutEntry cut).peerDev = true

theorem cutCopies_iff : s.cutCopies cut ↔ ¬ (!(s.cutEntry cut).valid || decide ((s.cutEntry cut).srcKind ≠ 3)
    || decide ((s.cutEntry cut).gen ≠ (s.dyn.cfg.berth (s.cutEntry cut).berth).gen) || !s.peerUp (s.cutEntry cut).peerDev) = true := by
  simp [State.cutCopies, and_assoc]

/-- The record is of the cut's berth and its queue has a free slot. -/
def State.copyFits (cut : BitVec 12) (berth : BitVec 6) (s : State) : Prop :=
  berth = (s.cutEntry cut).berth ∧ s.slotFree (s.cutEntry cut).destQueue.toNat = true

theorem copyFits_iff : s.copyFits cut berth ↔
    (decide (berth = (s.cutEntry cut).berth) && s.slotFree (s.cutEntry cut).destQueue.toNat) = true := by
  simp [State.copyFits]

/-- The lowest port that is up to the peer of a cut. -/
def State.cutPort (cut : BitVec 12) (s : State) : Option Nat :=
  (upFrom 0 6).find? fun p => (s.port p).state == .up && (s.port p).peer == (s.cutEntry cut).peerDev

theorem peerCutCopy_of_not_copies (h : ¬ s.cutCopies cut) : exec (.peerCutCopy cut berth record) s = .next s :=
  if_pos (not_not.mp (mt cutCopies_iff.mpr h))

section Copies

variable (h : s.cutCopies cut)
include h

theorem peerCutCopy_of_fits (hfits : s.copyFits cut berth) : exec (.peerCutCopy cut berth record) s =
    .next (ringWrite (s.dyn.cfg.safetyQueue (s.cutEntry cut).destQueue.toNat) (s.cutEntry cut).destQueue.toNat record
      (reserveSlot (s.cutEntry cut).destQueue.toNat s)).1 :=
  (if_neg (cutCopies_iff.mp h)).trans (if_pos (copyFits_iff.mp hfits))

theorem peerCutCopy_of_dropped (hfits : ¬ s.copyFits cut berth) (hport : s.cutPort cut = some p) :
    exec (.peerCutCopy cut berth record) s = .next (s.modPort p fun d => { d with peerDrops := satInc d.peerDrops }) := by
  unfold State.cutPort State.cutEntry CutEntry.peerDev at hport
  refine ((if_neg (cutCopies_iff.mp h)).trans (if_neg (mt copyFits_iff.mpr hfits))).trans ?_
  simp only [hport]

theorem peerCutCopy_of_no_port (hfits : ¬ s.copyFits cut berth) (hport : s.cutPort cut = none) :
    exec (.peerCutCopy cut berth record) s = .next s := by
  unfold State.cutPort State.cutEntry CutEntry.peerDev at hport
  refine ((if_neg (cutCopies_iff.mp h)).trans (if_neg (mt copyFits_iff.mpr hfits))).trans ?_
  simp only [hport]

end Copies

/-! The statement -/

/-- Settles O58: each event by the state of its port or peer, and a flit by its CRC, its acknowledgement and its place in order.
Log entries: 2 (an event not due changes nothing) and 136 (a copy that is dropped counts at the lowest port that is up). -/
theorem isgalPortsTrainAndDeliver : Obligations.IsgalPortsTrainAndDeliver := by
  refine ⟨fun port id s => ⟨portTrainingDone_of_not_training, ?wiring, ?refused, ?few, ?up⟩,
    fun port seq ack nak laneBad txs credits s => ⟨fun ok => flitReceive_of_not_up, flitReceive_of_spoiled,
      flitReceive_of_downed (body := ⟨txs, credits⟩), flitReceive_of_next (body := ⟨txs, credits⟩), ?old, ?gap⟩,
    fun port tx s => ⟨peerSilent_of_silent, peerSilent_of_heard, inboundTransaction_of_not_received,
      fun u => inboundTransaction_of_received⟩,
    fun peer s => ⟨sideBandPoll_of_not_due, sideBandPoll_of_due, fun cycle running latch live notify => sideBandRecord_of_not_owed,
      fun cycle running latch live notify => sideBandRecord_of_owed⟩,
    fun cut berth record s => ⟨peerCutCopy_of_not_copies, peerCutCopy_of_fits, fun p => peerCutCopy_of_dropped,
      peerCutCopy_of_no_port⟩⟩
  case wiring =>
    intro htraining hwiring
    have hcause : refuseCause s.dyn.bring port.val id = 4 := hwiring
    rw [portTrainingDone_of_refused htraining (by omega), if_pos hcause, hcause]
    rfl
  case refused =>
    intro htraining hcause hother
    rw [portTrainingDone_of_refused htraining hcause, if_neg hother]
    rfl
  case few =>
    intro htraining hcause hfew
    exact (portTrainingDone_of_accepted htraining hcause).trans (if_pos hfew)
  case up =>
    intro htraining hcause henough
    exact (portTrainingDone_of_accepted htraining hcause).trans (if_neg (Nat.not_lt.mpr henough))
  case old =>
    intro h hup hnext hold
    exact (flitReceive_of_other (body := ⟨txs, credits⟩) h hup hnext).trans (if_pos hold)
  case gap =>
    intro h hup hnext hnew
    exact (flitReceive_of_other (body := ⟨txs, credits⟩) h hup hnext).trans (if_neg (ne_true_of_eq_false hnew))

end Sys2Proof.Machine
end

section
/-! PROOFS. Locked sequences across Isgal (R522, R523). -/

namespace Sys2Proof.Machine

variable {s u : State} {port : Fin 6} {tx : IsgalTx} {tag : BitVec 16} {column : Fin 36} {lock : ColLock} {k : OutLock} {time : Nat}

/-! LOCK_READ and LOCK_WRITE -/

theorem lockRead_of_not_received (h : takeReceived port.val tx [5] s = none) : exec (.lockRead port tx) s = .next s := by
  change execLockRead port tx s = _
  simp only [execLockRead, h]

theorem lockRead_of_received (h : takeReceived port.val tx [5] s = some u) :
    exec (.lockRead port tx) s = .next (serveLockRead u.lock.number.toNat port tx (serveHeld u)) := by
  change execLockRead port tx s = _
  simp only [execLockRead, h]

theorem lockWrite_of_not_received (h : takeReceived port.val tx [6] s = none) : exec (.lockWrite port tx) s = .next s := by
  change execLockWrite port tx s = _
  simp only [execLockWrite, h]

theorem lockWrite_of_received (h : takeReceived port.val tx [6] s = some u) :
    exec (.lockWrite port tx) s = .next (serveHeld (serveLockWrite port tx u)) := by
  change execLockWrite port tx s = _
  simp only [execLockWrite, h]

/-! LOCK_TIMEOUT -/

/-- The lock of a column ends at its expiry, and its port counts that. -/
def State.lockExpired (column : Fin 36) (lock : ColLock) (s : State) : State :=
  (s.modIsgal fun g => { g with colLocks := tabPut none g.colLocks column.val none }).modPort lock.port fun d =>
    { d with lockTimeouts := satInc d.lockTimeouts }

theorem lockTimeout_of_unlocked (h : tabGet none s.dyn.isgal.colLocks column.val = none) :
    exec (.lockTimeout column) s = .next s := by
  change execLockTimeout column s = _
  simp only [execLockTimeout, h]

theorem lockTimeout_of_locked (h : tabGet none s.dyn.isgal.colLocks column.val = some lock) :
    exec (.lockTimeout column) s =
      if s.now16 < lock.expiry then .next s else .next (serveHeld (s.lockExpired column lock)) := by
  change execLockTimeout column s = _
  simp only [execLockTimeout, h]
  rfl

theorem lockTimeout_of_expired (h : tabGet none s.dyn.isgal.colLocks column.val = some lock) (hdue : lock.expiry ≤ s.now16) :
    exec (.lockTimeout column) s = .next (serveHeld (s.lockExpired column lock)) := by
  rw [lockTimeout_of_locked h, if_neg (by omega)]

theorem lockTimeout_of_waits
    (h : ∀ lock, tabGet none s.dyn.isgal.colLocks column.val = some lock → s.now16 < lock.expiry) :
    exec (.lockTimeout column) s = .next s := by
  cases hlock : tabGet none s.dyn.isgal.colLocks column.val with
  | none => exact lockTimeout_of_unlocked hlock
  | some lock => rw [lockTimeout_of_locked hlock, if_pos (h lock hlock)]

/-! LOCK_RETRY_RECEIVE -/

/-- The RETRY of a tag that a port received. -/
def State.retryAt (port : Fin 6) (tag : BitVec 16) (s : State) : Option IsgalTx :=
  (s.port port.val).received.find? fun (tx : IsgalTx) => tx.kind == 7 && tx.tag == tag

/-- The LOCK_READ of a tag that is not granted. -/
def State.openLock (tag : BitVec 16) (s : State) : Option OutLock :=
  s.dyn.isgal.outLocks.find? fun (k : OutLock) => k.tag == tag && !k.granted

/-- The RETRY leaves the port that received it, which counts it. -/
def State.retryTaken (port : Fin 6) (tx : IsgalTx) (s : State) : State :=
  s.modPort port.val fun d => { d with received := d.received.erase tx, lockRetries := satInc d.lockRetries }

theorem lockRetryReceive_of_not_received (h : s.retryAt port tag = none) :
    exec (.lockRetryReceive port tag) s = .next s := by
  unfold State.retryAt at h
  change execLockRetryReceive port tag s = _
  simp only [execLockRetryReceive, h]

theorem lockRetryReceive_of_no_lock (h : s.retryAt port tag = some tx) (hlock : s.openLock tag = none) :
    exec (.lockRetryReceive port tag) s = .next (s.retryTaken port tx) := by
  unfold State.retryAt at h
  unfold State.openLock at hlock
  change execLockRetryReceive port tag s = _
  simp only [execLockRetryReceive, h]
  change (match s.dyn.isgal.outLocks.find? _ with | none => _ | some _ => _) = _
  rw [hlock]
  rfl

theorem lockRetryReceive_of_lock (h : s.retryAt port tag = some tx) (hlock : s.openLock tag = some k) :
    exec (.lockRetryReceive port tag) s =
      if 8 ≤ k.retries + 1 then .next (readUnlocked k (s.retryTaken port tx))
      else .next (modOutLock tag (fun x => { x with retries := k.retries + 1, resendAt := some (s.now16 + (k.retries + 1) * us16) })
        (s.retryTaken port tx)) := by
  unfold State.retryAt at h
  unfold State.openLock at hlock
  change execLockRetryReceive port tag s = _
  simp only [execLockRetryReceive, h]
  change (match s.dyn.isgal.outLocks.find? _ with | none => _ | some _ => _) = _
  rw [hlock]
  rfl

/-! LOCK_RESEND -/

/-- The LOCK_READ of a tag. -/
def State.outLock (tag : BitVec 16) (s : State) : Option OutLock :=
  s.dyn.isgal.outLocks.find? fun (k : OutLock) => k.tag == tag

/-- When the LOCK_READ of a tag is sent again. -/
def State.resendTime (tag : BitVec 16) (s : State) : Option Nat := (s.outLock tag).bind OutLock.resendAt

theorem lockResend_of_time (h : s.outLock tag = some k) (ht : k.resendAt = some time) : exec (.lockResend tag) s =
    if s.now16 < time then .next s
    else .next (sendStamped { dev := k.peer, tx := k.tx, owner := some (.hart k.hart), stamp := k.stamp }
      (modOutLock tag (fun k => { k with resendAt := none }) s)) := by
  unfold State.outLock at h
  change execLockResend tag s = _
  simp only [execLockResend, h, ht]

theorem lockResend_of_no_time (h : s.resendTime tag = none) : exec (.lockResend tag) s = .next s := by
  unfold State.resendTime State.outLock at h
  change execLockResend tag s = _
  cases hk : s.dyn.isgal.outLocks.find? fun (k : OutLock) => k.tag == tag with
  | none => simp only [execLockResend, hk]
  | some k =>
    rw [hk] at h
    have ht : k.resendAt = none := h
    simp only [execLockResend, hk, ht]

theorem lockResend_of_waits (h : ∀ k time, s.outLock tag = some k → k.resendAt = some time → s.now16 < time) :
    exec (.lockResend tag) s = .next s := by
  cases ht : s.resendTime tag with
  | none => exact lockResend_of_no_time ht
  | some time =>
    obtain ⟨k, hk, hkt⟩ := Option.bind_eq_some_iff.mp ht
    rw [lockResend_of_time hk hkt, if_pos (h k time hk hkt)]

/-- Settles O59: each event by what its port received, the lock it finds, and whether its time has come; an event that is
not due changes nothing (log entry 2). -/
theorem locksAreTakenRetriedAndReleased : Obligations.LocksAreTakenRetriedAndReleased := by
  refine ⟨fun port tx s => ⟨lockRead_of_not_received, fun u => lockRead_of_received, lockWrite_of_not_received,
    fun u => lockWrite_of_received⟩, fun column s => ⟨fun lock => lockTimeout_of_expired, lockTimeout_of_waits⟩,
    fun port tag s => ⟨lockRetryReceive_of_not_received, fun tx h => ⟨lockRetryReceive_of_no_lock h, ?eighth, ?earlier⟩⟩,
    fun tag s => ⟨?resend, lockResend_of_waits⟩⟩
  case eighth =>
    intro k hlock hlast
    rw [lockRetryReceive_of_lock h hlock, if_pos (by omega)]
    rfl
  case earlier =>
    intro k hlock hagain
    rw [lockRetryReceive_of_lock h hlock, if_neg (by omega)]
    rfl
  case resend =>
    intro k time hk ht hdue
    rw [lockResend_of_time hk ht, if_neg (by omega)]

end Sys2Proof.Machine
end

section
/-! PROOFS. The gateway's rings and channels and the PCIe root port (R529, R534, R535, R540, R542, R543). -/

namespace Sys2Proof.Machine

variable {s u v : State} {ch : Fin 16} {sent ok : Bool} {frame data : List Byte} {pin tag len : Nat} {bs w : List Byte}
  {format : BitVec 2} {pcp : BitVec 3} {bus : Byte} {addr : BitVec 40} {write : Option (List Byte)} {b : BitVec 6}
  {e : Access (List Byte)} {x : Access Unit} {r : PcieReq} {f : FillAt} {q : Requester}

/-- What two faults make the same, every access that is not done makes. -/
theorem eq_of_faulted {α β : Type} {g : Access α → β} {y : β} {e : Access α} (h : ∀ w, e ≠ .ok w)
    (hfault : g .addressFault = y) (hbad : g .uncorrectable = y) : g e = y := by
  cases e with
  | ok w => exact absurd rfl (h w)
  | addressFault => exact hfault
  | uncorrectable => exact hbad

/-! TX_RING_POLL (R535) -/

/-- A channel is valid in a running fabric. -/
def State.channelRuns (ch : Fin 16) (s : State) : Prop := s.fabricUp = true ∧ (s.channel ch).valid = true

theorem channelRuns_iff : s.channelRuns ch ↔ ¬ (!s.fabricUp || !(s.channel ch).valid) = true := by
  simp [State.channelRuns]

/-- The producer index behind the ring of a channel. -/
def State.readProducer (ch : Fin 16) (s : State) : State × Access (List Byte) :=
  let c := s.channel ch
  readVirt (edgeSrc s .gateway c.owner) c.owner (c.txVa + 64 * c.txSlots) 8 s

/-- The ring is worked off up to the producer index read, modulo 4,096; with none read nothing is sent. -/
def ringPolled (ch : Fin 16) : State × Access (List Byte) → State
  | (u, .ok w) => pollRing ch (fldN (BitVec.ofNat 64 (ofBytes w)) 0 12) 4096 u
  | (u, _) => u

theorem txRingPoll_of_not_runs (h : ¬ s.channelRuns ch) : exec (.txRingPoll ch) s = .next s :=
  if_pos (not_not.mp (mt channelRuns_iff.mpr h))

theorem txRingPoll_of_runs (h : s.channelRuns ch) : exec (.txRingPoll ch) s = .next (ringPolled ch (s.readProducer ch)) := by
  refine (if_neg (channelRuns_iff.mp h)).trans ?_
  change _ = Host.Outcome.next (ringPolled ch (readVirt _ _ _ _ s))
  rcases readVirt _ _ ((s.channel ch).txVa + 64 * (s.channel ch).txSlots) 8 s with ⟨u, _ | _ | _⟩ <;> rfl

theorem txRingPoll_of_read (h : s.channelRuns ch) (hread : s.readProducer ch = (u, e)) :
    exec (.txRingPoll ch) s = .next (ringPolled ch (u, e)) := by
  rw [txRingPoll_of_runs h, hread]

/-! TX_FRAME_DONE (R535) -/

/-- The address of the next transmit descriptor of a channel. -/
def State.txDescriptorVa (ch : Fin 16) (s : State) : Nat :=
  (s.channel ch).txVa + 64 * ((s.channel ch).txCons % (s.channel ch).txSlots)

/-- The transmit descriptor of the frame in flight. -/
def State.readSent (ch : Fin 16) (s : State) : State × Access (List Byte) :=
  readVirt (edgeSrc s .gateway (s.channel ch).owner) (s.channel ch).owner (s.txDescriptorVa ch) 64 s

/-- The descriptor is marked with a result, the ring moves on and the frame is counted. -/
def State.frameCounted (ch : Fin 16) (va : Nat) (sent : Bool) (pin : Nat) (bs : List Byte) (u : State) : State :=
  (putDescriptor ch va (doneDescriptor (BitVec.ofNat 512 (ofBytes bs)) (if sent then 0 else 4) (layout80 pin)) u).modChannel ch
    fun c =>
      { c with sending := none, txCons := (c.txCons + 1) % 4096,
               sentCount := if sent then satInc c.sentCount else c.sentCount,
               notSent := if sent then c.notSent else satInc c.notSent }

/-- The frame in flight is over: it left at `pin`, or was not sent; with no descriptor read it is only forgotten. -/
def frameOver (ch : Fin 16) (va : Nat) (sent : Bool) (frame : List Byte) (pin : Nat) : State × Access (List Byte) → State
  | (u, .ok bs) =>
    if sent then (u.frameCounted ch va sent pin bs).modGateway fun g => { g with sent := (ch.val, frame, pin) :: g.sent }
    else u.frameCounted ch va sent pin bs
  | (u, _) => u.modChannel ch fun c => { c with sending := none }

theorem txFrameDone_of_idle (h : (s.channel ch).sending = none) : exec (.txFrameDone ch sent) s = .next s := by
  change execTxFrameDone ch sent s = _
  simp only [execTxFrameDone, h]

theorem txFrameDone_of_sending (h : (s.channel ch).sending = some (frame, pin)) : exec (.txFrameDone ch sent) s =
    .next (frameOver ch (s.txDescriptorVa ch) sent frame pin (s.readSent ch)) := by
  change execTxFrameDone ch sent s = .next (frameOver ch _ sent frame pin (readVirt _ _ _ _ s))
  simp only [execTxFrameDone, h, State.txDescriptorVa]
  rcases readVirt _ _ ((s.channel ch).txVa + 64 * ((s.channel ch).txCons % (s.channel ch).txSlots)) 64 s
    with ⟨u, _ | _ | _⟩ <;> rfl

theorem txFrameDone_of_read (h : (s.channel ch).sending = some (frame, pin)) (hread : s.readSent ch = (u, e)) :
    exec (.txFrameDone ch sent) s = .next (frameOver ch (s.txDescriptorVa ch) sent frame pin (u, e)) := by
  rw [txFrameDone_of_sending h, hread]

/-! RX_FRAME (R535) -/

/-- A frame received goes to the ring of a channel: the channel runs, and the frame is neither gPTP (EtherType at bytes 12
and 13, log entry 151) nor lidar. -/
def State.ringTakes (ch : Fin 16) (frame : List Byte) (s : State) : Prop :=
  s.fabricUp = true ∧ (s.channel ch).valid = true ∧ isGptp ch frame = false ∧ s.isLidar ch frame = false

theorem ringTakes_iff : s.ringTakes ch frame ↔
    ¬ (!s.fabricUp || !(s.channel ch).valid || isGptp ch frame || s.isLidar ch frame) = true := by
  simp [State.ringTakes, and_assoc]

/-- A received frame is dropped and counted. -/
def State.rxDropped (ch : Fin 16) (u : State) : State := u.modChannel ch fun c => { c with rxDrops := satInc c.rxDrops }

/-- The address of the next receive descriptor of a channel. -/
def State.rxDescriptorVa (ch : Fin 16) (s : State) : Nat :=
  (s.channel ch).rxVa + 64 * ((s.channel ch).rxNext % (s.channel ch).rxSlots)

/-- The next receive descriptor of a channel. -/
def State.readReceive (ch : Fin 16) (s : State) : State × Access (List Byte) :=
  readVirt (edgeSrc s .gateway (s.channel ch).owner) (s.channel ch).owner (s.rxDescriptorVa ch) 64 s

/-- The gateway owns the descriptor read, and the frame has 1 to 2,058 bytes. -/
def frameFits (frame bs : List Byte) : Prop :=
  bitAt (BitVec.ofNat 512 (ofBytes bs)) 0 = true ∧ frame ≠ [] ∧ frame.length ≤ 2058

theorem frameFits_iff : frameFits frame bs ↔
    ¬ (!bitAt (BitVec.ofNat 512 (ofBytes bs)) 0 || frame.isEmpty || decide (2058 < frame.length)) = true := by
  simp [frameFits, and_assoc]

/-- The frame is written to the buffer that the descriptor names. -/
def writeFrame (c : Channel) (frame bs : List Byte) (u : State) : State × Access Unit :=
  writeVirt (edgeSrc u .gateway c.owner) c.owner (fldN (BitVec.ofNat 512 (ofBytes bs)) 64 40) frame u

/-- The receive descriptor of a frame that was written. -/
def filledDescriptor (format : BitVec 2) (pcp : BitVec 3) (frame bs : List Byte) (now : Nat) : BitVec 512 :=
  (doneDescriptor (BitVec.ofNat 512 (ofBytes bs)) 0 (layout80 now) &&&
      ~~~ (BitVec.ofNat 512 (packFields [(4, 5, 31), (16, 16, 0xFFFF)]))) |||
    BitVec.ofNat 512 (packFields [(4, 3, pcp.toNat), (7, 2, format.toNat), (16, 16, frame.length)])

/-- The descriptor is filled and the owner interrupted, or marked with its fault and the frame dropped. -/
def frameWritten (ch : Fin 16) (c : Channel) (va : Nat) (format : BitVec 2) (pcp : BitVec 3) (frame bs : List Byte) :
    State × Access Unit → State
  | (v, .ok _) => raiseBerth c.owner.toNat 2
      ((putDescriptor ch va (filledDescriptor format pcp frame bs v.now16) v).modChannel ch fun c => { c with rxNext := c.rxNext + 1 })
  | (v, _) => State.rxDropped ch
      ((putDescriptor ch va (doneDescriptor (BitVec.ofNat 512 (ofBytes bs)) 2 (layout80 v.now16)) v).modChannel ch
        fun c => { c with rxNext := c.rxNext + 1 })

/-- What a frame does once the descriptor was read. -/
def frameTaken (ch : Fin 16) (c : Channel) (va : Nat) (format : BitVec 2) (pcp : BitVec 3) (frame : List Byte) :
    State × Access (List Byte) → State
  | (u, .ok bs) =>
    if !bitAt (BitVec.ofNat 512 (ofBytes bs)) 0 || frame.isEmpty || decide (2058 < frame.length) then u.rxDropped ch
    else frameWritten ch c va format pcp frame bs (writeFrame c frame bs u)
  | (u, _) => u.rxDropped ch

theorem rxFrame_of_not_takes (h : ¬ s.ringTakes ch frame) : exec (.rxFrame ch format pcp frame) s = .next s :=
  if_pos (not_not.mp (mt ringTakes_iff.mpr h))

theorem rxFrame_of_takes (h : s.ringTakes ch frame) : exec (.rxFrame ch format pcp frame) s =
    .next (frameTaken ch (s.channel ch) (s.rxDescriptorVa ch) format pcp frame (s.readReceive ch)) := by
  refine (if_neg (ringTakes_iff.mp h)).trans ?_
  change _ = Host.Outcome.next (frameTaken ch _ _ format pcp frame (readVirt _ _ _ _ s))
  simp only [State.rxDescriptorVa]
  rcases readVirt _ _ ((s.channel ch).rxVa + 64 * ((s.channel ch).rxNext % (s.channel ch).rxSlots)) 64 s with ⟨u, bs | _ | _⟩
  case ok =>
    simp only [frameTaken, writeFrame]
    split
    · rfl
    · rcases writeVirt _ _ _ frame u with ⟨v, _ | _ | _⟩ <;> rfl
  case addressFault => rfl
  case uncorrectable => rfl

theorem rxFrame_of_read (h : s.ringTakes ch frame) (hread : s.readReceive ch = (u, e)) : exec (.rxFrame ch format pcp frame) s =
    .next (frameTaken ch (s.channel ch) (s.rxDescriptorVa ch) format pcp frame (u, e)) := by
  rw [rxFrame_of_takes h, hread]

theorem frameTaken_of_not_fits {c : Channel} {va : Nat} (h : ¬ frameFits frame bs) :
    frameTaken ch c va format pcp frame (u, .ok bs) = u.rxDropped ch :=
  if_pos (not_not.mp (mt frameFits_iff.mpr h))

theorem frameTaken_of_write {c : Channel} {va : Nat} (h : frameFits frame bs) (hwrite : writeFrame c frame bs u = (v, x)) :
    frameTaken ch c va format pcp frame (u, .ok bs) = frameWritten ch c va format pcp frame bs (v, x) :=
  (if_neg (frameFits_iff.mp h)).trans (congrArg _ hwrite)

/-! PCIE_INBOUND (R543) -/

/-- The PCIe port is enabled in a running fabric (log entry 152). -/
def State.pcieRuns (s : State) : Prop := s.fabricUp = true ∧ s.dyn.gateway.valid = true

theorem pcieRuns_iff : s.pcieRuns ↔ ¬ (!s.fabricUp || !s.dyn.gateway.valid) = true := by simp [State.pcieRuns]

/-- A write is done, or answered with Unsupported Request. -/
def pcieWritten : State × Access Unit → State
  | (u, .ok _) => u
  | (u, _) => pcieAnswer none u

/-- A read is answered with its data, or with Unsupported Request. -/
def pcieRead : State × Access (List Byte) → State
  | (u, .ok d) => pcieAnswer (some d) u
  | (u, _) => pcieAnswer none u

theorem pcieInbound_of_disabled (h : ¬ s.pcieRuns) : exec (.pcieInbound bus addr write len) s = .next s :=
  if_pos (not_not.mp (mt pcieRuns_iff.mpr h))

theorem pcieInbound_of_no_berth (h : s.pcieRuns) (hb : s.dyn.gateway.berthOf bus = none) :
    exec (.pcieInbound bus addr write len) s = .next (pcieAnswer none s) := by
  refine (if_neg (pcieRuns_iff.mp h)).trans ?_
  simp only [hb]

theorem pcieInbound_of_write (h : s.pcieRuns) (hb : s.dyn.gateway.berthOf bus = some b) :
    exec (.pcieInbound bus addr (some data) len) s =
      if addr.toNat = 0xFFFFF00000 ∧ data.length = 4 then .next (raiseBerth b.toNat (ofBytes data % 64) s)
      else .next (pcieWritten (writeVirt (edgeSrc s .gateway b) b addr.toNat data s)) := by
  refine (if_neg (pcieRuns_iff.mp h)).trans ?_
  simp only [hb]
  split
  · rfl
  · rcases writeVirt _ _ _ data s with ⟨u, _ | _ | _⟩ <;> rfl

theorem pcieInbound_of_read (h : s.pcieRuns) (hb : s.dyn.gateway.berthOf bus = some b) :
    exec (.pcieInbound bus addr none len) s = .next (pcieRead (readVirt (edgeSrc s .gateway b) b addr.toNat len s)) := by
  refine (if_neg (pcieRuns_iff.mp h)).trans ?_
  simp only [hb]
  rcases readVirt _ _ addr.toNat len s with ⟨u, _ | _ | _⟩ <;> rfl

/-! PCIE_COMPLETION and PCIE_TIMEOUT (R542) -/

theorem pcieCompletion_of_none (h : s.pcieRequest tag = none ∨ s.dyn.gateway.valid = false) :
    exec (.pcieCompletion tag data ok) s = .next s := by
  change execPcieCompletion tag data ok s = _
  rcases h with hnone | hdisabled
  · simp only [execPcieCompletion, hnone, ite_self]
  · simp only [execPcieCompletion, hdisabled, Bool.false_eq_true, if_false]

theorem pcieCompletion_of_some (h : s.pcieRequest tag = some r) (hvalid : s.dyn.gateway.valid = true) :
    exec (.pcieCompletion tag data ok) s = .next (endPcie r (if ok then some data else none) s) := by
  change execPcieCompletion tag data ok s = _
  simp only [execPcieCompletion, hvalid, if_true, h]

theorem pcieTimeout_of_none (h : s.pcieRequest tag = none) : exec (.pcieTimeout tag) s = .next s := by
  change execPcieTimeout tag s = _
  simp only [execPcieTimeout, h]

theorem pcieTimeout_of_some (h : s.pcieRequest tag = some r) : exec (.pcieTimeout tag) s =
    if s.now16 < r.since + 50000 * us16 then .next s else .next (endPcie r none s) := by
  change execPcieTimeout tag s = _
  simp only [execPcieTimeout, h]

theorem pcieTimeout_of_due (h : s.pcieRequest tag = some r) (hdue : r.since + 50000 * us16 ≤ s.now16) :
    exec (.pcieTimeout tag) s = .next (endPcie r none s) := by
  rw [pcieTimeout_of_some h, if_neg (by omega)]

theorem pcieTimeout_of_waits (h : ∀ r, s.pcieRequest tag = some r → s.now16 < r.since + 50000 * us16) :
    exec (.pcieTimeout tag) s = .next s := by
  cases hr : s.pcieRequest tag with
  | none => exact pcieTimeout_of_none hr
  | some r => rw [pcieTimeout_of_some hr, if_pos (h r hr)]

/-! A request of the root port ends (R542) -/

theorem endPcie_of_unread {got : Option (List Byte)} (hfill : r.fill = none) (hreader : r.reader = none) :
    endPcie r got s = serveHeld (dropRequest r.tag s) := by
  simp only [endPcie, hfill, hreader]

theorem endPcie_fill_data (hfill : r.fill = some f) (hreader : r.reader = none) :
    endPcie r (some data) s = serveHeld (fillArrived f (takeBytes r.len data) (dropRequest r.tag s)) := by
  simp only [endPcie, hfill, hreader]

theorem endPcie_fill_failed (hfill : r.fill = some f) (hreader : r.reader = none) :
    endPcie r none s = serveHeld (fillFailed f (dropRequest r.tag s)) := by
  simp only [endPcie, hfill, hreader]

theorem endPcie_reader_faults (hfill : r.fill = none) (hreader : r.reader = some q) :
    endPcie r none s = serveHeld (faultAccess q r.va .addressFault (dropRequest r.tag s)) := by
  simp only [endPcie, hfill, hreader]

theorem endPcie_reader_data (hfill : r.fill = none) (hreader : r.reader = some q) : endPcie r (some data) s =
    serveHeld (respond q r.va (if r.data.isEmpty then .data (takeBytes r.len data) else .done) (dropRequest r.tag s)) := by
  simp only [endPcie, hfill, hreader]

/-! The statement -/

/-- Settles O60: each event by whether its channel or port runs, then by what its one read or write of memory gave. Log
entries: 2 (an event not due changes nothing), 151 (the place of the EtherType), 152 (a disabled PCIe port answers nothing),
201 (the producer index modulo 4,096). -/
theorem theGatewayMovesFrames : Obligations.TheGatewayMovesFrames := by
  refine ⟨fun ch s => ⟨txRingPoll_of_not_runs, fun u w h hread => txRingPoll_of_read h hread, ?producer⟩,
    fun ch sent s => ⟨txFrameDone_of_idle, ?unread, fun frame pin u bs h hread =>
      ⟨txFrameDone_of_read h hread, txFrameDone_of_read h hread⟩⟩,
    fun ch format pcp frame s => ⟨rxFrame_of_not_takes, ?noDescriptor, fun u bs h hread => ⟨?unfit, ?filled, ?faulted⟩⟩,
    fun ch entered s => rfl,
    fun bus addr write len s => ⟨pcieInbound_of_disabled, pcieInbound_of_no_berth,
      fun b h hb => ⟨?interrupt, ?written, ?writeFault, ?read, ?readFault⟩⟩,
    fun tag data ok s => ⟨pcieCompletion_of_none, fun r h hvalid => ⟨?completed, ?fill, ?error, ?data, ?done⟩,
      pcieTimeout_of_waits, fun r h hdue => ⟨?timeUnread, ?timeFill, ?timeReader⟩⟩⟩
  case producer =>
    intro u e h hread hfault
    rw [txRingPoll_of_read h hread]
    exact congrArg _ (eq_of_faulted (g := fun e => ringPolled ch (u, e)) hfault rfl rfl)
  case unread =>
    intro frame pin u e h hread hfault
    rw [txFrameDone_of_read h hread]
    exact congrArg _ (eq_of_faulted (g := fun e => frameOver ch _ sent frame pin (u, e)) hfault rfl rfl)
  case noDescriptor =>
    intro u e h hread hfault
    rw [rxFrame_of_read h hread]
    exact congrArg _ (eq_of_faulted (g := fun e => frameTaken ch _ _ format pcp frame (u, e)) hfault rfl rfl)
  case unfit =>
    intro hfits
    rw [rxFrame_of_read h hread, frameTaken_of_not_fits hfits]
    rfl
  case filled =>
    intro v w hfits hwrite
    rw [rxFrame_of_read h hread, frameTaken_of_write hfits hwrite]
    rfl
  case faulted =>
    intro v x hfits hwrite hfault
    rw [rxFrame_of_read h hread, frameTaken_of_write hfits hwrite]
    exact congrArg _ (eq_of_faulted (g := fun x => frameWritten ch _ _ format pcp frame bs (v, x)) hfault rfl rfl)
  case interrupt =>
    intro d haddr hlen
    rw [pcieInbound_of_write h hb, if_pos ⟨haddr, hlen⟩]
  case written =>
    intro d u v hother hwrite
    rw [pcieInbound_of_write h hb, if_neg (not_and_or.mpr hother), hwrite]
    rfl
  case writeFault =>
    intro d u x hother hwrite hfault
    rw [pcieInbound_of_write h hb, if_neg (not_and_or.mpr hother), hwrite]
    exact congrArg _ (eq_of_faulted (g := fun x => pcieWritten (u, x)) hfault rfl rfl)
  case read =>
    intro u d hread
    rw [pcieInbound_of_read h hb, hread]
    rfl
  case readFault =>
    intro u e hread hfault
    rw [pcieInbound_of_read h hb, hread]
    exact congrArg _ (eq_of_faulted (g := fun e => pcieRead (u, e)) hfault rfl rfl)
  case completed =>
    intro hfill hreader
    rw [pcieCompletion_of_some h hvalid, endPcie_of_unread hfill hreader]
  case fill =>
    intro f hfill hreader
    constructor
    · rw [pcieCompletion_of_some h hvalid, if_pos rfl, endPcie_fill_data hfill hreader]
    · rw [pcieCompletion_of_some h hvalid, if_neg Bool.false_ne_true, endPcie_fill_failed hfill hreader]
  case error =>
    intro q hfill hreader
    rw [pcieCompletion_of_some h hvalid, if_neg Bool.false_ne_true, endPcie_reader_faults hfill hreader]
  case data =>
    intro q hfill hreader hdata
    rw [pcieCompletion_of_some h hvalid, if_pos rfl, endPcie_reader_data hfill hreader, if_pos (List.isEmpty_iff.mpr hdata)]
  case done =>
    intro q hfill hreader hdata
    rw [pcieCompletion_of_some h hvalid, if_pos rfl, endPcie_reader_data hfill hreader,
      if_neg (mt List.isEmpty_iff.mp hdata)]
  case timeUnread =>
    intro hfill hreader
    rw [pcieTimeout_of_due h hdue, endPcie_of_unread hfill hreader]
  case timeFill =>
    intro f hfill hreader
    rw [pcieTimeout_of_due h hdue, endPcie_fill_failed hfill hreader]
  case timeReader =>
    intro q hfill hreader
    rw [pcieTimeout_of_due h hdue, endPcie_reader_faults hfill hreader]

end Sys2Proof.Machine
end
